-- ==== Sys2Proof/Word.lean ====
section
/-! DEFINITION. The word types of the UMS-9400 and the pseudocode's plainest helpers (R15, R16). -/

namespace Sys2Proof

/-- A token value, a g register, an instruction word (R102, R311, R316). -/
abbrev Word := BitVec 64
/-- The smallest addressable unit of every space (R136). -/
abbrev Byte := BitVec 8
/-- A tag of an iterating block (R113). -/
abbrev Tag := BitVec 32
/-- The 128 bits of a capability (R137), beside which a tag bit is held. -/
abbrev CapBits := BitVec 128
/-- An accumulator entry (R239, R257). -/
abbrev Acc := BitVec 80
/-- A vector register (R245). -/
abbrev VecReg := BitVec 4096
/-- A mask register (R245). -/
abbrev MaskReg := BitVec 512

/-- sext(x, n) of R16: the low `n` bits read as signed and extended to 64 bits. -/
def sext (n : Nat) (x : Word) : Word := (x.setWidth n).signExtend 64

/-- zext(x, n) of R16. -/
def zext (n : Nat) (x : Word) : Word := (x.setWidth n).setWidth 64

end Sys2Proof
end

