-- ==== Sys2Proof/Machine/Alu.lean ====
section
/-! DEFINITION. The integer arithmetic of the scalar instructions (R331, R342 to R346). `w` is W: 32-bit operation. -/

namespace Sys2Proof.Machine

/-- A signed reader's operand (R331). -/
def readS (w : Bool) (x : Word) : Word := if w then sext 32 x else x

/-- An unsigned reader's operand (R331). -/
def readU (w : Bool) (x : Word) : Word := if w then zext 32 x else x

/-- The operand width. -/
def aluWidth (w : Bool) : Nat := if w then 32 else 64

/-- The shift amount sh of R342. -/
def shiftAmount (w : Bool) (b : Word) : Nat := b.toNat % aluWidth w

/-- Count of set bits among the low `n` bits. -/
def popCount : Nat → Nat → Nat
  | 0, _ => 0
  | n + 1, x => x % 2 + popCount n (x / 2)

/-- Count of trailing zeros within `n` bits; `n` for zero. -/
def trailingZeros : Nat → Nat → Nat
  | 0, _ => 0
  | n + 1, x => if x % 2 = 1 then 0 else 1 + trailingZeros n (x / 2)

/-- The number of bits needed to write a number; 0 for 0. -/
def bitLength (x : Nat) : Nat := if x = 0 then 0 else Nat.log2 x + 1

def aluAdd (w : Bool) (a b : Word) : Word := readS w (readS w a + readS w b)
def aluSub (w : Bool) (a b : Word) : Word := readS w (readS w a - readS w b)
def aluMul (w : Bool) (a b : Word) : Word := readS w (readS w a * readS w b)

/-- The high part of the signed product (R342). -/
def aluMulh (w : Bool) (a b : Word) : Word :=
  readS w (BitVec.ofInt 64 ((readS w a).toInt * (readS w b).toInt / 2 ^ aluWidth w))

/-- The high part of the unsigned product (R342). -/
def aluMulhu (w : Bool) (a b : Word) : Word :=
  readU w (BitVec.ofNat 64 ((readU w a).toNat * (readU w b).toNat / 2 ^ aluWidth w))

/-- DIV (R343): truncated; all ones for a zero divisor; the most negative value over −1 wraps to itself. -/
def aluDiv (w : Bool) (a b : Word) : Word :=
  let x := readS w a
  let y := readS w b
  if y = 0 then BitVec.allOnes 64 else readS w (BitVec.ofInt 64 (x.toInt.tdiv y.toInt))

/-- DIVU (R343). -/
def aluDivu (w : Bool) (a b : Word) : Word :=
  let x := readU w a
  let y := readU w b
  if y = 0 then readU w (BitVec.allOnes 64) else readU w (BitVec.ofNat 64 (x.toNat / y.toNat))

/-- REM (R343): the sign of the dividend; the dividend for a zero divisor. -/
def aluRem (w : Bool) (a b : Word) : Word :=
  let x := readS w a
  let y := readS w b
  if y = 0 then x else readS w (BitVec.ofInt 64 (x.toInt.tmod y.toInt))

/-- REMU (R343). -/
def aluRemu (w : Bool) (a b : Word) : Word :=
  let x := readU w a
  let y := readU w b
  if y = 0 then x else readU w (BitVec.ofNat 64 (x.toNat % y.toNat))

def aluAnd (w : Bool) (a b : Word) : Word := readS w (a &&& b)
def aluOr (w : Bool) (a b : Word) : Word := readS w (a ||| b)
def aluXor (w : Bool) (a b : Word) : Word := readS w (a ^^^ b)
def aluAndn (w : Bool) (a b : Word) : Word := readS w (a &&& ~~~b)
def aluShl (w : Bool) (a b : Word) : Word := readS w (a <<< shiftAmount w b)
def aluShr (w : Bool) (a b : Word) : Word := readU w (readU w a >>> shiftAmount w b)
def aluSar (w : Bool) (a b : Word) : Word := readS w ((readS w a).sshiftRight (shiftAmount w b))

/-- Rotate left within the operand width (R342). -/
def aluRol (w : Bool) (a b : Word) : Word :=
  let x := readU w a
  let n := shiftAmount w b
  readS w ((x <<< n) ||| (x >>> (aluWidth w - n)))

def aluClz (w : Bool) (a : Word) : Word := BitVec.ofNat 64 (aluWidth w - bitLength (readU w a).toNat)
def aluCtz (w : Bool) (a : Word) : Word := BitVec.ofNat 64 (trailingZeros (aluWidth w) (readU w a).toNat)
def aluPopc (w : Bool) (a : Word) : Word := BitVec.ofNat 64 (popCount (aluWidth w) (readU w a).toNat)
def aluMin (w : Bool) (a b : Word) : Word := if BitVec.slt (readS w b) (readS w a) then readS w b else readS w a
def aluMax (w : Bool) (a b : Word) : Word := if BitVec.slt (readS w a) (readS w b) then readS w b else readS w a
def aluMinu (w : Bool) (a b : Word) : Word := if BitVec.ult (readU w b) (readU w a) then readU w b else readU w a
def aluMaxu (w : Bool) (a b : Word) : Word := if BitVec.ult (readU w a) (readU w b) then readU w b else readU w a

/-- BFX (R344): a field of `len1 + 1` bits at `lsb`, sign-extended. -/
def aluBfx (w : Bool) (lsb len1 : BitVec 6) (a : Word) : Word := readS w (sext (len1.toNat + 1) (a >>> lsb.toNat))

/-- BFXU (R344): the field zero-extended; with W = 1 a field that reaches bit 31 is sign-extended from it. -/
def aluBfxu (w : Bool) (lsb len1 : BitVec 6) (a : Word) : Word := readS w (zext (len1.toNat + 1) (a >>> lsb.toNat))

/-- BFI (R344): a with the field replaced by the low bits of b. -/
def aluBfi (w : Bool) (lsb len1 : BitVec 6) (a b : Word) : Word :=
  let m : Word := zext (len1.toNat + 1) (BitVec.allOnes 64) <<< lsb.toNat
  readS w ((a &&& ~~~m) ||| ((b <<< lsb.toNat) &&& m))

/-- SHADD (R342): `s1` is the shift less one. -/
def aluShadd (w : Bool) (s1 : BitVec 2) (a b : Word) : Word :=
  readS w ((readS w a <<< (s1.toNat + 1)) + readS w b)

/-- A class I immediate (R319). -/
def immValue (imm : BitVec 30) : Word := imm.signExtend 64

/-- A test's result (R345). -/
def boolWord (b : Bool) : Word := if b then 1 else 0

def testEq (w : Bool) (a b : Word) : Word := boolWord (decide (readS w a = readS w b))
def testNe (w : Bool) (a b : Word) : Word := boolWord (decide (readS w a ≠ readS w b))
def testLt (w : Bool) (a b : Word) : Word := boolWord (BitVec.slt (readS w a) (readS w b))
def testLe (w : Bool) (a b : Word) : Word := boolWord (BitVec.sle (readS w a) (readS w b))
def testLtu (w : Bool) (a b : Word) : Word := boolWord (BitVec.ult (readU w a) (readU w b))
def testLeu (w : Bool) (a b : Word) : Word := boolWord (BitVec.ule (readU w a) (readU w b))
/-- PAND (R346). -/
def predAnd (w : Bool) (a b : Word) : Word := boolWord (decide (readU w a ≠ 0) && decide (readU w b ≠ 0))
/-- POR (R346). -/
def predOr (w : Bool) (a b : Word) : Word := boolWord (decide (readU w a ≠ 0) || decide (readU w b ≠ 0))
/-- PNOT (R346). -/
def predNot (w : Bool) (a : Word) : Word := boolWord (decide (readU w a = 0))
/-- MOVHI (R335). -/
def aluMovhi (a : Word) (imm : BitVec 30) : Word := (a <<< 30) ||| imm.setWidth 64

end Sys2Proof.Machine
end

