-- ==== Sys2Proof/Syntax.lean ====
section
/-! DEFINITION. The instructions and device steps of the UMS-9400: one constructor per row of the spec's table of
operations and events, with the operand fields of Instruction Formats and Opcode Map (R311 to R325). -/

namespace Sys2Proof

/-- The three receiving ports of a slot (R312). -/
inductive Port where
  | left
  | right
  | pred
  deriving DecidableEq, Repr

/-- A target: forward distance D and receiving port; D = 0 with the left port is the empty target (R312). -/
structure Target where
  d : BitVec 7
  port : Port
  deriving DecidableEq, Repr

/-- The predicate modes 00, 01 and 10 of R311; 11 is no instruction. -/
inductive PredMode where
  | always
  | onTrue
  | onFalse
  deriving DecidableEq, Repr

/-- The common fields of every word less OP and FN (R311). -/
structure Hdr where
  pm : PredMode
  u : Bool
  w : Bool
  t1 : Target
  t2 : Target
  deriving DecidableEq, Repr

/-- The class M fields (R320). -/
structure MField where
  k : BitVec 4
  sz : BitVec 3
  oe : Bool
  scope : BitVec 2
  off : BitVec 20
  deriving DecidableEq, Repr

/-- The class V fields (R322); `ty` is TYX:TY. -/
structure VField where
  vd : BitVec 5
  va : BitVec 5
  vb : BitVec 5
  mg : BitVec 3
  me : Bool
  ty : BitVec 4
  rm : BitVec 2
  sat : Bool
  spec : BitVec 4
  deriving DecidableEq, Repr

/-- What an access of class M does to memory (R358, R362, R364); sizes are in bytes. -/
inductive MemOp where
  | load (size : Nat) (signed : Bool)
  | ldk
  | store (size : Nat)
  | stk
  | lde (size : Nat)
  | stf (size : Nat)
  | stfw (size : Nat)
  | feq (size : Nat)
  | feclr (size : Nat)
  | feset (size : Nat)
  | atomic (fn : BitVec 4) (size : Nat)
  /-- a copy's line, where it is a scratchpad line (R145, R214): set empty, set full, or set full as poison -/
  | line (full poison : Bool)
  /-- A copy's read of a far line that it has itself set empty, as the line stands (R214, R402). -/
  | peek (n : Nat)
  deriving DecidableEq, Repr

/-- A request of a far league member at this member (R26): the requester's member index, the league ASID it carries,
the full league address, the access with its data operand and, for ACAS, its expected value. `check` asks only whether the
access would be refused (R27: a store's trap is precise); that of an STFW waits for its target and reserves it (R363), and
`cancel` takes such a check or reservation back (log 106). `scope`, `acq` and `rel` are the scope and the acquire and release
bits that an atomic carries (R28), the scope encoded as in R222. `party` tells the contexts of one member apart (R363). -/
structure LeagueRequest where
  member : BitVec 11
  lasid : BitVec 16
  check : Bool
  addr : Word
  op : MemOp
  data : BitVec 128
  expect : Word
  scope : BitVec 2
  acq : Bool
  rel : Bool
  party : Nat := 0
  cancel : Bool := false
  deriving DecidableEq, Repr

/-- The kinds of the event matcher, in the order in which one cycle's events are taken (R46). -/
inductive EventKind where
  | timer
  | graphDone
  | mailbox
  | pageRequest
  | kick
  | other
  deriving DecidableEq, Repr

/-- The source of a MAP command (R71): a node record of a launch, or the save image of a context. -/
inductive MapSource where
  | node (launch node : Nat)
  | image (ctxId : Nat)
  deriving DecidableEq, Repr

/-- The internal faults of a tile (R305 to R308). `uncorrectable` names a structure code of R303 whose data a retry
reads afresh; `architectural` one whose data a retry would read again. `tag` is the tag of the firing or token at fault, none
for a block-wide one or in a block without LOOP. -/
inductive FaultKind where
  | residue (cluster slot : Nat) (tag : Option (BitVec 32))
  | route (cluster slot : Nat) (tag : Option (BitVec 32))
  | uncorrectable (structure_ index : Nat)
  | lockstep
  | architectural (structure_ index : Nat)
  deriving DecidableEq, Repr

/-- Where a queue pair places data from another accelerator (R31). -/
inductive ScaleOutDest where
  | host
  | scratch (tile : Nat)
  deriving DecidableEq, Repr

/-- The rows of the table of operations and events: the device's steps and the instructions of its blocks. -/
inductive Instr where
  /-- RD (R333) -/
  | rd (h : Hdr) (keep kr : Bool) (n : BitVec 6)
  /-- WR (R334) -/
  | wr (h : Hdr) (kr : Bool) (n : BitVec 6)
  /-- MOV (R335) -/
  | mov (h : Hdr)
  /-- MOVI (R335) -/
  | movi (h : Hdr) (imm : BitVec 30)
  /-- MOVHI (R335) -/
  | movhi (h : Hdr) (imm : BitVec 30)
  /-- NUL (R336) -/
  | nul (h : Hdr)
  /-- SEL (R337) -/
  | sel (h : Hdr)
  /-- TAGOF (R338) -/
  | tagof (h : Hdr)
  /-- LGEN (R115) -/
  | lgen (h : Hdr)
  /-- LGEN2 (R116) -/
  | lgen2 (h : Hdr)
  /-- TEOS (R340) -/
  | teos (h : Hdr)
  /-- ADD (R342) -/
  | add (h : Hdr)
  /-- SUB (R342) -/
  | sub (h : Hdr)
  /-- MUL (R342) -/
  | mul (h : Hdr)
  /-- MULH (R342) -/
  | mulh (h : Hdr)
  /-- MULHU (R342) -/
  | mulhu (h : Hdr)
  /-- DIV (R343) -/
  | div (h : Hdr)
  /-- DIVU (R343) -/
  | divu (h : Hdr)
  /-- REM (R343) -/
  | rem (h : Hdr)
  /-- REMU (R343) -/
  | remu (h : Hdr)
  /-- AND (R342) -/
  | and (h : Hdr)
  /-- OR (R342) -/
  | or (h : Hdr)
  /-- XOR (R342) -/
  | xor (h : Hdr)
  /-- ANDN (R342) -/
  | andn (h : Hdr)
  /-- SHL (R342) -/
  | shl (h : Hdr)
  /-- SHR (R342) -/
  | shr (h : Hdr)
  /-- SAR (R342) -/
  | sar (h : Hdr)
  /-- ROL (R342) -/
  | rol (h : Hdr)
  /-- CLZ (R342) -/
  | clz (h : Hdr)
  /-- CTZ (R342) -/
  | ctz (h : Hdr)
  /-- POPC (R342) -/
  | popc (h : Hdr)
  /-- MIN (R342) -/
  | min (h : Hdr)
  /-- MAX (R342) -/
  | max (h : Hdr)
  /-- MINU (R342) -/
  | minu (h : Hdr)
  /-- MAXU (R342) -/
  | maxu (h : Hdr)
  /-- BFX (R344) -/
  | bfx (h : Hdr) (lsb len1 : BitVec 6)
  /-- BFXU (R344) -/
  | bfxu (h : Hdr) (lsb len1 : BitVec 6)
  /-- BFI (R344) -/
  | bfi (h : Hdr) (lsb len1 : BitVec 6)
  /-- SHADD (R342) -/
  | shadd (h : Hdr) (s1 : BitVec 2)
  /-- ADDI (R342) -/
  | addi (h : Hdr) (imm : BitVec 30)
  /-- MULI (R342) -/
  | muli (h : Hdr) (imm : BitVec 30)
  /-- ANDI (R342) -/
  | andi (h : Hdr) (imm : BitVec 30)
  /-- ORI (R342) -/
  | ori (h : Hdr) (imm : BitVec 30)
  /-- XORI (R342) -/
  | xori (h : Hdr) (imm : BitVec 30)
  /-- SHLI (R342) -/
  | shli (h : Hdr) (imm : BitVec 30)
  /-- SHRI (R342) -/
  | shri (h : Hdr) (imm : BitVec 30)
  /-- SARI (R342) -/
  | sari (h : Hdr) (imm : BitVec 30)
  /-- TEQ (R345) -/
  | teq (h : Hdr)
  /-- TNE (R345) -/
  | tne (h : Hdr)
  /-- TLT (R345) -/
  | tlt (h : Hdr)
  /-- TLE (R345) -/
  | tle (h : Hdr)
  /-- TLTU (R345) -/
  | tltu (h : Hdr)
  /-- TLEU (R345) -/
  | tleu (h : Hdr)
  /-- TEQI (R345) -/
  | teqi (h : Hdr) (imm : BitVec 30)
  /-- TNEI (R345) -/
  | tnei (h : Hdr) (imm : BitVec 30)
  /-- TLTI (R345) -/
  | tlti (h : Hdr) (imm : BitVec 30)
  /-- TLEI (R345) -/
  | tlei (h : Hdr) (imm : BitVec 30)
  /-- TLTUI (R345) -/
  | tltui (h : Hdr) (imm : BitVec 30)
  /-- TLEUI (R345) -/
  | tleui (h : Hdr) (imm : BitVec 30)
  /-- PAND (R346) -/
  | pand (h : Hdr)
  /-- POR (R346) -/
  | por (h : Hdr)
  /-- PNOT (R346) -/
  | pnot (h : Hdr)
  /-- FADD (R347) -/
  | fadd (h : Hdr) (rm : BitVec 2) (sat : Bool)
  /-- FSUB (R347) -/
  | fsub (h : Hdr) (rm : BitVec 2) (sat : Bool)
  /-- FMUL (R347) -/
  | fmul (h : Hdr) (rm : BitVec 2) (sat : Bool)
  /-- FFMA (R347) -/
  | ffma (h : Hdr) (rm : BitVec 2) (sat : Bool)
  /-- FDIV (R347) -/
  | fdiv (h : Hdr) (rm : BitVec 2) (sat : Bool)
  /-- FMIN (R348) -/
  | fmin (h : Hdr)
  /-- FMAX (R348) -/
  | fmax (h : Hdr)
  /-- FCVT (R349) -/
  | fcvt (h : Hdr) (fn : BitVec 4) (rm : BitVec 2) (sat : Bool)
  /-- FTEQ (R348) -/
  | fteq (h : Hdr)
  /-- FTLT (R348) -/
  | ftlt (h : Hdr)
  /-- FTLE (R348) -/
  | ftle (h : Hdr)
  /-- BR (R350) -/
  | br (h : Hdr) (off : BitVec 30)
  /-- BRI (R350) -/
  | bri (h : Hdr)
  /-- CALL (R351) -/
  | call (h : Hdr) (off : BitVec 30)
  /-- CALLI (R351) -/
  | calli (h : Hdr)
  /-- RET (R350) -/
  | ret (h : Hdr)
  /-- HALT (R353) -/
  | halt (h : Hdr)
  /-- LDB (R358) -/
  | ldb (h : Hdr) (m : MField)
  /-- LDBU (R358) -/
  | ldbu (h : Hdr) (m : MField)
  /-- LDH (R358) -/
  | ldh (h : Hdr) (m : MField)
  /-- LDHU (R358) -/
  | ldhu (h : Hdr) (m : MField)
  /-- LDW (R358) -/
  | ldw (h : Hdr) (m : MField)
  /-- LDWU (R358) -/
  | ldwu (h : Hdr) (m : MField)
  /-- LDD (R358) -/
  | ldd (h : Hdr) (m : MField)
  /-- LDK (R360) -/
  | ldk (h : Hdr) (m : MField)
  /-- STB (R359) -/
  | stb (h : Hdr) (m : MField)
  /-- STH (R359) -/
  | sth (h : Hdr) (m : MField)
  /-- STW (R359) -/
  | stw (h : Hdr) (m : MField)
  /-- STD (R359) -/
  | std (h : Hdr) (m : MField)
  /-- STK (R360) -/
  | stk (h : Hdr) (m : MField)
  /-- LDE (R362) -/
  | lde (h : Hdr) (m : MField)
  /-- STF (R362) -/
  | stf (h : Hdr) (m : MField)
  /-- STFW (R363) -/
  | stfw (h : Hdr) (m : MField)
  /-- FEQ (R362) -/
  | feq (h : Hdr) (m : MField)
  /-- FECLR (R362) -/
  | feclr (h : Hdr) (m : MField)
  /-- FESET (R362) -/
  | feset (h : Hdr) (m : MField)
  /-- AADD (R364) -/
  | aadd (h : Hdr) (acq rel : Bool) (m : MField)
  /-- AAND (R364) -/
  | aand (h : Hdr) (acq rel : Bool) (m : MField)
  /-- AOR (R364) -/
  | aor (h : Hdr) (acq rel : Bool) (m : MField)
  /-- AXOR (R364) -/
  | axor (h : Hdr) (acq rel : Bool) (m : MField)
  /-- AMIN (R364) -/
  | amin (h : Hdr) (acq rel : Bool) (m : MField)
  /-- AMAX (R364) -/
  | amax (h : Hdr) (acq rel : Bool) (m : MField)
  /-- AMINU (R364) -/
  | aminu (h : Hdr) (acq rel : Bool) (m : MField)
  /-- AMAXU (R364) -/
  | amaxu (h : Hdr) (acq rel : Bool) (m : MField)
  /-- ASWP (R364) -/
  | aswp (h : Hdr) (acq rel : Bool) (m : MField)
  /-- ACAS (R364) -/
  | acas (h : Hdr) (acq rel : Bool) (m : MField)
  /-- KADV (R367) -/
  | kadv (h : Hdr)
  /-- KTRIM (R367) -/
  | ktrim (h : Hdr)
  /-- KMASK (R367) -/
  | kmask (h : Hdr)
  /-- KBASE (R366) -/
  | kbase (h : Hdr)
  /-- KLEN (R366) -/
  | klen (h : Hdr)
  /-- KATTR (R366) -/
  | kattr (h : Hdr)
  /-- KLOCK (R367) -/
  | klock (h : Hdr)
  /-- KOPEN (R367) -/
  | kopen (h : Hdr)
  /-- SPARM (R283) -/
  | sparm (h : Hdr) (k : BitVec 4) (p : BitVec 3)
  /-- SPDIS (R285) -/
  | spdis (h : Hdr) (p : BitVec 3)
  /-- SPPOS (R285) -/
  | sppos (h : Hdr) (p : BitVec 3)
  /-- SPSKIP (R285) -/
  | spskip (h : Hdr) (p : BitVec 3)
  /-- FENCE (R369) -/
  | fence (h : Hdr) (kinds : BitVec 4) (scope : BitVec 3)
  /-- QFENCE (R370) -/
  | qfence (h : Hdr) (q : BitVec 4)
  /-- BINIT (R371) -/
  | binit (h : Hdr) (b : BitVec 2)
  /-- BARR (R371) -/
  | barr (h : Hdr) (b : BitVec 2)
  /-- BWAIT (R371) -/
  | bwait (h : Hdr) (b : BitVec 2)
  /-- WAITQ (R370) -/
  | waitq (h : Hdr) (q : BitVec 4)
  /-- SYSCALL (R373) -/
  | syscall (h : Hdr)
  /-- BRK (R373) -/
  | brk (h : Hdr)
  /-- TRET (R300) -/
  | tret (h : Hdr)
  /-- CSRR (R375) -/
  | csrr (h : Hdr) (n : BitVec 12)
  /-- CSRW (R375) -/
  | csrw (h : Hdr) (n : BitVec 12)
  /-- TLBI_VA (R377) -/
  | tlbiVa (h : Hdr)
  /-- TLBI_CTX (R377) -/
  | tlbiCtx (h : Hdr)
  /-- TLBI_ASID (R377) -/
  | tlbiAsid (h : Hdr)
  /-- TLBI_ALL (R377) -/
  | tlbiAll (h : Hdr)
  /-- ASIDRT (R378) -/
  | asidrt (h : Hdr)
  /-- WFE (R379) -/
  | wfe (h : Hdr)
  /-- VLD (R390) -/
  | vld (h : Hdr) (v : VField)
  /-- VST (R391) -/
  | vst (h : Hdr) (v : VField)
  /-- VLDS (R390) -/
  | vlds (h : Hdr) (v : VField)
  /-- VSTS (R391) -/
  | vsts (h : Hdr) (v : VField)
  /-- VGTH (R390) -/
  | vgth (h : Hdr) (v : VField)
  /-- VSCT (R391) -/
  | vsct (h : Hdr) (v : VField)
  /-- VSCTA (R249) -/
  | vscta (h : Hdr) (v : VField)
  /-- VBCST (R387) -/
  | vbcst (h : Hdr) (v : VField)
  /-- VADD (R382) -/
  | vadd (h : Hdr) (v : VField)
  /-- VSUB (R382) -/
  | vsub (h : Hdr) (v : VField)
  /-- VMUL (R382) -/
  | vmul (h : Hdr) (v : VField)
  /-- VFMA (R382) -/
  | vfma (h : Hdr) (v : VField)
  /-- VMIN (R382) -/
  | vmin (h : Hdr) (v : VField)
  /-- VMAX (R382) -/
  | vmax (h : Hdr) (v : VField)
  /-- VABS (R382) -/
  | vabs (h : Hdr) (v : VField)
  /-- VNEG (R382) -/
  | vneg (h : Hdr) (v : VField)
  /-- VAND (R383) -/
  | vand (h : Hdr) (v : VField)
  /-- VOR (R383) -/
  | vor (h : Hdr) (v : VField)
  /-- VXOR (R383) -/
  | vxor (h : Hdr) (v : VField)
  /-- VSHL (R383) -/
  | vshl (h : Hdr) (v : VField)
  /-- VSHR (R383) -/
  | vshr (h : Hdr) (v : VField)
  /-- VCVT (R385) -/
  | vcvt (h : Hdr) (v : VField)
  /-- VEXP2 (R384) -/
  | vexp2 (h : Hdr) (v : VField)
  /-- VRCP (R384) -/
  | vrcp (h : Hdr) (v : VField)
  /-- VRSQ (R384) -/
  | vrsq (h : Hdr) (v : VField)
  /-- VREDADD (R388) -/
  | vredadd (h : Hdr) (v : VField)
  /-- VREDMAX (R388) -/
  | vredmax (h : Hdr) (v : VField)
  /-- VREDMIN (R388) -/
  | vredmin (h : Hdr) (v : VField)
  /-- VCMP (R386) -/
  | vcmp (h : Hdr) (cond : BitVec 4) (v : VField)
  /-- VSEL (R387) -/
  | vsel (h : Hdr) (v : VField)
  /-- VPERM (R387) -/
  | vperm (h : Hdr) (v : VField)
  /-- VCMPR (R387) -/
  | vcmpr (h : Hdr) (v : VField)
  /-- VIOTA (R387) -/
  | viota (h : Hdr) (v : VField)
  /-- MAND (R389) -/
  | mand (h : Hdr) (v : VField)
  /-- MOR (R389) -/
  | mor (h : Hdr) (v : VField)
  /-- MNOT (R389) -/
  | mnot (h : Hdr) (v : VField)
  /-- MPOPC (R388) -/
  | mpopc (h : Hdr) (v : VField)
  /-- VINS (R387) -/
  | vins (h : Hdr) (v : VField)
  /-- MLWS (R237) -/
  | mlws (h : Hdr) (k : BitVec 4) (fmt : BitVec 5)
  /-- MSWAP (R238) -/
  | mswap (h : Hdr)
  /-- MPASS (R239) -/
  | mpass (h : Hdr) (k : BitVec 4) (m1 row0 : BitVec 10)
  /-- MPASSS (R239) -/
  | mpasss (h : Hdr) (k : BitVec 4) (m1 row0 : BitVec 10)
  /-- MZERO (R394) -/
  | mzero (h : Hdr) (m1 row0 : BitVec 10)
  /-- MRD (R395) -/
  | mrd (h : Hdr) (k : BitVec 4) (m1 row0 : BitVec 10) (dt : BitVec 3) (rm : BitVec 2) (sat : Bool)
  /-- MCBL (R236) -/
  | mcbl (h : Hdr) (k : BitVec 4)
  /-- RANK (R271) -/
  | rank (h : Hdr) (vd va : BitVec 5) (mg : BitVec 3) (me kt : Bool) (mc : BitVec 3)
  /-- RKMERGE (R272) -/
  | rkmerge (h : Hdr) (vd va vb : BitVec 5) (kt : Bool) (mc : BitVec 3)
  /-- RKATL (R274) -/
  | rkatl (h : Hdr) (k : BitVec 4)
  /-- RKPASS (R275) -/
  | rkpass (h : Hdr) (k : BitVec 4) (m1 row0 : BitVec 10)
  /-- RKRECON (R277) -/
  | rkrecon (h : Hdr) (vd va vb : BitVec 5) (mg : BitVec 3) (me : Bool)
  /-- CPY (R402) -/
  | cpy (h : Hdr) (rec src dst : BitVec 4)
  /-- CPYM (R404) -/
  | cpym (h : Hdr) (rec src dst : BitVec 4)
  /-- CPY2D (R402) -/
  | cpy2d (h : Hdr) (rec src dst : BitVec 4)
  /-- CPYFILL (R402) -/
  | cpyfill (h : Hdr) (rec dst : BitVec 4)
  /-- CPYZ (R403) -/
  | cpyz (h : Hdr) (rec src dst : BitVec 4)
  /-- RIREAD (R408) -/
  | riread (h : Hdr) (region rec : BitVec 4)
  /-- RIFILT (R408) -/
  | rifilt (h : Hdr) (region rec : BitVec 4)
  /-- RIMATV (R408) -/
  | rimatv (h : Hdr) (region rec : BitVec 4)
  /-- RIUPD (R196) -/
  | riupd (h : Hdr) (region rec : BitVec 4)
  /-- RIRED (R198) -/
  | rired (h : Hdr) (region rec : BitVec 4)
  /-- RICXG (R195) -/
  | ricxg (h : Hdr) (region rec : BitVec 4)
  /-- RIWRITE (R408) -/
  | riwrite (h : Hdr) (region rec : BitVec 4)
  /-- RIFILL (R408) -/
  | rifill (h : Hdr) (region rec : BitVec 4)
  /-- RIPREF (R409) -/
  | ripref (h : Hdr) (region rec : BitVec 4)
  /-- PACKET_LAUNCH (R57) -/
  | packetLaunch (slot : Nat)
  /-- PACKET_COPY (R57) -/
  | packetCopy (slot : Nat)
  /-- PACKET_HINT (R57) -/
  | packetHint (slot : Nat)
  /-- PACKET_SIGNAL (R61) -/
  | packetSignal (slot : Nat)
  /-- PACKET_WAIT (R61) -/
  | packetWait (slot : Nat)
  /-- PACKET_QUEUE_FENCE (R59) -/
  | packetQueueFence (slot : Nat)
  /-- PACKET_MALFORMED (R58) -/
  | packetMalformed (slot : Nat)
  /-- PACKET_COMPLETE (R57) -/
  | packetComplete (f q : Nat) (index : Nat)
  /-- CONTEXT_IMAGE_LOAD (R72) -/
  | contextImageLoad (tile : Nat)
  /-- LOCAL_DONE (R73) -/
  | localDone (tile : Nat)
  /-- REGION_CONVERGE (R75) -/
  | regionConverge (launch region : Nat)
  /-- REGION_START (R70) -/
  | regionStart (launch region : Nat)
  /-- SAVE_IMAGE_COMPLETE (R80) -/
  | saveImageComplete (tile : Nat)
  /-- SAVE_BANK_FREE (R80) -/
  | saveBankFree (tile : Nat)
  /-- GRANT_STEP (R87) -/
  | grantStep (stack : Nat)
  /-- BARRIER_RELEASE (R85) -/
  | barrierRelease (launch region barrier : Nat)
  /-- BLOCK_FETCH (R94) -/
  | blockFetch (tile : Nat)
  /-- BLOCK_MAP (R98) -/
  | blockMap (tile : Nat)
  /-- TOKEN_ARRIVAL (R118) -/
  | tokenArrival (tile : Nat) (index : Nat)
  /-- TOYBOX_RETURN (R119) -/
  | toyboxReturn (tile : Nat) (cluster set : Nat)
  /-- TAG_EMIT (R117) -/
  | tagEmit (tile : Nat)
  /-- TAG_COMPLETE (R122) -/
  | tagComplete (tile : Nat) (tag : Tag)
  /-- TAG_RETIRE (R123) -/
  | tagRetire (tile : Nat)
  /-- BLOCK_COMMIT (R107) -/
  | blockCommit (tile : Nat)
  /-- QUIESCENCE_TRAP (R108) -/
  | quiescenceTrap (tile : Nat)
  /-- TRAP_ENTRY (R299) -/
  | trapEntry (tile : Nat)
  /-- ENGINE_TRAP_TAKEN (R244) -/
  | engineTrapTaken (tile : Nat)
  /-- LOAD_RETURN (R359) -/
  | loadReturn (id : Nat)
  /-- STFW_RESERVATION (R363) -/
  | stfwReservation (tile : Nat) (id : Nat)
  /-- WFE_TIMEOUT (R379) -/
  | wfeTimeout (tile : Nat)
  /-- STREAM_PREFETCH (R292) -/
  | streamPrefetch (tile port : Nat)
  /-- VECTOR_COMMAND_PERFORM (R207) -/
  | vectorCommandPerform (tile : Nat)
  /-- MATRIX_COMMAND_PERFORM (R207) -/
  | matrixCommandPerform (tile : Nat)
  /-- ACCUMULATOR_ROW_LAND (R241) -/
  | accumulatorRowLand (tile : Nat)
  /-- QUEUE_FENCE_RELEASE (R209) -/
  | queueFenceRelease (tile : Nat) (fence : Nat)
  /-- COPY_START (R213) -/
  | copyStart (tile : Nat)
  /-- COPY_CHUNK (R402) -/
  | copyChunk (id : Nat)
  /-- FOLLOW_ON_ENTRY (R216) -/
  | followOnEntry (id : Nat)
  /-- COPY_COMPLETE (R214) -/
  | copyComplete (id : Nat)
  /-- RIDER_LEAVE_QUEUE (R185) -/
  | riderLeaveQueue (tile : Nat)
  /-- LEG_ARRIVAL (R185) -/
  | legArrival (rider ring : Nat)
  /-- RIDER_COMPLETE (R203) -/
  | riderComplete (rider : Nat)
  /-- FUNCTION_LEVEL_RESET (R48) -/
  | functionLevelReset (f : Nat)
  /-- COLD_RESET (R48) -/
  | coldReset
  /-- HOT_RESET (R48) -/
  | hotReset
  /-- WATCHDOG_RESET (R45) -/
  | watchdogReset
  /-- BOOT_ROM_CHECK (R49) -/
  | bootRomCheck
  /-- PUPPETEER_START (R49) -/
  | puppeteerStart
  /-- BRINGUP_RUNNING (R49) -/
  | bringupRunning
  /-- THERMAL_FORECAST (R35) -/
  | thermalForecast
  /-- FWACT_DUPGO_CLEAR (R50) -/
  | fwactDupgoClear
  /-- FW_IMAGE_LOADED (R50) -/
  | fwImageLoaded
  /-- FW_ACTIVATED (R50) -/
  | fwActivated
  /-- ATTCMD_GO (R51) -/
  | attcmdGo
  /-- ATTEST_REPORT_DONE (R51) -/
  | attestReportDone
  /-- RELLAST_VALID_CLEAR (R309) -/
  | rellastValidClear
  /-- PUPPETEER_TIMER_TICK (R64) -/
  | puppeteerTimerTick
  /-- SCHEDULING_DECISION (R64) -/
  | schedulingDecision
  /-- SWEEP_SLOT (R164) -/
  | sweepSlot
  /-- TILE_SELF_TEST (R49) -/
  | tileSelfTest (failing : BitVec 192)
  /-- SENSOR_REPORT (R34) -/
  | sensorReport (dram : Bool) (stack : Nat) (halfDegrees : Nat)
  /-- FLIT_REPLAY (R21) -/
  | flitReplay (port : Nat)
  /-- VOLONG_PORT_DOWN (R21) -/
  | volongPortDown (port : Nat)
  /-- LEAGUE_REQUEST_SERVE (R26) -/
  | leagueRequestServe (r : LeagueRequest)
  /-- LEAGUE_RESPONSE (R27) -/
  | leagueResponse (id : Nat) (status : Nat) (value : Nat)
  /-- LEAGUE_TIMEOUT (R27) -/
  | leagueTimeout (id : Nat)
  /-- LGCTL_WRITE (R24) -/
  | lgctlWrite (v : Word)
  /-- TENCFG_WRITE (R40) -/
  | tencfgWrite (f : Nat) (v : Word)
  /-- TENPT_WRITE (R40) -/
  | tenptWrite (f : Nat) (v : Word)
  /-- FWACT_GO (R50) -/
  | fwactGo (v : Word)
  /-- VLOGCTL_HEAD_WRITE (R43) -/
  | vlogctlHeadWrite (f : Nat) (v : BitVec 4)
  /-- TNSTAT_CLEAR (R41) -/
  | tnstatClear (f : Nat) (v : Word)
  /-- VLSTAT_DOWNEV_CLEAR (R25) -/
  | vlstatDownevClear (port : Nat)
  /-- SLEWTAB_WRITE (R89) -/
  | slewtabWrite (stack : Nat) (v : Word)
  /-- REGISTER_WRITE (R38) -/
  | registerWrite (f : Nat) (off size : Nat) (v : Word)
  /-- DOORBELL_KICK (R54) -/
  | doorbellKick (f q : Nat) (w : BitVec 32)
  /-- DOORBELL_CREATE (R52) -/
  | doorbellCreate (f q : Nat) (desc : Nat)
  /-- DOORBELL_DESTROY (R56) -/
  | doorbellDestroy (f q : Nat)
  /-- DOORBELL_RESERVED (R52) -/
  | doorbellReserved (f q : Nat)
  /-- EVENT_ARM (R46) -/
  | eventArm (kind : EventKind) (key : Nat) (cookie : BitVec 32)
  /-- EVENT_ARRIVAL (R46) -/
  | eventArrival (kind : EventKind) (key : Nat)
  /-- MAP (R71) -/
  | map (tile entry : Nat) (source : MapSource)
  /-- UNMAP (R71) -/
  | unmap (tile entry : Nat)
  /-- SWITCH (R76) -/
  | switch (stack region : Nat)
  /-- CONTEXT_RESUME (R81) -/
  | contextResume (tile entry : Nat) (ctxId : Nat)
  /-- BLOCK_CACHE_REFETCH (R96) -/
  | blockCacheRefetch (tile : Nat)
  /-- FAULT_ROLLBACK (R306) -/
  | faultRollback (tile : Nat) (kind : FaultKind)
  /-- BENCH_LANE_GRANT (R189) -/
  | benchLaneGrant (ring : Nat)
  /-- LEG_BOARD (R187) -/
  | legBoard (rider ring : Nat)
  /-- LEG_ALIGHT (R188) -/
  | legAlight (rider ring : Nat)
  /-- PAGE_REQUEST (R177) -/
  | pageRequest (f : Nat) (leaf : Nat)
  /-- FILL_START (R178) -/
  | fillStart (f : Nat) (leaf : Nat)
  /-- FILL_SOURCE_READY (R178) -/
  | fillSourceReady (leaf : Nat)
  /-- FILL_COMPLETE (R178) -/
  | fillComplete (leaf : Nat)
  /-- FILL_FAIL (R180) -/
  | fillFail (leaf : Nat) (status : Nat)
  /-- PAGE_EVICT (R182) -/
  | pageEvict (leaf : Nat)
  /-- VOLONG_PORT_UP (R25) -/
  | volongPortUp (port : Nat)
  /-- CONFIGURATION_REQUEST (R49) -/
  | configurationRequest (f : Nat) (vfEnable : Option Bool)
  /-- REGISTER_READ (R42) -/
  | registerRead (f : Nat) (off size : Nat)
  /-- SCALE_OUT_RECEIVE (R31) -/
  | scaleOutReceive (dest : ScaleOutDest) (addr : Nat) (bytes : List Byte)
  deriving DecidableEq, Repr

end Sys2Proof
end

