-- ==== Sys2Proof/Machine/FieldRules.lean ====
section
/-! DEFINITION. The rules a single instruction's fields obey (R311, R312, R315, R319 to R323, R381, R270), as one check
per constructor. The rules that need the rest of a block (a target's slot, its ports) are checked when the block is
mapped. -/

namespace Sys2Proof.Machine

/-- A target with D = 0 and PORT = 00 is empty (R312). -/
def emptyT (t : Target) : Bool := decide (t.d = 0)

/-- A target is empty, or names another slot (R312: D = 0 with a PORT other than 00 is rejected). -/
def targetOk (t : Target) : Bool := decide (t.d = 0 → t.port = .left)

/-- The common fields: both targets legal, not naming one port of one slot twice, W = 0 unless W has a meaning, and
no target where the instruction has no result (R311, R312). -/
def hdrOk (h : Hdr) (wMeans hasResult : Bool) : Bool :=
  targetOk h.t1 && targetOk h.t2 && decide (h.t1 = h.t2 → h.t1.d = 0) && (wMeans || !h.w) &&
  (hasResult || (emptyT h.t1 && emptyT h.t2))

/-- What a register field of class V names (R322). -/
inductive VReg where
  | vec
  | mask
  | cap
  | none
  deriving DecidableEq, Repr

/-- The element types a form accepts (R381). -/
inductive VTypes where
  | all
  | int
  | signed
  | elementary
  | zero
  deriving DecidableEq, Repr

/-- Whether a form uses RM or SAT (R381). -/
inductive VUse where
  | zero
  | floatOnly
  | intOnly
  | any
  deriving DecidableEq, Repr

/-- What SPEC holds (R322). -/
inductive VSpec where
  | zero
  | type
  | mask
  deriving DecidableEq, Repr

/-- One row of the tables of R322 and R381. -/
structure VShape where
  vd : VReg
  va : VReg
  vb : VReg
  types : VTypes
  rm : VUse
  sat : VUse
  spec : VSpec
  deriving DecidableEq, Repr

/-- A register field holds the number of the file it names, with the rest of the field zero (R322). -/
def vregOk (r : VReg) (x : BitVec 5) : Bool :=
  match r with
  | .vec => true
  | .mask => decide (x.toNat ≤ 7)
  | .cap => decide (x.toNat ≤ 15)
  | .none => decide (x = 0)

/-- The codes 0 to 4 are the integer types (R322). -/
def vtypeInt (t : BitVec 4) : Bool := decide (t.toNat ≤ 4)

/-- The element type is one the form accepts (R381). -/
def vtypeOk (s : VTypes) (t : BitVec 4) : Bool :=
  match s with
  | .all => decide (t.toNat ≤ 9)
  | .int => vtypeInt t
  | .signed => decide (t.toNat ≤ 9) && decide (t ≠ 1)
  | .elementary => decide (t = 5) || decide (t = 6) || decide (t = 7)
  | .zero => decide (t = 0)

/-- A field that is nonzero is one the form uses with this type (R381). -/
def vuseOk (u : VUse) (isInt nonzero : Bool) : Bool :=
  match u with
  | .zero => !nonzero
  | .floatOnly => !nonzero || !isInt
  | .intOnly => !nonzero || isInt
  | .any => true

/-- SPEC is zero, a type code, or a mask number (R322). -/
def vspecOk (s : VSpec) (x : BitVec 4) : Bool :=
  match s with
  | .zero => decide (x = 0)
  | .type => decide (x.toNat ≤ 9)
  | .mask => decide (x.toNat ≤ 7)

/-- The class V rules of R322 and R381. -/
def vOk (s : VShape) (v : VField) : Bool :=
  vregOk s.vd v.vd && vregOk s.va v.va && vregOk s.vb v.vb && vtypeOk s.types v.ty &&
  vuseOk s.rm (vtypeInt v.ty) (decide (v.rm ≠ 0)) && vuseOk s.sat (vtypeInt v.ty) v.sat && vspecOk s.spec v.spec

/-- The format operand of MLWS (R233). -/
def fmtOk (f : BitVec 5) : Bool :=
  let e := (f.extractLsb' 0 3).toNat
  decide (e ≤ 4) && (!f.getLsbD 3 || decide (e = 1 ∨ e = 2 ∨ e = 4)) &&
  (!f.getLsbD 4 || decide (e = 1 ∨ e = 2 ∨ e = 3))

/-- The register numbers of R375. -/
def csrAssigned (n : BitVec 12) : Bool :=
  decide (n.toNat ≤ 0x00B ∨ n = 0x010 ∨ n = 0x011 ∨ n = 0x018 ∨ n = 0x019 ∨ n = 0x020 ∨ n = 0x021)

/-- CSRR: an assigned number that is not write-only (R375; RBVAL is WO). -/
def csrrOk (n : BitVec 12) : Bool := csrAssigned n && decide (n ≠ 0x019)

/-- CSRW: an assigned number with a field that is not RO (R375; TSTAT, HELDV, RBCNT, CYCLE, HWID and CROOT have none). -/
def csrwOk (n : BitVec 12) : Bool :=
  csrAssigned n && decide (n ≠ 0x008 ∧ n ≠ 0x00A ∧ n ≠ 0x00B ∧ n ≠ 0x010 ∧ n ≠ 0x011 ∧ n ≠ 0x020)

/-- The rules an instruction's own fields obey (R326, less what needs its block); a device step has no word. -/
def fieldRules : Instr → Bool
  | .coldReset
  | .hotReset
  | .functionLevelReset _
  | .watchdogReset
  | .bootRomCheck
  | .puppeteerStart
  | .tileSelfTest _
  | .bringupRunning
  | .sensorReport _ _ _
  | .thermalForecast
  | .flitReplay _
  | .volongPortDown _
  | .leagueRequestServe _
  | .leagueResponse _ _ _
  | .leagueTimeout _
  | .lgctlWrite _
  | .tencfgWrite _ _
  | .tenptWrite _ _
  | .fwactGo _
  | .fwactDupgoClear
  | .fwImageLoaded
  | .fwActivated
  | .attcmdGo
  | .attestReportDone
  | .vlogctlHeadWrite _ _
  | .tnstatClear _ _
  | .vlstatDownevClear _
  | .rellastValidClear
  | .slewtabWrite _ _
  | .registerWrite _ _ _ _
  | .doorbellKick _ _ _
  | .doorbellCreate _ _ _
  | .doorbellDestroy _ _
  | .doorbellReserved _ _
  | .eventArm _ _ _
  | .eventArrival _ _
  | .puppeteerTimerTick
  | .schedulingDecision
  | .packetLaunch _
  | .packetCopy _
  | .packetHint _
  | .packetSignal _
  | .packetWait _
  | .packetQueueFence _
  | .packetMalformed _
  | .packetComplete _ _ _
  | .map _ _ _
  | .unmap _ _
  | .switch _ _
  | .regionStart _ _
  | .contextImageLoad _
  | .localDone _
  | .regionConverge _ _
  | .saveImageComplete _
  | .saveBankFree _
  | .contextResume _ _ _
  | .grantStep _
  | .barrierRelease _ _ _
  | .blockFetch _
  | .blockMap _
  | .blockCacheRefetch _
  | .tokenArrival _ _
  | .toyboxReturn _ _ _
  | .tagEmit _
  | .tagComplete _ _
  | .tagRetire _
  | .blockCommit _
  | .quiescenceTrap _
  | .trapEntry _
  | .engineTrapTaken _
  | .faultRollback _ _
  | .loadReturn _
  | .stfwReservation _ _
  | .wfeTimeout _
  | .streamPrefetch _ _
  | .vectorCommandPerform _
  | .matrixCommandPerform _
  | .accumulatorRowLand _
  | .queueFenceRelease _ _
  | .copyStart _
  | .copyChunk _
  | .followOnEntry _
  | .copyComplete _
  | .riderLeaveQueue _
  | .legArrival _ _
  | .benchLaneGrant _
  | .legBoard _ _
  | .sweepSlot
  | .legAlight _ _
  | .riderComplete _
  | .pageRequest _ _
  | .fillStart _ _
  | .fillSourceReady _
  | .fillComplete _
  | .fillFail _ _
  | .pageEvict _
  | .volongPortUp _
  | .configurationRequest _ _
  | .registerRead _ _ _
  | .scaleOutReceive _ _ _ => true
  | .rd h _ kr n => hdrOk h false true && (!kr || decide (n.toNat ≤ 15))
  | .wr h kr n => hdrOk h true false && (!kr || decide (n.toNat ≤ 15))
  | .mov h => hdrOk h false true
  | .movi h _ => hdrOk h false true
  | .movhi h _ => hdrOk h false true
  | .nul h => hdrOk h false true
  | .sel h => hdrOk h false true && decide (h.pm = .onTrue)
  | .tagof h => hdrOk h false true
  | .lgen h => hdrOk h false true
  | .lgen2 h => hdrOk h false true
  | .teos h => hdrOk h false true
  | .add h => hdrOk h true true
  | .sub h => hdrOk h true true
  | .mul h => hdrOk h true true
  | .mulh h => hdrOk h true true
  | .mulhu h => hdrOk h true true
  | .div h => hdrOk h true true
  | .divu h => hdrOk h true true
  | .rem h => hdrOk h true true
  | .remu h => hdrOk h true true
  | .and h => hdrOk h true true
  | .or h => hdrOk h true true
  | .xor h => hdrOk h true true
  | .andn h => hdrOk h true true
  | .shl h => hdrOk h true true
  | .shr h => hdrOk h true true
  | .sar h => hdrOk h true true
  | .rol h => hdrOk h true true
  | .clz h => hdrOk h true true
  | .ctz h => hdrOk h true true
  | .popc h => hdrOk h true true
  | .min h => hdrOk h true true
  | .max h => hdrOk h true true
  | .minu h => hdrOk h true true
  | .maxu h => hdrOk h true true
  | .bfx h lsb len1 => hdrOk h true true && decide (lsb.toNat + len1.toNat + 1 ≤ (if h.w then 32 else 64))
  | .bfxu h lsb len1 => hdrOk h true true && decide (lsb.toNat + len1.toNat + 1 ≤ (if h.w then 32 else 64))
  | .bfi h lsb len1 => hdrOk h true true && decide (lsb.toNat + len1.toNat + 1 ≤ (if h.w then 32 else 64))
  | .shadd h _ => hdrOk h true true
  | .addi h _ => hdrOk h true true
  | .muli h _ => hdrOk h true true
  | .andi h _ => hdrOk h true true
  | .ori h _ => hdrOk h true true
  | .xori h _ => hdrOk h true true
  | .shli h _ => hdrOk h true true
  | .shri h _ => hdrOk h true true
  | .sari h _ => hdrOk h true true
  | .teq h => hdrOk h true true
  | .tne h => hdrOk h true true
  | .tlt h => hdrOk h true true
  | .tle h => hdrOk h true true
  | .tltu h => hdrOk h true true
  | .tleu h => hdrOk h true true
  | .teqi h _ => hdrOk h true true
  | .tnei h _ => hdrOk h true true
  | .tlti h _ => hdrOk h true true
  | .tlei h _ => hdrOk h true true
  | .tltui h _ => hdrOk h true true
  | .tleui h _ => hdrOk h true true
  | .pand h => hdrOk h true true
  | .por h => hdrOk h true true
  | .pnot h => hdrOk h true true
  | .fadd h _ _ => hdrOk h false true
  | .fsub h _ _ => hdrOk h false true
  | .fmul h _ _ => hdrOk h false true
  | .ffma h _ _ => hdrOk h false true && decide (h.pm = .onTrue)
  | .fdiv h _ _ => hdrOk h false true
  | .fmin h => hdrOk h false true
  | .fmax h => hdrOk h false true
  | .fcvt h fn _ _ => hdrOk h false true && decide (fn.toNat ≤ 9)
  | .fteq h => hdrOk h false true
  | .ftlt h => hdrOk h false true
  | .ftle h => hdrOk h false true
  | .br h _ => hdrOk h false false
  | .bri h => hdrOk h false false
  | .call h _ => hdrOk h false false
  | .calli h => hdrOk h false false
  | .ret h => hdrOk h false false
  | .halt h => hdrOk h false false
  | .ldb h m => hdrOk h true true && decide (m.sz = 0)
  | .ldbu h m => hdrOk h true true && decide (m.sz = 0)
  | .ldh h m => hdrOk h true true && decide (m.sz = 1)
  | .ldhu h m => hdrOk h true true && decide (m.sz = 1)
  | .ldw h m => hdrOk h true true && decide (m.sz = 2)
  | .ldwu h m => hdrOk h true true && decide (m.sz = 2)
  | .ldd h m => hdrOk h true true && decide (m.sz = 3)
  | .ldk h m => hdrOk h true true && decide (m.sz = 4)
  | .stb h m => hdrOk h true true && emptyT h.t1 && (emptyT h.t2 || m.oe) && decide (m.sz = 0)
  | .sth h m => hdrOk h true true && emptyT h.t1 && (emptyT h.t2 || m.oe) && decide (m.sz = 1)
  | .stw h m => hdrOk h true true && emptyT h.t1 && (emptyT h.t2 || m.oe) && decide (m.sz = 2)
  | .std h m => hdrOk h true true && emptyT h.t1 && (emptyT h.t2 || m.oe) && decide (m.sz = 3)
  | .stk h m => hdrOk h true true && emptyT h.t1 && (emptyT h.t2 || m.oe) && decide (m.sz = 4)
  | .lde h m => hdrOk h true true && decide (m.sz.toNat ≤ 3)
  | .stf h m => hdrOk h true true && emptyT h.t1 && (emptyT h.t2 || m.oe) && decide (m.sz.toNat ≤ 3)
  | .stfw h m => hdrOk h true true && emptyT h.t1 && (emptyT h.t2 || m.oe) && decide (m.sz.toNat ≤ 3)
  | .feq h m => hdrOk h true true && decide (m.sz.toNat ≤ 3)
  | .feclr h m => hdrOk h true true && emptyT h.t1 && (emptyT h.t2 || m.oe) && decide (m.sz.toNat ≤ 3)
  | .feset h m => hdrOk h true true && emptyT h.t1 && (emptyT h.t2 || m.oe) && decide (m.sz.toNat ≤ 3)
  | .aadd h _ _ m => hdrOk h true true && decide (m.sz.toNat ≤ 3)
  | .aand h _ _ m => hdrOk h true true && decide (m.sz.toNat ≤ 3)
  | .aor h _ _ m => hdrOk h true true && decide (m.sz.toNat ≤ 3)
  | .axor h _ _ m => hdrOk h true true && decide (m.sz.toNat ≤ 3)
  | .amin h _ _ m => hdrOk h true true && decide (m.sz.toNat ≤ 3)
  | .amax h _ _ m => hdrOk h true true && decide (m.sz.toNat ≤ 3)
  | .aminu h _ _ m => hdrOk h true true && decide (m.sz.toNat ≤ 3)
  | .amaxu h _ _ m => hdrOk h true true && decide (m.sz.toNat ≤ 3)
  | .aswp h _ _ m => hdrOk h true true && decide (m.sz.toNat ≤ 3)
  | .acas h _ _ m => hdrOk h true true && decide (m.sz.toNat ≤ 3) && decide (h.pm = .onTrue)
  | .kadv h => hdrOk h false true
  | .ktrim h => hdrOk h false true
  | .kmask h => hdrOk h false true
  | .kbase h => hdrOk h false true
  | .klen h => hdrOk h false true
  | .kattr h => hdrOk h false true
  | .klock h => hdrOk h false true
  | .kopen h => hdrOk h false true
  | .sparm h _ _ => hdrOk h false false
  | .spdis h _ => hdrOk h false false
  | .sppos h _ => hdrOk h false true
  | .spskip h _ => hdrOk h false false
  | .fence h _ scope => hdrOk h false false && decide (scope.toNat ≤ 4)
  | .qfence h q => hdrOk h false false && decide (q ≠ 0)
  | .binit h _ => hdrOk h false false
  | .barr h _ => hdrOk h false false
  | .bwait h _ => hdrOk h false false
  | .waitq h q => hdrOk h false false && decide (q ≠ 0)
  | .syscall h => hdrOk h false true
  | .brk h => hdrOk h false true
  | .tret h => hdrOk h false false
  | .csrr h n => hdrOk h false true && csrrOk n
  | .csrw h n => hdrOk h false false && csrwOk n
  | .tlbiVa h => hdrOk h false false
  | .tlbiCtx h => hdrOk h false false
  | .tlbiAsid h => hdrOk h false false
  | .tlbiAll h => hdrOk h false false
  | .asidrt h => hdrOk h false false
  | .wfe h => hdrOk h false false
  | .vld h v => hdrOk h false false && vOk ⟨.vec, .cap, .none, .all, .zero, .zero, .zero⟩ v
  | .vst h v => hdrOk h false false && vOk ⟨.vec, .cap, .none, .all, .zero, .zero, .zero⟩ v
  | .vlds h v => hdrOk h false false && vOk ⟨.vec, .cap, .none, .all, .zero, .zero, .zero⟩ v
  | .vsts h v => hdrOk h false false && vOk ⟨.vec, .cap, .none, .all, .zero, .zero, .zero⟩ v
  | .vgth h v => hdrOk h false false && vOk ⟨.vec, .cap, .vec, .all, .zero, .zero, .zero⟩ v
  | .vsct h v => hdrOk h false false && vOk ⟨.vec, .cap, .vec, .all, .zero, .zero, .zero⟩ v
  | .vscta h v => hdrOk h false false && vOk ⟨.vec, .cap, .vec, .all, .floatOnly, .any, .zero⟩ v
  | .vbcst h v => hdrOk h false false && vOk ⟨.vec, .none, .none, .all, .zero, .zero, .zero⟩ v
  | .vadd h v => hdrOk h false false && vOk ⟨.vec, .vec, .vec, .all, .floatOnly, .any, .zero⟩ v
  | .vsub h v => hdrOk h false false && vOk ⟨.vec, .vec, .vec, .all, .floatOnly, .any, .zero⟩ v
  | .vmul h v => hdrOk h false false && vOk ⟨.vec, .vec, .vec, .all, .floatOnly, .any, .zero⟩ v
  | .vfma h v => hdrOk h false false && vOk ⟨.vec, .vec, .vec, .all, .floatOnly, .any, .zero⟩ v
  | .vmin h v => hdrOk h false false && vOk ⟨.vec, .vec, .vec, .all, .zero, .zero, .zero⟩ v
  | .vmax h v => hdrOk h false false && vOk ⟨.vec, .vec, .vec, .all, .zero, .zero, .zero⟩ v
  | .vabs h v => hdrOk h false false && vOk ⟨.vec, .vec, .none, .signed, .zero, .intOnly, .zero⟩ v
  | .vneg h v => hdrOk h false false && vOk ⟨.vec, .vec, .none, .signed, .zero, .intOnly, .zero⟩ v
  | .vand h v => hdrOk h false false && vOk ⟨.vec, .vec, .vec, .all, .zero, .zero, .zero⟩ v
  | .vor h v => hdrOk h false false && vOk ⟨.vec, .vec, .vec, .all, .zero, .zero, .zero⟩ v
  | .vxor h v => hdrOk h false false && vOk ⟨.vec, .vec, .vec, .all, .zero, .zero, .zero⟩ v
  | .vshl h v => hdrOk h false false && vOk ⟨.vec, .vec, .vec, .int, .zero, .zero, .zero⟩ v
  | .vshr h v => hdrOk h false false && vOk ⟨.vec, .vec, .vec, .int, .zero, .zero, .zero⟩ v
  | .vcvt h v => hdrOk h false false && vOk ⟨.vec, .vec, .none, .all, .any, .any, .type⟩ v
  | .vexp2 h v => hdrOk h false false && vOk ⟨.vec, .vec, .none, .elementary, .any, .any, .zero⟩ v
  | .vrcp h v => hdrOk h false false && vOk ⟨.vec, .vec, .none, .elementary, .any, .any, .zero⟩ v
  | .vrsq h v => hdrOk h false false && vOk ⟨.vec, .vec, .none, .elementary, .any, .any, .zero⟩ v
  | .vredadd h v => hdrOk h false false && vOk ⟨.vec, .vec, .none, .all, .floatOnly, .any, .zero⟩ v
  | .vredmax h v => hdrOk h false false && vOk ⟨.vec, .vec, .none, .all, .zero, .zero, .zero⟩ v
  | .vredmin h v => hdrOk h false false && vOk ⟨.vec, .vec, .none, .all, .zero, .zero, .zero⟩ v
  | .vcmp h cond v => hdrOk h false false && vOk ⟨.mask, .vec, .vec, .all, .zero, .zero, .zero⟩ v && decide (cond.toNat ≤ 5)
  | .vsel h v => hdrOk h false false && vOk ⟨.vec, .vec, .vec, .all, .zero, .zero, .mask⟩ v
  | .vperm h v => hdrOk h false false && vOk ⟨.vec, .vec, .vec, .all, .zero, .zero, .zero⟩ v
  | .vcmpr h v => hdrOk h false false && vOk ⟨.vec, .vec, .none, .all, .zero, .zero, .mask⟩ v && decide (v.mg = 0) && !v.me
  | .viota h v => hdrOk h false false && vOk ⟨.vec, .none, .none, .int, .zero, .any, .mask⟩ v
  | .mand h v => hdrOk h false false && vOk ⟨.mask, .mask, .mask, .zero, .zero, .zero, .zero⟩ v
  | .mor h v => hdrOk h false false && vOk ⟨.mask, .mask, .mask, .zero, .zero, .zero, .zero⟩ v
  | .mnot h v => hdrOk h false false && vOk ⟨.mask, .mask, .none, .zero, .zero, .zero, .zero⟩ v
  | .mpopc h v => hdrOk h false false && vOk ⟨.vec, .mask, .none, .int, .zero, .any, .zero⟩ v
  | .vins h v => hdrOk h false false && vOk ⟨.vec, .none, .none, .all, .zero, .zero, .zero⟩ v
  | .mlws h _ fmt => hdrOk h true false && fmtOk fmt
  | .mswap h => hdrOk h true false
  | .mpass h _ m1 row0 => hdrOk h true false && decide (row0.toNat + m1.toNat + 1 ≤ 1024)
  | .mpasss h _ m1 row0 => hdrOk h true false && decide (row0.toNat + m1.toNat + 1 ≤ 1024)
  | .mzero h m1 row0 => hdrOk h true false && decide (row0.toNat + m1.toNat + 1 ≤ 1024)
  | .mrd h _ m1 row0 dt _ _ => hdrOk h true false && decide (row0.toNat + m1.toNat + 1 ≤ 1024) && decide (dt ≠ 7)
  | .mcbl h _ => hdrOk h true false
  | .rank h vd _ _ _ _ _ => hdrOk h false false && decide (vd.toNat ≤ 30)
  | .rkmerge h vd va vb _ _ => hdrOk h false false && decide (vd.toNat ≤ 30) && decide (va.toNat ≤ 30) && decide (vb.toNat ≤ 30)
  | .rkatl h _ => hdrOk h true false
  | .rkpass h _ m1 row0 => hdrOk h true false && decide (row0.toNat + m1.toNat + 1 ≤ 1024)
  | .rkrecon h _ _ _ _ _ => hdrOk h false false
  | .cpy h _ _ _ => hdrOk h true false
  | .cpym h _ _ _ => hdrOk h true false
  | .cpy2d h _ _ _ => hdrOk h true false
  | .cpyfill h _ _ => hdrOk h true false
  | .cpyz h _ _ _ => hdrOk h true false
  | .riread h _ _ => hdrOk h true false
  | .rifilt h _ _ => hdrOk h true false
  | .rimatv h _ _ => hdrOk h true false
  | .riupd h _ _ => hdrOk h true false
  | .rired h _ _ => hdrOk h true false
  | .ricxg h _ _ => hdrOk h true false
  | .riwrite h _ _ => hdrOk h true false
  | .rifill h _ _ => hdrOk h true false
  | .ripref h _ _ => hdrOk h true false

end Sys2Proof.Machine
end

