-- ==== Sys2Proof/WellFormed.lean ====
section
/-! DEFINITION. A well-formed instruction: its fields meet the rules R311 to R323, R381 and R270 lay down. -/

namespace Sys2Proof

/-- The instruction's own fields meet their rules (R326, less what needs its block). -/
abbrev WellFormed (i : Instr) : Prop := Machine.fieldRules i = true

end Sys2Proof
end

