-- ==== Sys2Proof/Decode.lean ====
section
/-! DEFINITION. The decoder of an instruction word (R311 to R326), and after it the encoder written from the same
tables. -/

namespace Sys2Proof

/-- Why a word is rejected (R326). Every one of these rejects its block with cause 0x03 when it is mapped. -/
inductive Reject where
  /-- OP 0x00, or a cell of R324 marked as reserved -/
  | reservedOpcode
  /-- an FN outside R325 -/
  | reservedFn
  /-- PM = 11 -/
  | reservedPm
  /-- a target with PORT = 11 -/
  | reservedPort
  /-- a bit that must be zero is set -/
  | nonzeroField
  /-- a field value the form's rules do not allow -/
  | fieldRule
  deriving DecidableEq, Repr

/-- A word cut into the common fields of R311, with OP split into its two digits. -/
structure Fields where
  hi : BitVec 4
  lo : BitVec 4
  fn : BitVec 4
  pm : BitVec 2
  u : Bool
  w : Bool
  t1 : BitVec 9
  t2 : BitVec 9
  cf : BitVec 30
  deriving DecidableEq, Repr

/-- The fields of a word (R311). -/
def fieldsOf (x : BitVec 64) : Fields :=
  { hi := x.extractLsb' 60 4, lo := x.extractLsb' 56 4, fn := x.extractLsb' 52 4, pm := x.extractLsb' 50 2,
    u := x.getLsbD 49, w := x.getLsbD 48, t1 := x.extractLsb' 39 9, t2 := x.extractLsb' 30 9, cf := x.extractLsb' 0 30 }

/-- One bit of the class fields. -/
abbrev Fields.bit (f : Fields) (i : Nat) : Bool := f.cf.getLsbD i

/-- A run of bits of the class fields. -/
abbrev Fields.bits (f : Fields) (lo n : Nat) : BitVec n := f.cf.extractLsb' lo n

/-- The class M fields (R320). -/
abbrev Fields.m (f : Fields) : MField :=
  { k := f.bits 26 4, sz := f.bits 23 3, oe := f.bit 22, scope := f.bits 20 2, off := f.bits 0 20 }

/-- The class V fields (R322): `ty` is TYX above TY. -/
abbrev Fields.v (f : Fields) : VField :=
  { vd := f.bits 25 5, va := f.bits 20 5, vb := f.bits 15 5, mg := f.bits 12 3, me := f.bit 11,
    ty := f.bits 4 1 ++ f.bits 8 3, rm := f.bits 6 2, sat := f.bit 5, spec := f.bits 0 4 }

/-- The two bits of PORT (R312). -/
def portOf (p : BitVec 2) : Except Reject Port :=
  match p.toNat with
  | 0 => .ok .left
  | 1 => .ok .right
  | 2 => .ok .pred
  | _ => .error .reservedPort

/-- The nine bits of a target (R312). -/
def targetOf (t : BitVec 9) : Except Reject Target :=
  match portOf (t.extractLsb' 0 2) with
  | .ok p => .ok { d := t.extractLsb' 2 7, port := p }
  | .error e => .error e

/-- The two bits of PM (R311). -/
def predModeOf (p : BitVec 2) : Except Reject PredMode :=
  match p.toNat with
  | 0 => .ok .always
  | 1 => .ok .onTrue
  | 2 => .ok .onFalse
  | _ => .error .reservedPm

/-- The common fields less OP and FN (R311). -/
def headerOf (f : Fields) : Except Reject Hdr :=
  match predModeOf f.pm with
  | .error e => .error e
  | .ok pm =>
    match targetOf f.t1 with
    | .error e => .error e
    | .ok t1 =>
      match targetOf f.t2 with
      | .error e => .error e
      | .ok t2 => .ok { pm := pm, u := f.u, w := f.w, t1 := t1, t2 := t2 }

/-- A form whose unnamed bits are as `p` says: its instruction, with the common fields put in. -/
def take (f : Fields) (p : Prop) [Decidable p] (k : Hdr → Instr) : Except Reject Instr :=
  if p then
    match headerOf f with
    | .ok h => .ok (k h)
    | .error e => .error e
  else .error .nonzeroField

/-- An opcode that R325 does not list requires FN = 0. -/
def noFn (f : Fields) (r : Except Reject Instr) : Except Reject Instr :=
  if f.fn = 0 then r else .error .reservedFn

/-- The row OP[7:4] = 0x0 of the opcode map (R324, R325). -/
def decodeRow0 (f : Fields) : Except Reject Instr :=
  match f.lo.toNat with
  | 0x1 => noFn f <| take f (f.cf.extractLsb' 8 22 = 0) (fun h => .rd h (f.bit 7) (f.bit 6) (f.bits 0 6))
  | 0x2 => noFn f <| take f (f.cf.extractLsb' 7 23 = 0) (fun h => .wr h (f.bit 6) (f.bits 0 6))
  | 0x3 => noFn f <| take f (f.cf = 0) (fun h => .mov h)
  | 0x4 => noFn f <| take f True (fun h => .movi h f.cf)
  | 0x5 => noFn f <| take f True (fun h => .movhi h f.cf)
  | 0x6 => noFn f <| take f (f.cf = 0) (fun h => .nul h)
  | 0x7 => noFn f <| take f (f.cf = 0) (fun h => .sel h)
  | 0x8 => noFn f <| take f (f.cf = 0) (fun h => .tagof h)
  | 0x9 => noFn f <| take f (f.cf = 0) (fun h => .lgen h)
  | 0xA => noFn f <| take f (f.cf = 0) (fun h => .lgen2 h)
  | 0xB => noFn f <| take f (f.cf = 0) (fun h => .teos h)
  | _ => .error .reservedOpcode

/-- The row OP[7:4] = 0x1 of the opcode map (R324, R325). -/
def decodeRow1 (f : Fields) : Except Reject Instr :=
  match f.lo.toNat with
  | 0x0 => noFn f <| take f (f.cf = 0) (fun h => .add h)
  | 0x1 => noFn f <| take f (f.cf = 0) (fun h => .sub h)
  | 0x2 => noFn f <| take f (f.cf = 0) (fun h => .mul h)
  | 0x3 => noFn f <| take f (f.cf = 0) (fun h => .mulh h)
  | 0x4 => noFn f <| take f (f.cf = 0) (fun h => .mulhu h)
  | 0x5 => noFn f <| take f (f.cf = 0) (fun h => .div h)
  | 0x6 => noFn f <| take f (f.cf = 0) (fun h => .divu h)
  | 0x7 => noFn f <| take f (f.cf = 0) (fun h => .rem h)
  | 0x8 => noFn f <| take f (f.cf = 0) (fun h => .remu h)
  | 0x9 => noFn f <| take f (f.cf = 0) (fun h => .and h)
  | 0xA => noFn f <| take f (f.cf = 0) (fun h => .or h)
  | 0xB => noFn f <| take f (f.cf = 0) (fun h => .xor h)
  | 0xC => noFn f <| take f (f.cf = 0) (fun h => .andn h)
  | 0xD => noFn f <| take f (f.cf = 0) (fun h => .shl h)
  | 0xE => noFn f <| take f (f.cf = 0) (fun h => .shr h)
  | 0xF => noFn f <| take f (f.cf = 0) (fun h => .sar h)
  | _ => .error .reservedOpcode

/-- The row OP[7:4] = 0x2 of the opcode map (R324, R325). -/
def decodeRow2 (f : Fields) : Except Reject Instr :=
  match f.lo.toNat with
  | 0x0 => noFn f <| take f (f.cf = 0) (fun h => .rol h)
  | 0x1 => noFn f <| take f (f.cf = 0) (fun h => .clz h)
  | 0x2 => noFn f <| take f (f.cf = 0) (fun h => .ctz h)
  | 0x3 => noFn f <| take f (f.cf = 0) (fun h => .popc h)
  | 0x4 => noFn f <| take f (f.cf = 0) (fun h => .min h)
  | 0x5 => noFn f <| take f (f.cf = 0) (fun h => .max h)
  | 0x6 => noFn f <| take f (f.cf = 0) (fun h => .minu h)
  | 0x7 => noFn f <| take f (f.cf = 0) (fun h => .maxu h)
  | 0x8 => noFn f <| take f (f.cf.extractLsb' 12 18 = 0) (fun h => .bfx h (f.bits 6 6) (f.bits 0 6))
  | 0x9 => noFn f <| take f (f.cf.extractLsb' 12 18 = 0) (fun h => .bfxu h (f.bits 6 6) (f.bits 0 6))
  | 0xA => noFn f <| take f (f.cf.extractLsb' 12 18 = 0) (fun h => .bfi h (f.bits 6 6) (f.bits 0 6))
  | 0xB => noFn f <| take f (f.cf.extractLsb' 2 28 = 0) (fun h => .shadd h (f.bits 0 2))
  | 0xC =>
    match f.fn.toNat with
    | 0 => take f True (fun h => .addi h f.cf)
    | 1 => take f True (fun h => .muli h f.cf)
    | _ => .error .reservedFn
  | 0xD =>
    match f.fn.toNat with
    | 0 => take f True (fun h => .andi h f.cf)
    | 1 => take f True (fun h => .ori h f.cf)
    | 2 => take f True (fun h => .xori h f.cf)
    | _ => .error .reservedFn
  | 0xE =>
    match f.fn.toNat with
    | 0 => take f True (fun h => .shli h f.cf)
    | 1 => take f True (fun h => .shri h f.cf)
    | 2 => take f True (fun h => .sari h f.cf)
    | _ => .error .reservedFn
  | _ => .error .reservedOpcode

/-- The row OP[7:4] = 0x3 of the opcode map (R324, R325). -/
def decodeRow3 (f : Fields) : Except Reject Instr :=
  match f.lo.toNat with
  | 0x0 => noFn f <| take f (f.cf = 0) (fun h => .teq h)
  | 0x1 => noFn f <| take f (f.cf = 0) (fun h => .tne h)
  | 0x2 => noFn f <| take f (f.cf = 0) (fun h => .tlt h)
  | 0x3 => noFn f <| take f (f.cf = 0) (fun h => .tle h)
  | 0x4 => noFn f <| take f (f.cf = 0) (fun h => .tltu h)
  | 0x5 => noFn f <| take f (f.cf = 0) (fun h => .tleu h)
  | 0x6 => noFn f <| take f True (fun h => .teqi h f.cf)
  | 0x7 => noFn f <| take f True (fun h => .tnei h f.cf)
  | 0x8 => noFn f <| take f True (fun h => .tlti h f.cf)
  | 0x9 => noFn f <| take f True (fun h => .tlei h f.cf)
  | 0xA => noFn f <| take f True (fun h => .tltui h f.cf)
  | 0xB => noFn f <| take f True (fun h => .tleui h f.cf)
  | 0xC => noFn f <| take f (f.cf = 0) (fun h => .pand h)
  | 0xD => noFn f <| take f (f.cf = 0) (fun h => .por h)
  | 0xE => noFn f <| take f (f.cf = 0) (fun h => .pnot h)
  | _ => .error .reservedOpcode

/-- The row OP[7:4] = 0x4 of the opcode map (R324, R325). -/
def decodeRow4 (f : Fields) : Except Reject Instr :=
  match f.lo.toNat with
  | 0x0 => noFn f <| take f (f.cf.extractLsb' 8 22 = 0 ∧ f.cf.extractLsb' 0 5 = 0) (fun h => .fadd h (f.bits 6 2) (f.bit 5))
  | 0x1 => noFn f <| take f (f.cf.extractLsb' 8 22 = 0 ∧ f.cf.extractLsb' 0 5 = 0) (fun h => .fsub h (f.bits 6 2) (f.bit 5))
  | 0x2 => noFn f <| take f (f.cf.extractLsb' 8 22 = 0 ∧ f.cf.extractLsb' 0 5 = 0) (fun h => .fmul h (f.bits 6 2) (f.bit 5))
  | 0x3 => noFn f <| take f (f.cf.extractLsb' 8 22 = 0 ∧ f.cf.extractLsb' 0 5 = 0) (fun h => .ffma h (f.bits 6 2) (f.bit 5))
  | 0x4 => noFn f <| take f (f.cf.extractLsb' 8 22 = 0 ∧ f.cf.extractLsb' 0 5 = 0) (fun h => .fdiv h (f.bits 6 2) (f.bit 5))
  | 0x5 => noFn f <| take f (f.cf = 0) (fun h => .fmin h)
  | 0x6 => noFn f <| take f (f.cf = 0) (fun h => .fmax h)
  | 0x7 =>
    if f.fn.toNat ≤ 9 then
      take f (f.cf.extractLsb' 8 22 = 0 ∧ f.cf.extractLsb' 0 5 = 0) (fun h => .fcvt h f.fn (f.bits 6 2) (f.bit 5))
    else .error .reservedFn
  | 0x8 => noFn f <| take f (f.cf = 0) (fun h => .fteq h)
  | 0x9 => noFn f <| take f (f.cf = 0) (fun h => .ftlt h)
  | 0xA => noFn f <| take f (f.cf = 0) (fun h => .ftle h)
  | _ => .error .reservedOpcode

/-- The row OP[7:4] = 0x5 of the opcode map (R324, R325). -/
def decodeRow5 (f : Fields) : Except Reject Instr :=
  match f.lo.toNat with
  | 0x0 => noFn f <| take f True (fun h => .br h f.cf)
  | 0x1 => noFn f <| take f (f.cf = 0) (fun h => .bri h)
  | 0x2 => noFn f <| take f True (fun h => .call h f.cf)
  | 0x3 => noFn f <| take f (f.cf = 0) (fun h => .calli h)
  | 0x4 => noFn f <| take f (f.cf = 0) (fun h => .ret h)
  | 0x5 => noFn f <| take f (f.cf = 0) (fun h => .halt h)
  | _ => .error .reservedOpcode

/-- The row OP[7:4] = 0x6 of the opcode map (R324, R325). -/
def decodeRow6 (f : Fields) : Except Reject Instr :=
  match f.lo.toNat with
  | 0x0 => noFn f <| take f True (fun h => .ldb h f.m)
  | 0x1 => noFn f <| take f True (fun h => .ldbu h f.m)
  | 0x2 => noFn f <| take f True (fun h => .ldh h f.m)
  | 0x3 => noFn f <| take f True (fun h => .ldhu h f.m)
  | 0x4 => noFn f <| take f True (fun h => .ldw h f.m)
  | 0x5 => noFn f <| take f True (fun h => .ldwu h f.m)
  | 0x6 => noFn f <| take f True (fun h => .ldd h f.m)
  | 0x7 => noFn f <| take f True (fun h => .ldk h f.m)
  | 0x8 => noFn f <| take f True (fun h => .stb h f.m)
  | 0x9 => noFn f <| take f True (fun h => .sth h f.m)
  | 0xA => noFn f <| take f True (fun h => .stw h f.m)
  | 0xB => noFn f <| take f True (fun h => .std h f.m)
  | 0xC => noFn f <| take f True (fun h => .stk h f.m)
  | _ => .error .reservedOpcode

/-- The ten atomics of opcodes 0x78 to 0x7B, named by FN (R325). -/
def decodeAtomic (f : Fields) (acq rel : Bool) : Except Reject Instr :=
  match f.fn.toNat with
  | 0 => take f True (fun h => .aadd h acq rel f.m)
  | 1 => take f True (fun h => .aand h acq rel f.m)
  | 2 => take f True (fun h => .aor h acq rel f.m)
  | 3 => take f True (fun h => .axor h acq rel f.m)
  | 4 => take f True (fun h => .amin h acq rel f.m)
  | 5 => take f True (fun h => .amax h acq rel f.m)
  | 6 => take f True (fun h => .aminu h acq rel f.m)
  | 7 => take f True (fun h => .amaxu h acq rel f.m)
  | 8 => take f True (fun h => .aswp h acq rel f.m)
  | 9 => take f True (fun h => .acas h acq rel f.m)
  | _ => .error .reservedFn

/-- The row OP[7:4] = 0x7 of the opcode map (R324, R325). -/
def decodeRow7 (f : Fields) : Except Reject Instr :=
  match f.lo.toNat with
  | 0x0 => noFn f <| take f True (fun h => .lde h f.m)
  | 0x1 => noFn f <| take f True (fun h => .stf h f.m)
  | 0x2 => noFn f <| take f True (fun h => .stfw h f.m)
  | 0x3 => noFn f <| take f True (fun h => .feq h f.m)
  | 0x4 => noFn f <| take f True (fun h => .feclr h f.m)
  | 0x5 => noFn f <| take f True (fun h => .feset h f.m)
  | 0x8 => decodeAtomic f false false
  | 0x9 => decodeAtomic f true false
  | 0xA => decodeAtomic f false true
  | 0xB => decodeAtomic f true true
  | _ => .error .reservedOpcode

/-- The row OP[7:4] = 0x8 of the opcode map (R324, R325). -/
def decodeRow8 (f : Fields) : Except Reject Instr :=
  match f.lo.toNat with
  | 0x0 => noFn f <| take f (f.cf = 0) (fun h => .kadv h)
  | 0x1 => noFn f <| take f (f.cf = 0) (fun h => .ktrim h)
  | 0x2 => noFn f <| take f (f.cf = 0) (fun h => .kmask h)
  | 0x3 => noFn f <| take f (f.cf = 0) (fun h => .kbase h)
  | 0x4 => noFn f <| take f (f.cf = 0) (fun h => .klen h)
  | 0x5 => noFn f <| take f (f.cf = 0) (fun h => .kattr h)
  | 0x6 => noFn f <| take f (f.cf = 0) (fun h => .klock h)
  | 0x7 => noFn f <| take f (f.cf = 0) (fun h => .kopen h)
  | 0x8 => noFn f <| take f (f.cf.extractLsb' 3 23 = 0) (fun h => .sparm h (f.bits 26 4) (f.bits 0 3))
  | 0x9 => noFn f <| take f (f.cf.extractLsb' 3 27 = 0) (fun h => .spdis h (f.bits 0 3))
  | 0xA => noFn f <| take f (f.cf.extractLsb' 3 27 = 0) (fun h => .sppos h (f.bits 0 3))
  | 0xB => noFn f <| take f (f.cf.extractLsb' 3 27 = 0) (fun h => .spskip h (f.bits 0 3))
  | _ => .error .reservedOpcode

/-- The row OP[7:4] = 0x9 of the opcode map (R324, R325). -/
def decodeRow9 (f : Fields) : Except Reject Instr :=
  match f.lo.toNat with
  | 0x0 => noFn f <| take f (f.cf.extractLsb' 8 22 = 0 ∧ f.cf.extractLsb' 3 1 = 0) (fun h => .fence h (f.bits 4 4) (f.bits 0 3))
  | 0x1 => noFn f <| take f (f.cf.extractLsb' 4 26 = 0) (fun h => .qfence h (f.bits 0 4))
  | 0x2 => noFn f <| take f (f.cf.extractLsb' 2 28 = 0) (fun h => .binit h (f.bits 0 2))
  | 0x3 => noFn f <| take f (f.cf.extractLsb' 2 28 = 0) (fun h => .barr h (f.bits 0 2))
  | 0x4 => noFn f <| take f (f.cf.extractLsb' 2 28 = 0) (fun h => .bwait h (f.bits 0 2))
  | 0x5 => noFn f <| take f (f.cf.extractLsb' 4 26 = 0) (fun h => .waitq h (f.bits 0 4))
  | 0x8 => noFn f <| take f (f.cf = 0) (fun h => .syscall h)
  | 0x9 => noFn f <| take f (f.cf = 0) (fun h => .brk h)
  | 0xA => noFn f <| take f (f.cf = 0) (fun h => .tret h)
  | 0xB => noFn f <| take f (f.cf.extractLsb' 12 18 = 0) (fun h => .csrr h (f.bits 0 12))
  | 0xC => noFn f <| take f (f.cf.extractLsb' 12 18 = 0) (fun h => .csrw h (f.bits 0 12))
  | 0xD =>
    match f.fn.toNat with
    | 0 => take f (f.cf = 0) (fun h => .tlbiVa h)
    | 1 => take f (f.cf = 0) (fun h => .tlbiCtx h)
    | 2 => take f (f.cf = 0) (fun h => .tlbiAsid h)
    | 3 => take f (f.cf = 0) (fun h => .tlbiAll h)
    | _ => .error .reservedFn
  | 0xE => noFn f <| take f (f.cf = 0) (fun h => .asidrt h)
  | 0xF => noFn f <| take f (f.cf = 0) (fun h => .wfe h)
  | _ => .error .reservedOpcode

/-- The row OP[7:4] = 0xA of the opcode map (R324, R325). -/
def decodeRowA (f : Fields) : Except Reject Instr :=
  match f.lo.toNat with
  | 0x0 => noFn f <| take f True (fun h => .vld h f.v)
  | 0x1 => noFn f <| take f True (fun h => .vst h f.v)
  | 0x2 => noFn f <| take f True (fun h => .vlds h f.v)
  | 0x3 => noFn f <| take f True (fun h => .vsts h f.v)
  | 0x4 => noFn f <| take f True (fun h => .vgth h f.v)
  | 0x5 => noFn f <| take f True (fun h => .vsct h f.v)
  | 0x6 => noFn f <| take f True (fun h => .vscta h f.v)
  | 0x7 => noFn f <| take f True (fun h => .vbcst h f.v)
  | 0x8 => noFn f <| take f True (fun h => .vadd h f.v)
  | 0x9 => noFn f <| take f True (fun h => .vsub h f.v)
  | 0xA => noFn f <| take f True (fun h => .vmul h f.v)
  | 0xB => noFn f <| take f True (fun h => .vfma h f.v)
  | 0xC => noFn f <| take f True (fun h => .vmin h f.v)
  | 0xD => noFn f <| take f True (fun h => .vmax h f.v)
  | 0xE => noFn f <| take f True (fun h => .vabs h f.v)
  | 0xF => noFn f <| take f True (fun h => .vneg h f.v)
  | _ => .error .reservedOpcode

/-- The row OP[7:4] = 0xB of the opcode map (R324, R325). -/
def decodeRowB (f : Fields) : Except Reject Instr :=
  match f.lo.toNat with
  | 0x0 => noFn f <| take f True (fun h => .vand h f.v)
  | 0x1 => noFn f <| take f True (fun h => .vor h f.v)
  | 0x2 => noFn f <| take f True (fun h => .vxor h f.v)
  | 0x3 => noFn f <| take f True (fun h => .vshl h f.v)
  | 0x4 => noFn f <| take f True (fun h => .vshr h f.v)
  | 0x5 => noFn f <| take f True (fun h => .vcvt h f.v)
  | 0x6 =>
    match f.fn.toNat with
    | 0 => take f True (fun h => .vexp2 h f.v)
    | 1 => take f True (fun h => .vrcp h f.v)
    | 2 => take f True (fun h => .vrsq h f.v)
    | _ => .error .reservedFn
  | 0x7 =>
    match f.fn.toNat with
    | 0 => take f True (fun h => .vredadd h f.v)
    | 1 => take f True (fun h => .vredmax h f.v)
    | 2 => take f True (fun h => .vredmin h f.v)
    | _ => .error .reservedFn
  | 0x8 => take f True (fun h => .vcmp h f.fn f.v)
  | 0x9 => noFn f <| take f True (fun h => .vsel h f.v)
  | 0xA => noFn f <| take f True (fun h => .vperm h f.v)
  | 0xB => noFn f <| take f True (fun h => .vcmpr h f.v)
  | 0xC => noFn f <| take f True (fun h => .viota h f.v)
  | 0xD =>
    match f.fn.toNat with
    | 0 => take f True (fun h => .mand h f.v)
    | 1 => take f True (fun h => .mor h f.v)
    | 2 => take f True (fun h => .mnot h f.v)
    | _ => .error .reservedFn
  | 0xE => noFn f <| take f True (fun h => .mpopc h f.v)
  | 0xF => noFn f <| take f True (fun h => .vins h f.v)
  | _ => .error .reservedOpcode

/-- The row OP[7:4] = 0xC of the opcode map (R324, R325). -/
def decodeRowC (f : Fields) : Except Reject Instr :=
  match f.lo.toNat with
  | 0x0 => noFn f <| take f (f.cf.extractLsb' 5 21 = 0) (fun h => .mlws h (f.bits 26 4) (f.bits 0 5))
  | 0x1 => noFn f <| take f (f.cf = 0) (fun h => .mswap h)
  | 0x2 => noFn f <| take f (f.cf.extractLsb' 0 6 = 0) (fun h => .mpass h (f.bits 26 4) (f.bits 16 10) (f.bits 6 10))
  | 0x3 => noFn f <| take f (f.cf.extractLsb' 0 6 = 0) (fun h => .mpasss h (f.bits 26 4) (f.bits 16 10) (f.bits 6 10))
  | 0x4 => noFn f <| take f (f.cf.extractLsb' 26 4 = 0 ∧ f.cf.extractLsb' 0 6 = 0) (fun h => .mzero h (f.bits 16 10) (f.bits 6 10))
  | 0x5 => noFn f <| take f True (fun h => .mrd h (f.bits 26 4) (f.bits 16 10) (f.bits 6 10) (f.bits 3 3) (f.bits 1 2) (f.bit 0))
  | 0x6 => noFn f <| take f (f.cf.extractLsb' 0 26 = 0) (fun h => .mcbl h (f.bits 26 4))
  | 0x8 => noFn f <| take f (f.cf.extractLsb' 15 5 = 0 ∧ f.cf.extractLsb' 4 7 = 0) (fun h => .rank h (f.bits 25 5) (f.bits 20 5) (f.bits 12 3) (f.bit 11) (f.bit 3) (f.bits 0 3))
  | 0x9 => noFn f <| take f (f.cf.extractLsb' 4 11 = 0) (fun h => .rkmerge h (f.bits 25 5) (f.bits 20 5) (f.bits 15 5) (f.bit 3) (f.bits 0 3))
  | 0xA => noFn f <| take f (f.cf.extractLsb' 0 26 = 0) (fun h => .rkatl h (f.bits 26 4))
  | 0xB => noFn f <| take f (f.cf.extractLsb' 0 6 = 0) (fun h => .rkpass h (f.bits 26 4) (f.bits 16 10) (f.bits 6 10))
  | 0xC => noFn f <| take f (f.cf.extractLsb' 0 11 = 0) (fun h => .rkrecon h (f.bits 25 5) (f.bits 20 5) (f.bits 15 5) (f.bits 12 3) (f.bit 11))
  | _ => .error .reservedOpcode

/-- The row OP[7:4] = 0xD of the opcode map (R324, R325). -/
def decodeRowD (f : Fields) : Except Reject Instr :=
  match f.lo.toNat with
  | 0x0 => noFn f <| take f (f.cf.extractLsb' 0 18 = 0) (fun h => .cpy h (f.bits 26 4) (f.bits 22 4) (f.bits 18 4))
  | 0x1 => noFn f <| take f (f.cf.extractLsb' 0 18 = 0) (fun h => .cpym h (f.bits 26 4) (f.bits 22 4) (f.bits 18 4))
  | 0x2 => noFn f <| take f (f.cf.extractLsb' 0 18 = 0) (fun h => .cpy2d h (f.bits 26 4) (f.bits 22 4) (f.bits 18 4))
  | 0x3 => noFn f <| take f (f.cf.extractLsb' 22 4 = 0 ∧ f.cf.extractLsb' 0 18 = 0) (fun h => .cpyfill h (f.bits 26 4) (f.bits 18 4))
  | 0x4 => noFn f <| take f (f.cf.extractLsb' 0 18 = 0) (fun h => .cpyz h (f.bits 26 4) (f.bits 22 4) (f.bits 18 4))
  | 0x8 => noFn f <| take f (f.cf.extractLsb' 0 22 = 0) (fun h => .riread h (f.bits 26 4) (f.bits 22 4))
  | 0x9 => noFn f <| take f (f.cf.extractLsb' 0 22 = 0) (fun h => .rifilt h (f.bits 26 4) (f.bits 22 4))
  | 0xA => noFn f <| take f (f.cf.extractLsb' 0 22 = 0) (fun h => .rimatv h (f.bits 26 4) (f.bits 22 4))
  | 0xB => noFn f <| take f (f.cf.extractLsb' 0 22 = 0) (fun h => .riupd h (f.bits 26 4) (f.bits 22 4))
  | 0xC => noFn f <| take f (f.cf.extractLsb' 0 22 = 0) (fun h => .rired h (f.bits 26 4) (f.bits 22 4))
  | 0xD => noFn f <| take f (f.cf.extractLsb' 0 22 = 0) (fun h => .ricxg h (f.bits 26 4) (f.bits 22 4))
  | 0xE => noFn f <| take f (f.cf.extractLsb' 0 22 = 0) (fun h => .riwrite h (f.bits 26 4) (f.bits 22 4))
  | 0xF => noFn f <| take f (f.cf.extractLsb' 0 22 = 0) (fun h => .rifill h (f.bits 26 4) (f.bits 22 4))
  | _ => .error .reservedOpcode

/-- The row OP[7:4] = 0xE of the opcode map (R324, R325). -/
def decodeRowE (f : Fields) : Except Reject Instr :=
  match f.lo.toNat with
  | 0x0 => noFn f <| take f (f.cf.extractLsb' 0 22 = 0) (fun h => .ripref h (f.bits 26 4) (f.bits 22 4))
  | _ => .error .reservedOpcode

/-- The opcode map of R324, before the field rules. -/
def decodeFields (f : Fields) : Except Reject Instr :=
  match f.hi.toNat with
  | 0x0 => decodeRow0 f
  | 0x1 => decodeRow1 f
  | 0x2 => decodeRow2 f
  | 0x3 => decodeRow3 f
  | 0x4 => decodeRow4 f
  | 0x5 => decodeRow5 f
  | 0x6 => decodeRow6 f
  | 0x7 => decodeRow7 f
  | 0x8 => decodeRow8 f
  | 0x9 => decodeRow9 f
  | 0xA => decodeRowA f
  | 0xB => decodeRowB f
  | 0xC => decodeRowC f
  | 0xD => decodeRowD f
  | 0xE => decodeRowE f
  | _ => .error .reservedOpcode

/-- The instruction a word is, or why it is rejected (R326). The rules that need the whole block are
checked when the block is mapped. -/
def decode (x : BitVec 64) : Except Reject Instr :=
  match decodeFields (fieldsOf x) with
  | .error e => .error e
  | .ok i => if Machine.fieldRules i then .ok i else .error .fieldRule

/-- Eight bytes, lowest address first, as one little-endian word (R311, R159). -/
def wordOfBytes : List Byte → Nat
  | [] => 0
  | b :: bs => b.toNat + 256 * wordOfBytes bs

/-- The bytes of a word, lowest address first (R159). -/
def bytesOfNat : Nat → Nat → List Byte
  | 0, _ => []
  | n + 1, x => BitVec.ofNat 8 x :: bytesOfNat n (x / 256)

/-- The decoder on the bytes of a block: the instruction of the first eight and the rest, or none where fewer are
left or the word is rejected. -/
def decodeBytes (bs : List Byte) : Option (Instr × List Byte) :=
  if (bs.take 8).length = 8 then
    match decode (BitVec.ofNat 64 (wordOfBytes (bs.take 8))) with
    | .ok i => some (i, bs.drop 8)
    | .error _ => none
  else none

/-- The instruction whose `nbits` low bits are those of `w`, read from the bytes the device stores it in (every bit
above `nbits` is zero). -/
def decodeTableWord (nbits w : Nat) : Option Instr :=
  (decodeBytes (bytesOfNat 8 (w % 2 ^ nbits))).map (·.1)

/-! The encoder. -/

/-- PORT (R312). -/
def portCode (p : Port) : BitVec 2 :=
  match p with
  | .left => 0
  | .right => 1
  | .pred => 2

/-- A target's nine bits (R312). -/
def targetCode (t : Target) : BitVec 9 := t.d ++ portCode t.port

/-- PM (R311). -/
def predModeCode (p : PredMode) : BitVec 2 :=
  match p with
  | .always => 0
  | .onTrue => 1
  | .onFalse => 2

/-- A word from its opcode, FN, common fields and class fields (R311). -/
def pack (op : BitVec 8) (fn : BitVec 4) (h : Hdr) (cf : BitVec 30) : BitVec 64 :=
  (op ++ fn ++ predModeCode h.pm ++ BitVec.ofBool h.u ++ BitVec.ofBool h.w ++ targetCode h.t1 ++ targetCode h.t2 ++ cf).cast
    (by decide)

/-- The opcode of an atomic carries its ordering bits (R325). -/
def atomicOp (acq rel : Bool) : BitVec 8 := (0x1E#6 ++ BitVec.ofBool rel ++ BitVec.ofBool acq).cast (by decide)

/-- RD and WR (R323). -/
def cfRd (keep kr : Bool) (n : BitVec 6) : BitVec 30 := 0#22 ++ BitVec.ofBool keep ++ BitVec.ofBool kr ++ n

/-- BFX, BFXU and BFI (R323). -/
def cfBits (lsb len1 : BitVec 6) : BitVec 30 := 0#18 ++ lsb ++ len1

/-- FADD to FDIV and FCVT (R323). -/
def cfFloat (rm : BitVec 2) (sat : Bool) : BitVec 30 := 0#22 ++ rm ++ BitVec.ofBool sat ++ 0#5

/-- Class M (R320). -/
def cfM (m : MField) : BitVec 30 := m.k ++ m.sz ++ BitVec.ofBool m.oe ++ m.scope ++ m.off

/-- SPARM (R323). -/
def cfSparm (k : BitVec 4) (p : BitVec 3) : BitVec 30 := k ++ 0#23 ++ p

/-- FENCE (R323). -/
def cfFence (kinds : BitVec 4) (scope : BitVec 3) : BitVec 30 := 0#22 ++ kinds ++ 0#1 ++ scope

/-- Class V (R322). -/
def cfV (v : VField) : BitVec 30 :=
  v.vd ++ v.va ++ v.vb ++ v.mg ++ BitVec.ofBool v.me ++ v.ty.extractLsb' 0 3 ++ v.rm ++ BitVec.ofBool v.sat ++
    v.ty.extractLsb' 3 1 ++ v.spec

/-- Class X: K above the command's own bits (R321). -/
def cfX (k : BitVec 4) (low : BitVec 26) : BitVec 30 := k ++ low

/-- MPASS, MPASSS, RKPASS, MZERO and MRD (R321). -/
def cfPass (k : BitVec 4) (m1 row0 : BitVec 10) (low : BitVec 6) : BitVec 30 := k ++ m1 ++ row0 ++ low

/-- MRD's own six bits (R321). -/
def cfMrd (dt : BitVec 3) (rm : BitVec 2) (sat : Bool) : BitVec 6 := dt ++ rm ++ BitVec.ofBool sat

/-- The rank-coded vector forms (R270). -/
def cfRank (vd va vb : BitVec 5) (mg : BitVec 3) (me kt : Bool) (mc : BitVec 3) : BitVec 30 :=
  vd ++ va ++ vb ++ mg ++ BitVec.ofBool me ++ 0#7 ++ BitVec.ofBool kt ++ mc

/-- Copies and riders (R321). -/
def cfCopy (k a b : BitVec 4) : BitVec 30 := k ++ a ++ b ++ 0#18

/-- The word of an instruction, by the opcode map (R324, R325); a device step has no word and gives zero. -/
def encode : Instr → BitVec 64
  | .coldReset
  | .hotReset
  | .functionLevelReset _
  | .watchdogReset
  | .bootRomCheck
  | .puppeteerStart
  | .tileSelfTest _
  | .bringupRunning
  | .sensorReport _ _ _
  | .thermalForecast
  | .flitReplay _
  | .volongPortDown _
  | .leagueRequestServe _
  | .leagueResponse _ _ _
  | .leagueTimeout _
  | .lgctlWrite _
  | .tencfgWrite _ _
  | .tenptWrite _ _
  | .fwactGo _
  | .fwactDupgoClear
  | .fwImageLoaded
  | .fwActivated
  | .attcmdGo
  | .attestReportDone
  | .vlogctlHeadWrite _ _
  | .tnstatClear _ _
  | .vlstatDownevClear _
  | .rellastValidClear
  | .slewtabWrite _ _
  | .registerWrite _ _ _ _
  | .doorbellKick _ _ _
  | .doorbellCreate _ _ _
  | .doorbellDestroy _ _
  | .doorbellReserved _ _
  | .eventArm _ _ _
  | .eventArrival _ _
  | .puppeteerTimerTick
  | .schedulingDecision
  | .packetLaunch _
  | .packetCopy _
  | .packetHint _
  | .packetSignal _
  | .packetWait _
  | .packetQueueFence _
  | .packetMalformed _
  | .packetComplete _ _ _
  | .map _ _ _
  | .unmap _ _
  | .switch _ _
  | .regionStart _ _
  | .contextImageLoad _
  | .localDone _
  | .regionConverge _ _
  | .saveImageComplete _
  | .saveBankFree _
  | .contextResume _ _ _
  | .grantStep _
  | .barrierRelease _ _ _
  | .blockFetch _
  | .blockMap _
  | .blockCacheRefetch _
  | .tokenArrival _ _
  | .toyboxReturn _ _ _
  | .tagEmit _
  | .tagComplete _ _
  | .tagRetire _
  | .blockCommit _
  | .quiescenceTrap _
  | .trapEntry _
  | .engineTrapTaken _
  | .faultRollback _ _
  | .loadReturn _
  | .stfwReservation _ _
  | .wfeTimeout _
  | .streamPrefetch _ _
  | .vectorCommandPerform _
  | .matrixCommandPerform _
  | .accumulatorRowLand _
  | .queueFenceRelease _ _
  | .copyStart _
  | .copyChunk _
  | .followOnEntry _
  | .copyComplete _
  | .riderLeaveQueue _
  | .legArrival _ _
  | .benchLaneGrant _
  | .legBoard _ _
  | .sweepSlot
  | .legAlight _ _
  | .riderComplete _
  | .pageRequest _ _
  | .fillStart _ _
  | .fillSourceReady _
  | .fillComplete _
  | .fillFail _ _
  | .pageEvict _
  | .volongPortUp _
  | .configurationRequest _ _
  | .registerRead _ _ _
  | .scaleOutReceive _ _ _ => 0
  | .rd h keep kr n => pack 0x01 0 h (cfRd keep kr n)
  | .wr h kr n => pack 0x02 0 h (cfRd false kr n)
  | .mov h => pack 0x03 0 h 0
  | .movi h imm => pack 0x04 0 h imm
  | .movhi h imm => pack 0x05 0 h imm
  | .nul h => pack 0x06 0 h 0
  | .sel h => pack 0x07 0 h 0
  | .tagof h => pack 0x08 0 h 0
  | .lgen h => pack 0x09 0 h 0
  | .lgen2 h => pack 0x0A 0 h 0
  | .teos h => pack 0x0B 0 h 0
  | .add h => pack 0x10 0 h 0
  | .sub h => pack 0x11 0 h 0
  | .mul h => pack 0x12 0 h 0
  | .mulh h => pack 0x13 0 h 0
  | .mulhu h => pack 0x14 0 h 0
  | .div h => pack 0x15 0 h 0
  | .divu h => pack 0x16 0 h 0
  | .rem h => pack 0x17 0 h 0
  | .remu h => pack 0x18 0 h 0
  | .and h => pack 0x19 0 h 0
  | .or h => pack 0x1A 0 h 0
  | .xor h => pack 0x1B 0 h 0
  | .andn h => pack 0x1C 0 h 0
  | .shl h => pack 0x1D 0 h 0
  | .shr h => pack 0x1E 0 h 0
  | .sar h => pack 0x1F 0 h 0
  | .rol h => pack 0x20 0 h 0
  | .clz h => pack 0x21 0 h 0
  | .ctz h => pack 0x22 0 h 0
  | .popc h => pack 0x23 0 h 0
  | .min h => pack 0x24 0 h 0
  | .max h => pack 0x25 0 h 0
  | .minu h => pack 0x26 0 h 0
  | .maxu h => pack 0x27 0 h 0
  | .bfx h lsb len1 => pack 0x28 0 h (cfBits lsb len1)
  | .bfxu h lsb len1 => pack 0x29 0 h (cfBits lsb len1)
  | .bfi h lsb len1 => pack 0x2A 0 h (cfBits lsb len1)
  | .shadd h s1 => pack 0x2B 0 h (s1.setWidth 30)
  | .addi h imm => pack 0x2C 0 h imm
  | .muli h imm => pack 0x2C 1 h imm
  | .andi h imm => pack 0x2D 0 h imm
  | .ori h imm => pack 0x2D 1 h imm
  | .xori h imm => pack 0x2D 2 h imm
  | .shli h imm => pack 0x2E 0 h imm
  | .shri h imm => pack 0x2E 1 h imm
  | .sari h imm => pack 0x2E 2 h imm
  | .teq h => pack 0x30 0 h 0
  | .tne h => pack 0x31 0 h 0
  | .tlt h => pack 0x32 0 h 0
  | .tle h => pack 0x33 0 h 0
  | .tltu h => pack 0x34 0 h 0
  | .tleu h => pack 0x35 0 h 0
  | .teqi h imm => pack 0x36 0 h imm
  | .tnei h imm => pack 0x37 0 h imm
  | .tlti h imm => pack 0x38 0 h imm
  | .tlei h imm => pack 0x39 0 h imm
  | .tltui h imm => pack 0x3A 0 h imm
  | .tleui h imm => pack 0x3B 0 h imm
  | .pand h => pack 0x3C 0 h 0
  | .por h => pack 0x3D 0 h 0
  | .pnot h => pack 0x3E 0 h 0
  | .fadd h rm sat => pack 0x40 0 h (cfFloat rm sat)
  | .fsub h rm sat => pack 0x41 0 h (cfFloat rm sat)
  | .fmul h rm sat => pack 0x42 0 h (cfFloat rm sat)
  | .ffma h rm sat => pack 0x43 0 h (cfFloat rm sat)
  | .fdiv h rm sat => pack 0x44 0 h (cfFloat rm sat)
  | .fmin h => pack 0x45 0 h 0
  | .fmax h => pack 0x46 0 h 0
  | .fcvt h fn rm sat => pack 0x47 fn h (cfFloat rm sat)
  | .fteq h => pack 0x48 0 h 0
  | .ftlt h => pack 0x49 0 h 0
  | .ftle h => pack 0x4A 0 h 0
  | .br h off => pack 0x50 0 h off
  | .bri h => pack 0x51 0 h 0
  | .call h off => pack 0x52 0 h off
  | .calli h => pack 0x53 0 h 0
  | .ret h => pack 0x54 0 h 0
  | .halt h => pack 0x55 0 h 0
  | .ldb h m => pack 0x60 0 h (cfM m)
  | .ldbu h m => pack 0x61 0 h (cfM m)
  | .ldh h m => pack 0x62 0 h (cfM m)
  | .ldhu h m => pack 0x63 0 h (cfM m)
  | .ldw h m => pack 0x64 0 h (cfM m)
  | .ldwu h m => pack 0x65 0 h (cfM m)
  | .ldd h m => pack 0x66 0 h (cfM m)
  | .ldk h m => pack 0x67 0 h (cfM m)
  | .stb h m => pack 0x68 0 h (cfM m)
  | .sth h m => pack 0x69 0 h (cfM m)
  | .stw h m => pack 0x6A 0 h (cfM m)
  | .std h m => pack 0x6B 0 h (cfM m)
  | .stk h m => pack 0x6C 0 h (cfM m)
  | .lde h m => pack 0x70 0 h (cfM m)
  | .stf h m => pack 0x71 0 h (cfM m)
  | .stfw h m => pack 0x72 0 h (cfM m)
  | .feq h m => pack 0x73 0 h (cfM m)
  | .feclr h m => pack 0x74 0 h (cfM m)
  | .feset h m => pack 0x75 0 h (cfM m)
  | .aadd h acq rel m => pack (atomicOp acq rel) 0 h (cfM m)
  | .aand h acq rel m => pack (atomicOp acq rel) 1 h (cfM m)
  | .aor h acq rel m => pack (atomicOp acq rel) 2 h (cfM m)
  | .axor h acq rel m => pack (atomicOp acq rel) 3 h (cfM m)
  | .amin h acq rel m => pack (atomicOp acq rel) 4 h (cfM m)
  | .amax h acq rel m => pack (atomicOp acq rel) 5 h (cfM m)
  | .aminu h acq rel m => pack (atomicOp acq rel) 6 h (cfM m)
  | .amaxu h acq rel m => pack (atomicOp acq rel) 7 h (cfM m)
  | .aswp h acq rel m => pack (atomicOp acq rel) 8 h (cfM m)
  | .acas h acq rel m => pack (atomicOp acq rel) 9 h (cfM m)
  | .kadv h => pack 0x80 0 h 0
  | .ktrim h => pack 0x81 0 h 0
  | .kmask h => pack 0x82 0 h 0
  | .kbase h => pack 0x83 0 h 0
  | .klen h => pack 0x84 0 h 0
  | .kattr h => pack 0x85 0 h 0
  | .klock h => pack 0x86 0 h 0
  | .kopen h => pack 0x87 0 h 0
  | .sparm h k p => pack 0x88 0 h (cfSparm k p)
  | .spdis h p => pack 0x89 0 h (p.setWidth 30)
  | .sppos h p => pack 0x8A 0 h (p.setWidth 30)
  | .spskip h p => pack 0x8B 0 h (p.setWidth 30)
  | .fence h kinds scope => pack 0x90 0 h (cfFence kinds scope)
  | .qfence h q => pack 0x91 0 h (q.setWidth 30)
  | .binit h b => pack 0x92 0 h (b.setWidth 30)
  | .barr h b => pack 0x93 0 h (b.setWidth 30)
  | .bwait h b => pack 0x94 0 h (b.setWidth 30)
  | .waitq h q => pack 0x95 0 h (q.setWidth 30)
  | .syscall h => pack 0x98 0 h 0
  | .brk h => pack 0x99 0 h 0
  | .tret h => pack 0x9A 0 h 0
  | .csrr h n => pack 0x9B 0 h (n.setWidth 30)
  | .csrw h n => pack 0x9C 0 h (n.setWidth 30)
  | .tlbiVa h => pack 0x9D 0 h 0
  | .tlbiCtx h => pack 0x9D 1 h 0
  | .tlbiAsid h => pack 0x9D 2 h 0
  | .tlbiAll h => pack 0x9D 3 h 0
  | .asidrt h => pack 0x9E 0 h 0
  | .wfe h => pack 0x9F 0 h 0
  | .vld h v => pack 0xA0 0 h (cfV v)
  | .vst h v => pack 0xA1 0 h (cfV v)
  | .vlds h v => pack 0xA2 0 h (cfV v)
  | .vsts h v => pack 0xA3 0 h (cfV v)
  | .vgth h v => pack 0xA4 0 h (cfV v)
  | .vsct h v => pack 0xA5 0 h (cfV v)
  | .vscta h v => pack 0xA6 0 h (cfV v)
  | .vbcst h v => pack 0xA7 0 h (cfV v)
  | .vadd h v => pack 0xA8 0 h (cfV v)
  | .vsub h v => pack 0xA9 0 h (cfV v)
  | .vmul h v => pack 0xAA 0 h (cfV v)
  | .vfma h v => pack 0xAB 0 h (cfV v)
  | .vmin h v => pack 0xAC 0 h (cfV v)
  | .vmax h v => pack 0xAD 0 h (cfV v)
  | .vabs h v => pack 0xAE 0 h (cfV v)
  | .vneg h v => pack 0xAF 0 h (cfV v)
  | .vand h v => pack 0xB0 0 h (cfV v)
  | .vor h v => pack 0xB1 0 h (cfV v)
  | .vxor h v => pack 0xB2 0 h (cfV v)
  | .vshl h v => pack 0xB3 0 h (cfV v)
  | .vshr h v => pack 0xB4 0 h (cfV v)
  | .vcvt h v => pack 0xB5 0 h (cfV v)
  | .vexp2 h v => pack 0xB6 0 h (cfV v)
  | .vrcp h v => pack 0xB6 1 h (cfV v)
  | .vrsq h v => pack 0xB6 2 h (cfV v)
  | .vredadd h v => pack 0xB7 0 h (cfV v)
  | .vredmax h v => pack 0xB7 1 h (cfV v)
  | .vredmin h v => pack 0xB7 2 h (cfV v)
  | .vcmp h cond v => pack 0xB8 cond h (cfV v)
  | .vsel h v => pack 0xB9 0 h (cfV v)
  | .vperm h v => pack 0xBA 0 h (cfV v)
  | .vcmpr h v => pack 0xBB 0 h (cfV v)
  | .viota h v => pack 0xBC 0 h (cfV v)
  | .mand h v => pack 0xBD 0 h (cfV v)
  | .mor h v => pack 0xBD 1 h (cfV v)
  | .mnot h v => pack 0xBD 2 h (cfV v)
  | .mpopc h v => pack 0xBE 0 h (cfV v)
  | .vins h v => pack 0xBF 0 h (cfV v)
  | .mlws h k fmt => pack 0xC0 0 h (cfX k (fmt.setWidth 26))
  | .mswap h => pack 0xC1 0 h 0
  | .mpass h k m1 row0 => pack 0xC2 0 h (cfPass k m1 row0 0)
  | .mpasss h k m1 row0 => pack 0xC3 0 h (cfPass k m1 row0 0)
  | .mzero h m1 row0 => pack 0xC4 0 h (cfPass 0 m1 row0 0)
  | .mrd h k m1 row0 dt rm sat => pack 0xC5 0 h (cfPass k m1 row0 (cfMrd dt rm sat))
  | .mcbl h k => pack 0xC6 0 h (cfX k 0)
  | .rank h vd va mg me kt mc => pack 0xC8 0 h (cfRank vd va 0 mg me kt mc)
  | .rkmerge h vd va vb kt mc => pack 0xC9 0 h (cfRank vd va vb 0 false kt mc)
  | .rkatl h k => pack 0xCA 0 h (cfX k 0)
  | .rkpass h k m1 row0 => pack 0xCB 0 h (cfPass k m1 row0 0)
  | .rkrecon h vd va vb mg me => pack 0xCC 0 h (cfRank vd va vb mg me false 0)
  | .cpy h rec src dst => pack 0xD0 0 h (cfCopy rec src dst)
  | .cpym h rec src dst => pack 0xD1 0 h (cfCopy rec src dst)
  | .cpy2d h rec src dst => pack 0xD2 0 h (cfCopy rec src dst)
  | .cpyfill h rec dst => pack 0xD3 0 h (cfCopy rec 0 dst)
  | .cpyz h rec src dst => pack 0xD4 0 h (cfCopy rec src dst)
  | .riread h region rec => pack 0xD8 0 h (cfCopy region rec 0)
  | .rifilt h region rec => pack 0xD9 0 h (cfCopy region rec 0)
  | .rimatv h region rec => pack 0xDA 0 h (cfCopy region rec 0)
  | .riupd h region rec => pack 0xDB 0 h (cfCopy region rec 0)
  | .rired h region rec => pack 0xDC 0 h (cfCopy region rec 0)
  | .ricxg h region rec => pack 0xDD 0 h (cfCopy region rec 0)
  | .riwrite h region rec => pack 0xDE 0 h (cfCopy region rec 0)
  | .rifill h region rec => pack 0xDF 0 h (cfCopy region rec 0)
  | .ripref h region rec => pack 0xE0 0 h (cfCopy region rec 0)

end Sys2Proof
end

