-- ==== Sys2Proof/Config.lean ====
section
/-! DEFINITION. What is fixed for one module and what the spec leaves free. A constant declared without a body has no
value that a proof could use: a statement about it holds whatever it is (log 2, 7, 8, 9, 13). -/

namespace Sys2Proof

/-- A free natural number, drawn afresh for every value of the counter that State holds (log 2). -/
opaque Config.freeNat : Nat → Nat

/-- A free word, drawn afresh for every value of the counter that State holds (log 2). -/
opaque Config.freeWord : Nat → Word

/-- The slot at which each ring's cursor starts (R164: independent starting points; log 7). -/
opaque Config.ringStart : Nat → Nat

/-- How many fabric cycles each tile's counter lags behind the module's time (R310: not synchronised; log 10). -/
opaque Config.cycleLag : Nat → Nat

/-- The flash image of the module (R49; log 8). -/
opaque Config.flashImage : List Byte

/-- The key digest fused at manufacture (R47; log 8). -/
opaque Config.fusedKeyDigest : BitVec 384

/-- The fused minimum security version (R47; log 8). -/
opaque Config.fusedMinSvn : Nat

/-- The device identity key, which never leaves the device (R51; log 8). -/
opaque Config.identityKey : Nat

/-- Selolmano's PCI vendor ID (R37: not given; log 8). -/
opaque Config.vendorId : BitVec 16

/-- The certificate chain of the identity key (R51; log 8). -/
opaque Config.certificates : List Byte

/-- The handler address that the firmware sets for a tenant (R298; log 13). -/
opaque Config.handler : Nat → Word

/-- The 64 KiB frame, modulo 2^22, at which the save pool begins (R183; log 13). -/
opaque Config.savePoolFrame : Nat

/-- One less than the number of images the save pool holds, modulo 2^15 (R183; log 13). -/
opaque Config.savePoolSize : Nat

/-- The 16 bits that show a barrier's phase and arrivals in a save image, for which R82 gives no layout (log 25). -/
opaque Config.barrierBits : Nat → Nat → BitVec 16

/-- The 64 bytes of a save set's header, for which R81 gives no layout (log 25). -/
opaque Config.saveSetHeader : Nat → List Byte

/-- The bytes of a save image that R82 names without giving their layout, by image and offset (log 25). -/
opaque Config.savedOpen : Nat → Nat → BitVec 8

/-- The source number of a Volong port's link event (R46: not given; log 81). -/
opaque Config.linkSource : Nat → Nat

/-- The source number of a thermal event (R46: not given; log 81). -/
opaque Config.thermalSource : Nat

/-- The source number of a function's violation events (R46: not given; log 81). -/
opaque Config.violationSource : Nat → Nat

end Sys2Proof
end

