-- ==== Sys2Proof/Machine/Sparse.lean ====
section
/-! DEFINITION. Sparse tables: lists of (key, value) pairs with keys strictly rising and no entry equal to what an
unlisted key reads as, so that equal tables are equal lists. Byte memories are tables of `Host.Cell`. -/

namespace Sys2Proof.Machine

/-- A sparse table: keys strictly rising, no default entry. -/
abbrev Table (α : Type) := List (Nat × α)

/-- The entry of a key, `d` for an unlisted one. -/
def tget {α : Type} (d : α) : Table α → Nat → α
  | [], _ => d
  | (k, x) :: t, i => if k = i then x else if i < k then d else tget d t i

/-- Write an entry, whatever its value, keeping the keys in order. -/
def tput {α : Type} : Table α → Nat → α → Table α
  | [], i, v => [(i, v)]
  | (k, x) :: t, i, v =>
    if k = i then (i, v) :: t
    else if i < k then (i, v) :: (k, x) :: t
    else (k, x) :: tput t i v

/-- Take an entry out. -/
def terase {α : Type} : Table α → Nat → Table α
  | [], _ => []
  | (k, x) :: t, i => if k = i then t else if i < k then (k, x) :: t else (k, x) :: terase t i

/-- Write an entry: writing what an unlisted key reads as takes the entry out. -/
def tset {α : Type} [DecidableEq α] (d : α) (t : Table α) (i : Nat) (v : α) : Table α :=
  if v = d then terase t i else tput t i v

/-- Take out every entry whose key lies in [lo, hi). -/
def tclear {α : Type} (t : Table α) (lo hi : Nat) : Table α :=
  t.filter (fun p => !(decide (lo ≤ p.1) && decide (p.1 < hi)))

/-- The entries whose keys lie in [lo, hi), with keys counted from `lo`. -/
def tslice {α : Type} (t : Table α) (lo hi : Nat) : Table α :=
  (t.filter (fun p => decide (lo ≤ p.1) && decide (p.1 < hi))).map (fun p => (p.1 - lo, p.2))

/-- The keys rise strictly and every key is above `lo` where one is given. -/
def tsorted {α : Type} : Option Nat → Table α → Bool
  | _, [] => true
  | lo, (k, _) :: t => (match lo with | none => true | some l => decide (l < k)) && tsorted (some k) t

/-- The canonical form of a table. -/
def twf {α : Type} [DecidableEq α] (d : α) (t : Table α) : Bool :=
  tsorted none t && t.all (fun p => decide (p.2 ≠ d))

/-- Byte memory; a byte that nothing has written reads as zero (log 5). -/
abbrev Memory := List Host.Cell

/-- The canonical form of a byte memory. -/
def Memory.wf (m : Memory) : Bool := twf (0 : BitVec 8) m

/-- One byte. -/
def mget (m : Memory) (a : Nat) : Byte := tget 0 m a

/-- Write one byte. -/
def mset (m : Memory) (a : Nat) (b : Byte) : Memory := tset 0 m a b

/-- `n` bytes from `a`, lowest first. -/
def mbytes (m : Memory) (a : Nat) : Nat → List Byte
  | 0 => []
  | n + 1 => mget m a :: mbytes m (a + 1) n

/-- The little-endian value of `n` bytes from `a` (R159). -/
def mread (m : Memory) (a : Nat) : Nat → Nat
  | 0 => 0
  | n + 1 => (mget m a).toNat + 256 * mread m (a + 1) n

/-- Write the low `n` bytes of a value, little-endian (R159). -/
def mwrite (m : Memory) (a : Nat) : Nat → Nat → Memory
  | 0, _ => m
  | n + 1, x => mwrite (mset m a (BitVec.ofNat 8 x)) (a + 1) n (x / 256)

/-- Write bytes in order from `a`. -/
def mwriteBytes (m : Memory) (a : Nat) : List Byte → Memory
  | [] => m
  | b :: bs => mwriteBytes (mset m a b) (a + 1) bs

end Sys2Proof.Machine
end

