-- ==== Sys2Proof/Machine/State.lean ====
section
/-! DEFINITION. The state of a UMS-9400 module: the tiles with their running contexts, the device's registers, queues,
launches, Chroiradal memory and rings, and the agenda that says which happening comes next. Plain data throughout. -/

namespace Sys2Proof.Machine

/-! ### Stops -/

/-- Why a step stops. No instruction or device step of the spec stops the machine: a trap is a next state (R299).
The constructor is raised by `step` alone, where the agenda asks for a fetch word to be fired that is no instruction;
the device would have rejected its block at mapping with cause 0x03, so stopping is safe. -/
inductive Fault where
  | rejectedWord
  deriving DecidableEq, Repr

/-- Why a step is refused. -/
inductive Refusal where
  /-- raised by `exec` for an instruction that has no meaning yet; safe: nothing is claimed of it -/
  | notModelled (mnemonic : String)
  deriving DecidableEq, Repr

/-! ### Tokens and the fabric (06, 07, 18) -/

/-- A capability register: 128 bits and the tag bit beside them (R137, R102). -/
structure CapReg where
  bits : CapBits
  tag : Bool
  deriving DecidableEq, Repr

/-- A token (R316). RES and ROUTE follow from the value and the receiving slot (R305). `anc` is the model's own: the
slots of the class M instructions from whose outputs a path of tokens leads to this token (R223). -/
structure Token where
  val : Word
  hi : Word
  cap : Bool
  ctag : Bool
  tag : Tag
  outer : Bool
  bw : Bool
  eos : Bool
  null : Bool
  col : BitVec 2
  anc : List Nat
  deriving DecidableEq, Repr

/-- Which firing of a slot is meant: a tag, or none for a block-wide one. A block without LOOP has tag 0 alone. -/
abbrev Key := Option Tag

/-- A token at or on its way to a port of a slot. `stored` says that it holds an entry of the matching store (R118). -/
structure Operand where
  slot : Nat
  port : Port
  tok : Token
  stored : Bool
  deriving DecidableEq, Repr

/-- A mapped block (R91, R98): its address, header fields and words. -/
structure Block where
  addr : Word
  words : List Word
  loop : Bool
  supervisor : Bool
  noPrefetch : Bool
  twh : Nat
  deriving DecidableEq, Repr

/-- How a slot has settled for a key: fired, nullified, or predicated off without being tracked (R99). -/
inductive How where
  | fired
  | nullified
  | off
  deriving DecidableEq, Repr

/-- One settled firing. -/
structure Settled where
  slot : Nat
  key : Key
  how : How
  deriving DecidableEq, Repr

/-- Where the exit that fired leads (R350, R353, R374). -/
inductive ExitTo where
  | block (target : Word) (link : Option Word)
  | halt
  | tret
  deriving DecidableEq, Repr

/-- The exit that fired. -/
structure ExitRec where
  slot : Nat
  key : Key
  dest : ExitTo
  deriving DecidableEq, Repr

/-- A trap record (R298). -/
structure TrapRec where
  cause : Nat
  blk : Word
  slot : Nat
  tag : Tag
  info0 : Word
  info1 : Word
  deriving DecidableEq, Repr

/-- A place an access reaches once it is checked and translated (R139, R152). -/
inductive Place where
  | scratch (tile off : Nat)
  | mailbox (tenant m : Nat)
  | mailboxHole
  | host (addr : Nat)
  | league (addr : Word)
  | control (off : Nat)
  deriving DecidableEq, Repr

/-- A command of an engine queue, or a fence entry of QFENCE (R206, R209, R246): everything its entry captured, the block
instance that issued it, the lines of the tile that its entry sets empty (R145, R248), the array cycle of its entry (R86),
and the last number given out before its entry, by which the stores before it in tile order are known (R226). -/
structure QEntry where
  instr : Option Instr
  fence : Nat
  set : BitVec 4
  blk : Word
  slot : Nat
  tag : Tag
  left : Word
  right : Word
  caps : List CapReg
  record : List Byte
  supervisor : Bool
  inst : Nat
  empties : List Nat
  cycle : Nat
  stamp : Nat
  deriving DecidableEq, Repr

/-- An effect held until commit, retirement or completion (R104, R123). -/
inductive Effect where
  | store (place : Place) (size : Nat) (data : BitVec 128) (cap : Bool) (ctag : Bool)
  | stf (place : Place) (size : Nat) (data : Word)
  | stfw (place : Place) (size : Nat) (data : Word)
  | feclr (place : Place)
  | feset (place : Place)
  | sparm (port : Nat) (record : BitVec 512) (cap : CapReg)
  | spdis (port : Nat)
  | spskip (port : Nat) (n : Word)
  | csrw (n : Nat) (v : Word)
  | binit (b : Nat) (n : Word)
  | barr (b : Nat)
  | fence (kinds : BitVec 4) (scope : Nat)
  | qfence (set : BitVec 4)
  | command (queue : Nat) (e : QEntry)
  | flags (f : BitVec 6)
  deriving DecidableEq, Repr

/-- A held effect with the firing it belongs to; `tagged` says that it travels on the tagged channel (R123); `anc` are
the class M slots that chains link before it (R223). -/
structure Held where
  slot : Nat
  key : Key
  tagged : Bool
  eff : Effect
  anc : List Nat
  /-- the scope field of a full/empty operation (R222) -/
  scope : BitVec 2 := 0
  deriving DecidableEq, Repr

/-- How the check of a push's element at a far member came out (R289, R293): the position it was made for, and the cause of its
failure. -/
structure PushCheck where
  pos : Nat
  cause : Option Nat
  deriving DecidableEq, Repr

/-- A WR that has fired (R334): of a g register, a k register or an output port. `pos` is a push's position, `check` the last
answer to its far check. -/
structure HeldWr where
  slot : Nat
  key : Key
  tagged : Bool
  kr : Bool
  n : Nat
  push : Bool
  val : Word
  cap : CapReg
  pos : Option Nat
  check : Option PushCheck
  deriving DecidableEq, Repr

/-- What a tracked instruction that has fired waits for (R104, R210, R371, R379). -/
inductive WaitOn where
  | barrier (b : Nat) (phase : Nat)
  | queues (set : BitVec 4)
  | event (since : Nat)
  deriving DecidableEq, Repr

/-- The waiting instruction. -/
structure Waiting where
  slot : Nat
  key : Key
  on : WaitOn
  deriving DecidableEq, Repr

/-- A tag in flight (R117, R135). -/
structure TagRec where
  tag : Tag
  outer : Bool
  col : BitVec 2
  complete : Bool
  deriving DecidableEq, Repr

/-- The inner bound and base of a row, once LGEN2 has taken them, and whether an operand carried EOS (R116, R290). -/
structure RowRec where
  row : Nat
  m : Nat
  b : Word
  eos : Bool
  deriving DecidableEq, Repr

/-- The generator (R115 to R117). `retire` is the sequence position up to which every tag has retired: a row and an
inner index; without LGEN2 the row is 0 and the index counts the tags. -/
structure Gen where
  fired : Bool
  slot : Nat
  n : Nat
  two : Option Nat
  nextOuter : Nat
  row : Nat
  inner : Nat
  rows : List RowRec
  sentEnd : Bool
  retireRow : Nat
  retireInner : Nat
  deriving DecidableEq, Repr

/-- A SYSCALL or BRK that has fired (R373). -/
structure SysRec where
  slot : Nat
  key : Key
  cause : Nat
  val : Word
  deriving DecidableEq, Repr

/-- Where a stream port stands (R288, R291): position, overrun, and the last pop. -/
structure PortPos where
  pos : Nat
  ovr : Bool
  last : Word
  lastV : Bool
  lastEos : Bool
  deriving DecidableEq, Repr

/-- A pop that has been made, with the position after it (R287). -/
structure PopRec where
  key : Key
  slot : Nat
  port : Nat
  after : PortPos
  deriving DecidableEq, Repr

/-- A stream port (R280 to R296). -/
structure SPort where
  armed : Bool
  record : BitVec 512
  cap : CapReg
  com : PortPos
  work : PortPos
  deriving DecidableEq, Repr

/-- An atomic or emptying load in a commit packet (R84): its slot and firing, whether it is a handler's block's, its operation, where
it goes, its data and what it expects. -/
structure PacketAtomic where
  slot : Nat
  key : Key
  inh : Bool
  op : MemOp
  place : Place
  addr : Word
  data : BitVec 128
  expect : Word
  deriving DecidableEq, Repr

/-- A commit packet of a locked pair's tile (R84): the block, its register writes, its held effects, the stores with their
addresses and data and the engine commands among them, its atomics, and its exit, where it has left. -/
structure CommitPacket where
  blk : Word
  wrs : List HeldWr
  held : List Held
  atomics : List PacketAtomic
  exit : Option ExitRec
  deriving DecidableEq, Repr

/-- The block fabric of a tile with the block instance it holds. -/
structure Fabric where
  blk : Option Block
  inst : Nat
  mesh : List Operand
  operands : List Operand
  toybox : List (Nat × Operand)
  latches : List Operand
  settled : List Settled
  exit : Option ExitRec
  wrs : List HeldWr
  held : List Held
  waits : List Waiting
  gen : Gen
  tags : List TagRec
  colours : List (Tag × BitVec 2)
  parked : List TrapRec
  sys : List SysRec
  pops : List PopRec
  kept : List HeldWr
  mapRbcnt : Nat
  mapHeldv : List (Option Word)
  mapFlags : BitVec 6
  /-- the stream ports as they stood when the block was mapped (R285) -/
  mapPorts : Vector SPort 8
  /-- for how many firings of its cluster, and so for how many fabric cycles, an instruction with all its operands has been passed
  over (R131) -/
  waited : List (Nat × Key × Nat)
  /-- the toybox has been written while the block was mapped: what the block instance still does has undefined results (R120) -/
  disturbed : Bool
  deriving DecidableEq, Repr

/-! ### Contexts (05, 06, 13, 15, 16, 17) -/

/-- An element a port's engine has read ahead (R292, R293). -/
inductive Fetched where
  | value (v : Word)
  | failed (cause : Nat)
  | poison
  deriving DecidableEq, Repr

/-- An element that a port's engine has read ahead: its position, where it lies (none where its check failed) and its
size in bytes. It was read after the number `since` was given out, and before the one after `upto` was. -/
structure Prefetch where
  tile : Nat
  port : Nat
  pos : Nat
  place : Option Place
  size : Nat
  got : Fetched
  since : Nat := 0
  upto : Nat := 0
  deriving DecidableEq, Repr

/-- A weight plane (R233 to R238): its format, weights by 128·row + column, scales, codebook copy and the L offset its
MLWS read. -/
structure Plane where
  loaded : Bool
  fmt : BitVec 5
  weights : Table (BitVec 64)
  scales : Table (BitVec 8)
  codebook : BitVec 256
  src : Nat
  deriving DecidableEq, Repr

/-- A performed irrevocable result (R105). -/
structure ReplayEntry where
  slot : Nat
  tag : Tag
  val : Word
  deriving DecidableEq, Repr

/-- A pass at the head of the matrix queue (R239 to R242): how many of its rows have entered, the array cycle in which the
next may enter, the row with which its present stretch began (R242), its start grant or entry cycle, whether it may stream,
and for RKPASS the lists it has read, with the first poisoned address of each list that lay in a poisoned line. `id` tells its
rows from those of other passes. -/
structure Pass where
  id : Nat
  entry : QEntry
  next : Nat
  first : Nat
  cycle : Nat
  start : Nat
  granted : Bool
  lists : Option (List (List Nat))
  bad : List (Nat × Nat)
  deriving DecidableEq, Repr

/-- A row that has entered the array and has not landed (R238, R241): its accumulator row, its array cycle, whether it meets
the plane that is the shadow one now, its pass and the pass's block instance, its 32-row step, and what each column is to add. `int` says
that it adds one A80I sum to each column, otherwise it adds A80F block sums in order. -/
structure Flight where
  row : Nat
  cycle : Nat
  shadow : Bool
  pass : Nat
  inst : Nat
  step : Nat
  int : Bool
  adds : List (List Acc)
  deriving DecidableEq, Repr

/-- What a context is doing (R97, R110, R302). -/
inductive Phase where
  /-- the data image has not landed yet (R72) -/
  | loading
  /-- wants the block at `pc` -/
  | fetching
  /-- a block is mapped -/
  | running
  /-- HALT has committed; the queues drain -/
  | halted
  /-- local done is raised; the context's state is kept until its entry is freed (R73) -/
  | done
  /-- ended as an unresolved trap -/
  | ended
  deriving DecidableEq, Repr

/-- How the next block is entered, which decides what it may be (R94): by a node record, by an exit of a user block, by an
exit of a SUPERVISOR block other than TRET, or by TRET, trap entry or re-entry. -/
inductive Via where
  | node
  | user
  | supervisor
  | any
  deriving DecidableEq, Repr

/-- A held engine, copy or rider trap (R244, R301): its source 0 vector, 1 matrix, 2 copy, 3 rider. -/
structure AsyncTrap where
  source : Nat
  trap : TrapRec
  deriving DecidableEq, Repr

/-- A tile task (R72, R82, R103, R298). -/
structure Ctx where
  id : Nat
  tenant : Nat
  launch : Nat
  node : Nat
  region : Nat
  tileIdx : Nat
  lock : Bool
  phase : Phase
  pc : Word
  resume : Option Tag
  /-- resume tag and held values of an abandoned handler block (R133) -/
  handlerResume : Option Tag
  handlerHeld : List HeldWr
  /-- the block last entered, for the replay buffer (R105) -/
  lastBlk : Word
  /-- how the next block is entered (R94) -/
  via : Via
  g : Vector Word 64
  k : Vector CapReg 16
  ports : Vector SPort 8
  v : Vector VecReg 32
  m : Vector MaskReg 8
  acc : Table Acc
  front : Plane
  shadow : Plane
  codebook : BitVec 256
  atten : BitVec 4096
  attenSrc : Nat
  attenRun : Bool
  copyQ : List QEntry
  vectorQ : List QEntry
  matrixQ : List QEntry
  riderQ : List QEntry
  pass : Option Pass
  flights : List Flight
  /-- the pass whose rows have all entered and whose stop is still to be granted (R86, R207) -/
  stopping : Option Nat
  tcause : Nat
  tblk : Word
  tslot : Nat
  ttag : Tag
  tinfo0 : Word
  tinfo1 : Word
  tvec : Word
  treta : Word
  after : Bool
  async : Bool
  inh : Bool
  /-- the running handler was entered from a halted context (R300) -/
  haltedEntry : Bool
  fflags : BitVec 6
  /-- when engine commands have last raised flags, and which: a CSRW of FFLAGS at the same moment leaves them raised (R263, R415) -/
  flagsAt : Nat := 0
  flagsNow : BitVec 6 := 0
  keys : BitVec 16
  rbSlot : Nat
  rbTag : Tag
  replay : List ReplayEntry
  /-- what took effect outside a locked pair as it fired, for the commit packet of its block (R84) -/
  atomics : List PacketAtomic
  heldVals : List HeldWr
  /-- HELDV: the held value of each WR of the abandoned block, in slot order (R298) -/
  heldv : List (Option Word)
  ev : Bool
  /-- a committed FENCE with ST still waits for stores at far members (R227) -/
  fenced : Bool
  arrival : Vector (Option Nat) 4
  pendingTraps : List AsyncTrap
  /-- the vector or matrix queue is stopped behind a command that trapped (R244) -/
  stopV : Bool
  stopM : Bool
  deriving DecidableEq, Repr

/-! ### Tiles (06, 08) -/

/-- The state of a scratchpad line (R145, R147). -/
structure LineState where
  full : Bool
  poison : Bool
  deriving DecidableEq, Repr

/-- A cached translation (R155). `shift` is log2 of the page size. -/
structure TlbEntry where
  asid : Nat
  gen : Nat
  shift : Nat
  vpage : Nat
  pte : Word
  deriving DecidableEq, Repr

/-- A cached non-leaf entry (R154): the entry of `level` for the virtual address bits above `shift`. -/
structure WalkEntry where
  asid : Nat
  gen : Nat
  level : Nat
  vtop : Nat
  pte : Word
  deriving DecidableEq, Repr

/-- A line of the block cache (R95, R96), with log2 of the size of the page through which it was fetched (R377). `sig` is the
signature of the block whose header the line begins. -/
structure BlockLine where
  asid : Nat
  gen : Nat
  vline : Nat
  shift : Nat
  bytes : List Byte
  sig : Option (BitVec 16)
  deriving DecidableEq, Repr

/-- The states of a context-store entry (R71). -/
inductive EntryState where
  | free
  | ready
  | running
  | done
  deriving DecidableEq, Repr

/-- A context-store entry: its state, the tenant and launch region that its sequence belongs to, and where its context comes from. -/
structure Entry where
  st : EntryState
  tenant : Nat
  launch : Nat
  region : Nat
  source : Option MapSource
  deriving DecidableEq, Repr

/-- A tile (R90): scratchpad, line states, granule tags, context store, translation and block caches, fabric, and the
context that runs. -/
structure Tile where
  mem : Memory
  lines : Table LineState
  gtags : Table Bool
  entries : Vector Entry 8
  tlb : List TlbEntry
  walks : List WalkEntry
  bcache : List BlockLine
  /-- internal faults seen since the last point at which one counts as transient (R306) -/
  faulted : Bool
  /-- the event was one in a handler's block (R306) -/
  faultInh : Bool
  /-- every line of the block to be mapped has been read from memory by its fetch (R96) -/
  fresh : Bool
  fabric : Fabric
  ctx : Option Ctx
  /-- which entry runs -/
  running : Option Nat
  /-- contexts that ended unresolved on the tile and still have copies or riders out (R302) -/
  owed : List Nat
  /-- the array draws current (R86) -/
  drawing : Bool
  /-- the last commit packet of a tile of a locked pair (R84) -/
  packet : Option CommitPacket
  deriving DecidableEq, Repr

/-! ### Memory operations under way (R146) -/

/-- Whose an access is: a firing of a context, a port's engine, the head packet of a hardware queue slot, a store that
its block has released already, a request of a context of a far member, or its check of an STFW that is to reserve its target (R363),
a read or a check of a copy, a write that a copy has landed, a
status word of a queue, a read of the device itself for a tenant, an irrevocable access of an abandoned block that a far
member has still to answer (R105), or an operand read of the command at the head of a context's engine queue. -/
inductive Waiter where
  | firing (tile ctx slot : Nat) (key : Key)
  | prefetch (tile ctx port pos : Nat)
  | packet (slot : Nat)
  | released (tile ctx : Nat)
  | far (member party : Nat)
  | farReserve (member party : Nat)
  | copy (id : Nat)
  | landing (copy : Nat)
  | status (tenant queue : Nat)
  | device (tenant : Nat)
  | lost (ctx slot : Nat) (key : Key)
  | engine (tile ctx queue : Nat)
  deriving DecidableEq, Repr

/-- A value that an access reads: its low 64 bits, the next 64, and a capability's tag. -/
structure MemValue where
  val : Word
  hi : Word
  ctag : Bool
  deriving DecidableEq, Repr

/-- What an access that has been performed or refused brings back: a value, the bytes of a longer read, or the cause and
information registers of a trap. -/
inductive Loaded where
  | value (v : MemValue)
  | run (bs : List Byte)
  | failed (cause : Nat) (info0 info1 : Word)
  deriving DecidableEq, Repr

/-- An access that has been checked and has not returned, oldest first in `State.pend`: the waiters of R146, the accesses
at a far member, and those whose value is on its way back (`got`). `anc` are the class M slots that chains link before
it (R223). `party` numbers the context, copy or queue in whose order it stands (R224, R228), `tenant` is the one it is made
for, `rel` says that it is a release (R226), `scope` is encoded as in R222, and `sent` says that its request has left for
the far member, on Volong port `port` (R22). -/
structure Pend where
  id : Nat
  who : Waiter
  op : MemOp
  place : Place
  addr : Word
  info1 : Word
  data : BitVec 128
  dtag : Bool
  expect : Word
  acq : Bool
  rel : Bool
  scope : BitVec 2
  anc : List Nat
  party : Nat
  tenant : Nat
  sent : Bool
  port : Nat
  got : Option Loaded
  /-- when it was sent, for the 100 µs of R27 -/
  since : Nat
  deriving DecidableEq, Repr

/-- The reservation that an STFW holds on a line or mailbox word, or at a far member (R363). One that a far member's context holds
here has tile 256 + the member's index and names the league address that the request bore. `firm`: its block has committed, so
that only its write ends it. -/
structure Reservation where
  tile : Nat
  ctx : Nat
  slot : Nat
  key : Key
  place : Place
  addr : Word := 0
  firm : Bool := false
  deriving DecidableEq, Repr

/-! ### Host side (03, 04) -/

/-- One MSI-X vector (R44). -/
structure MsixEntry where
  addr : Word
  data : BitVec 32
  mask : Bool
  deriving DecidableEq, Repr

/-- A tenant: its TENCFG and TENPT fields, its region's registers, its mailbox words (R39 to R44, R61). -/
structure Tenant where
  en : Bool
  qmax : BitVec 13
  lgon : Bool
  ceil : BitVec 3
  lasid : BitVec 16
  asid : BitVec 16
  root : BitVec 52
  linkev : Bool
  fwev : Bool
  viol : Bool
  lost : BitVec 32
  count : Nat
  head : BitVec 4
  seq : BitVec 8
  vlog : Vector (BitVec 128) 16
  wingb : Word
  wingl : BitVec 40
  winsb : Word
  winsl : BitVec 40
  msix : Vector MsixEntry 64
  pba : BitVec 64
  mbox : Table Word
  mfull : Table Bool
  /-- a function-level reset is in progress (R48) -/
  resetting : Bool
  /-- when the last violation was logged, and how many of the newest entries are then the Volong side's: a host-side one of the same
  moment comes before them (R43, R415) -/
  logAt : Nat := 0
  logFar : Nat := 0
  deriving DecidableEq, Repr

/-- A Volong port (R25). -/
structure VPort where
  replays : BitVec 32
  /-- when the replays of the last 1 ms were made (R21) -/
  recent : List Nat
  downev : Bool
  up : Bool
  deriving DecidableEq, Repr

/-- PUPSTAT.STATE (R39). -/
inductive PupState where
  | reset
  | bootrom
  | bringup
  | running
  | activating
  | failed
  | tripped
  deriving DecidableEq, Repr

/-- How far an activation of new firmware has come (R50). -/
inductive Activation where
  | none
  | loading
  | flipped
  deriving DecidableEq, Repr

/-- The module control block (R25, R39, R50, R51, R309) and the firmware store behind it (R45, R47). -/
structure Control where
  wdcnt : BitVec 16
  hbeat : BitVec 16
  trip : Bool
  pup : PupState
  fwstage : BitVec 52
  fwlen : BitVec 32
  /-- LEN and the staged address as the GO in progress found them -/
  goLen : BitVec 32
  goAddr : BitVec 52
  fwstatus : BitVec 8
  dupgo : Bool
  tfence : BitVec 192
  tserv : BitVec 8
  lasting : BitVec 16
  trans : BitVec 32
  relValid : Bool
  relTile : BitVec 8
  relCause : BitVec 8
  mcnt : BitVec 11
  lgen : Bool
  midx : BitVec 11
  accid : BitVec 20
  ports : Vector VPort 18
  attnonce : BitVec 384
  /-- the nonce as the last accepted GO found it (R51) -/
  attGo : BitVec 384
  attDone : Bool
  attBusy : Bool
  attrep : Memory
  m0 : BitVec 384
  m2 : BitVec 384
  bank0 : List Byte
  bank1 : List Byte
  activeBank : Bool
  bankDigest : BitVec 384
  svn : BitVec 32
  activation : Activation
  /-- VF Enable of the SR-IOV capability (R49) -/
  vfEnable : Bool
  /-- the bring-up steps of R49 that have run -/
  bringup : Nat
  /-- configuration requests are completed normally, from RUNNING on or once bring-up has stopped in FAILED (R49) -/
  enumerated : Bool
  /-- bring-up has come to RUNNING since the cold reset (R49) -/
  served : Bool
  /-- the re-check of a watchdog reset has failed, and no new launch is made (R45) -/
  barred : Bool
  deriving DecidableEq, Repr

/-- An armed entry of the event matcher, or an event in its hold queue (R46). -/
structure MatchEntry where
  kind : EventKind
  key : Nat
  cookie : BitVec 32
  deriving DecidableEq, Repr

/-- The event matcher: 512 entries by index, the ready queue of cookies, the hold queue, and the events that the sources
held back by a full hold queue have still to send (R46). `cycle` is the time of the latest arrivals; `came` are the events among
them that matched, each with its number of cookies, and `kept` is the number of those in the hold queue (log 91). -/
structure Matcher where
  armed : List (Nat × MatchEntry)
  ready : List (BitVec 32)
  held : List (EventKind × Nat)
  waiting : List (EventKind × Nat)
  cycle : Nat
  came : List ((EventKind × Nat) × Nat)
  kept : Nat
  deriving DecidableEq, Repr

/-- A page that a leg or a hint packet waits for (R177): virtual page base, log2 size, host address of its leaf, host
address of its fill descriptor, and whether its page request has been raised. -/
structure PageWant where
  va : Nat
  shift : Nat
  leaf : Nat
  desc : Nat
  raised : Bool
  deriving DecidableEq, Repr

/-- What a started packet is doing (R57, R59). A hint waits for pages; `failed` says that a fill of one has failed
(R180). A wait and a signal, a launch's own signal among them, name their access to the mailbox word. -/
inductive PacketWork where
  | launch (id : Nat)
  | copy (id : Nat)
  | hint (pages : List PageWant) (failed : Bool)
  | wait (access : Nat)
  | signal (access : Nat)
  deriving DecidableEq, Repr

/-- A packet that has been started and has not completed. -/
structure PacketRec where
  index : BitVec 32
  irq : Bool
  work : PacketWork
  deriving DecidableEq, Repr

/-- The STATE of a status word (R55). -/
inductive QState where
  | idle
  | waiting
  | mapped
  | blocked
  | preempted
  | error
  | refused
  | destroyed
  deriving DecidableEq, Repr

/-- A copy of a queue's state in its control block (R65). -/
structure ControlCopy where
  st : QState
  slot : Option Nat
  effpri : Nat
  err : Nat
  ridx : BitVec 32
  wsince : Nat
  savePtr : Nat
  layout : Nat
  deriving DecidableEq, Repr

/-- An owned queue: its descriptor, doorbell table entry and queue control block (R53 to R56, R63 to R65). `slot` is the hardware
slot table's entry; `desc` are the 64 bytes read at creation, `sel` names the current one of the control block's copies, and
`seq` counts its flips. -/
structure Queue where
  tenant : Nat
  index : Nat
  ring : Word
  log2n : Nat
  pri : Nat
  msiv : Nat
  lock : Bool
  stat : Word
  last : BitVec 32
  pending : Bool
  ridx : BitVec 32
  st : QState
  err : Nat
  slot : Option Nat
  wsince : Nat
  mappedAt : Nat
  /-- it was waiting when its control block was last brought up to date (R56, R63) -/
  waits : Bool
  started : List PacketRec
  seq : Nat
  effpri : Nat
  savePtr : Nat
  layout : Nat
  desc : Memory
  sel : Bool
  copyA : ControlCopy
  copyB : ControlCopy
  deriving DecidableEq, Repr

/-! ### Launches (05) -/

/-- A node record (R67). -/
structure NodeRec where
  entry : Word
  image : Word
  imglen : Nat
  tile : Nat
  region : Nat
  args : List Word
  deriving DecidableEq, Repr

/-- A stack barrier of a region (R85): its count, the phases released so far, and the arrivals of the present one. -/
structure Barrier where
  count : Nat
  phase : Nat
  arrivals : Nat
  deriving DecidableEq, Repr

/-- How far a region has come (R70, R75, R76). -/
inductive RegionState where
  | waiting
  | started
  | preempted
  | finished
  deriving DecidableEq, Repr

/-- A region of a launch: its stack, the tile of each of its nodes in node order, its barriers, and for each tile the
entries of its sequence in MAP order, the present one first (R69, R74, R85). `done` are the nodes whose tiles have raised local
done (R73); `arrived` are the arrivals since the region started, the latest first: node, barrier and arrival phase (R371). -/
structure Region where
  region : Nat
  st : RegionState
  stack : Nat
  nodes : List (Nat × Nat)
  bars : Vector Barrier 4
  seqs : List (Nat × List Nat)
  done : List Nat
  arrived : List (Nat × Nat × Nat)
  deriving DecidableEq, Repr

/-- A launch in progress (R66 to R70). -/
structure Launch where
  id : Nat
  tenant : Nat
  queue : Nat
  index : BitVec 32
  lock : Bool
  nodes : List NodeRec
  edges : List (Nat × Nat)
  regions : List Region
  /-- k1 and k2 of its contexts, from the tenant's windows at the launch (R41, R103) -/
  roots : CapReg × CapReg
  /-- the mailbox word and value that its completion signals (R57) -/
  signal : Option (Nat × Word)
  ended : Bool
  deriving DecidableEq, Repr

/-- A save image, in its bank or in the save pool (R80 to R83): the context and its share, kept as data. -/
structure Image where
  id : Nat
  ctx : Ctx
  mem : Memory
  lines : Table LineState
  gtags : Table Bool
  /-- the tile on which it was saved, whose share of the physical scratchpad was its own (R79, R405) -/
  tile : Nat
  /-- the tile whose save bank holds it; none once it is drained -/
  bank : Option Nat
  /-- phases and arrivals of the region's barriers as they stood (R82) -/
  bars : Vector Barrier 4
  complete : Bool
  /-- its launch is given up: the image is not drained (R48, R56) -/
  discard : Bool
  /-- its place in the save pool, from its completion on (R80, R183) -/
  spot : Option Nat
  /-- a read rider brings it back into a bank (R81) -/
  reading : Bool
  /-- it has been restored into an entry, or is about to be: MAP may name it (R81) -/
  restored : Bool
  /-- its launch ended because another image of its region was invalid: it is kept until its queue is destroyed (R83) -/
  kept : Bool
  valid : Bool
  /-- cause and information registers of the lasting fault that spoilt it (R83, R307) -/
  cause : Nat
  info0 : Word
  info1 : Word
  deriving DecidableEq, Repr

/-- A grant unit (R86 to R89). -/
structure Stack where
  cycle : Nat
  iu : Nat
  id : Nat
  fill : BitVec 32
  up : BitVec 32
  dn : BitVec 32
  /-- a SLEWTAB write that takes effect at the next step boundary -/
  write : Option Word
  starts : List (Nat × Nat)
  stops : List (Nat × Nat)
  deriving DecidableEq, Repr

/-! ### Copies, riders, rings and fills (09, 10, 11) -/

/-- Whose a copy is: a context's, or a packet's (R57, R212). -/
inductive CopyOwner where
  | ctx (id : Nat)
  | packet (tenant queue : Nat) (index : BitVec 32)
  deriving DecidableEq, Repr

/-- A copy's kind (R212). -/
inductive CopyKind where
  | cpy
  | cpym
  | cpy2d
  | cpyfill
  | cpyz
  deriving DecidableEq, Repr

/-- One side of a copy: whether it lies in space G, the address of its first byte, its row length and stride (R402). -/
structure CopyEnd where
  global : Bool
  base : Nat
  rlen : Nat
  stride : Nat
  deriving DecidableEq, Repr

/-- Why and where a copy stops (R215, R217, R218, R403): the copy offset of the first byte not landed, its address, whether
the destination met it, whether a line is to be poisoned, and whether every byte has landed all the same. -/
structure CopyStop where
  status : Nat
  erroff : Nat
  addr : Word
  dst : Bool
  poison : Bool
  whole : Bool
  deriving DecidableEq, Repr

/-- A copy that has started, with its progress (R212 to R220, R402, R403). -/
structure Copy where
  id : Nat
  inst : Nat
  owner : CopyOwner
  tenant : Nat
  kind : CopyKind
  src : CopyEnd
  dst : CopyEnd
  total : Nat
  pattern : Word
  cmpl : Nat
  cmplOff : Nat
  trap : Bool
  follow : Option QEntry
  blk : Word
  slot : Nat
  tag : Tag
  landed : Nat
  /-- G destination pages whose lines have been set empty: 64 KiB page, tile and offset; 192 for a page of a far member
  (R405) -/
  pages : List (Nat × Nat × Nat)
  /-- CPYZ: source bytes read so far, and the output with its end once all are read -/
  input : List Byte
  output : Option (List Byte × Option CopyStop)
  stop : Option CopyStop
  foin : Bool
  deriving DecidableEq, Repr

/-- A page translation that a leg holds (R199): virtual page base, log2 size, frame. -/
structure Frame where
  va : Nat
  shift : Nat
  pa : Nat
  deriving DecidableEq, Repr

/-- A window accumulator (R197). -/
structure Window where
  sum : Int
  ovf : Bool
  nan : Bool
  pinf : Bool
  ninf : Bool
  deriving DecidableEq, Repr

/-- A leg of a rider (R185 to R203). Times are counted in slots since cold reset. -/
structure Leg where
  ring : Nat
  arrived : Option Nat
  seated : Bool
  laneAsked : Option Nat
  lane : Bool
  boarded : Option Nat
  alighted : Bool
  frames : List Frame
  /-- pages not resident at the walk that the leg waits for (R201) -/
  deferred : List PageWant
  /-- the leg has waited for pages: it acts on no row twice -/
  waited : Bool
  /-- the slot at which the last deferred page became resident -/
  freed : Option Nat
  /-- the slot at which the fill of a deferred page failed -/
  failedAt : Option Nat
  /-- rows acted on, kept only where the leg has waited -/
  acted : List Nat
  wins : Table Window
  deriving DecidableEq, Repr

/-- A rider that has left its queue (R185, R192 to R204): what it captured, its legs, and what they have gathered. `landed`
counts the elements landed of each destination line of an RIREAD, and `spoilt` are the lines that got a poisoned one. -/
structure Rider where
  id : Nat
  inst : Nat
  tile : Nat
  ctx : Nat
  tenant : Nat
  since : Nat
  region : CapReg
  record : List Byte
  recBase : Nat
  right : Word
  operand : List Byte
  blk : Word
  slot : Nat
  tag : Tag
  legs : List Leg
  kept : List (Nat × Word)
  landed : Table Nat
  spoilt : List Nat
  /-- RIREAD: elements acted on whose landing waits behind another party's reservation, with their values and poison -/
  owed : List (Nat × Word × Bool)
  folded : Option Word
  nanSeen : Bool
  count : Nat
  lowest : Option Nat
  lapse : Bool
  lcnt : Nat
  pcnt : Nat
  first : Option Nat
  st54 : Bool
  st53 : Bool
  st52 : Bool
  st55 : Bool
  fillst : Nat
  defer : Bool
  /-- a function-level reset or an unresolved trap has ended its context (R48, R302) -/
  orphan : Bool
  deriving DecidableEq, Repr

/-- A service leg (R181): of a fill, by its leaf, of a save drain or a resume's read, by its context, or of a save set, by its
launch; a number that does not apply is 0. A save set's leg carries its bytes and the sweep address at which they begin, so that it
acts in its turn although the launch has ended in the meantime (R181, R188). -/
structure ServiceLeg where
  id : Nat
  fill : Option Nat
  image : Nat
  set : Nat
  base : Nat
  bytes : List Byte
  ring : Nat
  arrived : Nat
  boarded : Option Nat
  alighted : Bool
  deriving DecidableEq, Repr

/-- Who is aboard a ring, in boarding order (R190). -/
inductive Aboard where
  | rider (id : Nat)
  | service (id : Nat)
  deriving DecidableEq, Repr

/-- A ring sequencer (R164, R173, R190). `zeroing` is the number of slots left of its first turn, whose visits write zeros (R49);
`laneSlot` is one more than the slot in which it last granted a bench lane, and 0 before (R189, log 92). -/
structure Ring where
  cursor : Nat
  zeroing : Nat
  laneSlot : Nat
  running : Bool
  aboard : List Aboard
  corrected : BitVec 32
  uncorrected : BitVec 32
  deriving DecidableEq, Repr

/-- Deadline and age of a ring row (R168). -/
structure Lapse where
  d : BitVec 3
  a : BitVec 3
  deriving DecidableEq, Repr

/-- How far a fill has come (R178): requested, checked but waiting for its frame, reading its source, buffered, its legs on
their rings, or failed with a status (R180). -/
inductive FillState where
  | requested
  | waiting
  | reading
  | ready
  | boarding
  | failed (status : Nat)
  deriving DecidableEq, Repr

/-- A fill (R176 to R180), named by the page's leaf. -/
structure Fill where
  tenant : Nat
  page : PageWant
  frame : Nat
  src : Nat
  slen : Nat
  zstd : Bool
  zero : Bool
  st : FillState
  content : Memory
  deriving DecidableEq, Repr

/-- A page that the fill engine made resident (R178, R182). -/
structure Resident where
  tenant : Nat
  page : PageWant
  frame : Nat
  releasable : Bool
  dirty : Bool
  deriving DecidableEq, Repr

/-! ### The whole machine -/

/-- The operands of the firing whose instruction runs (R99, R114): `none` in a port that brought no token. `off` says
that its predicate did not match or that a NULL token reached a port that it reads. -/
structure Firing where
  tile : Nat
  slot : Nat
  key : Key
  outer : Bool
  col : BitVec 2
  left : Option Token
  right : Option Token
  third : Option Token
  off : Bool
  anc : List Nat
  /-- the operands taken, put back where the firing has to wait after all -/
  taken : List Operand
  deriving DecidableEq, Repr

/-- What happens next: a cluster fires (R101), a device step, the host changes its own memory or how its completer answers, memory
meets an error, a queue pair sends what it was posted (R31), or a port that has needed too many replays falls (R21). -/
inductive Happening where
  | fire (tile cluster : Nat)
  | ev (i : Instr)
  | hostWrite (addr : Nat) (bytes : List Byte)
  | hostPoison (lo hi : Nat)
  | hostFail (lo hi : Nat)
  | hostHeal
  | upset (tile : Nat) (line : Nat)
  | softError (chunk : Nat) (uncorrectable : Bool)
  | scaleOutSend (source : ScaleOutDest) (addr n : Nat)
  | portFalls (port : Nat)
  deriving DecidableEq, Repr

/-- What a configuration request finds of a function (R37, R49): the IDs, the offset of its requester ID from the PF's, and in the
PF the SR-IOV capability: how many VFs it offers, First VF Offset, VF Stride, their device ID, and VF Enable. -/
structure ConfigSpace where
  vendor : BitVec 16
  device : BitVec 16
  requester : Nat
  totalVfs : Nat
  firstVf : Nat
  vfStride : Nat
  vfDevice : BitVec 16
  vfEnable : Bool
  deriving DecidableEq, Repr

/-- What the device has sent to the outside, oldest first. -/
inductive Output where
  | msix (f vec : Nat) (addr : Word) (data : BitVec 32)
  | readData (f : Nat) (v : Word)
  | unsupported (f : Nat)
  | retry (f : Nat)
  | config (f : Nat) (c : ConfigSpace)
  | league (id : Nat) (port : Nat) (member : Nat) (check : Bool) (lasid : BitVec 16) (addr : Word) (op : MemOp)
      (data : BitVec 128) (expect : Word) (scope : BitVec 2) (acq rel : Bool) (party : Nat)
  | leagueCancel (port : Nat) (member : Nat) (lasid : BitVec 16) (addr : Word) (party : Nat)
  | leagueAnswer (member : Nat) (status : Nat) (v : Nat)
  | tripReport
  | scaleOut (source : BitVec 20) (bytes : List Byte)
  | mapRefused (tile entry : Nat)
  | switchRefused (stack region : Nat)
  | armRefused
  | uncorrectable (ring row chunk : Nat)
  | unresolved (tile cause : Nat) (info0 info1 : Word)
  deriving DecidableEq, Repr

/-- The machine. The last five fields are the model's own (log 1, 2, 10, 11). -/
structure State where
  tiles : Vector Tile 192
  grants : Vector Stack 4
  dram : Vector Bool 8
  tenants : Vector Tenant 16
  ctl : Control
  matcher : Matcher
  queues : List Queue
  /-- creations whose descriptor waits to be read: tenant, index, descriptor address (R52) -/
  creating : List (Nat × Nat × Nat)
  /-- MSI-X messages of queues whose status word is still under way: tenant, queue, vector (R60, R232) -/
  signals : List (Nat × Nat × Nat)
  launches : List Launch
  images : List Image
  asidGen : Table Nat
  pend : List Pend
  reserved : List Reservation
  ahead : List Prefetch
  copies : List Copy
  riders : List Rider
  services : List ServiceLeg
  rings : Vector Ring 32
  sweep : Memory
  lapse : Table Lapse
  /-- 64-byte chunks of Chroiradal memory with an error: 1 correctable, 2 uncorrectable (R171, R172) -/
  badChunks : Table Nat
  fills : List Fill
  residents : List Resident
  /-- translations of evicted pages, with their tenants, that legs may still hold: no fill of a frame boards while one that meets it is
  held (R182) -/
  evicted : List (Nat × Frame)
  host : Memory
  hostBad : List (Nat × Nat × Bool)
  now : Nat
  freeCtr : Nat
  nextId : Nat
  cur : Option Firing
  agenda : List Happening
  outbox : List Output
  deriving DecidableEq, Repr

/-! ### Reset (R48) -/

/-- The untagged zero capability. -/
def CapReg.zero : CapReg := { bits := 0, tag := false }

/-- An empty plane. -/
def Plane.reset : Plane :=
  { loaded := false, fmt := 0, weights := [], scales := [], codebook := 0, src := 0 }

/-- The start of a port. -/
def PortPos.reset : PortPos := { pos := 0, ovr := false, last := 0, lastV := false, lastEos := false }

/-- An unarmed port. -/
def SPort.reset : SPort :=
  { armed := false, record := 0, cap := .zero, com := .reset, work := .reset }

/-- A generator that has not fired. -/
def Gen.reset : Gen :=
  { fired := false, slot := 0, n := 0, two := none, nextOuter := 0, row := 0, inner := 0, rows := [], sentEnd := false,
    retireRow := 0, retireInner := 0 }

/-- A fabric with no block. -/
def Fabric.reset : Fabric :=
  { blk := none, inst := 0, mesh := [], operands := [], toybox := [], latches := [], settled := [], exit := none, wrs := [],
    held := [], waits := [], gen := .reset, tags := [], colours := [], parked := [], sys := [], pops := [], kept := [],
    mapRbcnt := 0, mapHeldv := [], mapFlags := 0, mapPorts := Vector.replicate 8 .reset, waited := [],
    disturbed := false }

/-- A full line that is not poisoned. -/
def LineState.reset : LineState := { full := true, poison := false }

/-- A free entry. -/
def Entry.reset : Entry := { st := .free, tenant := 0, launch := 0, region := 0, source := none }

/-- A tile after cold reset: every line full, no context. -/
def Tile.reset : Tile :=
  { mem := [], lines := [], gtags := [], entries := Vector.replicate 8 .reset, tlb := [], walks := [], bcache := [],
    faulted := false, faultInh := false, fresh := false, fabric := .reset, ctx := none, running := none, owed := [], drawing := false,
    packet := none }

/-- SLEWTAB's reset values (R89). -/
def Stack.reset : Stack :=
  { cycle := 0, iu := 0, id := 0, fill := 0, up := 0x88442211, dn := 0x84221111, write := none, starts := [],
    stops := [] }

/-- A masked vector. -/
def MsixEntry.reset : MsixEntry := { addr := 0, data := 0, mask := true }

/-- A tenant's registers at reset (R39, R41): enabled only for the physical function. -/
def Tenant.reset (pf : Bool) : Tenant :=
  { en := pf, qmax := 0, lgon := false, ceil := 0, lasid := 0, asid := 0, root := 0, linkev := false, fwev := false,
    viol := false, lost := 0, count := 0, head := 0, seq := 0, vlog := Vector.replicate 16 0, wingb := 0, wingl := 0,
    winsb := 0, winsl := 0, msix := Vector.replicate 64 .reset, pba := 0, mbox := [], mfull := [],
    resetting := false }

/-- A port that has not trained. -/
def VPort.reset : VPort := { replays := 0, recent := [], downev := false, up := false }

/-- The module control block at reset (R25, R39, R50, R51, R309). -/
def Control.reset : Control :=
  { wdcnt := 0, hbeat := 0, trip := false, pup := .reset, fwstage := 0, fwlen := 0, goLen := 0, goAddr := 0, fwstatus := 0, dupgo := false,
    tfence := 0, tserv := 0, lasting := 0, trans := 0, relValid := false, relTile := 0, relCause := 0, mcnt := 0,
    lgen := false, midx := 0x7FF, accid := 0xFFFFF, ports := Vector.replicate 18 .reset, attnonce := 0, attGo := 0,
    attDone := false, attBusy := false, attrep := [], m0 := 0, m2 := 0, bank0 := [], bank1 := [], activeBank := false,
    bankDigest := 0, svn := 0, activation := .none, vfEnable := false,
    bringup := 0, enumerated := false, served := false, barred := false }

/-- The event matcher with nothing in it. -/
def Matcher.reset : Matcher := { armed := [], ready := [], held := [], waiting := [], cycle := 0, came := [], kept := 0 }

/-- A ring held in reset. -/
def Ring.reset : Ring := { cursor := 0, zeroing := 0, laneSlot := 0, running := false, aboard := [], corrected := 0, uncorrected := 0 }

/-- The machine right after a cold reset (R48). -/
def State.reset : State :=
  { tiles := Vector.replicate 192 .reset, grants := Vector.replicate 4 .reset, dram := Vector.replicate 8 false,
    tenants := Vector.ofFn (fun i : Fin 16 => Tenant.reset (i.val == 0)), ctl := .reset,
    matcher := .reset, queues := [], creating := [], signals := [], launches := [],
    images := [], asidGen := [], pend := [], reserved := [], ahead := [], copies := [], riders := [], services := [],
    rings := Vector.replicate 32 .reset, sweep := [], lapse := [], badChunks := [], fills := [], residents := [], evicted := [],
    host := [], hostBad := [], now := 0, freeCtr := 0, nextId := 0, cur := none, agenda := [], outbox := [] }

end Sys2Proof.Machine
end

