-- ==== Sys2Proof/Machine/Tiles.lean ====
section
/-! DEFINITION. Reading and updating one tile, its context, its registers and its mapped block. -/

namespace Sys2Proof.Machine

/-! ### Order -/

/-- Insert by a key, behind its equals. -/
def insertBy {α : Type} (key : α → Nat) (a : α) : List α → List α
  | [] => [a]
  | b :: rest => if key a < key b then a :: b :: rest else b :: insertBy key a rest

/-- Sort by a key, keeping the order of equals. -/
def sortBy {α : Type} (key : α → Nat) (l : List α) : List α := l.foldl (fun acc a => insertBy key a acc) []

/-- What a step answers. -/
abbrev Out := Host.Outcome State Fault Refusal

/-! ### One tile -/

/-- Tile t (R18); a number above 191 names no tile and reads as a reset one. -/
def State.tile (s : State) (t : Nat) : Tile := s.tiles[t]?.getD Tile.reset

/-- Replace tile t. -/
def State.setTile (s : State) (t : Nat) (x : Tile) : State := { s with tiles := s.tiles.setIfInBounds t x }

/-- Change tile t. -/
def State.modTile (s : State) (t : Nat) (f : Tile → Tile) : State := s.setTile t (f (s.tile t))

/-- The fabric of tile t. -/
def State.fabric (s : State) (t : Nat) : Fabric := (s.tile t).fabric

/-- Change the fabric of tile t. -/
def State.modFabric (s : State) (t : Nat) (f : Fabric → Fabric) : State :=
  s.modTile t (fun x => { x with fabric := f x.fabric })

/-- Change the running context of tile t, if there is one. -/
def State.modCtx (s : State) (t : Nat) (f : Ctx → Ctx) : State := s.modTile t (fun x => { x with ctx := x.ctx.map f })

/-- The number of the context that runs on tile t; 0 is never a context's number. -/
def State.ctxId (s : State) (t : Nat) : Nat :=
  match (s.tile t).ctx with
  | some c => c.id
  | none => 0

/-- A tenant's registers. -/
def State.tenant (s : State) (f : Nat) : Tenant := s.tenants[f]?.getD (Tenant.reset false)

/-- Change a tenant's registers. -/
def State.modTenant (s : State) (f : Nat) (g : Tenant → Tenant) : State :=
  { s with tenants := s.tenants.setIfInBounds f (g (s.tenant f)) }

/-- A compute stack's grant unit. -/
def State.stack (s : State) (k : Nat) : Stack := s.grants[k]?.getD Stack.reset

/-- Change a compute stack's grant unit. -/
def State.modStack (s : State) (k : Nat) (g : Stack → Stack) : State :=
  { s with grants := s.grants.setIfInBounds k (g (s.stack k)) }

/-- The tiles that execute a context's blocks: its own, and the odd one of a locked pair (R84). -/
def pairOf (tile : Nat) (c : Ctx) : List Nat := if c.lock then [tile, tile + 1] else [tile]

/-- The arrays that a tile's passes run in: its own, and the trailing tile's of a locked pair, which executes the same blocks
(R84, log 40). -/
def State.arrays (s : State) (tile : Nat) : List Nat :=
  match (s.tile tile).ctx with
  | some c => pairOf tile c
  | none => [tile]

/-- Ask for the stop grant of the arrays of a tile's passes (R86): the request falls due in an array cycle. -/
def State.askStop (s : State) (tile due : Nat) : State :=
  let asks := (s.arrays tile).map (fun a => (a, due))
  s.modStack (tile / 48) (fun x => { x with stops := x.stops ++ asks })

/-- Take back the grant requests of the arrays of a tile's passes. -/
def State.dropRequests (s : State) (tile : Nat) (starts stops : Bool) : State :=
  let mine := s.arrays tile
  s.modStack (tile / 48) (fun x => { x with
    starts := x.starts.filter (fun r => !(starts && mine.contains r.1))
    stops := x.stops.filter (fun r => !(stops && mine.contains r.1)) })

/-- A pass of a tile's array ends early (R86): no start is asked for any more, and an array that draws current with no
stop asked for asks for it. -/
def State.endDraw (s : State) (tile due : Nat) : State :=
  let s := s.dropRequests tile true false
  let stops := (s.stack (tile / 48)).stops
  let asks := ((s.arrays tile).filter (fun a => (s.tile a).drawing && !stops.any (fun r => r.1 == a))).map (fun a => (a, due))
  s.modStack (tile / 48) (fun x => { x with stops := x.stops ++ asks })

/-- Each tile of a locked pair forms its commit packet (R84). The trailing tile executes the same blocks, so its packet has what
the leading tile's has (log 40). -/
def State.formPacket (s : State) (tile : Nat) (c : Ctx) (p : CommitPacket) : State :=
  if c.lock then (pairOf tile c).foldl (fun s t => s.modTile t (fun y => { y with packet := some p })) s else s

/-- The packets of a locked pair match (R84, R308): only then do the effects outside the pair take place. -/
def packetsMatch (s : State) (tile : Nat) (c : Ctx) : Bool :=
  !c.lock || decide ((s.tile tile).packet = (s.tile (tile + 1)).packet)

/-- A tile against which no event counts. -/
def Tile.forget (x : Tile) : Tile := { x with faulted := false, faultInh := false }

/-- No event counts against a tile any more, nor against its partner where it leads a lockstep pair (R306, R308). -/
def State.forgetFaults (s : State) (t : Nat) : State :=
  let s1 := s.modTile t Tile.forget
  match (s.tile t).ctx with
  | some c => if c.lock then s1.modTile (t + 1) Tile.forget else s1
  | none => s1

/-- The block of a tile, or the oldest purged tag of it, has committed, and an event in it was transient (R306). The block of a
handler is not the one that trapped: an event in that one counts on until that one commits (log 105). -/
def State.clearFaulted (s : State) (t : Nat) : State :=
  match (s.tile t).ctx with
  | some c => if c.inh && !(s.tile t).faultInh && !(c.lock && (s.tile (t + 1)).faultInh) then s else s.forgetFaults t
  | none => s.forgetFaults t

/-- Change the module control block. -/
def State.modCtl (s : State) (g : Control → Control) : State := { s with ctl := g s.ctl }

/-- Send something to the outside. -/
def State.emit (s : State) (o : Output) : State := { s with outbox := s.outbox ++ [o] }

/-- A free natural number and the state with the counter advanced (log 2). -/
def State.drawNat (s : State) : Nat × State := (Config.freeNat s.freeCtr, { s with freeCtr := s.freeCtr + 1 })

/-- A free word and the state with the counter advanced (log 2). -/
def State.drawWord (s : State) : Word × State := (Config.freeWord s.freeCtr, { s with freeCtr := s.freeCtr + 1 })

/-- A fresh number for a context, access, copy, rider or launch; 0 is never given out. -/
def State.fresh (s : State) : Nat × State := (s.nextId + 1, { s with nextId := s.nextId + 1 })

/-! ### Registers of a context -/

/-- A context on a tile is neither done nor ended. -/
def Phase.live (p : Phase) : Bool :=
  match p with
  | .loading | .fetching | .running | .halted => true
  | .done | .ended => false

/-- A context of a tenant with every register zero, every port unarmed and every queue empty (R72), that wants the
block at `pc`. -/
def blankCtx (id tenant launch node region tileIdx : Nat) (pc : Word) : Ctx :=
  { id := id, tenant := tenant, launch := launch, node := node, region := region, tileIdx := tileIdx, lock := false,
    phase := .fetching, pc := pc, resume := none, handlerResume := none, handlerHeld := [],
    lastBlk := 0, via := .node, g := Vector.replicate 64 0, k := Vector.replicate 16 .zero, ports := Vector.replicate 8 .reset,
    v := Vector.replicate 32 0, m := Vector.replicate 8 0, acc := [], front := .reset, shadow := .reset,
    codebook := 0, atten := 0, attenSrc := 0, attenRun := false, copyQ := [], vectorQ := [], matrixQ := [],
    riderQ := [], pass := none, flights := [], stopping := none, tcause := 0, tblk := 0, tslot := 0, ttag := 0, tinfo0 := 0, tinfo1 := 0,
    tvec := Config.handler tenant &&& ~~~63#64, treta := 0, after := false, async := false, inh := false, haltedEntry := false,
    fflags := 0, keys := 0, rbSlot := 0, rbTag := 0, replay := [], atomics := [], heldVals := [], heldv := [], ev := false, fenced := false,
    arrival := Vector.replicate 4 none, pendingTraps := [], stopV := false, stopM := false }

/-- g register n: g0 reads as zero (R102). -/
def Ctx.greg (c : Ctx) (n : Nat) : Word := if n = 0 then 0 else c.g[n]?.getD 0

/-- Write g register n: a write of g0 is discarded (R102). -/
def Ctx.setG (c : Ctx) (n : Nat) (v : Word) : Ctx := if n = 0 then c else { c with g := c.g.setIfInBounds n v }

/-- k register n (R102). -/
def Ctx.kreg (c : Ctx) (n : Nat) : CapReg := c.k[n]?.getD CapReg.zero

/-- Write k register n. -/
def Ctx.setK (c : Ctx) (n : Nat) (v : CapReg) : Ctx := { c with k := c.k.setIfInBounds n v }

/-- Stream port n (R280). -/
def Ctx.port (c : Ctx) (n : Nat) : SPort := c.ports[n]?.getD SPort.reset

/-- Change stream port n. -/
def Ctx.modPort (c : Ctx) (n : Nat) (f : SPort → SPort) : Ctx :=
  { c with ports := c.ports.setIfInBounds n (f (c.port n)) }

/-- Vector register n (R245). -/
def Ctx.vreg (c : Ctx) (n : Nat) : VecReg := c.v[n]?.getD 0

/-- Write vector register n. -/
def Ctx.setV (c : Ctx) (n : Nat) (x : VecReg) : Ctx := { c with v := c.v.setIfInBounds n x }

/-- Mask register n (R245). -/
def Ctx.mreg (c : Ctx) (n : Nat) : MaskReg := c.m[n]?.getD 0

/-- Write mask register n. -/
def Ctx.setM (c : Ctx) (n : Nat) (x : MaskReg) : Ctx := { c with m := c.m.setIfInBounds n x }

/-- Accumulator entry: row r, column j (R239). -/
def Ctx.accAt (c : Ctx) (r j : Nat) : Acc := tget 0 c.acc (128 * r + j)

/-- Write an accumulator entry. -/
def Ctx.setAcc (c : Ctx) (r j : Nat) (x : Acc) : Ctx := { c with acc := tset 0 c.acc (128 * r + j) x }

/-- Queue q of the context, numbered as queue sets number them (R206). -/
def Ctx.queue (c : Ctx) (q : Nat) : List QEntry :=
  match q with
  | 0 => c.copyQ
  | 1 => c.vectorQ
  | 2 => c.matrixQ
  | _ => c.riderQ

/-- Replace queue q. -/
def Ctx.setQueue (c : Ctx) (q : Nat) (es : List QEntry) : Ctx :=
  match q with
  | 0 => { c with copyQ := es }
  | 1 => { c with vectorQ := es }
  | 2 => { c with matrixQ := es }
  | _ => { c with riderQ := es }

/-! ### Capability fields (R137) -/

/-- BASE. -/
def CapReg.base (c : CapReg) : Word := c.bits.extractLsb' 0 64
/-- LENGTH. -/
def CapReg.length (c : CapReg) : Nat := (c.bits.extractLsb' 64 40).toNat
/-- PERMS. -/
def CapReg.perms (c : CapReg) : BitVec 12 := c.bits.extractLsb' 104 12
/-- SPACE: 0 L, 1 G, 2 S, 3 C (R136). -/
def CapReg.space (c : CapReg) : Nat := (c.bits.extractLsb' 116 2).toNat
/-- LOCK. -/
def CapReg.lock (c : CapReg) : Nat := (c.bits.extractLsb' 118 4).toNat
/-- The reserved bits [127:122]. -/
def CapReg.rsv (c : CapReg) : BitVec 6 := c.bits.extractLsb' 122 6

/-- A capability from its fields. -/
def CapReg.make (space : Nat) (base : Word) (length : Nat) (perms : BitVec 12) (lock : Nat) (tag : Bool) : CapReg :=
  { bits := 0#6 ++ BitVec.ofNat 4 lock ++ BitVec.ofNat 2 space ++ perms ++ BitVec.ofNat 40 length ++ base, tag := tag }

/-- The region of a launch. -/
def State.regionOf (s : State) (launch region : Nat) : Option Region :=
  match s.launches.find? (fun l => l.id == launch) with
  | some l => l.regions.find? (fun r => r.region == region)
  | none => none

/-- Change a region of a launch. -/
def State.modRegion (s : State) (launch region : Nat) (g : Region → Region) : State :=
  { s with launches := s.launches.map (fun l =>
      if l.id == launch then { l with regions := l.regions.map (fun r => if r.region == region then g r else r) }
      else l) }

/-- A fresh barrier of a region of n tiles (R85). -/
def Barrier.reset (n : Nat) : Barrier := { count := n, phase := 0, arrivals := 0 }

/-- Barrier b of a context's region. -/
def State.barrierOf (s : State) (c : Ctx) (b : Nat) : Barrier :=
  match s.regionOf c.launch c.region with
  | some r => r.bars[b]?.getD (Barrier.reset 0)
  | none => Barrier.reset 0

/-! ### Keys and the mapped block -/

/-- The tag a trap record carries for a key: all ones for a block-wide source (R298). -/
def keyTag (k : Key) : Tag := k.getD 0xFFFFFFFF

/-- The address of the block mapped on tile t. -/
def blockAddr (s : State) (t : Nat) : Word :=
  match (s.fabric t).blk with
  | some b => b.addr
  | none => 0

/-- The block mapped on tile t iterates. -/
def isLoop (s : State) (t : Nat) : Bool :=
  match (s.fabric t).blk with
  | some b => b.loop
  | none => false

/-- The block mapped on tile t is a SUPERVISOR block. -/
def isSupervisor (s : State) (t : Nat) : Bool :=
  match (s.fabric t).blk with
  | some b => b.supervisor
  | none => false

/-- Change an owned queue. -/
def State.modQueue (s : State) (f q : Nat) (g : Queue → Queue) : State :=
  { s with queues := s.queues.map (fun x => if x.tenant = f ∧ x.index = q ∧ x.st ≠ .destroyed then g x else x) }

end Sys2Proof.Machine
end

