-- ==== Sys2Proof/Machine/Events.lean ====
section
/-! DEFINITION. The event matcher (R46). A kick's key is its queue's index above its tenant, 8,192 to a tenant; a page
request's is its leaf's host address above its tenant; a mailbox transition's is its word's address. -/

namespace Sys2Proof.Machine

/-- The key of a queue's kick. -/
def kickKey (f q : Nat) : Nat := 8192 * f + q

/-- The key of a page request. -/
def pageKey (f leaf : Nat) : Nat := 16 * leaf + f

/-- An armed entry matches an event. -/
def entryMatches (kind : EventKind) (key : Nat) (e : Nat × MatchEntry) : Bool := e.2.kind == kind && e.2.key == key

/-- Disarm the entries that match an event; their cookies enter the ready queue in increasing entry index. -/
def takeMatches (m : Matcher) (kind : EventKind) (key : Nat) : Matcher :=
  { m with
    armed := m.armed.filter (fun e => !entryMatches kind key e)
    ready := m.ready ++ (m.armed.filter (entryMatches kind key)).map (fun e => e.2.cookie) }

/-- The place of a kind in the order in which events of one puppeteer cycle are taken (R46). -/
def kindOrder (k : EventKind) : Nat :=
  match k with
  | .timer => 0
  | .graphDone => 1
  | .mailbox => 2
  | .pageRequest => 3
  | .kick => 4
  | .other => 5

/-- One event before another among those of one puppeteer cycle (R46). -/
def eventBefore (a b : EventKind × Nat) : Bool :=
  decide (kindOrder a.1 < kindOrder b.1) || (decide (kindOrder a.1 = kindOrder b.1) && decide (a.2 ≤ b.2))

/-- Put an event in its place among those of one cycle. -/
def insertEvent (e : EventKind × Nat) : List (EventKind × Nat) → List (EventKind × Nat)
  | [] => [e]
  | x :: rest => if eventBefore x e then x :: insertEvent e rest else e :: x :: rest

/-- The matcher as an arrival at a time finds it: what came at an earlier time is settled. -/
def Matcher.at_ (m : Matcher) (now : Nat) : Matcher := if m.cycle = now then m else { m with cycle := now, came := [], kept := 0 }

/-- An event disarms the entries that it matches; their cookies enter the ready queue in increasing entry index, ahead of those of
events of the same cycle that come after it in the order of R46 (R46, R415). -/
def matchArrival (m : Matcher) (e : EventKind × Nat) : Matcher :=
  let cookies := (m.armed.filter (entryMatches e.1 e.2)).map (fun x => x.2.cookie)
  let later := m.came.filter (fun x => !eventBefore x.1 e)
  let back := (later.map (fun x => x.2)).sum
  let n := m.ready.length - back
  { m with
    armed := m.armed.filter (fun x => !entryMatches e.1 e.2 x)
    ready := m.ready.take n ++ cookies ++ m.ready.drop n
    came := m.came.filter (fun x => eventBefore x.1 e) ++ [(e, cookies.length)] ++ later }

/-- An event enters the hold queue, in its place among those of the same cycle (R46, R415); a 65th entry is held back: none where
it is the event itself. -/
def holdArrival (m : Matcher) (e : EventKind × Nat) : Option Matcher :=
  let n := m.held.length - m.kept
  let held := m.held.take n ++ insertEvent e (m.held.drop n)
  if m.held.length < 64 then some { m with held := held, kept := m.kept + 1 }
  else
    match held.getLast? with
    | some last => if last = e then none else some { m with held := held.dropLast, waiting := m.waiting ++ [last] }
    | none => none

/-- An event arrives (R46): none where its source is held back by a full hold queue. A kick that matches no entry sets its
queue's pending bit. -/
def eventArrives (s : State) (kind : EventKind) (key : Nat) : Option State :=
  let m := s.matcher.at_ s.now
  if m.armed.any (entryMatches kind key) then some { s with matcher := matchArrival m (kind, key) }
  else if kind = .kick then
    some { s with queues := s.queues.map (fun q => if kickKey q.tenant q.index = key then { q with pending := true } else q) }
  else (holdArrival m (kind, key)).map (fun m => { s with matcher := m })

/-- An event of a source that waits, held back, while the hold queue is full (R46: no event is dropped). -/
def raise (s : State) (kind : EventKind) (key : Nat) : State :=
  match eventArrives s kind key with
  | some s => s
  | none => { s with matcher := { s.matcher with waiting := s.matcher.waiting ++ [(kind, key)] } }

/-- Events that were held back arrive, those that find the hold queue full again still held back. -/
def letIn (s : State) : State :=
  let ws := s.matcher.waiting.foldl (fun l e => insertEvent e l) []
  ws.foldl (fun s e => raise s e.1 e.2) { s with matcher := { s.matcher with waiting := [] } }

/-- The entry that an arming takes: the lowest free one (R46, log 96). -/
def freeMatch (m : Matcher) : Option Nat := (List.range 512).find? (fun i => !m.armed.any (fun e => e.1 == i))

/-- Put an armed entry in its place. -/
def armEntry (i : Nat) (e : MatchEntry) : List (Nat × MatchEntry) → List (Nat × MatchEntry)
  | [] => [(i, e)]
  | x :: rest => if i < x.1 then (i, e) :: x :: rest else x :: armEntry i e rest

/-- Match the events of the hold queue again, oldest first (R46); what has come in this cycle is settled by it. -/
def rematch (m : Matcher) : Matcher :=
  m.held.foldl (fun m h =>
    if m.armed.any (entryMatches h.1 h.2) then takeMatches m h.1 h.2 else { m with held := m.held ++ [h] })
    { m with held := [], came := [], kept := 0 }

/-- EVENT_ARM (R46): the puppeteer arms the lowest free entry, the events of the hold queue are matched again, and those held
back come in where there is room now. A 513th entry is refused, which the firmware sees. -/
def execEventArm (kind : EventKind) (key : Nat) (cookie : BitVec 32) (s : State) : Out :=
  match freeMatch s.matcher with
  | none => .next (s.emit .armRefused)
  | some i =>
    let m := { s.matcher with armed := armEntry i { kind := kind, key := key, cookie := cookie } s.matcher.armed }
    .next (letIn { s with matcher := rematch m })

/-- The puppeteer is to decide (R64): its decision comes next. -/
def demandDecision (s : State) : State := { s with agenda := .ev .schedulingDecision :: s.agenda }

/-- EVENT_ARRIVAL (R46): an event from a source; a full hold queue holds it back. A kick event makes the puppeteer decide
(R64). -/
def execEventArrival (kind : EventKind) (key : Nat) (s : State) : Out :=
  let s := raise s kind key
  .next (match kind with
    | .kick => demandDecision s
    | .timer | .graphDone | .mailbox | .pageRequest | .other => s)

end Sys2Proof.Machine
end

