-- ==== Sys2Proof/Machine/Translate.lean ====
section
/-! DEFINITION. Translation of G addresses: the five-level walk, the TLB slices and walk caches, and where a leaf puts
an access (R148, R150 to R158). -/

namespace Sys2Proof.Machine

/-! ### Host memory as the device reads it (R417) -/

/-- How the host's completer answers a read. -/
inductive HostAnswer where
  | good
  | poisoned
  | failed
  deriving DecidableEq, Repr

/-- The answer for `n` bytes at `a`: a failure anywhere in the range wins. -/
def hostAnswer (s : State) (a n : Nat) : HostAnswer :=
  let hit := s.hostBad.filter (fun r => decide (r.1 < a + n) && decide (a < r.2.1))
  if hit.any (fun r => !r.2.2) then .failed else if hit.any (fun r => r.2.2) then .poisoned else .good

/-! ### Entries (R151) -/

/-- The lowest address bit that a level's index covers (R150). -/
def levelShift (level : Nat) : Nat :=
  match level with
  | 0 => 48
  | 1 => 39
  | 2 => 30
  | 3 => 21
  | _ => 16

/-- The number of entries of a table at a level (R150). -/
def levelEntries (level : Nat) : Nat := if level = 4 then 32 else 512

/-- V. -/
def pteValid (e : Word) : Bool := e.getLsbD 0
/-- LEAF. -/
def pteLeaf (e : Word) : Bool := e.getLsbD 1
/-- RES. -/
def pteRes (e : Word) : Bool := e.getLsbD 2
/-- READ. -/
def pteRead (e : Word) : Bool := e.getLsbD 3
/-- WRITE. -/
def pteWrite (e : Word) : Bool := e.getLsbD 4
/-- EXEC. -/
def pteExec (e : Word) : Bool := e.getLsbD 5
/-- KIND: 0 host, 1 device, 2 sweep. -/
def pteKind (e : Word) : Nat := (e.extractLsb' 6 2).toNat
/-- PA, as an address. -/
def ptePa (e : Word) : Nat := 256 * (e.extractLsb' 8 48).toNat

/-- The end of the tiles' scratchpads in device memory (R152). -/
def scratchEnd : Nat := 0x30000000
/-- The mailbox page of tenant 0 (R61). -/
def mailboxBase : Nat := 0x00FF00000000

/-- A KIND 01 leaf's page lies wholly in one of its targets (R152). -/
def devicePageOk (pa shift : Nat) : Bool :=
  (decide (shift ≤ 21) && decide (pa + 2 ^ shift ≤ scratchEnd)) ||
  (decide (shift = 16) && decide (mailboxBase ≤ pa) && decide (pa < mailboxBase + 16 * 0x10000))

/-- A present entry is malformed at its level (R151, R152, R175). -/
def pteMalformed (e : Word) (level : Nat) : Bool :=
  let pa := ptePa e
  let shift := levelShift level
  decide (e.extractLsb' 56 8 ≠ 0) ||
  (if pteLeaf e then
    decide (level < 2) || decide (pteKind e = 3) ||
    (pteRes e && decide (pteKind e ≠ 2)) ||
    (if pteKind e = 2 ∧ pteRes e = false then false
     else decide (pa % 2 ^ shift ≠ 0) ||
      (if pteKind e = 2 then decide (pa ≥ 2 ^ 39) else if pteKind e = 1 then !devicePageOk pa shift else false))
  else
    decide (level ≥ 4) || decide (e.extractLsb' 2 6 ≠ 0) || decide (level < 3 ∧ pa % 4096 ≠ 0))

/-- A leaf with its level and the host address of its entry (0 where a cached copy served). -/
structure Leaf where
  pte : Word
  level : Nat
  at_ : Nat
  deriving DecidableEq, Repr

/-- log2 of a leaf's page size. -/
def Leaf.shift (l : Leaf) : Nat := levelShift l.level

/-! ### The walk (R150, R153) -/

/-- The generation of an ASID (R158). -/
def asidGeneration (s : State) (asid : Nat) : Nat := tget 0 s.asidGen asid

/-- The table root of a tenant (R39). -/
def rootOf (s : State) (f : Nat) : Nat := 4096 * (s.tenant f).root.toNat

/-- The ASID of a tenant (R39). -/
def asidOf (s : State) (f : Nat) : Nat := (s.tenant f).asid.toNat

/-- Walk from `level` at table `table`: the leaf with the non-leaf entries passed, or the cause and level of the fault.
A walk cache entry of the given ASID and generation serves in place of a table read (R154). -/
def walkFrom (s : State) (cache : List WalkEntry) (asid gen : Nat) (va : Nat) :
    Nat → Nat → Nat → Except (Nat × Nat) (Leaf × List WalkEntry)
  | 0, _, level => .error (0x30, level)
  | fuel + 1, table, level =>
    let vtop := va / 2 ^ levelShift level
    let at_ := table + 8 * (vtop % levelEntries level)
    let step (e : Word) (cached : Bool) : Except (Nat × Nat) (Leaf × List WalkEntry) :=
      if pteValid e = false then .error (0x21, level)
      else if pteMalformed e level then .error (0x30, level)
      else if pteLeaf e then .ok ({ pte := e, level := level, at_ := at_ }, [])
      else
        match walkFrom s cache asid gen va fuel (ptePa e) (level + 1) with
        | .error x => .error x
        | .ok (l, ws) =>
          .ok (l, if cached then ws
                  else { asid := asid, gen := gen, level := level, vtop := vtop, pte := e } :: ws)
    match cache.find? (fun w => w.asid == asid && w.gen == gen && w.level == level && w.vtop == vtop) with
    | some w => step w.pte true
    | none =>
      if hostAnswer s at_ 8 ≠ .good then .error (0x32, level)
      else step (BitVec.ofNat 64 (mread s.host at_ 8)) false

/-! ### Slices (R154 to R156) -/

/-- The slice that owns a virtual address (R154). -/
def owningSlice (va : Nat) : Nat :=
  let vpn := (va / 65536) % 2 ^ 41
  let f := (vpn % 65536) ^^^ ((vpn / 65536) % 65536) ^^^ (vpn / 2 ^ 32)
  f * 192 / 65536

/-- The entries of a slice that match an address, smallest page first (R155, R156). -/
def tlbMatches (es : List TlbEntry) (asid gen va : Nat) : List TlbEntry :=
  let hit (shift : Nat) := es.filter (fun e =>
    e.asid == asid && e.gen == gen && e.shift == shift && e.vpage == va / 2 ^ shift)
  hit 16 ++ hit 21 ++ hit 30

/-- The level of a page size. -/
def levelOfShift (shift : Nat) : Nat := if shift = 16 then 4 else if shift = 21 then 3 else 2

/-- The set of a slice that a translation takes (log 16: the spec gives the sets and ways, not the index). -/
def tlbSet (vpage : Nat) : Nat := vpage % 256

/-- Install a translation: a full set gives up a free choice of its entries (R155, log 16). -/
def tlbInstall (s : State) (slice : Nat) (e : TlbEntry) : State :=
  let es := (s.tile slice).tlb
  let inSet := es.filter (fun x => tlbSet x.vpage == tlbSet e.vpage)
  if inSet.length < 8 then s.modTile slice (fun x => { x with tlb := es ++ [e] })
  else
    let (n, s) := s.drawNat
    let victim := inSet[n % inSet.length]?
    s.modTile slice (fun x => { x with tlb := (es.filter (fun y => some y ≠ victim)) ++ [e] })

/-- Translate a virtual address in a tenant's tables under an ASID (R150 to R158): the leaf, or the cause and walk level. A
hit is served by the owning slice; a miss walks and installs, except a sweep leaf that is not resident (R175). -/
def translateAs (s : State) (f asid va : Nat) : State × Except (Nat × Nat) Leaf :=
  let gen := asidGeneration s asid
  let slice := owningSlice va
  match tlbMatches (s.tile slice).tlb asid gen va with
  | e :: larger =>
    (s.modTile slice (fun x => { x with tlb := x.tlb.filter (fun y => !larger.contains y) }),
     .ok { pte := e.pte, level := levelOfShift e.shift, at_ := 0 })
  | [] =>
    match walkFrom s (s.tile slice).walks asid gen va 5 (rootOf s f) 0 with
    | .error x => (s, .error x)
    | .ok (l, ws) =>
      let s := s.modTile slice (fun x => { x with walks := x.walks ++ ws })
      if pteKind l.pte = 2 ∧ pteRes l.pte = false then (s, .ok l)
      else (tlbInstall s slice { asid := asid, gen := gen, shift := l.shift, vpage := va / 2 ^ l.shift, pte := l.pte },
            .ok l)

/-- Translate a virtual address for a tenant under its local ASID (R39). -/
def translate (s : State) (f : Nat) (va : Nat) : State × Except (Nat × Nat) Leaf := translateAs s f (asidOf s f) va

/-- What an access needs of its leaf (R153). -/
inductive Access where
  | read
  | write
  | readWrite
  | fetch
  deriving DecidableEq, Repr

/-- The leaf grants the access (R153). -/
def leafGrants (e : Word) (a : Access) : Bool :=
  match a with
  | .read => pteRead e
  | .write => pteWrite e
  | .readWrite => pteRead e && pteWrite e
  | .fetch => pteExec e

/-- Where a device address lies (R152): scratchpads below, mailbox words and the rest of their pages above. -/
def devicePlace (pa : Nat) : Place :=
  if pa < scratchEnd then .scratch (pa / 0x400000) (pa % 0x400000)
  else
    let f := (pa - mailboxBase) / 0x10000
    let off := (pa - mailboxBase) % 0x10000
    if off < 0x2000 then .mailbox f (off / 8) else .mailboxHole

/-- Translate and check an access to a G address under an ASID (R148, R153): its place, or the cause and walk level. -/
def translateAccessAs (s : State) (f asid va : Nat) (a : Access) : State × Except (Nat × Nat) Place :=
  match translateAs s f asid va with
  | (s, .error x) => (s, .error x)
  | (s, .ok l) =>
    if pteKind l.pte = 2 then (s, .error (0x2C, 0))
    else if leafGrants l.pte a = false then (s, .error (0x22, l.level))
    else
      let pa := ptePa l.pte + va % 2 ^ l.shift
      if pteKind l.pte = 0 then (s, .ok (.host pa))
      else
        match devicePlace pa with
        | .scratch t off => if off ≥ 0x3E0000 then (s, .error (0x22, l.level)) else (s, .ok (.scratch t off))
        | p => (s, .ok p)

/-- Translate and check an access of a tenant's own, under its local ASID. -/
def translateAccess (s : State) (f : Nat) (va : Nat) (a : Access) : State × Except (Nat × Nat) Place :=
  translateAccessAs s f (asidOf s f) va a

/-! ### Removal (R157, R158, R377, R40) -/

/-- Remove from every slice, walk cache and block cache what a test names. -/
def removeCached (s : State) (tlb : TlbEntry → Bool) (walk : WalkEntry → Bool) (blk : BlockLine → Bool) : State :=
  { s with tiles := s.tiles.map (fun x =>
      { x with tlb := x.tlb.filter (fun e => !tlb e), walks := x.walks.filter (fun e => !walk e),
               bcache := x.bcache.filter (fun e => !blk e) }) }

/-- Remove every cached entry of an ASID. -/
def removeAsid (s : State) (asid : Nat) : State :=
  removeCached s (fun e => e.asid == asid) (fun e => e.asid == asid) (fun e => e.asid == asid)

/-- Remove every cached entry of a tenant, those under its local ASID and those that requests of far members made under its
league ASID (R26, R40). -/
def removeTenant (s : State) (f : Nat) : State :=
  removeAsid (removeAsid s (asidOf s f)) (s.tenant f).lasid.toNat

/-- Remove every cached entry. -/
def removeAll (s : State) : State := removeCached s (fun _ => true) (fun _ => true) (fun _ => true)

/-- Remove the entries of an ASID that cover the 64 KiB granule of an address, every walk-cache entry of the ASID, and
the block-cache lines within the removed pages and the granule (R377). -/
def removePage (s : State) (asid va : Nat) : State :=
  let granule := va / 65536
  let covers (e : TlbEntry) : Bool := e.asid == asid && decide (e.vpage = granule / 2 ^ (e.shift - 16))
  let removed := s.tiles.toList.flatMap (fun x => x.tlb.filter covers)
  removeCached s covers (fun e => e.asid == asid)
    (fun b => b.asid == asid &&
      (decide (b.vline / 1024 = granule) || decide (64 * b.vline / 2 ^ b.shift = va / 2 ^ b.shift) || removed.any (fun e => decide (64 * b.vline / 2 ^ e.shift = e.vpage))))

/-- A tenant's page loses its cached entries under both of the tenant's ASIDs (R26, R182). -/
def removeTenantPage (s : State) (f va : Nat) : State :=
  removePage (removePage s (asidOf s f) va) (s.tenant f).lasid.toNat va

/-- The next generation of an ASID; at the wrap every entry of the ASID is removed first (R158). -/
def bumpAsid (s : State) (asid : Nat) : State :=
  let g := (asidGeneration s asid + 1) % 256
  let s := if g = 0 then removeAsid s asid else s
  { s with asidGen := tset 0 s.asidGen asid g }

end Sys2Proof.Machine
end

