-- ==== Sys2Proof/Machine/Control.lean ====
section
/-! DEFINITION. The module control block (R25, R39, R40, R50, R51, R309) and the slew registers (R89), with the
violation logs and MSI-X signals that writes to them can raise (R42 to R44). The PF reaches the block in BAR0,
supervisor code in space C. -/

namespace Sys2Proof.Machine

/-! ### Signals and violations -/

/-- Signal an MSI-X vector of a function: a masked vector sets its pending bit instead (R44). -/
def signalMsix (s : State) (f vec : Nat) : State :=
  let x := s.tenant f
  let m := x.msix[vec]?.getD MsixEntry.reset
  if m.mask then s.modTenant f (fun x => { x with pba := x.pba ||| (1#64 <<< vec) })
  else s.emit (.msix f vec m.addr m.data)

/-- The bits of TNSTAT that a tenant's own registers hold, TRIP apart (R41). -/
def tnstat (s : State) (f : Nat) : Word :=
  let x := s.tenant f
  0#60 ++ BitVec.ofBool s.ctl.trip ++ BitVec.ofBool x.linkev ++ BitVec.ofBool x.fwev ++ BitVec.ofBool x.viol

/-- Change a tenant's registers and signal the event vector where a bit of TNSTAT rose (R44). -/
def raiseEvent (s : State) (f : Nat) (g : Tenant → Tenant) : State :=
  let before := tnstat s f
  let s := s.modTenant f g
  if (tnstat s f) &&& ~~~before ≠ 0 then signalMsix s f 0 else s

/-- An entry of the violation log (R43). -/
def logEntry (seq : BitVec 8) (kind : Nat) (addr : Word) (member : Nat) : BitVec 128 :=
  0#21 ++ BitVec.ofNat 11 member ++ 0#16 ++ seq ++ BitVec.ofNat 8 kind ++ addr

/-- An entry of the log with the next sequence number. -/
def laterEntry (e : BitVec 128) : BitVec 128 := e.extractLsb' 80 48 ++ (e.extractLsb' 72 8 + 1) ++ e.extractLsb' 0 72

/-- A violation is found with the log full: LOST counts it (R43). -/
def loseEntry (x : Tenant) : Tenant := { x with lost := if x.lost = BitVec.allOnes 32 then x.lost else x.lost + 1 }

/-- Put an entry behind the others of the log, or count it as lost (R43). -/
def appendEntry (x : Tenant) (kind : Nat) (addr : Word) (member : Nat) : Tenant :=
  if x.count ≥ 16 then loseEntry x
  else
    { x with vlog := x.vlog.setIfInBounds ((x.head.toNat + x.count) % 16) (logEntry x.seq kind addr member),
             count := x.count + 1, seq := x.seq + 1, viol := true }

/-- Put an entry before the last `k`, which move on by one; from a full log the last of them is lost (R43). -/
def insertEntry (x : Tenant) (k kind : Nat) (addr : Word) (member : Nat) : Tenant :=
  let at_ (i : Nat) : Nat := (x.head.toNat + x.count - k + i) % 16
  let last := (List.range k).map (fun i => x.vlog[at_ i]?.getD 0)
  let room := min (k + 1) (16 - (x.count - k))
  let es := (logEntry (x.seq - BitVec.ofNat 8 k) kind addr member :: last.map laterEntry).take room
  let x := if room ≤ k then loseEntry x else { x with count := x.count + 1, seq := x.seq + 1 }
  { x with vlog := es.zipIdx.foldl (fun v e => v.setIfInBounds (at_ e.2) e.1) x.vlog, viol := true }

/-- Log a violation (R41 to R43, R46): an entry and VIOL while there is room, LOST otherwise; its event goes to the puppeteer. Entries
stand in the order of detection, but that a host-side one goes before the Volong side's, of kinds 6 and 7, of the same moment (R43,
R415; log 107). -/
def logViolation (s : State) (f kind : Nat) (addr : Word) (member : Nat) : State :=
  raiseEvent (raise s .other (Config.violationSource f)) f (fun x =>
    let far := if x.logAt = s.now then min x.logFar x.count else 0
    if kind < 6 ∧ 0 < far then
      { insertEntry x far kind addr member with logFar := min far (16 - (x.count - far) - 1) }
    else { appendEntry x kind addr member with logAt := s.now, logFar := if kind < 6 ∨ 16 ≤ x.count then far else far + 1 })

/-- Clear W1C bits of TNSTAT: bits 1 and 2 belong to the physical function alone (R41). -/
def tnstatClearBits (s : State) (f : Nat) (v : Word) : State :=
  s.modTenant f (fun x => { x with
    viol := x.viol && !v.getLsbD 0
    fwev := x.fwev && !(v.getLsbD 1 && f == 0)
    linkev := x.linkev && !(v.getLsbD 2 && f == 0) })

/-- Write VLOGCTL.HEAD: the entries passed over are released (R43). -/
def writeHead (s : State) (f : Nat) (v : BitVec 4) : State :=
  s.modTenant f (fun x => { x with head := v, count := x.count - min (v - x.head).toNat x.count })

/-! ### Reading the block -/

/-- Queues that a tenant owns (R52). -/
def queuesOf (s : State) (f : Nat) : List Queue := s.queues.filter (fun q => q.tenant == f && decide (q.st ≠ .destroyed))

/-- TENCFG (R39). -/
def tencfg (s : State) (f : Nat) : Word :=
  let x := s.tenant f
  BitVec.ofBool (x.en || f == 0) ++ 0#2 ++ x.qmax ++ 0#4 ++ BitVec.ofBool x.lgon ++ x.ceil ++ 0#8 ++ x.lasid ++ x.asid

/-- TENPT (R39). -/
def tenpt (s : State) (f : Nat) : Word := (s.tenant f).root ++ 0#12

/-- PUPSTAT.STATE's code (R39). -/
def pupCode (p : PupState) : BitVec 4 :=
  match p with
  | .reset => 0
  | .bootrom => 1
  | .bringup => 2
  | .running => 3
  | .activating => 4
  | .failed => 5
  | .tripped => 6

/-- LGCTL (R25). -/
def lgctl (s : State) : Word :=
  let c := s.ctl
  let up : BitVec 18 := (List.range 18).foldl (fun v p =>
    if (c.ports[p]?.getD VPort.reset).up then v ||| (1#18 <<< p) else v) 0
  0#14 ++ up ++ 0#5 ++ c.mcnt ++ 0#4 ++ BitVec.ofBool c.lgen ++ c.midx

/-- VLSTAT of a port (R25). -/
def vlstat (s : State) (p : Nat) : Word :=
  let x := s.ctl.ports[p]?.getD VPort.reset
  x.replays ++ 0#30 ++ BitVec.ofBool x.downev ++ BitVec.ofBool x.up

/-- The register at an 8-byte offset of the module control block, none for an offset that R39 does not map. -/
def ctlRegister (s : State) (off : Nat) : Option Word :=
  let c := s.ctl
  match off with
  | 0x0000 => some (0#32 ++ 0x9400#16 ++ 0x00#8 ++ 0x01#8)
  | 0x0008 => some (0#16 ++ c.wdcnt ++ c.hbeat ++ 0#7 ++ BitVec.ofBool c.trip ++ 0#4 ++ pupCode c.pup)
  | 0x0010 => some (c.fwstage ++ 0#12)
  | 0x0018 => some (c.fwlen ++ 0#8 ++ c.fwstatus ++ 0#14 ++ BitVec.ofBool c.dupgo ++ 0#1)
  | 0x0020 => some 0x0003
  | 0x0028 => some (c.tserv.setWidth 64)
  | 0x0030 => some (0#16 ++ c.lasting ++ c.trans)
  | 0x0038 => some (0#47 ++ BitVec.ofBool c.relValid ++ c.relTile ++ c.relCause)
  | 0x0040 => some (c.tfence.extractLsb' 0 64)
  | 0x0048 => some (c.tfence.extractLsb' 64 64)
  | 0x0050 => some (c.tfence.extractLsb' 128 64)
  | 0x0100 => some (lgctl s)
  | 0x0108 => some (c.accid.setWidth 64)
  | _ =>
    if 0x0200 ≤ off ∧ off < 0x0290 then some (vlstat s ((off - 0x0200) / 8))
    else if 0x0400 ≤ off ∧ off < 0x0500 then
      some (if off % 16 = 0 then tencfg s ((off - 0x0400) / 16) else tenpt s ((off - 0x0400) / 16))
    else if 0x0800 ≤ off ∧ off < 0x0830 then some (c.attnonce.extractLsb' (8 * (off - 0x0800)) 64)
    else if off = 0x0830 then some (0#61 ++ BitVec.ofBool c.attBusy ++ BitVec.ofBool c.attDone ++ 0#1)
    else if 0x1000 ≤ off ∧ off < 0x2000 then some (BitVec.ofNat 64 (mread c.attrep (off - 0x1000) 8))
    else none

/-- A 4-byte or 8-byte part of a register. -/
def partOf (v : Word) (off size : Nat) : Word := if size = 8 then v else ((v >>> (8 * (off % 8))).setWidth 32).setWidth 64

/-- The bits of the register that a write of `size` bytes at `off` covers. -/
def writtenMask (off size : Nat) : Word := if size = 8 then BitVec.allOnes 64 else 0xFFFFFFFF#64 <<< (8 * (off % 8))

/-- The value a write puts over a register, bits it does not cover kept. -/
def merged (old : Word) (off size : Nat) (v : Word) : Word :=
  let m := writtenMask off size
  (old &&& ~~~m) ||| ((if size = 8 then v else v <<< (8 * (off % 8))) &&& m)

/-! ### Writing the block -/

/-- LGCTL (R24): while EN = 0 the fields are taken, with EN only for a legal membership; while EN = 1 only a clear of
EN is taken and any other write is a violation of kind 5, logged at the offset of the access (R43). -/
def writeLgctl (s : State) (v : Word) (off : Nat) : State :=
  let en := v.getLsbD 11
  if s.ctl.lgen then
    if en then logViolation s 0 5 (BitVec.ofNat 64 off) 0 else s.modCtl (fun c => { c with lgen := false })
  else
    let mcnt := v.extractLsb' 16 11
    let midx := v.extractLsb' 0 11
    s.modCtl (fun c => { c with
      mcnt := mcnt, midx := midx,
      lgen := en && decide (mcnt ≠ 0) && decide (mcnt.toNat ≤ 1152) && decide (midx.toNat < mcnt.toNat) })

/-- Some context-store entry holds a context of a tenant. -/
def tenantHasEntry (s : State) (f : Nat) : Bool :=
  s.tiles.toList.any (fun x => x.entries.toList.any (fun e =>
    decide (e.st ≠ .free) && e.tenant == f))

/-- TENCFG.ASID, LASID and TENPT of a tenant are frozen (R40). -/
def translationFrozen (s : State) (f : Nat) : Bool :=
  if f = 0 then !(queuesOf s 0).isEmpty || tenantHasEntry s 0 else (s.tenant f).en

/-- TENCFG (R40): frozen fields keep their values, and a write that covers them is a violation of kind 2 in the PF's log
(log 18);
an accepted change of the ASID or the LASID first removes every cached entry of the old and new one; a fall of EN tears the tenant
down as a function-level reset does. `off` is the offset logged. -/
def writeTencfg (s : State) (f : Nat) (v : Word) (off : Nat) : State :=
  let old := s.tenant f
  let asid := v.extractLsb' 0 16
  let lasid := v.extractLsb' 16 16
  let en := v.getLsbD 63 || f == 0
  let frozen := translationFrozen s f
  let s := if frozen && decide (off % 8 = 0) then logViolation s 0 2 (BitVec.ofNat 64 off) 0 else s
  let s := s.modTenant f (fun x => { x with
    en := en, qmax := v.extractLsb' 48 13, lgon := v.getLsbD 43, ceil := v.extractLsb' 40 3 })
  let s :=
    if frozen then s
    else
      let s := if asid ≠ old.asid then removeAsid (removeAsid s old.asid.toNat) asid.toNat else s
      let s := if lasid ≠ old.lasid then removeAsid (removeAsid s old.lasid.toNat) lasid.toNat else s
      s.modTenant f (fun x => { x with asid := asid, lasid := lasid })
  if old.en && !en then { s with agenda := .ev (.functionLevelReset f) :: s.agenda } else s

/-- TENPT (R40): as TENCFG's frozen fields; an accepted change removes every cached entry of the tenant's ASIDs. -/
def writeTenpt (s : State) (f : Nat) (v : Word) (off : Nat) : State :=
  let root := v.extractLsb' 12 52
  if translationFrozen s f then logViolation s 0 2 (BitVec.ofNat 64 off) 0
  else (removeTenant s f).modTenant f (fun x => { x with root := root })

/-- FWACT (R50): LEN, DUPGO (write one to clear), GO. A GO while an activation runs sets DUPGO, and after a
thermal trip it starts nothing (R48). -/
def writeFwact (s : State) (v : Word) : State :=
  let s := if v.getLsbD 1 then s.modCtl (fun c => { c with dupgo := false }) else s
  let busy := decide (s.ctl.activation ≠ .none)
  let s := s.modCtl (fun c => { c with fwlen := v.extractLsb' 32 32 })
  if v.getLsbD 0 then
    if busy then s.modCtl (fun c => { c with dupgo := true })
    else if s.ctl.trip then s
    else s.modCtl (fun c => { c with
      activation := .loading, fwstatus := 0x01, goLen := c.fwlen, goAddr := c.fwstage })
  else s

/-- ATTCMD (R51): GO while no report is being made clears DONE, sets BUSY, and takes the nonce as it stands. -/
def writeAttcmd (s : State) (v : Word) : State :=
  if v.getLsbD 0 && !s.ctl.attBusy then s.modCtl (fun c => { c with attDone := false, attBusy := true, attGo := c.attnonce }) else s

/-- VLSTAT's DOWNEV is cleared by writing one (R25). -/
def clearDownev (s : State) (p : Nat) : State :=
  s.modCtl (fun c => { c with
    ports := c.ports.setIfInBounds p { (c.ports[p]?.getD VPort.reset) with downev := false } })

/-- RELLAST's VALID is cleared by writing one (R309). -/
def clearRellast (s : State) : State := s.modCtl (fun c => { c with relValid := false })

/-- Write a nonce word (R51). -/
def writeNonce (s : State) (i : Nat) (v : Word) : State :=
  s.modCtl (fun c =>
    let m : BitVec 384 := (BitVec.allOnes 64).setWidth 384 <<< (64 * i)
    { c with attnonce := (c.attnonce &&& ~~~m) ||| (v.setWidth 384 <<< (64 * i)) })

/-- A write of 4 or 8 bytes at an offset of the module control block by the PF or supervisor code (R38, R39). `none`
where the offset is not mapped; a register whose every field is RO or RSV gives a violation of kind 2 in the PF's
log. -/
def ctlWrite (s : State) (off size : Nat) (v : Word) : Option State :=
  let reg := off - off % 8
  match ctlRegister s reg with
  | none => none
  | some old =>
    let new := merged old off size v
    let set := merged 0 off size v
    let violation := logViolation s 0 2 (BitVec.ofNat 64 off) 0
    match reg with
    | 0x0010 => some (s.modCtl (fun c => { c with fwstage := new.extractLsb' 12 52 }))
    | 0x0018 => some (writeFwact s ((new &&& ~~~3#64) ||| (set &&& 3#64)))
    | 0x0038 => some (if set.getLsbD 16 then clearRellast s else s)
    | 0x0100 => some (writeLgctl s new off)
    | 0x0108 => some (s.modCtl (fun c => { c with accid := new.extractLsb' 0 20 }))
    | _ =>
      if 0x0200 ≤ reg ∧ reg < 0x0290 then some (if set.getLsbD 1 then clearDownev s ((reg - 0x0200) / 8) else s)
      else if 0x0400 ≤ reg ∧ reg < 0x0500 then
        some (if reg % 16 = 0 then writeTencfg s ((reg - 0x0400) / 16) new off
              else writeTenpt s ((reg - 0x0400) / 16) new off)
      else if 0x0800 ≤ reg ∧ reg < 0x0830 then some (writeNonce s ((reg - 0x0800) / 8) new)
      else if reg = 0x0830 then some (writeAttcmd s set)
      else some violation

/-! ### Slew registers (R89) -/

/-- Arrays of a stack that draw current (R89). -/
def drawCount (s : State) (k : Nat) : Nat :=
  ((List.range 48).filter (fun i => (s.tile (48 * k + i)).drawing)).length

/-- SLEWTAB. -/
def slewtab (s : State) (k : Nat) : Word := (s.stack k).dn ++ (s.stack k).up

/-- SLEWSTAT. -/
def slewstat (s : State) (k : Nat) : Word :=
  let x := s.stack k
  0#16 ++ BitVec.ofNat 8 (drawCount s k) ++ (0#1 ++ BitVec.ofNat 3 x.id ++ 0#1 ++ BitVec.ofNat 3 x.iu) ++ x.fill

/-- A write of SLEWTAB is ignored where it makes an entry 0 zero, and else waits for the next step boundary (R89). -/
def writeSlewtab (s : State) (k : Nat) (v : Word) : State :=
  if v.extractLsb' 0 4 = 0 ∨ v.extractLsb' 32 4 = 0 then s else s.modStack k (fun x => { x with write := some v })

/-! ### Space C (R149) -/

/-- A read of 4 or 8 bytes in space C: an offset that is not mapped reads as zero. -/
def controlRead (s : State) (off size : Nat) : Word :=
  let reg := off - off % 8
  if reg < 0x2000 then partOf ((ctlRegister s reg).getD 0) off size
  else if 0x4000 ≤ reg ∧ reg < 0x4310 ∧ reg % 0x100 < 0x10 then
    let k := (reg - 0x4000) / 0x100
    partOf (if reg % 0x100 = 0 then slewtab s k else slewstat s k) off size
  else 0

/-- A write of 4 or 8 bytes in space C (R39, R149): at an offset of the module control block that is not mapped it is the
violation that the PF's would be, elsewhere it is ignored. A SLEWTAB write of 4 bytes is taken over the table that stands, the
waiting one where there is one. -/
def controlWrite (s : State) (off size : Nat) (v : Word) : State :=
  let reg := off - off % 8
  if reg < 0x2000 then (ctlWrite s off size v).getD (logViolation s 0 1 (BitVec.ofNat 64 off) 0)
  else if 0x4000 ≤ reg ∧ reg < 0x4310 ∧ reg % 0x100 = 0 then
    let k := (reg - 0x4000) / 0x100
    writeSlewtab s k (merged ((s.stack k).write.getD (slewtab s k)) off size v)
  else s

end Sys2Proof.Machine
end

