-- ==== Sys2Proof/Machine/Memory.lean ====
section
/-! DEFINITION. Memory as accesses see it: the checks of class M (R139), line and word states (R61, R145 to R147),
host memory (R417), league addresses (R26, R27), and the operations themselves. -/

namespace Sys2Proof.Machine

/-! ### Lines, granules, words -/

/-- The state of line i of tile t (R145). -/
def lineState (s : State) (t i : Nat) : LineState := tget LineState.reset (s.tile t).lines i

/-- Set the state of line i of tile t. -/
def setLine (s : State) (t i : Nat) (l : LineState) : State :=
  s.modTile t (fun x => { x with lines := tset LineState.reset x.lines i l })

/-- The tag bit of granule i of tile t (R143). -/
def granuleTag (s : State) (t i : Nat) : Bool := tget false (s.tile t).gtags i

/-- Set the tag bit of granule i of tile t. -/
def setGranule (s : State) (t i : Nat) (b : Bool) : State :=
  s.modTile t (fun x => { x with gtags := tset false x.gtags i b })

/-- The lines that `n` bytes at `off` touch. -/
def linesOf (off n : Nat) : List Nat :=
  if n = 0 then [] else (List.range ((off + n - 1) / 128 - off / 128 + 1)).map (· + off / 128)

/-- The granules that `n` bytes at `off` touch. -/
def granulesOf (off n : Nat) : List Nat :=
  if n = 0 then [] else (List.range ((off + n - 1) / 16 - off / 16 + 1)).map (· + off / 16)

/-- Put bytes into a scratchpad and clear the tag of every granule they touch (R143). -/
def putScratch (s : State) (t off : Nat) (bs : List Byte) : State :=
  s.modTile t (fun x => { x with
    mem := mwriteBytes x.mem off bs
    gtags := (granulesOf off bs.length).foldl (fun g i => tset false g i false) x.gtags })

/-- `n` bytes at an offset of L space touch the toybox (R120). -/
def inToybox (off n : Nat) : Bool := decide (off < 0x3F0000) && decide (0x3E0000 < off + n)

/-- The low `n` bytes of a number, lowest first. -/
def bytesOf : Nat → Nat → List Byte
  | 0, _ => []
  | n + 1, x => BitVec.ofNat 8 x :: bytesOf n (x / 256)

/-- A record with bytes put in place of those at an offset. -/
def putRecord (r : List Byte) (off : Nat) (bs : List Byte) : List Byte := r.take off ++ bs ++ r.drop (off + bs.length)

/-- A held command whose data have become free values: what VBCST and VINS put, a rider's token and its words V0 and A (R190), and a
fill's pattern (R402). Its addresses, counts and registers stay, so that what its firing has checked still holds (log 22). -/
def freeCommand (v w : Word) (e : QEntry) : QEntry :=
  match e.instr with
  | some (.vbcst _ _) => { e with left := v }
  | some (.vins _ _) => { e with left := v, right := w }
  | some (.cpyfill _ _ _) => { e with record := putRecord e.record 0x20 (bytesOf 8 v.toNat) }
  | some (.riread _ _ _) | some (.rifilt _ _ _) | some (.rimatv _ _ _) | some (.riupd _ _ _) | some (.rired _ _ _)
  | some (.ricxg _ _ _) | some (.riwrite _ _ _) =>
    { e with right := w, record := putRecord e.record 0x20 (bytesOf 8 v.toNat ++ bytesOf 8 w.toNat) }
  | _ => e

/-- A held effect whose value has become a free one. -/
def freeEffect (v w : Word) (e : Effect) : Effect :=
  match e with
  | .store p n _ cap _ => .store p n (w ++ v) cap false
  | .stf p n _ => .stf p n v
  | .stfw p n _ => .stfw p n v
  | .csrw n _ => .csrw n v
  | .command q c => .command q (freeCommand v w c)
  | .flags _ => .flags (v.extractLsb' 0 6)
  | .feclr _ | .feset _ | .sparm _ _ _ | .spdis _ | .spskip _ _ | .binit _ _ | .barr _ | .fence _ _ | .qfence _ => e

/-- The values of WRs have become free ones, from the n-th on. -/
def freeWrs (n : Nat) (ws : List HeldWr) : List HeldWr :=
  ws.zipIdx.map (fun w => { w.1 with val := Config.freeWord (n + w.2), cap := { w.1.cap with tag := false } })

/-- An exit whose target and link have become free values. -/
def freeExit (v w : Word) (e : ExitRec) : ExitRec :=
  match e.dest with
  | .block _ link => { e with dest := .block v (link.map (fun _ => w)) }
  | .halt | .tret => e

/-- A write meets the toybox of a tile while a block is mapped there (R120): the results of that block instance are undefined. The
values of its WRs, those of retired tags among them (R126), of its held stores, commands and flags, of its system calls and of its
exit are free values, and so are the operands of all that fires from here on (log 22). -/
def disturb (s : State) (t : Nat) : State :=
  let x := s.fabric t
  if x.blk.isNone then s
  else
    let n := s.freeCtr
    let k := n + x.wrs.length
    let y := k + x.kept.length
    let e := y + x.sys.length
    let m := e + 2
    { s.modFabric t (fun x => { x with
        disturbed := true
        wrs := freeWrs n x.wrs
        kept := freeWrs k x.kept
        sys := x.sys.zipIdx.map (fun z => { z.1 with val := Config.freeWord (y + z.2) })
        exit := x.exit.map (freeExit (Config.freeWord e) (Config.freeWord (e + 1)))
        held := x.held.zipIdx.map (fun h => { h.1 with
          eff := freeEffect (Config.freeWord (m + 2 * h.2)) (Config.freeWord (m + 2 * h.2 + 1)) h.1.eff }) }) with
      freeCtr := m + 2 * x.held.length }

/-- Write bytes to a scratchpad and clear the tag of every granule they touch (R143). Any write to the toybox of a tile that has a
block mapped disturbs that block (R120). -/
def writeScratch (s : State) (t off : Nat) (bs : List Byte) : State :=
  putScratch (if inToybox off bs.length then disturb s t else s) t off bs

/-- A WFE of the block on a tile waits for the event flag. -/
def waitsForEvent (x : Fabric) : Bool :=
  x.waits.any (fun w => match w.on with
    | .event _ => true
    | _ => false)

/-- The event flag of a tile's context is set (R379): a waiting WFE resolves and clears it at once. -/
def setEv (s : State) (t : Nat) : State :=
  if waitsForEvent (s.fabric t) then
    s.modFabric t (fun x => { x with waits := x.waits.filter (fun w => match w.on with
      | .event _ => false
      | _ => true) })
  else s.modCtx t (fun c => { c with ev := true })

/-- Elements read ahead that a write to a place, or the emptying of its line, touches are discarded (R292). -/
def dropAhead (s : State) (hit : Prefetch → Bool) : State := { s with ahead := s.ahead.filter (fun p => !hit p) }

/-- An acquire of a context discards every element it has read ahead, those still on their way among them (R292). -/
def acquire (s : State) (t : Nat) : State :=
  let s := dropAhead s (fun p => p.tile == t)
  { s with pend := s.pend.filter (fun e => match e.who with
      | .prefetch u _ _ _ => !(u == t)
      | _ => true) }

/-- Set a line full (poison kept or cleared): a fill of a line of the share sets the context's event flag (R145, R379). -/
def fillLine (s : State) (t i : Nat) (poison : Bool) : State :=
  let s := setLine s t i { full := true, poison := poison }
  if i < 31744 then setEv s t else s

/-- Set a line empty, which clears its poison and discards elements of it read ahead (R145, R292). -/
def emptyLine (s : State) (t i : Nat) : State :=
  let here (p : Place) : Bool := match p with
    | .scratch u off => u == t && off / 128 == i
    | _ => false
  let s := dropAhead (setLine s t i { full := false, poison := false }) (fun p => p.place.any here)
  { s with pend := s.pend.filter (fun e => match e.who with
      | .prefetch _ _ _ _ => !(e.got.isSome && here e.place)
      | _ => true) }

/-- A mailbox word (R61). -/
def mailboxWord (s : State) (f m : Nat) : Word := tget 0 (s.tenant f).mbox m

/-- A mailbox word is full. -/
def mailboxFull (s : State) (f m : Nat) : Bool := tget false (s.tenant f).mfull m

/-- Set a mailbox word's value. -/
def setMailbox (s : State) (f m : Nat) (v : Word) : State :=
  s.modTenant f (fun x => { x with mbox := tset 0 x.mbox m v })

/-- The physical address of a mailbox word, which is the key of its transitions (R46, R61). -/
def mailboxAddr (f m : Nat) : Nat := 0xFF00000000 + 0x10000 * f + 8 * m

/-- Set a mailbox word full or empty: a transition is an event (R46). -/
def setMailboxFull (s : State) (f m : Nat) (b : Bool) : State :=
  let s1 := if mailboxFull s f m = b then s else raise s .mailbox (mailboxAddr f m)
  s1.modTenant f (fun x => { x with mfull := tset false x.mfull m b })

/-! ### What an access needs (R138, R358, R362, R364) -/

/-- Bits of PERMS (R138). -/
def permLD : BitVec 12 := 0x001
def permST : BitVec 12 := 0x002
def permLDK : BitVec 12 := 0x004
def permSTK : BitVec 12 := 0x008
def permATOM : BitVec 12 := 0x010
def permFE : BitVec 12 := 0x020
def permRIDE : BitVec 12 := 0x040
def permARM : BitVec 12 := 0x080
def permLOCK : BitVec 12 := 0x100
def permOPEN : BitVec 12 := 0x200
def permGLOBAL : BitVec 12 := 0x400
def permSYS : BitVec 12 := 0x800

/-- The size of an access in bytes. -/
def opSize (op : MemOp) : Nat :=
  match op with
  | .load n _ => n
  | .ldk => 16
  | .store n => n
  | .stk => 16
  | .lde n => n
  | .stf n => n
  | .stfw n => n
  | .feq n => n
  | .feclr n => n
  | .feset n => n
  | .atomic _ n => n
  | .peek n => n
  | .line _ _ => 128

/-- The permission bits an access needs. -/
def opNeed (op : MemOp) : BitVec 12 :=
  match op with
  | .load _ _ => permLD
  | .ldk => permLDK
  | .store _ => permST
  | .stk => permSTK
  | .lde _ => permLD ||| permFE
  | .stf _ => permST ||| permFE
  | .stfw _ => permST ||| permFE
  | .feq _ => permLD ||| permFE
  | .feclr _ => permFE
  | .feset _ => permFE
  | .peek _ => permLD
  | .line _ _ => permST
  | .atomic _ _ => permATOM

/-- What an access needs of its leaf. -/
def opAccess (op : MemOp) : Access :=
  match op with
  | .load _ _ => .read
  | .ldk => .read
  | .store _ => .write
  | .stk => .write
  | .lde _ => .readWrite
  | .stf _ => .write
  | .stfw _ => .write
  | .feq _ => .read
  | .feclr _ => .write
  | .feset _ => .write
  | .peek _ => .read
  | .line _ _ => .write
  | .atomic _ _ => .readWrite

/-- Whether an access counts as one that writes in TINFO1 (R161; LDE does not, log 19). -/
def opWrites (op : MemOp) : Bool :=
  match op with
  | .load _ _ => false
  | .ldk => false
  | .store _ => true
  | .stk => true
  | .lde _ => false
  | .stf _ => true
  | .stfw _ => true
  | .feq _ => false
  | .feclr _ => true
  | .feset _ => true
  | .peek _ => false
  | .line _ _ => true
  | .atomic _ _ => true

/-- A full/empty operation (R145). -/
def opFullEmpty (op : MemOp) : Bool :=
  match op with
  | .lde _ => true
  | .stf _ => true
  | .stfw _ => true
  | .feq _ => true
  | .feclr _ => true
  | .feset _ => true
  | .peek _ => false
  | .line _ _ => false
  | .load _ _ => false
  | .ldk => false
  | .store _ => false
  | .stk => false
  | .atomic _ _ => false

/-- The access delivers a result token (R354). -/
def opReturns (op : MemOp) : Bool :=
  match op with
  | .load _ _ => true
  | .ldk => true
  | .lde _ => true
  | .feq _ => true
  | .atomic _ _ => true
  | .store _ => false
  | .stk => false
  | .stf _ => false
  | .stfw _ => false
  | .feclr _ => false
  | .feset _ => false
  | .peek _ => true
  | .line _ _ => false

/-- Atomics and LDE (R105). -/
def opIrrevocable (op : MemOp) : Bool :=
  match op with
  | .lde _ => true
  | .atomic _ _ => true
  | _ => false

/-- A plain load or store, the only accesses that space C accepts (R136). -/
def opPlain (op : MemOp) : Bool :=
  match op with
  | .load _ _ => true
  | .store _ => true
  | _ => false

/-- log2 of an access size. -/
def log2Size (n : Nat) : Nat := Nat.log2 n

/-- TINFO1 of a memory trap (R161). -/
def memInfo1 (k size : Nat) (writes : Bool) (level : Nat) : Word :=
  BitVec.ofNat 64 (k + 16 * log2Size size + (if writes then 128 else 0) + 256 * level)

/-- A trap that an access raises: its cause and both information registers. -/
structure MemTrap where
  cause : Nat
  info0 : Word
  info1 : Word
  deriving DecidableEq, Repr

/-! ### Checking an access (R139) -/

/-- The checks of R139 that come before the space: tag, reserved bits, lock, sweep, control space. -/
def capFault (c : CapReg) (sup : Bool) (size : Nat) : Option Nat :=
  if c.tag = false then some 0x20
  else if c.rsv ≠ 0 then some 0x26
  else if c.lock ≠ 0 then some 0x25
  else if c.space = 2 then some 0x2C
  else if c.space = 3 ∧ (sup = false ∨ size ≠ 4 ∧ size ≠ 8) then some 0x27
  else none

/-- The permission bits a capability lacks are none (R139: a space C access also needs SYS). -/
def capGrants (c : CapReg) (need : BitVec 12) : Bool :=
  let need := if c.space = 3 then need ||| permSYS else need
  decide (need &&& ~~~c.perms = 0)

/-- The capability checks of R139 up to the alignment: the cause of the first that fails. `align` is the alignment
asked for. -/
def checkCap (c : CapReg) (off : Word) (size align : Nat) (need : BitVec 12) (sup : Bool) : Option Nat :=
  match capFault c sup size with
  | some x => some x
  | none =>
    if capGrants c need = false then some 0x24
    else if off.toNat + size > c.length then some 0x23
    else if (c.base + off).toNat % align ≠ 0 then some 0x28
    else none

/-- Where a league address goes (R26, R27): out of range, this module, or a far member. -/
inductive LeagueRoute where
  | outOfRange
  | here
  | unreachable
  | far (member port : Nat)
  deriving DecidableEq, Repr

/-- The Volong ports that are up, in increasing number (R22). -/
def upPorts (s : State) : List Nat := (List.range 18).filter (fun p => (s.ctl.ports[p]?.getD VPort.reset).up)

/-- Route a league address (R22, R27). -/
def leagueRoute (s : State) (a : Word) : LeagueRoute :=
  let j := (a.extractLsb' 45 11).toNat
  if s.ctl.lgen = false ∨ j ≥ s.ctl.mcnt.toNat then .outOfRange
  else if j = s.ctl.midx.toNat then .here
  else
    let up := upPorts s
    if up.isEmpty then .unreachable
    else
      let h := (j * 18 + (a.extractLsb' 12 33).toNat) % 65536
      .far j (up[h % up.length]?.getD 0)

/-- TINFO1 of a league trap (R27). -/
def leagueInfo1 (a : Word) (status : Nat) : Word :=
  (a.extractLsb' 45 11).setWidth 64 ||| (BitVec.ofNat 64 status <<< 16)

/-- The refusals that depend on where an access lands (R61, R142, R145, R365): the cause of the first. -/
def placeFault (tile : Nat) (op : MemOp) (c : CapReg) (inL : Bool) (p : Place) : Option Nat :=
  match p with
  | .host _ =>
    if (opFullEmpty op) then some 0x2B
    else
      match op with
      | .stk => some 0x2A
      | .atomic fn n => if (fn = 0 ∨ fn = 8 ∨ fn = 9) ∧ (n = 4 ∨ n = 8) then none else some 0x27
      | _ => none
  | .mailbox _ _ => if (opSize op) ≠ 8 then some 0x28 else none
  | .mailboxHole => if (opSize op) ≠ 8 then some 0x28 else none
  | .scratch t _ =>
    match op with
    | .stk => if c.tag ∧ c.perms &&& permGLOBAL = 0 ∧ !(inL || t == tile) then some 0x2A else none
    | _ => none
  | .league _ =>
    match op with
    | .stk => some 0x2A
    | _ => none
  | .control _ => none

/-- Form and check the address of a class M access (R139): the place it reaches, or the trap. `k` is the number of the
capability register and `c` what it held when the block was mapped; `stored` is the capability STK would store. STK to a
league address is refused with cause 0x2A whichever member it names (R142), this one among them, once the league itself has
answered for the address (log 78). -/
def resolve (s : State) (tile : Nat) (k : Nat) (c : CapReg) (off : Word) (op : MemOp) (sup : Bool) (stored : CapReg) :
    State × Except MemTrap (Place × Word) :=
  let a := c.base + off
  let info (level : Nat) := memInfo1 k (opSize op) (opWrites op) level
  let trap (cause level : Nat) : Except MemTrap (Place × Word) := .error ⟨cause, a, info level⟩
  let finish (s : State) (inL : Bool) (p : Place) : State × Except MemTrap (Place × Word) :=
    match placeFault tile op stored inL p with
    | some x => (s, trap x 0)
    | none => (s, .ok (p, a))
  let tenant := match (s.tile tile).ctx with
    | some x => x.tenant
    | none => 0
  let translated (s : State) (va : Nat) : State × Except MemTrap (Place × Word) :=
    match translateAccess s tenant va (opAccess op) with
    | (s, .error (cause, level)) => (s, trap cause level)
    | (s, .ok p) => finish s false p
  match checkCap c off (opSize op) (opSize op) (opNeed op) (sup && opPlain op) with
  | some x => (s, trap x 0)
  | none =>
    if c.space = 0 then
      if a.toNat ≥ 0x400000 then (s, trap 0x23 0) else finish s true (.scratch tile a.toNat)
    else if c.space = 1 then
      if a.extractLsb' 57 7 ≠ 0 then (s, trap 0x29 0)
      else if a.getLsbD 56 then
        match leagueRoute s a with
        | .outOfRange => (s, .error ⟨0x2D, a, leagueInfo1 a 0⟩)
        | .unreachable => (s, .error ⟨0x2E, a, leagueInfo1 a 0⟩)
        | .here => if op = .stk then (s, trap 0x2A 0) else translated s (a.toNat % 2 ^ 45)
        | .far _ _ => finish s false (.league a)
      else translated s a.toNat
    else finish s false (.control a.toNat)

/-- Check a capability range for an access of `size` bytes with `align`, and find its place (R139, R153): for records and
engine operands, whose bytes lie in one page. `ok` are the spaces accepted beyond R139's own refusals. -/
def resolveRange (s : State) (tile k : Nat) (c : CapReg) (off : Word) (size align : Nat) (need : BitVec 12)
    (a : Access) (sup writes onlyL : Bool) : State × Except MemTrap (Place × Word) :=
  let addr := c.base + off
  let trap (cause level : Nat) : Except MemTrap (Place × Word) :=
    .error ⟨cause, addr, memInfo1 k align writes level⟩
  let tenant := match (s.tile tile).ctx with
    | some x => x.tenant
    | none => 0
  let spaceFault : Option Nat :=
    match capFault c sup size with
    | some x => some (if onlyL && x = 0x2C then 0x27 else x)
    | none => if c.space = 3 ∨ (onlyL ∧ c.space ≠ 0) then some 0x27 else none
  match spaceFault with
  | some x => (s, trap x 0)
  | none =>
    match checkCap c off size align need sup with
    | some x => (s, trap x 0)
    | none =>
      if c.space = 0 then
        if addr.toNat ≥ 0x400000 then (s, trap 0x23 0) else (s, .ok (.scratch tile addr.toNat, addr))
      else if addr.extractLsb' 57 7 ≠ 0 then (s, trap 0x29 0)
      else
        let here (s : State) (va : Nat) : State × Except MemTrap (Place × Word) :=
          match translateAccess s tenant va a with
          | (s, .error (cause, level)) => (s, trap cause level)
          | (s, .ok p) =>
            match p with
            | .mailbox _ _ => if size ≠ 8 then (s, trap 0x28 0) else (s, .ok (p, addr))
            | .mailboxHole => if size ≠ 8 then (s, trap 0x28 0) else (s, .ok (p, addr))
            | _ => (s, .ok (p, addr))
        if addr.getLsbD 56 then
          match leagueRoute s addr with
          | .outOfRange => (s, .error ⟨0x2D, addr, leagueInfo1 addr 0⟩)
          | .unreachable => (s, .error ⟨0x2E, addr, leagueInfo1 addr 0⟩)
          | .here => here s (addr.toNat % 2 ^ 45)
          | .far _ _ => (s, .ok (.league addr, addr))
        else here s addr.toNat

/-! ### Conditions (R61, R145, R363) -/

/-- Two places share a line or word, so that operations on them are performed one at a time. -/
def sameTarget (p q : Place) : Bool :=
  match p, q with
  | .scratch t a, .scratch u b => t == u && a / 128 == b / 128
  | .mailbox f m, .mailbox g n => f == g && m == n
  | _, _ => false

/-- A place has a full/empty state. -/
def hasState (p : Place) : Bool :=
  match p with
  | .scratch _ _ => true
  | .mailbox _ _ => true
  | _ => false

/-- Another party than the block instance of context `ctx` on `tile` holds a reservation on the target (R363). -/
def reservedByOther (s : State) (tile ctx : Nat) (p : Place) : Bool :=
  s.reserved.any (fun r => sameTarget r.place p && !(r.tile == tile && r.ctx == ctx))

/-- A line or word is full. -/
def targetFull (s : State) (p : Place) : Bool :=
  match p with
  | .scratch t off => (lineState s t (off / 128)).full
  | .mailbox f m => mailboxFull s f m
  | _ => true

/-- A write that has left its block, copy or queue and is still under way. -/
def Pend.writing (e : Pend) : Bool :=
  e.got.isNone && (match e.who with
    | .released _ _ | .landing _ | .status _ _ => true
    | .firing _ _ _ _ | .prefetch _ _ _ _ | .packet _ | .far _ _ | .farReserve _ _ | .copy _ | .device _ | .lost _ _ _
    | .engine _ _ _ => false)

/-- Two accesses share a byte, or the line or word on which they act; a far address may map a line, so that those of one far
line are kept in order (R23). -/
def touches (p : Place) (n : Nat) (q : Place) (m : Nat) : Bool :=
  match p, q with
  | .league a, .league b => decide (a.toNat / 128 = b.toNat / 128)
  | .host a, .host b => decide (a < b + m) && decide (b < a + n)
  | _, _ => sameTarget p q

/-- A write of a party to the line, word or bytes of a place is still under way: what the party reads there later in tile order must
see it (R211, R228 to R230). -/
def ownWrites (s : State) (party : Nat) (p : Place) (n : Nat) : Bool :=
  s.pend.any (fun e => e.writing && e.party == party && touches e.place (opSize e.op) p n)

/-- Of those, one that left its block or copy before the number `stamp` was given out. -/
def ownWritesBefore (s : State) (party : Nat) (p : Place) (n stamp : Nat) : Bool :=
  s.pend.any (fun e => e.writing && e.party == party && decide (e.id ≤ stamp) && touches e.place (opSize e.op) p n)

/-- A store that a block of a context has released. -/
def Pend.storeOf (ctx : Nat) (e : Pend) : Bool :=
  match e.who with
  | .released _ c => c == ctx
  | _ => false

/-- Stores that blocks of a context have released, on whichever tile, are still under way (R227). -/
def storing (s : State) (ctx : Nat) : Bool := s.pend.any (fun e => e.storeOf ctx)

/-- Of those, one that was released before the number `stamp` was given out: a fill by an engine, which is a release, waits for
the stores that come before its command in tile order (R226). -/
def storingBefore (s : State) (ctx stamp : Nat) : Bool := s.pend.any (fun e => e.storeOf ctx && decide (e.id ≤ stamp))

/-- A plain read by a party of `tile` and `ctx` has to wait: the line is empty, another party reserves it, or a write of the
party's own is under way to it. -/
def blockedRead (s : State) (tile ctx : Nat) (p : Place) : Bool :=
  reservedByOther s tile ctx p || !targetFull s p || ownWrites s ctx p 1

/-! ### Chains (R223, R225) -/

/-- The byte of a held store that lands `delta` bytes above its place, if it writes there. -/
def heldByteAt (e : Effect) (delta : Int) : Option Byte :=
  let pick (size : Nat) (data : Nat) : Option Byte :=
    if 0 ≤ delta ∧ delta < (size : Int) then some (BitVec.ofNat 8 (data / 256 ^ delta.toNat)) else none
  match e with
  | .store _ n data _ _ => pick n data.toNat
  | .stf _ n data => pick n data.toNat
  | .stfw _ n data => pick n data.toNat
  | _ => none

/-- The place of a held store. -/
def heldPlace (e : Effect) : Option Place :=
  match e with
  | .store p _ _ _ _ => some p
  | .stf p _ _ => some p
  | .stfw p _ _ => some p
  | _ => none

/-- How far byte i of a place lies above another place, where both lie in one memory. -/
def placeDelta (p q : Place) (i : Nat) : Option Int :=
  match p, q with
  | .scratch t a, .scratch u b => if t = u then some ((b : Int) + i - a) else none
  | .host a, .host b => some ((b : Int) + i - a)
  | .mailbox f m, .mailbox g n => if f = g ∧ m = n then some i else none
  | .league a, .league b => some ((b.toNat : Int) + i - a.toNat)
  | _, _ => none

/-- The byte that a held store writes at byte i of a place. -/
def heldWrites (h : Held) (p : Place) (i : Nat) : Option Byte :=
  match heldPlace h.eff with
  | none => none
  | some q =>
    match placeDelta q p i with
    | none => none
    | some d => heldByteAt h.eff d

/-- The store whose value a linked read returns (R225): the one that the others are chained before, failing that the one
in the highest slot. -/
def winner (hs : List Held) : Option Held :=
  match hs.find? (fun c => hs.all (fun o => o.slot == c.slot || c.anc.contains o.slot)) with
  | some c => some c
  | none => hs.foldl (fun (b : Option Held) h => match b with
      | none => some h
      | some x => if x.slot < h.slot then some h else some x) none

/-- Byte i of a read under the stores that chains link before it. -/
def linkedByte (hs : List Held) (p : Place) (i : Nat) (b : Byte) : Byte :=
  match winner (hs.filter (fun h => (heldWrites h p i).isSome)) with
  | none => b
  | some h => (heldWrites h p i).getD b

/-- A linked STFW holds the target of a read: the block's own operations are not held back at it and see the store (R225,
R363). A held STF leaves the target as it is until it is released (R145). -/
def linkedFill (hs : List Held) (p : Place) : Bool :=
  hs.any (fun h => match h.eff with
    | .stfw q _ _ => sameTarget q p
    | _ => false)

/-- The little-endian value of bytes. -/
def bytesValue : List Byte → Nat
  | [] => 0
  | b :: bs => b.toNat + 256 * bytesValue bs

/-- `n` bytes of a value under the linked stores. -/
def linkedValue (hs : List Held) (p : Place) (n : Nat) (x : Nat) : Nat :=
  bytesValue ((bytesOf n x).zipIdx.map (fun e => linkedByte hs p e.2 e.1))

/-- The tag of a linked capability read: that of the STK that wins every byte; false where other stores win some. -/
def linkedTag (hs : List Held) (p : Place) (tag : Bool) : Bool :=
  let ws := (List.range 16).map (fun i => winner (hs.filter (fun h => (heldWrites h p i).isSome)))
  if ws.all (·.isNone) then tag
  else
    match ws.head? with
    | some (some h) =>
      ws.all (fun w => match w with
        | some x => x.slot == h.slot
        | none => false) &&
      (match h.eff with
        | .store _ _ _ cap ctag => cap && ctag
        | _ => false)
    | _ => false

/-! ### Reading and writing places -/

/-- A value without a capability. -/
def MemValue.word (v : Word) : MemValue := { val := v, hi := 0, ctag := false }

/-- The atomic operations (R364): the new contents, or none where ACAS does not write. -/
def atomicNew (fn : BitVec 4) (n : Nat) (old x e : Word) : Option Word :=
  let w := 8 * n
  let o := zext w old
  let x := zext w x
  match fn.toNat with
  | 0 => some (zext w (o + x))
  | 1 => some (o &&& x)
  | 2 => some (o ||| x)
  | 3 => some (o ^^^ x)
  | 4 => some (if BitVec.slt (sext w x) (sext w o) then x else o)
  | 5 => some (if BitVec.slt (sext w o) (sext w x) then x else o)
  | 6 => some (if BitVec.ult x o then x else o)
  | 7 => some (if BitVec.ult o x then x else o)
  | 8 => some x
  | _ => if o = zext w e then some x else none

/-- The result of an atomic: the old value, zero-extended for AMINU and AMAXU (R364). -/
def atomicResult (fn : BitVec 4) (n : Nat) (old : Word) : Word :=
  if fn = 6 ∨ fn = 7 then zext (8 * n) old else sext (8 * n) old

/-- What a load delivers of the `n` bytes it read (R358). -/
def loadExtend (n : Nat) (signed : Bool) (m : Word) : Word := if signed then sext (8 * n) m else zext (8 * n) m

/-- The bytes at a place as a little-endian word. -/
def readPlace (s : State) (p : Place) (n : Nat) : Word :=
  match p with
  | .scratch t off => BitVec.ofNat 64 (mread (s.tile t).mem off n)
  | .mailbox f m => mailboxWord s f m
  | .mailboxHole => 0
  | .host a => BitVec.ofNat 64 (mread s.host a n)
  | .league _ => 0
  | .control off => controlRead s off n

/-- Write `n` bytes at a place as a plain store does: granule tags are cleared and line states stay (R143, R145). -/
def storePlace (s : State) (p : Place) (n : Nat) (v : Word) : State :=
  match p with
  | .scratch t off => writeScratch s t off (bytesOf n v.toNat)
  | .mailbox f m => setMailbox s f m v
  | .mailboxHole => s
  | .host a => { s with host := mwrite s.host a n v.toNat }
  | .league _ => s
  | .control off => controlWrite s off n v

/-- Two runs of bytes share one. -/
def sharesByte (p : Place) (n : Nat) (q : Place) (m : Nat) : Bool :=
  match p, q with
  | .scratch t a, .scratch u b => t == u && decide (a < b + m) && decide (b < a + n)
  | .host a, .host b => decide (a < b + m) && decide (b < a + n)
  | .mailbox f i, .mailbox g j => f == g && i == j
  | .league a, .league b => decide (a.toNat < b.toNat + m) && decide (b.toNat < a.toNat + n)
  | _, _ => false

/-- A write by the context on `tile` discards the elements it touches that this context's ports have read ahead, those on
their way among them (R292). -/
def dropWritten (s : State) (tile : Nat) (p : Place) (n : Nat) : State :=
  let s := dropAhead s (fun x => x.tile == tile && (match x.place with
    | some q => sharesByte q x.size p n
    | none => false))
  { s with pend := s.pend.filter (fun e => match e.who with
      | .prefetch t _ _ _ => !(t == tile && sharesByte e.place (opSize e.op) p n)
      | _ => true) }

/-- `n` bytes, at most 16, at a place lifted by some bytes. -/
def Place.above (p : Place) (d : Nat) : Place :=
  match p with
  | .scratch t off => .scratch t (off + d)
  | .host a => .host (a + d)
  | .league a => .league (a + BitVec.ofNat 64 d)
  | .control off => .control (off + d)
  | .mailbox f m => .mailbox f m
  | .mailboxHole => .mailboxHole

/-- Write `n` bytes, at most 16, at a place: a copy lands a whole granule at once (R208, R231). -/
def storeRun (s : State) (p : Place) (n : Nat) (data : BitVec 128) : State :=
  if n ≤ 8 then storePlace s p n (data.extractLsb' 0 64)
  else storePlace (storePlace s p 8 (data.extractLsb' 0 64)) (p.above 8) (n - 8) (data.extractLsb' 64 64)

/-- Store a capability with its tag (R142, R143, R360). -/
def storeCap (s : State) (p : Place) (v : BitVec 128) (tag : Bool) : State :=
  let s := storePlace s p 8 (v.extractLsb' 0 64)
  match p with
  | .scratch t off =>
    setGranule (storePlace s (.scratch t (off + 8)) 8 (v.extractLsb' 64 64)) t (off / 16) tag
  | .host a => storePlace s (.host (a + 8)) 8 (v.extractLsb' 64 64)
  | _ => s

/-- Set the line or word of a place full, as STF and FESET do (R61, R145). -/
def fillRaw (s : State) (p : Place) : State :=
  match p with
  | .scratch t off => fillLine s t (off / 128) false
  | .mailbox f m => setMailboxFull s f m true
  | _ => s

/-- Set the line or word of a place empty, as LDE and FECLR do (R61, R145). -/
def emptyRaw (s : State) (p : Place) : State :=
  match p with
  | .scratch t off => emptyLine s t (off / 128)
  | .mailbox f m => setMailboxFull s f m false
  | _ => s

/-- Set the line of a place as a copy does at its start, at the end of its landings, and where it leaves poison (R145, R214,
R217); a place without lines is left alone. -/
def lineRaw (s : State) (p : Place) (full poison : Bool) : State :=
  match p with
  | .scratch t off => if full then fillLine s t (off / 128) poison else emptyLine s t (off / 128)
  | _ => s

/-- A line that an access reads is poisoned (R147). -/
def poisonedPlace (s : State) (p : Place) : Bool :=
  match p with
  | .scratch t off => (lineState s t (off / 128)).poison
  | _ => false

/-- The cause with which a read of a place fails: poison, a poisoned or failed host completion (R147, R417). -/
def readFault (s : State) (p : Place) (n : Nat) : Option Nat :=
  match p with
  | .host a =>
    match hostAnswer s a n with
    | .good => none
    | .poisoned => some 0x31
    | .failed => some 0x33
  | _ => if poisonedPlace s p then some 0x31 else none

/-- `n` bytes at a place, lowest first, for records and engine operands. -/
def placeBytes (s : State) (p : Place) (n : Nat) : List Byte :=
  match p with
  | .scratch t off => mbytes (s.tile t).mem off n
  | .host a => mbytes s.host a n
  | _ => List.replicate n 0

/-- Perform an access that returns something at a place whose condition holds (R358 to R365), for the context on `tile`
where one makes it; `hs` are the stores linked before it. The value, or the cause of its fault with nothing changed, at the host too
where it was to be an AtomicOp (R417, log 113). -/
def performRead (s : State) (tile : Option Nat) (op : MemOp) (p : Place) (data expect : Word) (hs : List Held) :
    State × Except Nat MemValue :=
  let own (s : State) (n : Nat) : State := match tile with
    | some t => dropWritten s t p n
    | none => s
  match op with
  | .load n signed =>
    match readFault s p n with
    | some x => (s, .error x)
    | none =>
      (s, .ok (.word (loadExtend n signed (BitVec.ofNat 64 (linkedValue hs p n (readPlace s p n).toNat)))))
  | .ldk =>
    match readFault s p 16 with
    | some x => (s, .error x)
    | none =>
      let raw : Nat × Bool := match p with
        | .scratch t off => (mread (s.tile t).mem off 16, granuleTag s t (off / 16))
        | .host a => (mread s.host a 16, false)
        | _ => ((readPlace s p 8).toNat, false)
      let v := linkedValue hs p 16 raw.1
      let tag := match p with
        | .scratch _ _ => linkedTag hs p raw.2
        | _ => false
      (s, .ok { val := BitVec.ofNat 64 v, hi := BitVec.ofNat 64 (v / 2 ^ 64), ctag := tag })
  | .lde n =>
    match readFault s p n with
    | some x => (s, .error x)
    | none => (emptyRaw s p, .ok (.word (loadExtend n true (readPlace s p n))))
  | .feq _ =>
    match p with
    | .mailboxHole =>
      let (v, s) := s.drawWord
      (s, .ok (.word (v &&& 1)))
    | _ => (s, .ok (.word (if targetFull s p || linkedFill hs p then 1 else 0)))
  | .atomic fn n =>
    match readFault s p n with
    | some x => (s, .error x)
    | none =>
      let old := readPlace s p n
      let s := match atomicNew fn n old data expect with
        | some v => own (storePlace s p n v) n
        | none => s
      (s, .ok (.word (atomicResult fn n old)))
  | .peek n =>
    match readFault s p n with
    | some x => (s, .error x)
    | none => (s, .ok (.word (readPlace s p n)))
  | .store _ => (s, .ok (.word 0))
  | .stk => (s, .ok (.word 0))
  | .stf _ => (s, .ok (.word 0))
  | .stfw _ => (s, .ok (.word 0))
  | .feclr _ => (s, .ok (.word 0))
  | .feset _ => (s, .ok (.word 0))
  | .line _ _ => (s, .ok (.word 0))

/-- Perform an access that returns nothing: a store, STF, STFW, FECLR or FESET (R359, R360, R362). -/
def performWrite (s : State) (tile : Option Nat) (op : MemOp) (p : Place) (data : BitVec 128) (tag : Bool) : State :=
  let own (s : State) (n : Nat) : State := match tile with
    | some t => dropWritten s t p n
    | none => s
  match op with
  | .store n => own (storeRun s p n data) n
  | .stk => own (storeCap s p data tag) 16
  | .stf n => fillRaw (own (storePlace s p n (data.extractLsb' 0 64)) n) p
  | .stfw n => fillRaw (own (storePlace s p n (data.extractLsb' 0 64)) n) p
  | .feclr _ => emptyRaw s p
  | .feset _ => fillRaw s p
  | .line full poison => lineRaw s p full poison
  | .load _ _ => s
  | .peek _ => s
  | .ldk => s
  | .lde _ => s
  | .feq _ => s
  | .atomic _ _ => s

/-! ### Accesses under way (R146, R363) -/

/-- An access as it sets out: nothing has been sent and nothing has come back. -/
def Pend.start (s : State) (id : Nat) (who : Waiter) (op : MemOp) (place : Place) (addr : Word) (tenant party : Nat) : Pend :=
  { id := id, who := who, op := op, place := place, addr := addr, info1 := 0, data := 0, dtag := false, expect := 0,
    acq := false, rel := false, scope := 0, anc := [], party := party, tenant := tenant, sent := false, port := 0,
    got := none, since := s.now }

/-- The stores of the block instance that chains link before an access, and which are those of its tag (R223, R225). -/
def linkedStores (s : State) (e : Pend) : List Held :=
  match e.who with
  | .firing t _ _ key => (s.fabric t).held.filter (fun h => h.key == key && e.anc.contains h.slot)
  | _ => []

/-- The tile and context that an access belongs to; those of a far member's context stand beyond the tiles. -/
def Waiter.party (w : Waiter) : Nat × Nat :=
  match w with
  | .firing t c _ _ => (t, c)
  | .prefetch t c _ _ => (t, c)
  | .released t c => (t, c)
  | .engine t c _ => (t, c)
  | .far m c | .farReserve m c => (256 + m, c)
  | .packet _ | .copy _ | .landing _ | .status _ _ | .device _ | .lost _ _ _ => (192, 0)

/-- Two writes are landings of one copy. -/
def sameCopy (v w : Waiter) : Bool :=
  match v, w with
  | .landing a, .landing b => a == b
  | _, _ => false

/-- An access has to follow an earlier write: one of its own party that shares a byte or line with it, as commit order and
tile order ask (R23, R224, R230), every one of its party where it is a release (R226), and a copy's landing every earlier one of the
copy, for its bytes land in increasing offset (R214). -/
def mustFollow (e p : Pend) : Bool :=
  p.writing && (sameCopy e.who p.who ||
    (p.party == e.party && (e.rel || touches p.place (opSize p.op) e.place (opSize e.op))))

/-- An access stands behind an earlier write of its own party. -/
def behindWrite (s : State) (e : Pend) : Bool := (s.pend.takeWhile (fun p => !(p.id == e.id))).any (mustFollow e)

/-- A far member's context writes at the target that its STFW has reserved here (R363). -/
def farHolds (s : State) (e : Pend) : Bool :=
  match e.who with
  | .far m c => s.reserved.any (fun r => sameTarget r.place e.place && r.tile == 256 + m && r.ctx == c)
  | _ => false

/-- The condition of an access holds (R61, R145, R363). A request to a far member may leave once, and is answered from
there. -/
def canGo (s : State) (e : Pend) : Bool :=
  !behindWrite s e &&
  (match e.place with
  | .league _ => !e.sent
  | p =>
    !reservedByOther s e.who.party.1 e.who.party.2 p &&
    (e.writing || match e.op with
      | .load _ _ => targetFull s p || linkedFill (linkedStores s e) p
      | .ldk => targetFull s p || linkedFill (linkedStores s e) p
      | .atomic _ _ => targetFull s p
      | .lde _ => targetFull s p
      | .stfw _ => !hasState p || farHolds s e || (!targetFull s p && !s.reserved.any (fun r => sameTarget r.place p))
      | .store _ => true
      | .stk => true
      | .stf _ => true
      | .feq _ => true
      | .peek _ => true
      | .feclr _ => true
      | .feset _ => true
      | .line _ _ => true))

/-- What becomes of an access of an abandoned or purged firing (R105, R109, R146): it leaves its line, but an irrevocable one
whose request has gone to a far member is performed there all the same, and its answer is kept for the context `ctx`. -/
def strand (ctx : Nat) (inh : Bool) (e : Pend) : Option Pend :=
  match e.who with
  | .firing _ _ j key =>
    if opIrrevocable e.op && e.sent && e.got.isNone && !inh then some { e with who := .lost ctx j key } else none
  | _ => none

/-- Put what an access brings back into its entry. -/
def bring (s : State) (e : Pend) (g : Loaded) : State :=
  { s with pend := s.pend.map (fun x => if x.id == e.id then { x with got := some g } else x) }

/-- Keep the result of a performed irrevocable access in the replay buffer, unless INH is set (R105, R300). -/
def keepReplay (s : State) (e : Pend) (v : Word) : State :=
  match e.who with
  | .firing t _ j key =>
    s.modCtx t (fun c =>
      if c.inh then c else { c with replay := c.replay ++ [{ slot := j, tag := keyTag key, val := v }] })
  | _ => s

/-- Keep the answer to an irrevocable access whose block was abandoned before it came (R105), wherever its context is. -/
def keepLost (s : State) (ctx slot : Nat) (key : Key) (v : Word) : State :=
  let add (c : Ctx) : Ctx :=
    if c.id = ctx then { c with replay := c.replay ++ [{ slot := slot, tag := keyTag key, val := v }] } else c
  { s with
    tiles := s.tiles.map (fun x => { x with ctx := x.ctx.map add })
    images := s.images.map (fun i => { i with ctx := add i.ctx }) }

/-- The next block of a context is another one, or its block has committed: no result of an access still under way is kept
any more (R105). -/
def forgetLost (s : State) (ctx : Nat) : State :=
  { s with pend := s.pend.map (fun e => match e.who with
      | .lost c j key => if c == ctx then { e with who := .lost 0 j key } else e
      | _ => e) }

/-- The request asks only whether a store would be refused (R27: its trap is precise). -/
def Pend.isCheck (e : Pend) : Bool :=
  match e.who with
  | .firing _ _ _ _ | .copy _ => !opReturns e.op
  | _ => false

/-- The scope that an access carries to a far member: an atomic acts there at league scope at least (R28, R222). -/
def Pend.farScope (e : Pend) : BitVec 2 :=
  match e.op with
  | .atomic _ _ => 3
  | _ => e.scope

/-- Send a request to the far member of a league address, on the port of R22. -/
def sendFar (s : State) (e : Pend) (a : Word) : State :=
  match leagueRoute s a with
  | .far j port =>
    let mark (x : Pend) : Pend := if x.id == e.id then { x with sent := true, port := port, since := if x.sent then x.since else s.now } else x
    State.emit { s with pend := s.pend.map mark } (.league e.id port j e.isCheck (s.tenant e.tenant).lasid a e.op e.data e.expect e.farScope e.acq e.rel e.who.party.2)
  | .outOfRange => bring s e (.failed 0x2D a (leagueInfo1 a 0))
  | .here | .unreachable => bring s e (.failed 0x2E a (leagueInfo1 a 0))

/-- The tenant of the context on a tile. -/
def tenantOf (s : State) (t : Nat) : Nat :=
  match (s.tile t).ctx with
  | some c => c.tenant
  | none => 0

/-- Take back what an STFW of a context has asked for or reserved at a far member (R363, log 106). -/
def cancelFar (s : State) (tenant ctx : Nat) (a : Word) : State :=
  match leagueRoute s a with
  | .far j port => s.emit (.leagueCancel port j (s.tenant tenant).lasid a ctx)
  | .outOfRange | .here | .unreachable => s

/-- An STFW of a firing that has asked a far member for its reservation: the league address. -/
def Pend.asksReserve (e : Pend) : Option Word :=
  match e.who, e.op, e.place with
  | .firing _ _ _ _, .stfw _, .league a => if e.sent then some a else none
  | _, _, _ => none

/-- The reservations of a context that end without a write, those at far members with a message there (R363): a committed block's
stay. -/
def dropReserved (s : State) (tile ctx : Nat) (gone : Key → Bool) : State :=
  let mine (r : Reservation) : Bool := r.tile == tile && r.ctx == ctx && gone r.key && !r.firm
  (s.reserved.filter mine).foldl (fun s r => match r.place with
    | .league a => cancelFar s (tenantOf s tile) ctx a
    | _ => s) { s with reserved := s.reserved.filter (fun r => !mine r) }

/-- The unanswered accesses of some keys of a context's block instance leave their lines (R146): an irrevocable one that a far
member already has is still performed there, once (R105), and the check of an STFW is taken back. -/
def dropFirings (s : State) (tile ctx : Nat) (inh : Bool) (gone : Key → Bool) : State :=
  let mine (e : Pend) : Bool := match e.who with
    | .firing u c _ k => u == tile && c == ctx && gone k
    | _ => false
  (s.pend.filter mine).foldl (fun s e => match e.asksReserve with
    | some a => cancelFar s e.tenant ctx a
    | none => s) { s with pend := s.pend.filterMap (fun e => if mine e then strand ctx inh e else some e) }

/-- An STFW's reservation ends with its write (R363). -/
def endReserve (s : State) (e : Pend) : State :=
  match e.op with
  | .stfw _ =>
    { s with reserved := s.reserved.filter (fun r =>
        !((sameTarget r.place e.place || r.place == e.place) && r.tile == e.who.party.1 && r.ctx == e.who.party.2)) }
  | _ => s

/-- The answer to a far member's access that has been performed. A host read that fails outright, which R27's outcomes do
not name, is answered as an uncorrectable error on the data, status 4 (log 76). -/
def farAnswer (m : Nat) (r : Except Nat Nat) : Output :=
  match r with
  | .ok v => .leagueAnswer m 0 v
  | .error _ => .leagueAnswer m 4 0

/-- The bytes of a read longer than a word, or the cause of its fault. -/
def performRun (s : State) (p : Place) (n : Nat) (hs : List Held) : Except Nat (List Byte) :=
  match readFault s p n with
  | some x => .error x
  | none => .ok ((placeBytes s p n).zipIdx.map (fun e => linkedByte hs p e.2 e.1))

/-- A read that acquires nothing discards what was read ahead of the bytes it reads (R230, log 118); FEQ reads none. -/
def dropRead (s : State) (tile : Nat) (op : MemOp) (p : Place) : State :=
  match op with
  | .feq _ => s
  | _ => dropWritten s tile p (opSize op)

/-- What a performed access of a firing acquires (R226, R292): an access that blocks while its line or word is empty, and an
FEQ that finds it full. -/
def acquiresAt (op : MemOp) (p : Place) (v : Word) : Bool :=
  hasState p && (match op with
    | .load _ _ | .ldk | .lde _ | .atomic _ _ => true
    | .feq _ => decide (v = 1)
    | .store _ | .stk | .stf _ | .stfw _ | .feclr _ | .feset _ | .line _ _ | .peek _ => false)

/-- Send the MSI-X messages that wait for a queue's status word once none is under way (R232). -/
def releaseSignals (s : State) (f q : Nat) : State :=
  if s.pend.any (fun e => e.who == .status f q) then s
  else
    let mine (x : Nat × Nat × Nat) : Bool := x.1 == f && x.2.1 == q
    (s.signals.filter mine).foldl (fun s x => signalMsix s f x.2.2) { s with signals := s.signals.filter (fun x => !mine x) }

/-- What an access that has waited brings about beyond its value: a packet's access that is released makes the puppeteer decide
(R64), and so does a read of the device that can go on. -/
def released (s : State) (e : Pend) : State :=
  match e.who with
  | .packet _ | .device _ => if e.acq then demandDecision s else s
  | .firing _ _ _ _ | .prefetch _ _ _ _ | .released _ _ | .far _ _ | .farReserve _ _ | .copy _ | .landing _ | .status _ _
  | .lost _ _ _ | .engine _ _ _ => s

/-- Bytes of a share (R103). -/
def shareSize : Nat := 0x3E0000

/-- The image that a write of a party to its own share goes to, where the context has left its tile with the write still to be
performed (R77, R79). -/
def imageOfWrite (s : State) (e : Pend) : Option (Image × Nat) :=
  match e.place with
  | .scratch t off =>
    if off < shareSize then
      (s.images.find? (fun i => i.tile == t && i.ctx.id == e.party && !i.complete)).map (fun i => (i, off))
    else none
  | _ => none

/-- An image after a write to its share (R143, R145): one that a store makes, or that sets a line's state. -/
def imageWrite (op : MemOp) (off : Nat) (data : BitVec 128) (tag : Bool) (i : Image) : Image :=
  let put (n : Nat) (i : Image) : Image := { i with
    mem := mwriteBytes i.mem off (bytesOf n data.toNat)
    gtags := (granulesOf off n).foldl (fun g k => tset false g k false) i.gtags }
  let line (full poison : Bool) (i : Image) : Image :=
    { i with lines := tset LineState.reset i.lines (off / 128) { full := full, poison := poison } }
  match op with
  | .store n => put n i
  | .stk => { put 16 i with gtags := tset false (put 16 i).gtags (off / 16) tag }
  | .stf n | .stfw n => line true false (put n i)
  | .feclr _ => line false false i
  | .feset _ => line true false i
  | .line full poison => line full (full && poison) i
  | .load _ _ | .peek _ | .ldk | .lde _ | .feq _ | .atomic _ _ => i

/-- Perform a write that has left its block or copy: on its tile's scratchpad, or in the image of a context that has left it. -/
def performOwn (s : State) (tile : Option Nat) (e : Pend) : State :=
  match imageOfWrite s e with
  | some (i, off) =>
    { s with images := s.images.map (fun k => if k.id == i.id then imageWrite e.op off e.data e.dtag k else k) }
  | none => performWrite s tile e.op e.place e.data e.dtag

/-- Perform an access at this module whose condition holds. An STFW of a firing takes its reservation, and so does a far member's
check of one; a packet's and a released one write. A read by a firing that acquires nothing still discards what was read ahead of
the same bytes, so that no later pop returns an older write (R230). -/
def performHere (s : State) (e : Pend) : State :=
  let tile : Option Nat := match e.who with
    | .packet _ | .far _ _ | .farReserve _ _ | .copy _ | .landing _ | .status _ _ | .device _ | .lost _ _ _ => none
    | w => some w.party.1
  let done (s : State) : State := { s with pend := s.pend.filter (fun x => !(x.id == e.id)) }
  let take (s : State) (t : Nat) (op : MemOp) (v : Word) : State :=
    match e.who with
    | .firing _ _ _ _ => if e.acq || acquiresAt op e.place v then acquire s t else dropRead s t op e.place
    | _ => s
  match e.who, e.op with
  | .released _ _, _ | .landing _, _ => done (endReserve (performOwn s tile e) e)
  | .status f q, op => releaseSignals (done (performWrite s tile op e.place e.data e.dtag)) f q
  | .farReserve m c, _ =>
    (done (if hasState e.place then
        { s with reserved := s.reserved ++
            [{ tile := 256 + m, ctx := c, slot := 0, key := none, place := e.place, addr := e.addr, firm := true }] }
      else s)).emit (farAnswer m (.ok 0))
  | .far m _, op =>
    if opReturns op then
      match op with
      | .load n _ | .peek n =>
        if 8 < n then
          match performRun s e.place n [] with
          | .ok bs => (done s).emit (farAnswer m (.ok (bytesValue bs)))
          | .error x => (done s).emit (farAnswer m (.error x))
        else
          match performRead s none op e.place 0 0 [] with
          | (s, .ok v) => (done s).emit (farAnswer m (.ok v.val.toNat))
          | (s, .error x) => (done s).emit (farAnswer m (.error x))
      | _ =>
        match performRead s none op e.place (e.data.extractLsb' 0 64) e.expect [] with
        | (s, .ok v) => (done s).emit (farAnswer m (.ok (v.hi ++ v.val).toNat))
        | (s, .error x) => (done s).emit (farAnswer m (.error x))
    else (done (endReserve (performWrite s none op e.place e.data e.dtag) e)).emit (farAnswer m (.ok 0))
  | .packet _, .stfw n => released (bring (performWrite s none (.stfw n) e.place e.data e.dtag) e (.value (.word 0))) e
  | .firing t c j key, .stfw _ =>
    let s := if hasState e.place then
        { s with reserved := s.reserved ++ [{ tile := t, ctx := c, slot := j, key := key, place := e.place }] }
      else s
    bring (if e.acq then acquire s t else s) e (.value (.word 0))
  | who, op =>
    let run : Option Nat := match op with
      | .load n _ | .peek n => if 8 < n then some n else none
      | _ => none
    match run with
    | some n =>
      match performRun s e.place n (linkedStores s e) with
      | .error cause => released (bring s e (.failed cause e.addr e.info1)) e
      | .ok bs => released (bring (take s who.party.1 op 0) e (.run bs)) e
    | none =>
      match performRead s tile op e.place (e.data.extractLsb' 0 64) e.expect (linkedStores s e) with
      | (s, .error cause) => released (bring s e (.failed cause e.addr e.info1)) e
      | (s, .ok v) =>
        let s := match op with
          | .lde _ => keepReplay s e v.val
          | .atomic _ _ => keepReplay s e v.val
          | _ => s
        released (bring (take s who.party.1 op v.val) e (.value v)) e

/-- Perform an access whose condition holds, or send its request to the far member. -/
def performPend (s : State) (e : Pend) : State :=
  match e.place with
  | .league a => sendFar s e a
  | _ => performHere s e

/-- Release waiters, oldest first, until none can act (R146). The wait packets of one mailbox word are released alike: R62
releases the oldest waiter of a word, and with R146 each one whose condition then holds; a plain load leaves the word as it
is, so that every load waiting goes (log 77). -/
def wakeFrom : Nat → State → State
  | 0, s => s
  | n + 1, s =>
    match s.pend.find? (fun e => e.got.isNone && canGo s e) with
    | none => s
    | some e => wakeFrom n (performPend s e)

/-- Release the waiters that a change of state lets act (R146). -/
def wake (s : State) : State := wakeFrom s.pend.length s

/-- Set a place full and release its waiters. -/
def fillPlace (s : State) (p : Place) : State := wake (fillRaw s p)

/-- Set a place empty and release its waiters. -/
def emptyPlace (s : State) (p : Place) : State := wake (emptyRaw s p)

/-- Send an access on its way: to the far member, or to its line or word, where it acts at once or waits (R146). A store
that fires at a far member only asks whether it would be refused (R27). An access that has to wait acts as an acquire once
its wait is satisfied (R292). -/
def submit (s : State) (e : Pend) : State :=
  let e := { e with acq := e.acq || (!canGo s e && hasState e.place) }
  wake { s with pend := s.pend ++ [e] }

/-- The operation of a held store or full/empty effect. -/
def heldOp (e : Effect) : Option (MemOp × Place × BitVec 128 × Bool) :=
  match e with
  | .store p n data cap ctag => some (if cap then .stk else .store n, p, data, ctag)
  | .stf p n data => some (.stf n, p, data.setWidth 128, false)
  | .stfw p n data => some (.stfw n, p, data.setWidth 128, false)
  | .feclr p => some (.feclr 1, p, 0, false)
  | .feset p => some (.feset 1, p, 0, false)
  | _ => none

/-- STF, STFW and FESET fill their target, which is a release (R226). -/
def opReleases (op : MemOp) : Bool :=
  match op with
  | .stf _ | .stfw _ | .feset _ => true
  | .load _ _ | .ldk | .store _ | .stk | .lde _ | .feq _ | .feclr _ | .atomic _ _ | .line _ _ | .peek _ => false

/-- What a write's release discards of the elements that its context's ports have read ahead (R292): those it touches, and of a far
line that it sets empty all; a line of this module discards them itself. -/
def dropReleased (s : State) (tile : Nat) (op : MemOp) (p : Place) : State :=
  match op, p with
  | .feclr _, .league a => dropWritten s tile (.league (a &&& ~~~0x7F#64)) 128
  | _, _ => dropWritten s tile p (opSize op)

/-- Release a held store or full/empty effect of the context on `tile` (R107, R123), with the scope that its form carries (R222): it
is performed, or waits behind another party's reservation (R363) or an earlier store of its own context (R224, R226), or goes to
the far member. The STFW's own reservation ends with its write, and until then nothing but that write ends it. -/
def releaseStore (s : State) (tile ctx : Nat) (e : Effect) (scope : BitVec 2) : State :=
  match heldOp e with
  | none => s
  | some (op, p, data, tag) =>
    let s := match op with
      | .stfw _ =>
        let firm (r : Reservation) : Reservation :=
          if (sameTarget r.place p || r.place == p) && r.tile == tile && r.ctx == ctx then { r with firm := true } else r
        { s with reserved := s.reserved.map firm }
      | _ => s
    let far : Option Word := match p with
      | .league a => some a
      | _ => none
    let (id, s1) := s.fresh
    let q : Pend := { Pend.start s id (.released tile ctx) op p (far.getD 0) (tenantOf s tile) ctx with
      data := data, dtag := tag, rel := opReleases op, scope := scope }
    if far.isSome || !canGo s q then submit (dropReleased s1 tile op p) q
    else wake (endReserve (performWrite s (some tile) op p data tag) q)

/-- Set a line of the context on `tile` empty, as a command's entry does (R145, R248): in tile order, behind the context's own writes
to it that are still under way (R224), and behind another party's reservation (R363). -/
def emptyOwn (s : State) (tile ctx l : Nat) : State :=
  let p : Place := .scratch tile (128 * l)
  let (id, s1) := s.fresh
  let q := Pend.start s id (.released tile ctx) (.line false false) p 0 (tenantOf s tile) ctx
  if canGo s q then emptyPlace s p else submit s1 q

end Sys2Proof.Machine
end

