-- ==== Sys2Proof/Machine/Ops.lean ====
section
/-! DEFINITION. The named operations over the fabric and over memory: delivering tokens, settling a firing, memory
accesses under way (R146, R225, R363), abandoning a block (R109), taking a trap (R299), parking one (R132), ending a
context as unresolved (R302), and returning from a handler (R300). -/

namespace Sys2Proof.Machine

/-! ### Tokens -/

/-- The plain result token of a firing (R330). -/
def resultToken (f : Firing) (v : Word) (eos : Bool) : Token :=
  { val := v, hi := 0, cap := false, ctag := false, tag := f.key.getD 0, outer := f.outer, bw := f.key.isNone,
    eos := eos, null := false, col := f.col, anc := f.anc }

/-- A capability result token of a firing. -/
def capToken (f : Firing) (c : CapReg) (eos : Bool) : Token :=
  { resultToken f c.base eos with hi := c.bits.extractLsb' 64 64, cap := true, ctag := c.tag }

/-- A token's value as a capability: without CAP it is an untagged capability with the value as BASE (R317). -/
def Token.toCap (t : Token) : CapReg :=
  if t.cap then { bits := t.hi ++ t.val, tag := t.ctag } else { bits := t.val.setWidth 128, tag := false }

/-- Send a token to a target of slot j: an empty target gets nothing (R312). -/
def send (s : State) (tile j : Nat) (t : Target) (tok : Token) : State :=
  if t.d = 0 then s
  else s.modFabric tile (fun x =>
    { x with mesh := x.mesh ++ [{ slot := (j + t.d.toNat) % 128, port := t.port, tok := tok, stored := false }] })

/-- Deliver one token to both targets of a firing (R330). -/
def deliver (s : State) (f : Firing) (h : Hdr) (tok : Token) : State :=
  send (send s f.tile f.slot h.t1 tok) f.tile f.slot h.t2 tok

/-- The residue of a value (R305). -/
def residue (v : Word) : BitVec 4 := BitVec.ofNat 4 (v.toNat % 15)

/-- The route ID towards a slot: cluster, position, and the even parity of both (R305, R98). -/
def route (slot : Nat) : BitVec 8 :=
  let b : BitVec 7 := BitVec.ofNat 3 (slot % 8) ++ BitVec.ofNat 4 (slot / 8)
  BitVec.ofBool ((List.range 7).foldl (fun p i => xor p (b.getLsbD i)) false) ++ b

/-! ### Settling -/

/-- Record how a slot has settled for the key of a firing (R99, R104). -/
def settle (s : State) (f : Firing) (how : How) : State :=
  s.modFabric f.tile (fun x => { x with settled := x.settled ++ [{ slot := f.slot, key := f.key, how := how }] })

/-- Run a meaning on the firing whose turn it is; where the firing's predicate did not match or a NULL token reached
it, the slot settles as `nul` says instead (R99). Without a firing nothing happens. -/
def onFiring (s : State) (nul : How) (k : Firing → State → State) : Out :=
  match s.cur with
  | none => .next s
  | some f =>
    if f.off then .next (settle { s with cur := none } f nul) else .next (k f { s with cur := none })

/-- Put the operands of a firing back: it waits, as an operand read of an empty line does (R145, log 20). -/
def unfire (s : State) (f : Firing) : State :=
  s.modFabric f.tile (fun x => { x with operands := f.taken ++ x.operands })

/-- Fire with a result (R330). -/
def fireResult (f : Firing) (h : Hdr) (tok : Token) (s : State) : State := deliver (settle s f .fired) f h tok

/-- A held effect of a firing (R104), with the scope of a full/empty operation (R222). -/
def holdAt (s : State) (f : Firing) (tagged : Bool) (e : Effect) (scope : BitVec 2) : State :=
  s.modFabric f.tile (fun x =>
    { x with held := x.held ++ [{ slot := f.slot, key := f.key, tagged := tagged, eff := e, anc := f.anc, scope := scope }] })

/-- A held effect of a firing that carries no scope (R104). -/
def hold (s : State) (f : Firing) (tagged : Bool) (e : Effect) : State := holdAt s f tagged e 0

/-! ### Where an iterating block stands (R113, R122, R123) -/

/-- The inner bound of a row, once LGEN2 has taken it. -/
def Gen.boundOf (g : Gen) (row : Nat) : Option Nat := (g.rows.find? (fun r => r.row == row)).map (·.m)

/-- The outer tag of a row (R113). -/
def outerTag (i : Nat) : Tag := BitVec.ofNat 16 i ++ 0xFFFF#16

/-- The inner tag of a row (R113). -/
def innerTag (i j : Nat) : Tag := BitVec.ofNat 16 i ++ BitVec.ofNat 16 j

/-- The position of retirement as a tag: the resume tag of an abandoned instance (R133). Before a row's inner bound has
arrived its first inner tag stands for it (log 15). -/
def Gen.resumeTag (g : Gen) : Tag :=
  match g.two with
  | none => BitVec.ofNat 32 g.retireInner
  | some _ =>
    match g.boundOf g.retireRow with
    | none => innerTag g.retireRow g.retireInner
    | some m => if g.retireInner < m then innerTag g.retireRow g.retireInner else outerTag g.retireRow

/-- Every tag of the sequence has retired (R129). -/
def Gen.allRetired (g : Gen) : Bool :=
  match g.two with
  | none => g.fired && decide (g.n ≤ g.retireInner)
  | some _ => g.fired && decide (g.n ≤ g.retireRow)

/-- A tag is the oldest unretired tag of the sequence (R123). -/
def Gen.isOldest (g : Gen) (t : Tag) : Bool :=
  g.fired && !g.allRetired && decide (t = g.resumeTag) &&
  (g.two.isNone || (g.boundOf g.retireRow).isSome)

/-- The next position after a retirement. -/
def Gen.advance (g : Gen) : Gen :=
  match g.two with
  | none => { g with retireInner := g.retireInner + 1 }
  | some _ =>
    match g.boundOf g.retireRow with
    | some m =>
      if g.retireInner < m then { g with retireInner := g.retireInner + 1 }
      else { g with retireRow := g.retireRow + 1, retireInner := 0 }
    | none => g

/-! ### The toybox (R120) -/

/-- Clear VALID of an entry of the toybox. -/
def clearToy (s : State) (tile e : Nat) : State :=
  putScratch s tile (0x3E0000 + 16 * e) [(mget (s.tile tile).mem (0x3E0000 + 16 * e)) &&& 0xFE]

/-- Free the entries of the toybox whose operands are to go. -/
def freeToys (s : State) (tile : Nat) (gone : Operand → Bool) : State :=
  (((s.fabric tile).toybox.filter (fun o => gone o.2)).foldl (fun s o => clearToy s tile o.1) s).modFabric tile
    (fun x => { x with toybox := x.toybox.filter (fun o => !gone o.2) })

/-! ### Waits for queues (R210) -/

/-- A copy belongs to a context. -/
def copyOfCtx (ctx : Nat) (c : Copy) : Bool :=
  match c.owner with
  | .ctx id => id == ctx
  | .packet _ _ _ => false

/-- A queue holds no command of another block instance: everything that earlier blocks entered is complete (R210, R227).
Riders count until they have completed, copies until they have and their follow-on command has entered. -/
def queueQuiet (s : State) (c : Ctx) (inst q : Nat) : Bool :=
  (c.queue q).all (fun e => e.instr.isNone || e.inst == inst) &&
  (match q with
    | 0 => s.copies.all (fun k => !copyOfCtx c.id k || k.inst == inst)
    | 2 => (match c.pass with
        | none => true
        | some p => p.entry.inst == inst) &&
      (c.stopping.isNone || c.stopping == some inst) && c.flights.all (fun l => l.inst == inst)
    | 3 => s.riders.all (fun r => !(r.ctx == c.id) || r.inst == inst)
    | _ => true)

/-- A wait for queues is over. -/
def waitOver (s : State) (c : Ctx) (inst : Nat) (w : Waiting) : Bool :=
  match w.on with
  | .queues set => [0, 1, 2, 3].all (fun q => !set.getLsbD q || queueQuiet s c inst q)
  | .barrier _ _ => false
  | .event _ => false

/-- The WAITQs of the block on a tile whose queues have come to rest resolve (R210), each as an acquire. -/
def resolveWaits (s : State) (tile : Nat) : State :=
  match (s.tile tile).ctx with
  | none => s
  | some c =>
    let met (w : Waiting) : Bool := waitOver s c (s.fabric tile).inst w
    if (s.fabric tile).waits.any met then
      (acquire s tile).modFabric tile (fun x => { x with waits := x.waits.filter (fun w => !met w) })
    else s

/-! ### Abandoning a block (R109, R133) -/

/-- A handler runs on a tile: INH is set (R300). -/
def handling (s : State) (t : Nat) : Bool :=
  match (s.tile t).ctx with
  | some c => c.inh
  | none => false

/-- Take back what a context's ports have popped and pushed since its last commit or retirement (R291). -/
def rewindPorts (c : Ctx) : Ctx := { c with ports := c.ports.map (fun p => { p with work := p.com }) }

/-- The held values of a block's WRs, in slot order (R126, R298). -/
def heldValues (words : List Word) (kept : List HeldWr) : List (Option Word) :=
  ((List.range words.length).filter (fun j => decide ((words[j]?.getD 0).extractLsb' 56 8 = 0x02#8))).map (fun j =>
    (kept.find? (fun w => w.slot == j)).map (·.val))

/-- Where an abandoned block of a context enters again (R133): its resume tag once its generator has fired, and the
values of its retired tags' WRs; a handler's stand apart from those of the block it interrupted. -/
def keepResume (c : Ctx) (x : Fabric) : Ctx :=
  let c := rewindPorts c
  match x.blk with
  | none => c
  | some b =>
    if b.loop then
      let r := if x.gen.fired then some x.gen.resumeTag else if c.inh then c.handlerResume else c.resume
      if c.inh then { c with handlerResume := r, handlerHeld := x.kept } else { c with resume := r, heldVals := x.kept, heldv := heldValues b.words x.kept }
    else if c.inh then { c with handlerResume := none, handlerHeld := [] }
    else { c with resume := none, heldVals := [], heldv := [] }

/-- Abandon the block instance on tile t: its held effects, WRs, pops and waits are gone, its unanswered accesses leave
their lines and its reservations end (R109, R146, R363); an irrevocable one that a far member already has is still performed
there, once (R105). An iterating block keeps its resume tag and the values of its
retired tags' WRs (R133); an exit or system call that one of these tags has fired is lost with the rest (log 112). -/
def abandon (s : State) (t : Nat) : State :=
  let x := s.tile t
  let id := s.ctxId t
  let inh := handling s t
  let s := s.modCtx t (fun c => keepResume c x.fabric)
  let s := (freeToys s t (fun _ => true)).modFabric t (fun _ => Fabric.reset)
  wake (acquire (dropReserved (dropFirings s t id inh (fun _ => true)) t id (fun _ => true)) t)

/-! ### Traps -/

/-- End the running context as an unresolved trap (R302): it does not drain, its queued commands are discarded, its
launch ends, and the tile keeps track of what the context still has out. `r` is the trap as it is reported; `keep` says
that the trap registers keep the record they hold (R301, log 17). The array of a pass under way asks for its stop 256 array cycles
after the cycle in which its next row would have entered (R86, log 100). -/
def endUnresolved (s : State) (t : Nat) (r : TrapRec) (keep : Bool) : State :=
  match (s.tile t).ctx with
  | none => s
  | some c =>
    if !c.phase.live then s else
    let due := match c.pass with
      | some p => max p.cycle (s.stack (t / 48)).cycle + 256
      | none => (s.stack (t / 48)).cycle + 256
    let s := (abandon s t).endDraw t due
    let s := s.modCtx t (fun c =>
      let c := { c with phase := .ended, copyQ := [], vectorQ := [], matrixQ := [], riderQ := [], pass := none,
                        flights := [], stopping := none, pendingTraps := [] }
      if keep then c
      else { c with tcause := r.cause, tblk := r.blk, tslot := r.slot, ttag := r.tag, tinfo0 := r.info0,
                    tinfo1 := r.info1 })
    let s := (if c.lock then [t, t + 1] else [t]).foldl (fun s t => s.modTile t (fun x => { x with owed := x.owed ++ [c.id] })) s
    let s := s.emit (.unresolved t r.cause r.info0 r.info1)
    { s with
      pend := s.pend.filter (fun e => match e.who with
        | .engine u k _ => !(u == t && k == c.id)
        | .landing id => !(s.copies.any (fun k => k.id == id && copyOfCtx c.id k) && (match e.place with
            | .scratch u off => u == t && decide (off < 0x3E0000)
            | _ => false))
        | _ => true)
      riders := s.riders.map (fun r => if r.ctx == c.id then { r with orphan := true } else r)
      launches := s.launches.map (fun l => if l.id == c.launch then { l with ended := true } else l) }

/-- Taking a trap (R298, R299): the record, TRETA, whose low six bits are reserved, ASYNC and AFTER are written, INH is set, and the block at TVEC is next.
With INH already set it is a trap within a handler (R301): the context ends with cause 0x74, reported with the second
cause and slot, and the first record is kept (log 17). -/
def enterTrap (s : State) (t : Nat) (r : TrapRec) (after async : Bool) (treta : Word) (halted : Bool) : State :=
  match (s.tile t).ctx with
  | none => s
  | some c =>
    if c.inh then
      endUnresolved s t { r with
        cause := 0x74, info0 := BitVec.ofNat 64 r.cause, info1 := BitVec.ofNat 64 r.slot } true
    else
      (s.modTile t (fun x => { x with fresh := false })).modCtx t (fun c => { c with
        tcause := r.cause, tblk := r.blk, tslot := r.slot, ttag := r.tag, tinfo0 := r.info0, tinfo1 := r.info1,
        treta := treta &&& ~~~63#64, after := after, async := async, inh := true, haltedEntry := halted,
        phase := .fetching, pc := c.tvec, via := .any })

/-- A trap that abandons the block it names and enters the handler with TRETA that block (R297, R299). -/
def trapNow (s : State) (t : Nat) (r : TrapRec) : State := enterTrap (abandon s t) t r false false r.blk false

/-- A parked trap is taken as soon as its tag is the oldest unretired one (R132): of two for one tag, the one raised first (log 103). -/
def takeDue (s : State) (tile : Nat) : State :=
  match (s.fabric tile).parked.find? (fun r => (s.fabric tile).gen.isOldest r.tag) with
  | none => s
  | some r => trapNow s tile r

/-- A trap of an instruction (R297, R132): parked where it belongs to a tag of an iterating block until that tag is the oldest,
taken at once otherwise. -/
def trapSlot (s : State) (tile slot : Nat) (key : Key) (cause : Nat) (info0 info1 : Word) : State :=
  let r : TrapRec := { cause := cause, blk := blockAddr s tile, slot := slot, tag := keyTag key, info0 := info0,
                       info1 := info1 }
  if isLoop s tile && key.isSome then takeDue (s.modFabric tile (fun x => { x with parked := x.parked ++ [r] })) tile
  else trapNow s tile r

/-- A trap at firing: the instruction counts as fired and gives no token. -/
def trapFiring (s : State) (f : Firing) (cause : Nat) (info0 info1 : Word) : State :=
  trapSlot (settle s f .fired) f.tile f.slot f.key cause info0 info1

/-- A trap whose information registers the spec does not give: both take free values (log 2). -/
def trapOpen (s : State) (f : Firing) (cause : Nat) : State :=
  let (a, s) := s.drawWord
  let (b, s) := s.drawWord
  trapFiring s f cause a b

/-- A trap of an instruction that is never parked (R128). -/
def trapAtOnce (s : State) (f : Firing) (cause : Nat) (info0 info1 : Word) : State :=
  trapNow s f.tile { cause := cause, blk := blockAddr s f.tile, slot := f.slot, tag := keyTag f.key, info0 := info0,
                     info1 := info1 }

/-- The return from a handler (R300), once TRET's block has committed: INH is cleared and the block at TRETA is next, or
the context is halted again where the handler was entered from a halted context. -/
def returnFromTrap (c : Ctx) : Ctx :=
  if c.haltedEntry then { c with inh := false, haltedEntry := false, phase := .halted }
  else { c with inh := false, phase := .fetching, pc := c.treta, via := .any }

/-- A supervisor-only instruction in a user block traps with cause 0x0A at firing (R300, R324). -/
def supervisorOnly (f : Firing) (k : State → State) (s : State) : State :=
  if isSupervisor s f.tile then k s else trapFiring s f 0x0A 0 0

/-- An instruction that is block-wide only traps with cause 0x08 when it fires for a tag of an iterating block (R127). -/
def blockWideOnly (f : Firing) (k : State → State) (s : State) : State :=
  if isLoop s f.tile && f.key.isSome then trapFiring s f 0x08 0 0 else k s

/-! ### Control transfer helpers -/

/-- Record an exit (R106, R128, R350): a second one traps at once with cause 0x05. -/
def fireExit (s : State) (f : Firing) (dest : ExitTo) : State :=
  match (s.fabric f.tile).exit with
  | some _ => trapAtOnce s f 0x05 0 0
  | none =>
    (settle s f .fired).modFabric f.tile (fun x => { x with exit := some { slot := f.slot, key := f.key, dest := dest } })

/-- The address of the first 64-byte boundary after a block's image (R351). -/
def afterBlock (b : Block) : Word := b.addr + BitVec.ofNat 64 (64 * ((16 + 8 * b.words.length + 63) / 64))

end Sys2Proof.Machine
end

