-- ==== Sys2Proof/Machine/Operands.lean ====
section
/-! DEFINITION. What each form reads and counts as, when a slot is ready (R99, R114, R123 to R125, R286 to R288), which
ready instruction of a cluster fires (R101, R131), and how its operands are taken. -/

namespace Sys2Proof.Machine

/-- How a form settles (R99, R104). -/
inductive Kind where
  | plain
  | wr
  | tracked
  | exit
  deriving DecidableEq, Repr

/-- The ports a form reads as data (R313, R315, R332, R341, R354, R366, R380, R392, R398): left, right, third, and one
that is data only where a target names it (R373, R398); whether the right port holds the immediate; and its kind. -/
structure Form where
  left : Bool
  right : Bool
  third : Bool
  opt : Option Port
  imm : Bool
  kind : Kind
  deriving DecidableEq, Repr

/-- The form of an instruction. -/
def formOf : Instr → Form
  | .rd _ _ _ _ => ⟨false, false, false, none, false, .plain⟩
  | .wr _ _ _ => ⟨true, false, false, none, false, .wr⟩
  | .mov _ => ⟨true, false, false, none, false, .plain⟩
  | .movi _ _ => ⟨false, false, false, none, true, .plain⟩
  | .movhi _ _ => ⟨true, false, false, none, true, .plain⟩
  | .nul _ => ⟨false, false, false, none, false, .plain⟩
  | .sel _ => ⟨true, true, true, none, false, .plain⟩
  | .tagof _ => ⟨false, false, false, none, false, .plain⟩
  | .lgen _ => ⟨true, false, false, none, false, .plain⟩
  | .lgen2 _ => ⟨true, true, false, none, false, .plain⟩
  | .teos _ => ⟨true, false, false, none, false, .plain⟩
  | .add _ => ⟨true, true, false, none, false, .plain⟩
  | .sub _ => ⟨true, true, false, none, false, .plain⟩
  | .mul _ => ⟨true, true, false, none, false, .plain⟩
  | .mulh _ => ⟨true, true, false, none, false, .plain⟩
  | .mulhu _ => ⟨true, true, false, none, false, .plain⟩
  | .div _ => ⟨true, true, false, none, false, .plain⟩
  | .divu _ => ⟨true, true, false, none, false, .plain⟩
  | .rem _ => ⟨true, true, false, none, false, .plain⟩
  | .remu _ => ⟨true, true, false, none, false, .plain⟩
  | .and _ => ⟨true, true, false, none, false, .plain⟩
  | .or _ => ⟨true, true, false, none, false, .plain⟩
  | .xor _ => ⟨true, true, false, none, false, .plain⟩
  | .andn _ => ⟨true, true, false, none, false, .plain⟩
  | .shl _ => ⟨true, true, false, none, false, .plain⟩
  | .shr _ => ⟨true, true, false, none, false, .plain⟩
  | .sar _ => ⟨true, true, false, none, false, .plain⟩
  | .rol _ => ⟨true, true, false, none, false, .plain⟩
  | .clz _ => ⟨true, false, false, none, false, .plain⟩
  | .ctz _ => ⟨true, false, false, none, false, .plain⟩
  | .popc _ => ⟨true, false, false, none, false, .plain⟩
  | .min _ => ⟨true, true, false, none, false, .plain⟩
  | .max _ => ⟨true, true, false, none, false, .plain⟩
  | .minu _ => ⟨true, true, false, none, false, .plain⟩
  | .maxu _ => ⟨true, true, false, none, false, .plain⟩
  | .bfx _ _ _ => ⟨true, false, false, none, false, .plain⟩
  | .bfxu _ _ _ => ⟨true, false, false, none, false, .plain⟩
  | .bfi _ _ _ => ⟨true, true, false, none, false, .plain⟩
  | .shadd _ _ => ⟨true, true, false, none, false, .plain⟩
  | .addi _ _ => ⟨true, false, false, none, true, .plain⟩
  | .muli _ _ => ⟨true, false, false, none, true, .plain⟩
  | .andi _ _ => ⟨true, false, false, none, true, .plain⟩
  | .ori _ _ => ⟨true, false, false, none, true, .plain⟩
  | .xori _ _ => ⟨true, false, false, none, true, .plain⟩
  | .shli _ _ => ⟨true, false, false, none, true, .plain⟩
  | .shri _ _ => ⟨true, false, false, none, true, .plain⟩
  | .sari _ _ => ⟨true, false, false, none, true, .plain⟩
  | .teq _ => ⟨true, true, false, none, false, .plain⟩
  | .tne _ => ⟨true, true, false, none, false, .plain⟩
  | .tlt _ => ⟨true, true, false, none, false, .plain⟩
  | .tle _ => ⟨true, true, false, none, false, .plain⟩
  | .tltu _ => ⟨true, true, false, none, false, .plain⟩
  | .tleu _ => ⟨true, true, false, none, false, .plain⟩
  | .teqi _ _ => ⟨true, false, false, none, true, .plain⟩
  | .tnei _ _ => ⟨true, false, false, none, true, .plain⟩
  | .tlti _ _ => ⟨true, false, false, none, true, .plain⟩
  | .tlei _ _ => ⟨true, false, false, none, true, .plain⟩
  | .tltui _ _ => ⟨true, false, false, none, true, .plain⟩
  | .tleui _ _ => ⟨true, false, false, none, true, .plain⟩
  | .pand _ => ⟨true, true, false, none, false, .plain⟩
  | .por _ => ⟨true, true, false, none, false, .plain⟩
  | .pnot _ => ⟨true, false, false, none, false, .plain⟩
  | .fadd _ _ _ => ⟨true, true, false, none, false, .plain⟩
  | .fsub _ _ _ => ⟨true, true, false, none, false, .plain⟩
  | .fmul _ _ _ => ⟨true, true, false, none, false, .plain⟩
  | .ffma _ _ _ => ⟨true, true, true, none, false, .plain⟩
  | .fdiv _ _ _ => ⟨true, true, false, none, false, .plain⟩
  | .fmin _ => ⟨true, true, false, none, false, .plain⟩
  | .fmax _ => ⟨true, true, false, none, false, .plain⟩
  | .fcvt _ _ _ _ => ⟨true, false, false, none, false, .plain⟩
  | .fteq _ => ⟨true, true, false, none, false, .plain⟩
  | .ftlt _ => ⟨true, true, false, none, false, .plain⟩
  | .ftle _ => ⟨true, true, false, none, false, .plain⟩
  | .br _ _ => ⟨false, false, false, none, false, .exit⟩
  | .bri _ => ⟨true, false, false, none, false, .exit⟩
  | .call _ _ => ⟨false, false, false, none, false, .exit⟩
  | .calli _ => ⟨true, false, false, none, false, .exit⟩
  | .ret _ => ⟨false, false, false, none, false, .exit⟩
  | .halt _ => ⟨false, false, false, none, false, .exit⟩
  | .ldb _ _ => ⟨true, false, false, none, false, .plain⟩
  | .ldbu _ _ => ⟨true, false, false, none, false, .plain⟩
  | .ldh _ _ => ⟨true, false, false, none, false, .plain⟩
  | .ldhu _ _ => ⟨true, false, false, none, false, .plain⟩
  | .ldw _ _ => ⟨true, false, false, none, false, .plain⟩
  | .ldwu _ _ => ⟨true, false, false, none, false, .plain⟩
  | .ldd _ _ => ⟨true, false, false, none, false, .plain⟩
  | .ldk _ _ => ⟨true, false, false, none, false, .plain⟩
  | .stb _ _ => ⟨true, true, false, none, false, .tracked⟩
  | .sth _ _ => ⟨true, true, false, none, false, .tracked⟩
  | .stw _ _ => ⟨true, true, false, none, false, .tracked⟩
  | .std _ _ => ⟨true, true, false, none, false, .tracked⟩
  | .stk _ _ => ⟨true, true, false, none, false, .tracked⟩
  | .lde _ _ => ⟨true, false, false, none, false, .tracked⟩
  | .stf _ _ => ⟨true, true, false, none, false, .tracked⟩
  | .stfw _ _ => ⟨true, true, false, none, false, .tracked⟩
  | .feq _ _ => ⟨true, false, false, none, false, .plain⟩
  | .feclr _ _ => ⟨true, false, false, none, false, .tracked⟩
  | .feset _ _ => ⟨true, false, false, none, false, .tracked⟩
  | .aadd _ _ _ _ => ⟨true, true, false, none, false, .tracked⟩
  | .aand _ _ _ _ => ⟨true, true, false, none, false, .tracked⟩
  | .aor _ _ _ _ => ⟨true, true, false, none, false, .tracked⟩
  | .axor _ _ _ _ => ⟨true, true, false, none, false, .tracked⟩
  | .amin _ _ _ _ => ⟨true, true, false, none, false, .tracked⟩
  | .amax _ _ _ _ => ⟨true, true, false, none, false, .tracked⟩
  | .aminu _ _ _ _ => ⟨true, true, false, none, false, .tracked⟩
  | .amaxu _ _ _ _ => ⟨true, true, false, none, false, .tracked⟩
  | .aswp _ _ _ _ => ⟨true, true, false, none, false, .tracked⟩
  | .acas _ _ _ _ => ⟨true, true, true, none, false, .tracked⟩
  | .kadv _ => ⟨true, true, false, none, false, .plain⟩
  | .ktrim _ => ⟨true, true, false, none, false, .plain⟩
  | .kmask _ => ⟨true, true, false, none, false, .plain⟩
  | .kbase _ => ⟨true, false, false, none, false, .plain⟩
  | .klen _ => ⟨true, false, false, none, false, .plain⟩
  | .kattr _ => ⟨true, false, false, none, false, .plain⟩
  | .klock _ => ⟨true, true, false, none, false, .plain⟩
  | .kopen _ => ⟨true, false, false, none, false, .plain⟩
  | .sparm _ _ _ => ⟨true, false, false, none, false, .tracked⟩
  | .spdis _ _ => ⟨false, false, false, none, false, .tracked⟩
  | .sppos _ _ => ⟨false, false, false, none, false, .plain⟩
  | .spskip _ _ => ⟨true, false, false, none, false, .tracked⟩
  | .fence _ _ _ => ⟨false, false, false, none, false, .tracked⟩
  | .qfence _ _ => ⟨false, false, false, none, false, .tracked⟩
  | .binit _ _ => ⟨true, false, false, none, false, .tracked⟩
  | .barr _ _ => ⟨false, false, false, none, false, .tracked⟩
  | .bwait _ _ => ⟨false, false, false, none, false, .tracked⟩
  | .waitq _ _ => ⟨false, false, false, none, false, .tracked⟩
  | .syscall _ => ⟨false, false, false, some .left, false, .plain⟩
  | .brk _ => ⟨false, false, false, some .left, false, .plain⟩
  | .tret _ => ⟨false, false, false, none, false, .exit⟩
  | .csrr _ _ => ⟨false, false, false, none, false, .plain⟩
  | .csrw _ _ => ⟨true, false, false, none, false, .tracked⟩
  | .tlbiVa _ => ⟨true, false, false, none, false, .tracked⟩
  | .tlbiCtx _ => ⟨false, false, false, none, false, .tracked⟩
  | .tlbiAsid _ => ⟨true, false, false, none, false, .tracked⟩
  | .tlbiAll _ => ⟨false, false, false, none, false, .tracked⟩
  | .asidrt _ => ⟨true, false, false, none, false, .tracked⟩
  | .wfe _ => ⟨false, false, false, none, false, .tracked⟩
  | .vld _ _ => ⟨true, false, false, none, false, .tracked⟩
  | .vst _ _ => ⟨true, false, false, none, false, .tracked⟩
  | .vlds _ _ => ⟨true, true, false, none, false, .tracked⟩
  | .vsts _ _ => ⟨true, true, false, none, false, .tracked⟩
  | .vgth _ _ => ⟨true, false, false, none, false, .tracked⟩
  | .vsct _ _ => ⟨true, false, false, none, false, .tracked⟩
  | .vscta _ _ => ⟨true, false, false, none, false, .tracked⟩
  | .vbcst _ _ => ⟨true, false, false, none, false, .tracked⟩
  | .vadd _ _ => ⟨false, false, false, none, false, .tracked⟩
  | .vsub _ _ => ⟨false, false, false, none, false, .tracked⟩
  | .vmul _ _ => ⟨false, false, false, none, false, .tracked⟩
  | .vfma _ _ => ⟨false, false, false, none, false, .tracked⟩
  | .vmin _ _ => ⟨false, false, false, none, false, .tracked⟩
  | .vmax _ _ => ⟨false, false, false, none, false, .tracked⟩
  | .vabs _ _ => ⟨false, false, false, none, false, .tracked⟩
  | .vneg _ _ => ⟨false, false, false, none, false, .tracked⟩
  | .vand _ _ => ⟨false, false, false, none, false, .tracked⟩
  | .vor _ _ => ⟨false, false, false, none, false, .tracked⟩
  | .vxor _ _ => ⟨false, false, false, none, false, .tracked⟩
  | .vshl _ _ => ⟨false, false, false, none, false, .tracked⟩
  | .vshr _ _ => ⟨false, false, false, none, false, .tracked⟩
  | .vcvt _ _ => ⟨false, false, false, none, false, .tracked⟩
  | .vexp2 _ _ => ⟨false, false, false, none, false, .tracked⟩
  | .vrcp _ _ => ⟨false, false, false, none, false, .tracked⟩
  | .vrsq _ _ => ⟨false, false, false, none, false, .tracked⟩
  | .vredadd _ _ => ⟨false, false, false, none, false, .tracked⟩
  | .vredmax _ _ => ⟨false, false, false, none, false, .tracked⟩
  | .vredmin _ _ => ⟨false, false, false, none, false, .tracked⟩
  | .vcmp _ _ _ => ⟨false, false, false, none, false, .tracked⟩
  | .vsel _ _ => ⟨false, false, false, none, false, .tracked⟩
  | .vperm _ _ => ⟨false, false, false, none, false, .tracked⟩
  | .vcmpr _ _ => ⟨false, false, false, none, false, .tracked⟩
  | .viota _ _ => ⟨false, false, false, none, false, .tracked⟩
  | .mand _ _ => ⟨false, false, false, none, false, .tracked⟩
  | .mor _ _ => ⟨false, false, false, none, false, .tracked⟩
  | .mnot _ _ => ⟨false, false, false, none, false, .tracked⟩
  | .mpopc _ _ => ⟨false, false, false, none, false, .tracked⟩
  | .vins _ _ => ⟨true, true, false, none, false, .tracked⟩
  | .mlws _ _ _ => ⟨true, false, false, none, false, .tracked⟩
  | .mswap _ => ⟨false, false, false, none, false, .tracked⟩
  | .mpass _ _ _ _ => ⟨true, false, false, none, false, .tracked⟩
  | .mpasss _ _ _ _ => ⟨true, false, false, none, false, .tracked⟩
  | .mzero _ _ _ => ⟨false, false, false, none, false, .tracked⟩
  | .mrd _ _ _ _ _ _ _ => ⟨true, false, false, none, false, .tracked⟩
  | .mcbl _ _ => ⟨true, false, false, none, false, .tracked⟩
  | .rank _ _ _ _ _ _ _ => ⟨true, false, false, none, false, .tracked⟩
  | .rkmerge _ _ _ _ _ _ => ⟨true, false, false, none, false, .tracked⟩
  | .rkatl _ _ => ⟨true, false, false, none, false, .tracked⟩
  | .rkpass _ _ _ _ => ⟨true, true, false, none, false, .tracked⟩
  | .rkrecon _ _ _ _ _ _ => ⟨true, true, false, none, false, .tracked⟩
  | .cpy _ _ _ _ => ⟨true, false, false, none, false, .tracked⟩
  | .cpym _ _ _ _ => ⟨true, false, false, none, false, .tracked⟩
  | .cpy2d _ _ _ _ => ⟨true, false, false, none, false, .tracked⟩
  | .cpyfill _ _ _ => ⟨true, false, false, none, false, .tracked⟩
  | .cpyz _ _ _ _ => ⟨true, false, false, none, false, .tracked⟩
  | .riread _ _ _ => ⟨true, false, false, none, false, .tracked⟩
  | .rifilt _ _ _ => ⟨true, false, false, some .right, false, .tracked⟩
  | .rimatv _ _ _ => ⟨true, false, false, none, false, .tracked⟩
  | .riupd _ _ _ => ⟨true, false, false, none, false, .tracked⟩
  | .rired _ _ _ => ⟨true, false, false, none, false, .tracked⟩
  | .ricxg _ _ _ => ⟨true, false, false, none, false, .tracked⟩
  | .riwrite _ _ _ => ⟨true, false, false, none, false, .tracked⟩
  | .rifill _ _ _ => ⟨true, false, false, none, false, .tracked⟩
  | .ripref _ _ _ => ⟨true, false, false, none, false, .tracked⟩
  | .packetLaunch _
  | .packetCopy _
  | .packetHint _
  | .packetSignal _
  | .packetWait _
  | .packetQueueFence _
  | .packetMalformed _
  | .packetComplete _ _ _
  | .contextImageLoad _
  | .localDone _
  | .regionConverge _ _
  | .regionStart _ _
  | .saveImageComplete _
  | .saveBankFree _
  | .grantStep _
  | .barrierRelease _ _ _
  | .blockFetch _
  | .blockMap _
  | .tokenArrival _ _
  | .toyboxReturn _ _ _
  | .tagEmit _
  | .tagComplete _ _
  | .tagRetire _
  | .blockCommit _
  | .quiescenceTrap _
  | .trapEntry _
  | .engineTrapTaken _
  | .loadReturn _
  | .stfwReservation _ _
  | .wfeTimeout _
  | .streamPrefetch _ _
  | .vectorCommandPerform _
  | .matrixCommandPerform _
  | .accumulatorRowLand _
  | .queueFenceRelease _ _
  | .copyStart _
  | .copyChunk _
  | .followOnEntry _
  | .copyComplete _
  | .riderLeaveQueue _
  | .legArrival _ _
  | .riderComplete _
  | .functionLevelReset _
  | .coldReset
  | .hotReset
  | .watchdogReset
  | .bootRomCheck
  | .puppeteerStart
  | .bringupRunning
  | .thermalForecast
  | .fwactDupgoClear
  | .fwImageLoaded
  | .fwActivated
  | .attcmdGo
  | .attestReportDone
  | .rellastValidClear
  | .puppeteerTimerTick
  | .schedulingDecision
  | .sweepSlot
  | .tileSelfTest _
  | .sensorReport _ _ _
  | .flitReplay _
  | .volongPortDown _
  | .leagueRequestServe _
  | .leagueResponse _ _ _
  | .leagueTimeout _
  | .lgctlWrite _
  | .tencfgWrite _ _
  | .tenptWrite _ _
  | .fwactGo _
  | .vlogctlHeadWrite _ _
  | .tnstatClear _ _
  | .vlstatDownevClear _
  | .slewtabWrite _ _
  | .registerWrite _ _ _ _
  | .doorbellKick _ _ _
  | .doorbellCreate _ _ _
  | .doorbellDestroy _ _
  | .doorbellReserved _ _
  | .eventArm _ _ _
  | .eventArrival _ _
  | .map _ _ _
  | .unmap _ _
  | .switch _ _
  | .contextResume _ _ _
  | .blockCacheRefetch _
  | .faultRollback _ _
  | .benchLaneGrant _
  | .legBoard _ _
  | .legAlight _ _
  | .pageRequest _ _
  | .fillStart _ _
  | .fillSourceReady _
  | .fillComplete _
  | .fillFail _ _
  | .pageEvict _
  | .volongPortUp _
  | .configurationRequest _ _
  | .registerRead _ _ _
  | .scaleOutReceive _ _ _ => ⟨false, false, false, none, false, .plain⟩

/-- The common fields of an instruction. -/
def hdrOf : Instr → Option Hdr
  | .rd h _ _ _ => some h
  | .wr h _ _ => some h
  | .mov h => some h
  | .movi h _ => some h
  | .movhi h _ => some h
  | .nul h => some h
  | .sel h => some h
  | .tagof h => some h
  | .lgen h => some h
  | .lgen2 h => some h
  | .teos h => some h
  | .add h => some h
  | .sub h => some h
  | .mul h => some h
  | .mulh h => some h
  | .mulhu h => some h
  | .div h => some h
  | .divu h => some h
  | .rem h => some h
  | .remu h => some h
  | .and h => some h
  | .or h => some h
  | .xor h => some h
  | .andn h => some h
  | .shl h => some h
  | .shr h => some h
  | .sar h => some h
  | .rol h => some h
  | .clz h => some h
  | .ctz h => some h
  | .popc h => some h
  | .min h => some h
  | .max h => some h
  | .minu h => some h
  | .maxu h => some h
  | .bfx h _ _ => some h
  | .bfxu h _ _ => some h
  | .bfi h _ _ => some h
  | .shadd h _ => some h
  | .addi h _ => some h
  | .muli h _ => some h
  | .andi h _ => some h
  | .ori h _ => some h
  | .xori h _ => some h
  | .shli h _ => some h
  | .shri h _ => some h
  | .sari h _ => some h
  | .teq h => some h
  | .tne h => some h
  | .tlt h => some h
  | .tle h => some h
  | .tltu h => some h
  | .tleu h => some h
  | .teqi h _ => some h
  | .tnei h _ => some h
  | .tlti h _ => some h
  | .tlei h _ => some h
  | .tltui h _ => some h
  | .tleui h _ => some h
  | .pand h => some h
  | .por h => some h
  | .pnot h => some h
  | .fadd h _ _ => some h
  | .fsub h _ _ => some h
  | .fmul h _ _ => some h
  | .ffma h _ _ => some h
  | .fdiv h _ _ => some h
  | .fmin h => some h
  | .fmax h => some h
  | .fcvt h _ _ _ => some h
  | .fteq h => some h
  | .ftlt h => some h
  | .ftle h => some h
  | .br h _ => some h
  | .bri h => some h
  | .call h _ => some h
  | .calli h => some h
  | .ret h => some h
  | .halt h => some h
  | .ldb h _ => some h
  | .ldbu h _ => some h
  | .ldh h _ => some h
  | .ldhu h _ => some h
  | .ldw h _ => some h
  | .ldwu h _ => some h
  | .ldd h _ => some h
  | .ldk h _ => some h
  | .stb h _ => some h
  | .sth h _ => some h
  | .stw h _ => some h
  | .std h _ => some h
  | .stk h _ => some h
  | .lde h _ => some h
  | .stf h _ => some h
  | .stfw h _ => some h
  | .feq h _ => some h
  | .feclr h _ => some h
  | .feset h _ => some h
  | .aadd h _ _ _ => some h
  | .aand h _ _ _ => some h
  | .aor h _ _ _ => some h
  | .axor h _ _ _ => some h
  | .amin h _ _ _ => some h
  | .amax h _ _ _ => some h
  | .aminu h _ _ _ => some h
  | .amaxu h _ _ _ => some h
  | .aswp h _ _ _ => some h
  | .acas h _ _ _ => some h
  | .kadv h => some h
  | .ktrim h => some h
  | .kmask h => some h
  | .kbase h => some h
  | .klen h => some h
  | .kattr h => some h
  | .klock h => some h
  | .kopen h => some h
  | .sparm h _ _ => some h
  | .spdis h _ => some h
  | .sppos h _ => some h
  | .spskip h _ => some h
  | .fence h _ _ => some h
  | .qfence h _ => some h
  | .binit h _ => some h
  | .barr h _ => some h
  | .bwait h _ => some h
  | .waitq h _ => some h
  | .syscall h => some h
  | .brk h => some h
  | .tret h => some h
  | .csrr h _ => some h
  | .csrw h _ => some h
  | .tlbiVa h => some h
  | .tlbiCtx h => some h
  | .tlbiAsid h => some h
  | .tlbiAll h => some h
  | .asidrt h => some h
  | .wfe h => some h
  | .vld h _ => some h
  | .vst h _ => some h
  | .vlds h _ => some h
  | .vsts h _ => some h
  | .vgth h _ => some h
  | .vsct h _ => some h
  | .vscta h _ => some h
  | .vbcst h _ => some h
  | .vadd h _ => some h
  | .vsub h _ => some h
  | .vmul h _ => some h
  | .vfma h _ => some h
  | .vmin h _ => some h
  | .vmax h _ => some h
  | .vabs h _ => some h
  | .vneg h _ => some h
  | .vand h _ => some h
  | .vor h _ => some h
  | .vxor h _ => some h
  | .vshl h _ => some h
  | .vshr h _ => some h
  | .vcvt h _ => some h
  | .vexp2 h _ => some h
  | .vrcp h _ => some h
  | .vrsq h _ => some h
  | .vredadd h _ => some h
  | .vredmax h _ => some h
  | .vredmin h _ => some h
  | .vcmp h _ _ => some h
  | .vsel h _ => some h
  | .vperm h _ => some h
  | .vcmpr h _ => some h
  | .viota h _ => some h
  | .mand h _ => some h
  | .mor h _ => some h
  | .mnot h _ => some h
  | .mpopc h _ => some h
  | .vins h _ => some h
  | .mlws h _ _ => some h
  | .mswap h => some h
  | .mpass h _ _ _ => some h
  | .mpasss h _ _ _ => some h
  | .mzero h _ _ => some h
  | .mrd h _ _ _ _ _ _ => some h
  | .mcbl h _ => some h
  | .rank h _ _ _ _ _ _ => some h
  | .rkmerge h _ _ _ _ _ => some h
  | .rkatl h _ => some h
  | .rkpass h _ _ _ => some h
  | .rkrecon h _ _ _ _ _ => some h
  | .cpy h _ _ _ => some h
  | .cpym h _ _ _ => some h
  | .cpy2d h _ _ _ => some h
  | .cpyfill h _ _ => some h
  | .cpyz h _ _ _ => some h
  | .riread h _ _ => some h
  | .rifilt h _ _ => some h
  | .rimatv h _ _ => some h
  | .riupd h _ _ => some h
  | .rired h _ _ => some h
  | .ricxg h _ _ => some h
  | .riwrite h _ _ => some h
  | .rifill h _ _ => some h
  | .ripref h _ _ => some h
  | .packetLaunch _
  | .packetCopy _
  | .packetHint _
  | .packetSignal _
  | .packetWait _
  | .packetQueueFence _
  | .packetMalformed _
  | .packetComplete _ _ _
  | .contextImageLoad _
  | .localDone _
  | .regionConverge _ _
  | .regionStart _ _
  | .saveImageComplete _
  | .saveBankFree _
  | .grantStep _
  | .barrierRelease _ _ _
  | .blockFetch _
  | .blockMap _
  | .tokenArrival _ _
  | .toyboxReturn _ _ _
  | .tagEmit _
  | .tagComplete _ _
  | .tagRetire _
  | .blockCommit _
  | .quiescenceTrap _
  | .trapEntry _
  | .engineTrapTaken _
  | .loadReturn _
  | .stfwReservation _ _
  | .wfeTimeout _
  | .streamPrefetch _ _
  | .vectorCommandPerform _
  | .matrixCommandPerform _
  | .accumulatorRowLand _
  | .queueFenceRelease _ _
  | .copyStart _
  | .copyChunk _
  | .followOnEntry _
  | .copyComplete _
  | .riderLeaveQueue _
  | .legArrival _ _
  | .riderComplete _
  | .functionLevelReset _
  | .coldReset
  | .hotReset
  | .watchdogReset
  | .bootRomCheck
  | .puppeteerStart
  | .bringupRunning
  | .thermalForecast
  | .fwactDupgoClear
  | .fwImageLoaded
  | .fwActivated
  | .attcmdGo
  | .attestReportDone
  | .rellastValidClear
  | .puppeteerTimerTick
  | .schedulingDecision
  | .sweepSlot
  | .tileSelfTest _
  | .sensorReport _ _ _
  | .flitReplay _
  | .volongPortDown _
  | .leagueRequestServe _
  | .leagueResponse _ _ _
  | .leagueTimeout _
  | .lgctlWrite _
  | .tencfgWrite _ _
  | .tenptWrite _ _
  | .fwactGo _
  | .vlogctlHeadWrite _ _
  | .tnstatClear _ _
  | .vlstatDownevClear _
  | .slewtabWrite _ _
  | .registerWrite _ _ _ _
  | .doorbellKick _ _ _
  | .doorbellCreate _ _ _
  | .doorbellDestroy _ _
  | .doorbellReserved _ _
  | .eventArm _ _ _
  | .eventArrival _ _
  | .map _ _ _
  | .unmap _ _
  | .switch _ _
  | .contextResume _ _ _
  | .blockCacheRefetch _
  | .faultRollback _ _
  | .benchLaneGrant _
  | .legBoard _ _
  | .legAlight _ _
  | .pageRequest _ _
  | .fillStart _ _
  | .fillSourceReady _
  | .fillComplete _
  | .fillFail _ _
  | .pageEvict _
  | .volongPortUp _
  | .configurationRequest _ _
  | .registerRead _ _ _
  | .scaleOutReceive _ _ _ => none

/-- The instruction in slot j of a block. -/
def instrAt (b : Block) (j : Nat) : Option Instr :=
  match b.words[j]? with
  | some w =>
    match decode w with
    | .ok i => some i
    | .error _ => none
  | none => none

/-- The slot and port that a target of slot j names, none for an empty one (R312). -/
def targetSlot (j : Nat) (t : Target) : Option (Nat × Port) :=
  if t.d = 0 then none else some ((j + t.d.toNat) % 128, t.port)

/-- Some target of the block names this port of this slot. -/
def isTargeted (b : Block) (j : Nat) (p : Port) : Bool :=
  (List.range b.words.length).any (fun i =>
    match (instrAt b i).bind hdrOf with
    | some h => targetSlot i h.t1 == some (j, p) || targetSlot i h.t2 == some (j, p)
    | none => false)

/-- The ports whose tokens slot j waits for: those its form reads, targeted gates, and the predicate (R99, R313). -/
def portNeeds (b : Block) (j : Nat) (i : Instr) : List Port :=
  let f := formOf i
  let pm : Bool := match hdrOf i with
    | some h => decide (h.pm ≠ .always)
    | none => false
  (if f.left || isTargeted b j .left then [Port.left] else []) ++
  (if f.right || isTargeted b j .right then [Port.right] else []) ++
  (if pm then [Port.pred] else [])

/-- The token at a port of a slot for a key: a tagged operand, or one latched block-wide (R114). -/
def operandAt (x : Fabric) (j : Nat) (p : Port) (k : Key) : Option Token :=
  let tagged : Option Token := match k with
    | some t => (x.operands.find? (fun o => o.slot == j && o.port == p && o.tok.tag == t)).map (·.tok)
    | none => none
  match tagged with
  | some t => some t
  | none => (x.latches.find? (fun o => o.slot == j && o.port == p)).map (·.tok)

/-- A slot has settled for a key. -/
def settledFor (x : Fabric) (j : Nat) (k : Key) : Bool := x.settled.any (fun e => e.slot == j && e.key == k)

/-- The port that an RD or WR of a g register acts on while it is armed (R280): none for a plain register. -/
def armedPort (c : Ctx) (kr : Bool) (n : BitVec 6) : Option Nat :=
  if !kr && decide (n.toNat ≥ 56) && (c.port (n.toNat - 56)).armed then some (n.toNat - 56) else none

/-- DIR of an armed port's record: an output port (R281). -/
def SPort.isOutput (p : SPort) : Bool := p.record.getLsbD (64 + 7)

/-- The port that an instruction pops or re-reads: RD of an armed input port (R286, R288). -/
def popPort (c : Ctx) (i : Instr) : Option Nat :=
  match i with
  | .rd _ _ kr n =>
    match armedPort c kr n with
    | some p => if (c.port p).isOutput then none else some p
    | none => none
  | _ => none

/-- TOTAL of an armed port's record (R281). -/
def SPort.total (p : SPort) : Nat := (p.record.extractLsb' 128 48).toNat

/-- The slots of a block that pop or re-read a port. -/
def popSlots (b : Block) (c : Ctx) (p : Nat) : List Nat :=
  (List.range b.words.length).filter (fun j =>
    match instrAt b j with
    | some i => popPort c i == some p
    | none => false)

/-- A token that reached a firing's predicate port keeps it from firing (R99, R290, R311): it carries EOS or does not match the
predicate mode. -/
def predMismatch (pm : PredMode) (pred : Option Token) : Bool :=
  match pred with
  | none => false
  | some k => k.eos || (match pm with
      | .onTrue => decide (k.val = 0)
      | .onFalse => decide (k.val ≠ 0)
      | .always => false)

/-- A token is NULL. -/
def tokNull (o : Option Token) : Bool :=
  match o with
  | some k => k.null
  | none => false

/-- The predicate mode of an instruction. -/
def predMode (i : Instr) : PredMode :=
  match hdrOf i with
  | some h => h.pm
  | none => .always

/-- Slot j is predicated off for a key, or its predicate token is NULL (R99). -/
def predicatedOff (x : Fabric) (j : Nat) (i : Instr) (k : Key) : Bool :=
  let pred := if predMode i = .always then none else operandAt x j .pred k
  tokNull pred || (!(formOf i).third && predMismatch (predMode i) pred)

/-- An RD has popped or been predicated off for a key (R287): it has settled, and has not trapped. -/
def poppedFor (x : Fabric) (j : Nat) (k : Key) : Bool :=
  settledFor x j k && !x.parked.any (fun r => r.slot == j && r.tag == keyTag k)

/-- A pop's turn has come (R286, R287): every RD of its port in a lower slot, and for an older inner tag in any slot, has
popped or been predicated off; and its element has been read ahead, or the stream has ended, or the form only re-reads. -/
def popReady (s : State) (tile : Nat) (b : Block) (c : Ctx) (p j : Nat) (k : Key) (keep : Bool) : Bool :=
  let x := s.fabric tile
  let slots := popSlots b c p
  let older : List TagRec := match k with
    | some t => x.tags.filter (fun r => !r.outer && BitVec.ult r.tag t)
    | none => []
  slots.all (fun i => decide (j ≤ i) || poppedFor x i k) &&
  older.all (fun r => slots.all (fun i => poppedFor x i (some r.tag))) &&
  (keep ||
    let q := c.port p
    decide (q.work.pos ≥ q.total) || s.ahead.any (fun e => e.tile == tile && e.port == p && e.pos == q.work.pos))

/-- Atomics and LDE (R105). -/
def irrevocable (i : Instr) : Bool :=
  match i with
  | .lde _ _ | .aadd _ _ _ _ | .aand _ _ _ _ | .aor _ _ _ _ | .axor _ _ _ _ | .amin _ _ _ _ | .amax _ _ _ _
  | .aminu _ _ _ _ | .amaxu _ _ _ _ | .aswp _ _ _ _ | .acas _ _ _ _ => true
  | _ => false

/-- Class M and X carry their channel in W (R311, R123). -/
def onTagged (i : Instr) : Bool :=
  match hdrOf i with
  | some h => h.w
  | none => false

/-- A replay entry for a slot and key (R105); a handler uses none (R300). -/
def replayEntry (c : Ctx) (j : Nat) (k : Key) : Option ReplayEntry :=
  if c.inh then none else c.replay.find? (fun e => e.slot == j && e.tag == keyTag k)

/-- A tracked instruction of a block, atomics and LDE apart: its effect is held (R104). -/
def holdsEffect (b : Block) (j : Nat) : Bool :=
  match instrAt b j with
  | some i => decide ((formOf i).kind = .tracked) && !irrevocable i
  | none => false

/-- The places of the reorder unit that are taken (R124): effects held, pushes held, and effects of fired instructions whose check
or record has still to come. -/
def reorderUsed (s : State) (tile : Nat) (b : Block) : Nat :=
  let x := s.fabric tile
  (x.held.filter (fun h => match h.eff with
    | .flags _ => false
    | _ => true)).length +
  (x.wrs.filter (fun w => w.push)).length +
  (s.pend.filter (fun e => match e.who with
    | .firing t c j _ => t == tile && c == s.ctxId tile && holdsEffect b j
    | _ => false)).length

/-- The entries of the replay buffer that are taken (R125): performed irrevocable instructions, and those that have fired and will
be performed. -/
def replayUsed (s : State) (tile : Nat) (c : Ctx) : Nat :=
  c.replay.length +
  (s.pend.filter (fun e => opIrrevocable e.op && e.got.isNone && (match e.who with
    | .firing t x _ _ => t == tile && x == c.id
    | .lost x _ _ => x == c.id
    | _ => false))).length

/-- A FENCE with ST has been released whose stores at far members have not been performed (R227): its block or its tag has not
finished committing or retiring. -/
def fencePending (s : State) (c : Ctx) : Bool :=
  c.fenced && storing s c.id

/-- The rules that hold a firing of a tag back (R123 to R125): an irrevocable instruction of the ordered channel waits
for its tag to be the oldest; a tracked one of a younger tag needs 64 free places of the reorder unit, and an
irrevocable one K replay entries left over. A WR that pushes is no tracked instruction, and waits for no place (log 102). -/
def mayFire (s : State) (tile : Nat) (b : Block) (c : Ctx) (j : Nat) (i : Instr) (k : Key) : Bool :=
  match b.loop, k with
  | true, some t =>
    let oldest := (s.fabric tile).gen.isOldest t && !fencePending s c
    (!irrevocable i || onTagged i || oldest) &&
    (oldest || decide ((formOf i).kind ≠ .tracked) || decide (reorderUsed s tile b + 64 ≤ 1024)) &&
    (oldest || !irrevocable i || (replayEntry c j k).isSome ||
      decide (replayUsed s tile c + 1 +
        ((List.range b.words.length).filter (fun n => (instrAt b n).any irrevocable)).length ≤ 64))
  | _, _ => true

/-- The keys for which slot j could fire now: tag 0 in a block without LOOP; in an iterating block the tags of its
operands, the inner tags in flight for a pop, and block-wide (R114). -/
def keysOf (x : Fabric) (b : Block) (c : Ctx) (j : Nat) (i : Instr) : List Key :=
  if !b.loop then [some 0]
  else
    match popPort c i with
    | some _ => (x.tags.filter (fun r => !r.outer)).map (fun r => some r.tag)
    | none =>
      none :: ((x.operands.filter (fun o => o.slot == j)).map (fun o => some o.tok.tag)).eraseDups

/-- Slot j has every operand that it needs for a key and has not settled (R99, R114). A block-wide firing needs every token
latched; a firing of a tag needs a tagged operand, unless it pops. -/
def hasOperands (x : Fabric) (b : Block) (j : Nat) (i : Instr) (k : Key) : Bool :=
  !settledFor x j k && (portNeeds b j i).all (fun p => (operandAt x j p k).isSome)

/-- Slot j is ready for a key and no rule holds it back (R99, R123 to R125); a pop that is not predicated off has its turn (R286,
R287). -/
def readyFor (s : State) (tile : Nat) (b : Block) (c : Ctx) (j : Nat) (i : Instr) (k : Key) : Bool :=
  let x := s.fabric tile
  hasOperands x b j i k &&
  mayFire s tile b c j i k &&
  (match popPort c i with
    | some p =>
      predicatedOff x j i k ||
      popReady s tile b c p j k (match i with
        | .rd _ keep _ _ => keep
        | _ => false)
    | none => true)

/-- A ready firing. -/
structure Candidate where
  slot : Nat
  key : Key
  u : Bool
  deriving DecidableEq, Repr

/-- The ready firings of some slots of tile t. -/
def readySlots (s : State) (t : Nat) (slots : List Nat) : List Candidate :=
  match (s.fabric t).blk, (s.tile t).ctx with
  | some b, some c =>
    slots.flatMap (fun j =>
      match instrAt b j with
      | none => []
      | some i =>
        ((keysOf (s.fabric t) b c j i).filter (readyFor s t b c j i)).map (fun k =>
          { slot := j, key := k, u := match hdrOf i with
              | some h => h.u
              | none => false }))
  | _, _ => []

/-- The order of R101: U first, then the older tag with block-wide oldest, then the lower slot. -/
def Candidate.before (a b : Candidate) : Bool :=
  let age (k : Key) : Nat := match k with
    | none => 0
    | some t => t.toNat + 1
  if a.u ≠ b.u then a.u
  else if age a.key ≠ age b.key then decide (age a.key < age b.key)
  else decide (a.slot < b.slot)

/-- The first of some candidates. -/
def firstCandidate : List Candidate → Option Candidate
  | [] => none
  | a :: rest =>
    match firstCandidate rest with
    | none => some a
    | some b => if b.before a then some b else some a

/-- The slots of a cluster (R98). -/
def clusterSlots (c : Nat) : List Nat := (List.range 8).map (· + 8 * c)

/-- How many fabric cycles an instruction with all its operands has been passed over (R131). -/
def passedOver (x : Fabric) (j : Nat) (k : Key) : Nat :=
  match x.waited.find? (fun w => w.1 == j && w.2.1 == k) with
  | some w => w.2.2
  | none => 0

/-- An instruction of the oldest unretired tag that has been ready for 16 fabric cycles (R131). -/
def hasPriority (x : Fabric) (a : Candidate) : Bool :=
  match a.key with
  | some k => x.gen.isOldest k && decide (16 ≤ passedOver x a.slot a.key)
  | none => false

/-- The firing that cluster c of tile t makes (R101, R131). -/
def chooseFiring (s : State) (t c : Nat) : Option Candidate :=
  let all := readySlots s t (clusterSlots c)
  match firstCandidate (all.filter (hasPriority (s.fabric t))) with
  | some a => some a
  | none => firstCandidate all

/-- The instructions of cluster c with all their operands have been passed over once more, but for the one that fires (R131). -/
def countWaits (s : State) (t c : Nat) (a : Candidate) : State :=
  match (s.fabric t).blk, (s.tile t).ctx with
  | some b, some ctx =>
    if b.loop then
      s.modFabric t (fun x => { x with
        waited := x.waited.filter (fun w => decide (w.1 / 8 ≠ c)) ++
          (clusterSlots c).flatMap (fun j =>
            match instrAt b j with
            | none => []
            | some i => ((keysOf x b ctx j i).filter (fun k => hasOperands x b j i k && !(j == a.slot && k == a.key))).map
                (fun k => (j, k, passedOver x j k + 1))) })
    else s
  | _, _ => s

/-- An operand whose value a write to the toybox has left undefined (R120, log 22). -/
def freeOperand (n : Nat) (o : Option Token) : Option Token :=
  o.map (fun t => { t with val := Config.freeWord n, ctag := false })

/-- The firing of a block whose toybox has been written takes free values for operands (R120, log 22). -/
def freeFiring (s : State) (t : Nat) : State :=
  if (s.fabric t).disturbed then
    { s with
      freeCtr := s.freeCtr + 3
      cur := s.cur.map (fun f => { f with
        left := freeOperand s.freeCtr f.left, right := freeOperand (s.freeCtr + 1) f.right
        third := freeOperand (s.freeCtr + 2) f.third }) }
  else s

/-- Take the operands of a firing (R99, R290): the tokens of the ports it reads, whether it is predicated off or met a
NULL, and the operands freed. -/
def takeOperands (s : State) (t : Nat) (b : Block) (i : Instr) (a : Candidate) : State :=
  let x := s.fabric t
  let f := formOf i
  let at_ (p : Port) := operandAt x a.slot p a.key
  let readsLeft := f.left || (f.opt == some .left && isTargeted b a.slot .left)
  let readsRight := f.right || (f.opt == some .right && isTargeted b a.slot .right)
  let left := if readsLeft then at_ .left else none
  let right := if readsRight then at_ .right else none
  let pred := if predMode i = .always then none else at_ .pred
  let used := (portNeeds b a.slot i).filterMap at_
  let rec_ : Option TagRec := match a.key with
    | some k => x.tags.find? (fun r => r.tag == k)
    | none => none
  freeFiring { s.modFabric t (fun x => { x with
      operands := x.operands.filter (fun o => !(o.slot == a.slot && some o.tok.tag == a.key)) }) with
    cur := some {
      tile := t, slot := a.slot, key := a.key
      outer := match rec_ with
        | some r => r.outer
        | none => false
      col := match rec_ with
        | some r => r.col
        | none => 0
      left := left, right := right, third := if f.third then pred else none
      off := predicatedOff x a.slot i a.key || tokNull left || tokNull right
      anc := (used.flatMap (·.anc)).eraseDups
      taken := x.operands.filter (fun o => o.slot == a.slot && some o.tok.tag == a.key) } } t

/-- Value of a port that brought no token: 0. -/
def tokVal (o : Option Token) : Word :=
  match o with
  | some k => k.val
  | none => 0

/-- EOS of a port. -/
def tokEos (o : Option Token) : Bool :=
  match o with
  | some k => k.eos
  | none => false

/-- Some operand the form reads carries EOS (R330). -/
def Firing.eos (f : Firing) : Bool := tokEos f.left || tokEos f.right || tokEos f.third

end Sys2Proof.Machine
end

