-- ==== Sys2Proof/Machine/Streams.lean ====
section
/-! DEFINITION. Stream ports (R280 to R296): the pattern, pops and pushes, prefetch, and SPARM, SPDIS, SPPOS and
SPSKIP. -/

namespace Sys2Proof.Machine

/-! ### The pattern record (R281, R282) -/

/-- START. -/
def patStart (r : BitVec 512) : Word := r.extractLsb' 0 64
/-- K. -/
def patK (r : BitVec 512) : Nat := (r.extractLsb' 64 4).toNat
/-- The element size in bytes. -/
def patSize (r : BitVec 512) : Nat := 2 ^ (r.extractLsb' 68 2).toNat
/-- SGN. -/
def patSigned (r : BitVec 512) : Bool := r.getLsbD 70
/-- DIR: output. -/
def patOut (r : BitVec 512) : Bool := r.getLsbD 71
/-- ND. -/
def patNd (r : BitVec 512) : Nat := (r.extractLsb' 72 2).toNat
/-- TOTAL. -/
def patTotal (r : BitVec 512) : Nat := (r.extractLsb' 128 48).toNat
/-- C[d]. -/
def patCount (r : BitVec 512) (d : Nat) : Nat := (r.extractLsb' (192 + 64 * d) 32).toNat
/-- S[d]. -/
def patStride (r : BitVec 512) (d : Nat) : Int := (r.extractLsb' (224 + 64 * d) 32).toInt

/-- A record is malformed (R283): `base` is the BASE of kK. -/
def patMalformed (r : BitVec 512) (base : Word) : Bool :=
  let used := (List.range 4).filter (fun d => decide (d ≤ patNd r))
  let unused := (List.range 4).filter (fun d => decide (patNd r < d))
  decide (r.extractLsb' 74 54 ≠ 0) || decide (r.extractLsb' 176 16 ≠ 0) || decide (r.extractLsb' 448 64 ≠ 0) ||
  unused.any (fun d => decide (r.extractLsb' (192 + 64 * d) 64 ≠ 0)) ||
  used.any (fun d => decide (patCount r d = 0)) ||
  (patSigned r && patOut r) ||
  decide ((base + patStart r).toNat % patSize r ≠ 0) ||
  used.any (fun d => decide (patStride r d % (patSize r : Int) ≠ 0))

/-- The offset of the element at a position, exact (R282). -/
def patOffset (r : BitVec 512) (p : Nat) : Int :=
  ((List.range 4).foldl (fun (acc : Nat × Int) d =>
    if d ≤ patNd r then
      (acc.1 / patCount r d, acc.2 + ((acc.1 % patCount r d : Nat) : Int) * patStride r d)
    else acc) (p, ((patStart r).toNat : Int))).2

/-- The address of the element at a position (R282). -/
def elementAddr (p : SPort) (pos : Nat) : Word := BitVec.ofInt 64 ((p.cap.base.toNat : Int) + patOffset p.record pos)

/-- Check the element at a position and find its place (R282, R293): the underlying cause of the first failure. -/
def elementPlace (s : State) (tile : Nat) (p : SPort) (pos : Nat) : State × Except Nat Place :=
  let off := patOffset p.record pos
  let n := patSize p.record
  let a := elementAddr p pos
  let tenant := match (s.tile tile).ctx with
    | some x => x.tenant
    | none => 0
  let acc : Access := if patOut p.record then .write else .read
  if off < 0 ∨ off + (n : Int) > (p.cap.length : Int) then (s, .error 0x23)
  else if p.cap.space = 0 then
    if a.toNat ≥ 0x400000 then (s, .error 0x23) else (s, .ok (.scratch tile a.toNat))
  else if a.extractLsb' 57 7 ≠ 0 then (s, .error 0x29)
  else
    let here (s : State) (va : Nat) : State × Except Nat Place :=
      match translateAccess s tenant va acc with
      | (s, .error x) => (s, .error x.1)
      | (s, .ok q) =>
        match q with
        | .mailbox _ _ => if n ≠ 8 then (s, .error 0x28) else (s, .ok q)
        | .mailboxHole => if n ≠ 8 then (s, .error 0x28) else (s, .ok q)
        | _ => (s, .ok q)
    if a.getLsbD 56 then
      match leagueRoute s a with
      | .outOfRange => (s, .error 0x2D)
      | .unreachable => (s, .error 0x2E)
      | .here => here s (a.toNat % 2 ^ 45)
      | .far _ _ => (s, .ok (.league a))
    else here s a.toNat

/-- TINFO1 of cause 0x41 (R293). -/
def streamInfo1 (port : Nat) (out : Bool) (cause pos : Nat) : Word :=
  BitVec.ofNat 64 (port + (if out then 8 else 0) + 256 * cause + 65536 * pos)

/-- A trap 0x40, 0x42 or 0x43 of a port (R295), with the record of R293: the element at the port's working position, its number,
direction and position. No underlying cause belongs to it, and a port that is not armed has no element: what is missing
takes a free value (log 56). -/
def trapPort (s : State) (f : Firing) (cause port : Nat) (p : SPort) : State :=
  let (a, s) := s.drawWord
  let (b, s) := s.drawWord
  if p.armed then
    trapFiring s f cause (elementAddr p p.work.pos)
      (streamInfo1 port (patOut p.record) (b.extractLsb' 0 8).toNat p.work.pos)
  else trapFiring s f cause a ((b &&& ~~~0xFF#64) ||| BitVec.ofNat 64 port)

/-- KEEP of anything but an armed input port traps with cause 0x42 (R288, R295). -/
def trapKeep (s : State) (f : Firing) (c : Ctx) (kr : Bool) (n : BitVec 6) : State :=
  if !kr && decide (n.toNat ≥ 56) then trapPort s f 0x42 (n.toNat - 56) (c.port (n.toNat - 56)) else trapOpen s f 0x42

/-! ### Pops (R286 to R288, R290) -/

/-- Record a pop of a firing: the working position and last pop move, and the pop is kept until its tag retires. -/
def recordPop (s : State) (f : Firing) (port : Nat) (after : PortPos) : State :=
  (s.modCtx f.tile (fun c => c.modPort port (fun p => { p with work := after }))).modFabric f.tile
    (fun x => { x with pops := x.pops ++ [{ key := f.key, slot := f.slot, port := port, after := after }] })

/-- What a pop of an element read ahead discards of what else its context has read ahead before it (R226, R230, R292): a pop is a
plain load, so from a line or word, which a release may have filled, it acquires, and no later read of its own bytes returns an
older write. -/
def dropOlder (s : State) (tile : Nat) (e : Prefetch) : State :=
  let stale (p : Place) (n : Nat) : Bool := match e.place with
    | none => false
    | some q =>
      hasState q || sharesByte q e.size p n || (match q with
        | .league _ => true
        | _ => false)
  let s := dropAhead s (fun p => p.tile == tile && decide (p.since < e.upto) && (match p.place with
    | some q => stale q p.size
    | none => false))
  { s with pend := s.pend.filter (fun x => match x.who, x.place with
      | .prefetch t _ _ _, .league _ => !(t == tile && decide (x.id < e.upto) && stale x.place (opSize x.op))
      | .prefetch t _ _ _, _ => !(t == tile && x.got.isSome && decide (x.id < e.upto) && stale x.place (opSize x.op))
      | _, _ => true) }

/-- A pop (R286, R290, R293): the element read ahead, the end of the stream, or the fault the element holds. -/
def popPortOnce (f : Firing) (h : Hdr) (port : Nat) (p : SPort) (s : State) : State :=
  if p.work.pos ≥ patTotal p.record then
    fireResult f h (resultToken f 0 true)
      (recordPop s f port { p.work with last := 0, lastV := true, lastEos := true })
  else
    match s.ahead.find? (fun e => e.tile == f.tile && e.port == port && e.pos == p.work.pos) with
    | none => unfire s f
    | some e =>
      match e.got with
      | .value v =>
        let s := dropOlder (dropAhead s (fun q => q.tile == f.tile && q.port == port && q.pos == p.work.pos)) f.tile e
        fireResult f h (resultToken f v false)
          (recordPop s f port { p.work with pos := p.work.pos + 1, last := v, lastV := true, lastEos := false })
      | .failed cause =>
        trapFiring s f 0x41 (elementAddr p p.work.pos) (streamInfo1 port false cause p.work.pos)
      | .poison =>
        trapFiring s f 0x31 (elementAddr p p.work.pos) (memInfo1 (patK p.record) (patSize p.record) false 0)

/-- A KEEP re-read of the last pop; 0 with EOS where the port has made none (R288). -/
def rereadPort (f : Firing) (h : Hdr) (p : SPort) (s : State) : State :=
  if p.work.lastV then fireResult f h (resultToken f p.work.last p.work.lastEos) s
  else fireResult f h (resultToken f 0 true) s

/-! ### Pushes (R289) -/

/-- The slots of a block whose WR pushes to a port. -/
def pushSlots (b : Block) (c : Ctx) (p : Nat) : List Nat :=
  (List.range b.words.length).filter (fun j =>
    match instrAt b j with
    | some (.wr _ kr n) => armedPort c kr n == some p
    | _ => false)

/-- A fired push takes the next position of its port; at TOTAL it sets OVR instead. -/
def placePush (s : State) (tile : Nat) (w : HeldWr) : State :=
  match (s.tile tile).ctx with
  | none => s
  | some c =>
    let p := c.port w.n
    let after : PortPos :=
      if p.work.pos ≥ patTotal p.record then { p.work with ovr := true } else { p.work with pos := p.work.pos + 1 }
    (s.modCtx tile (fun c => c.modPort w.n (fun p => { p with work := after }))).modFabric tile
      (fun x => { x with wrs := x.wrs.map (fun v => if v.slot == w.slot && v.key == w.key then { v with pos := some p.work.pos } else v) })

/-- Ask a far member whether the store of a push would be refused; TINFO1 of a failure holds its port and position (R27, R293). -/
def askPush (s : State) (tile : Nat) (c : Ctx) (w : HeldWr) (a : Word) (size pos : Nat) : State :=
  let (id, s1) := s.fresh
  submit s1 { Pend.start s id (.firing tile c.id w.slot w.key) (.store size) (.league a) a c.tenant c.id with
              info1 := streamInfo1 w.n true 0 pos, data := w.val.setWidth 128 }

/-- In a block without LOOP, give a fired push its position, with its element checked there, at a far member too. The TINFO values
of a failed check come back with the position unmoved. -/
def assignPush (s : State) (tile port : Nat) (w : HeldWr) : State × Option (Word × Word) :=
  match (s.tile tile).ctx with
  | none => (s, none)
  | some c =>
    let p := c.port port
    if p.work.pos ≥ patTotal p.record then (placePush s tile w, none)
    else
      match elementPlace s tile p p.work.pos with
      | (s, .error cause) => (s, some (elementAddr p p.work.pos, streamInfo1 port true cause p.work.pos))
      | (s, .ok q) =>
        let s := placePush s tile w
        match q with
        | .league a => (askPush s tile c w a (patSize p.record) p.work.pos, none)
        | _ => (s, none)

/-- What checking some pushes of an iterating block comes to: all may be written, some answer of a far member is still to come, or
the lowest failing WR traps. -/
inductive PushVerdict where
  | pass
  | waits
  | fails (slot : Nat) (info0 info1 : Word)
  deriving DecidableEq, Repr

/-- Check the pushes of a tag, or the block-wide ones, in slot order at the positions that they would take (R289, R293): no
position moves. A far member is asked where it has not answered for that position. `c` is the context with its ports where the
pushes before have brought them. -/
def checkPushes (tile : Nat) : Ctx → List HeldWr → State → State × PushVerdict
  | _, [], s => (s, .pass)
  | c, w :: rest, s =>
    let p := c.port w.n
    let pos := p.work.pos
    if pos ≥ patTotal p.record then checkPushes tile c rest s
    else
      let next := c.modPort w.n (fun p => { p with work := { p.work with pos := pos + 1 } })
      let fails (cause : Nat) : PushVerdict := .fails w.slot (elementAddr p pos) (streamInfo1 w.n true cause pos)
      match elementPlace s tile p pos with
      | (s, .error cause) => (s, fails cause)
      | (s, .ok (.league a)) =>
        match w.check with
        | some k =>
          if k.pos = pos then
            match k.cause with
            | some cause => (s, fails cause)
            | none => checkPushes tile next rest s
          else ((checkPushes tile next rest (askPush s tile c w a (patSize p.record) pos)).1, .waits)
        | none => ((checkPushes tile next rest (askPush s tile c w a (patSize p.record) pos)).1, .waits)
      | (s, .ok _) => checkPushes tile next rest s

/-- Keep the answer of a far member to the check of a push. -/
def notePush (s : State) (tile slot : Nat) (key : Key) (k : PushCheck) : State :=
  s.modFabric tile (fun x => { x with
    wrs := x.wrs.map (fun w => if w.slot == slot && w.key == key then { w with check := some k } else w) })

/-- In a block without LOOP, assign positions to the fired pushes of one port in slot order, up to the first WR that has
not settled; a failed check traps that WR (R289, R293). -/
def settlePort (s : State) (tile port : Nat) (f : Firing) : List Nat → State
  | [] => s
  | j :: rest =>
    let x := s.fabric tile
    if !settledFor x j f.key then s
    else
      match x.wrs.find? (fun w => w.slot == j && w.push && w.n == port && w.pos.isNone) with
      | none => settlePort s tile port f rest
      | some w =>
        match assignPush s tile port w with
        | (s, some (i0, i1)) => trapFiring s { f with slot := j } 0x41 i0 i1
        | (s, none) => settlePort s tile port f rest

/-- Assign the positions of a block's pushes after a WR has settled. -/
def settlePushes (s : State) (f : Firing) : State :=
  match (s.fabric f.tile).blk, (s.tile f.tile).ctx with
  | some b, some c =>
    if b.loop then s
    else (List.range 8).foldl (fun s p => settlePort s f.tile p f (pushSlots b c p)) s
  | _, _ => s

/-- Write the element of a push at its position (R289): a plain store; at TOTAL nothing. -/
def performPush (s : State) (tile : Nat) (w : HeldWr) : State :=
  match (s.tile tile).ctx, w.pos with
  | some c, some pos =>
    let p := c.port w.n
    if pos ≥ patTotal p.record then s
    else
      match elementPlace s tile p pos with
      | (s, .ok q) => releaseStore s tile c.id (.store q (patSize p.record) (w.val.setWidth 128) false false) 0
      | (s, .error _) => s
  | _, _ => s

/-! ### Prefetch (R292) -/

/-- The engine of a port has stopped at an element whose line or word is empty or reserved (R292). -/
def prefetchStopped (s : State) (tile port : Nat) : Bool :=
  s.pend.any (fun e => match e.who, e.place with
    | .prefetch _ _ _ _, .league _ => false
    | .prefetch t _ q _, _ => t == tile && q == port && e.got.isNone
    | _, _ => false)

/-- The next position that the engine of a port would read: the first of the 64 from the working position on that it
neither holds nor waits for. -/
def nextAhead (s : State) (tile port : Nat) (p : SPort) : Option Nat :=
  if prefetchStopped s tile port then none
  else
    ((List.range 64).map (· + p.work.pos)).find? (fun pos =>
      !s.ahead.any (fun e => e.tile == tile && e.port == port && e.pos == pos) &&
      !s.pend.any (fun e => match e.who with
        | .prefetch t _ q n => t == tile && q == port && n == pos
        | _ => false))

/-- STREAM_PREFETCH (R292, R293): the engine of an armed input port reads the next element, up to 64 ahead; at an empty line
it joins the waiters (R146) and stops, it holds a failed check, and it sends a far league element's request. While a committed fence
waits for its stores it reads nothing: what the next block pops comes after the fence (R227). -/
def execStreamPrefetch (tile port : Nat) (s : State) : Out :=
  match (s.tile tile).ctx with
  | none => .next s
  | some c =>
    let p := c.port port
    let pos := (nextAhead s tile port p).getD (patTotal p.record)
    if port < 8 ∧ p.armed = true ∧ patOut p.record = false ∧ pos < patTotal p.record ∧ fencePending s c = false then
      let n := patSize p.record
      let keep (s : State) (place : Option Place) (g : Fetched) : State :=
        { s with ahead := s.ahead ++ [{ tile := tile, port := port, pos := pos, place := place, size := n, got := g
                                        since := s.nextId, upto := s.nextId }] }
      match elementPlace s tile p pos with
      | (s, .error cause) => .next (keep s none (.failed cause))
      | (s, .ok q) =>
        let a := match q with
          | .league a => a
          | _ => elementAddr p pos
        let (id, s1) := s.fresh
        let e := Pend.start s id (.prefetch tile c.id port pos) (.load n (patSigned p.record)) q a c.tenant c.id
        match q, canGo s e with
        | .league _, _ | _, false => .next (submit s1 e)
        | _, true =>
            match performRead s1 (some tile) (.load n (patSigned p.record)) q 0 0 [] with
            | (s, .ok v) => .next (keep s (some q) (.value v.val))
            | (s, .error 0x31) => .next (keep s (some q) .poison)
            | (s, .error cause) => .next (keep s (some q) (.failed cause))
    else .next s

/-! ### Control (R283, R285) -/

/-- A tracked form that is block-wide only (R127): an EOS token nullifies it (R290), a firing of a tag traps. -/
def blockWideForm (s : State) (k : Firing → State → State) : Out :=
  onFiring s .nullified (fun f s => if f.eos then settle s f .nullified else blockWideOnly f (k f) s)

/-- Hold an effect of a tracked instruction that delivers nothing and has resolved. -/
def fireHeld (s : State) (f : Firing) (tagged : Bool) (e : Effect) : State := hold (settle s f .fired) f tagged e

/-- The checks that SPARM makes of the pattern capability (R283 item 3). -/
def patternCapFault (c : CapReg) (out : Bool) : Option Nat :=
  if c.tag = false then some 0x20
  else if c.rsv ≠ 0 then some 0x26
  else if c.lock ≠ 0 then some 0x25
  else if c.space = 2 then some 0x2C
  else if c.space = 3 then some 0x27
  else
    let need := permARM ||| (if out then permST else permLD)
    if need &&& ~~~c.perms ≠ 0 then some 0x24 else none

/-- SPARM with its record read (R283): the record and the pattern capability it names are checked, and the arming is
held. -/
def sparmRecord (s : State) (f : Firing) (c : Ctx) (p : BitVec 3) (r : BitVec 512) : State :=
  let pc := c.kreg (patK r)
  if patMalformed r pc.base then
    trapPort s f 0x40 p.toNat { SPort.reset with armed := true, record := r, cap := pc }
  else
    match patternCapFault pc (patOut r) with
    | some x => trapFiring s f x (pc.base + patStart r) (memInfo1 (patK r) (patSize r) (patOut r) 0)
    | none => fireHeld s f false (.sparm p.toNat r pc)

/-- Read a 64-byte record at firing (R192, R283, R399): the read waits for its line among the line's waiters (R146) or goes to
the far member, and `use` takes the bytes; they hold what the block's own stores that a chain links before the read have
written (R224, R225, R229, R411), and it acquires what filled its line (R226). A read under way keeps the firing's tokens: the left one in `expect`, the right one in
`data`, with `dtag` for its presence. -/
def readRecord (s : State) (f : Firing) (c : Ctx) (k : Nat) (q : Place) (a : Word) (use : State → List Byte → State) : State :=
  let (id, s1) := s.fresh
  let e := { Pend.start s id (.firing f.tile c.id f.slot f.key) (.load 64 false) q a c.tenant c.id with
    info1 := memInfo1 k 64 false 0, anc := f.anc, data := (tokVal f.right).setWidth 128, dtag := f.right.isSome
    expect := tokVal f.left }
  match q, canGo s e with
  | .league _, _ | _, false => submit (settle s1 f .fired) e
  | _, true =>
    match performRun s q 64 (linkedStores s e) with
    | .error x => trapFiring s f x a e.info1
    | .ok bs => use (if hasState q then acquire s f.tile else dropRead s f.tile e.op q) bs

/-- SPARM (R283). A record at a far member, or in an empty line, is checked when it returns. -/
def execSparm (_h : Hdr) (k : BitVec 4) (p : BitVec 3) (s : State) : Out :=
  blockWideForm s (fun f s =>
      match (s.tile f.tile).ctx with
      | none => s
      | some c =>
        let kc := c.kreg k.toNat
        match resolveRange s f.tile k.toNat kc (tokVal f.left) 64 64 permLD .read (isSupervisor s f.tile) false false with
        | (s, .error e) => trapFiring s f e.cause e.info0 e.info1
        | (s, .ok (q, a)) =>
          readRecord s f c k.toNat q a (fun s bs => sparmRecord s f c p (BitVec.ofNat 512 (wordOfBytes bs))))

/-- A stream port as it stood when the block was mapped (R285). -/
def mappedPort (s : State) (t p : Nat) : SPort := (s.fabric t).mapPorts[p]?.getD SPort.reset

/-- The port was armed when the block was mapped, or the form traps with cause 0x43 (R285). -/
def needsArmed (f : Firing) (p : BitVec 3) (k : SPort → State → State) (s : State) : State :=
  let q := mappedPort s f.tile p.toNat
  if q.armed then k q s else trapPort s f 0x43 p.toNat q

/-- SPDIS (R285). -/
def execSpdis (_h : Hdr) (p : BitVec 3) (s : State) : Out :=
  blockWideForm s (fun f => needsArmed f p (fun _ s => fireHeld s f false (.spdis p.toNat)))

/-- SPPOS (R285): the committed position as it stood when the block was mapped, with OVR in bit 63; a firing of a tag traps with
cause 0x08. -/
def execSppos (h : Hdr) (p : BitVec 3) (s : State) : Out :=
  onFiring s .off (fun f => blockWideOnly f (needsArmed f p (fun q s =>
    fireResult f h (resultToken f
      (BitVec.ofNat 64 q.com.pos ||| (if q.com.ovr then 1#64 <<< 63 else 0)) false) s)))

/-- SPSKIP (R285). -/
def execSpskip (_h : Hdr) (p : BitVec 3) (s : State) : Out :=
  blockWideForm s (fun f => needsArmed f p (fun _ s => fireHeld s f false (.spskip p.toNat (tokVal f.left))))

end Sys2Proof.Machine
end

