-- ==== Sys2Proof/Machine/Scalar.lean ====
section
/-! DEFINITION. The dataflow, register, integer, test and predicate instructions (R330 to R346) and the generators
(R115, R116, R339). -/

namespace Sys2Proof.Machine

/-- An instruction that computes one value from its left and right tokens (R330). -/
def binary (h : Hdr) (op : Word → Word → Word) (s : State) : Out :=
  onFiring s .off (fun f => fireResult f h (resultToken f (op (tokVal f.left) (tokVal f.right)) f.eos))

/-- An instruction that computes one value from its left token (R330). -/
def unary (h : Hdr) (op : Word → Word) (s : State) : Out :=
  onFiring s .off (fun f => fireResult f h (resultToken f (op (tokVal f.left)) f.eos))

/-- The token a port brought, as the firing passes it on: value, CAP and CTAG kept, tag and EOS of the firing (R335). -/
def passToken (f : Firing) (o : Option Token) : Token :=
  match o with
  | some k => { resultToken f k.val f.eos with hi := k.hi, cap := k.cap, ctag := k.ctag }
  | none => resultToken f 0 f.eos

/-- RD (R333): a g or k register as it stood when the block was mapped, or a pop or re-read of an armed input port. -/
def execRd (h : Hdr) (keep kr : Bool) (n : BitVec 6) (s : State) : Out :=
  onFiring s .off (fun f s =>
    match (s.tile f.tile).ctx with
    | none => s
    | some c =>
      if kr then
        if keep then trapKeep s f c kr n else fireResult f h (capToken f (c.kreg n.toNat) false) s
      else
        match armedPort c kr n with
        | some p =>
          if patOut (c.port p).record then trapPort s f 0x42 p (c.port p)
          else if keep then rereadPort f h (c.port p) s
          else popPortOnce f h p (c.port p) s
        | none =>
          if keep then trapKeep s f c kr n else fireResult f h (resultToken f (c.greg n.toNat) false) s)

/-- Keep a WR's value until commit (R334). -/
def keepWr (s : State) (f : Firing) (w : HeldWr) : State :=
  (settle s f .fired).modFabric f.tile (fun x => { x with wrs := x.wrs ++ [w] })

/-- WR (R334): the write is kept until commit; a push to an armed output port takes a position; EOS, NULL or a predicate
that does not match nullifies it. -/
def execWr (h : Hdr) (kr : Bool) (n : BitVec 6) (s : State) : Out :=
  match s.cur with
  | none => .next s
  | some f =>
    let s := { s with cur := none }
    if f.off || tokEos f.left then .next (settlePushes (settle s f .nullified) f)
    else
      match (s.tile f.tile).ctx with
      | none => .next s
      | some c =>
        let cap := match f.left with
          | some k => k.toCap
          | none => CapReg.zero
        let w : HeldWr := { slot := f.slot, key := f.key, tagged := false, kr := kr, n := n.toNat, push := false,
                            val := tokVal f.left, cap := cap, pos := none, check := none }
        match armedPort c kr n with
        | some p =>
          if patOut (c.port p).record then
            .next (settlePushes (keepWr s f { w with n := p, push := true, tagged := h.w }) f)
          else .next (trapPort s f 0x42 p (c.port p))
        | none => .next (keepWr s f w)

/-- MOV (R335). -/
def execMov (h : Hdr) (s : State) : Out := onFiring s .off (fun f => fireResult f h (passToken f f.left))

/-- MOVI (R335). -/
def execMovi (h : Hdr) (imm : BitVec 30) (s : State) : Out :=
  onFiring s .off (fun f => fireResult f h (resultToken f (immValue imm) false))

/-- MOVHI (R335). -/
def execMovhi (h : Hdr) (imm : BitVec 30) (s : State) : Out := unary h (fun a => aluMovhi a imm) s

/-- NUL (R336). -/
def execNul (h : Hdr) (s : State) : Out :=
  onFiring s .off (fun f => fireResult f h { resultToken f 0 false with null := true })

/-- SEL (R337). -/
def execSel (h : Hdr) (s : State) : Out :=
  onFiring s .off (fun f => fireResult f h (passToken f (if tokVal f.third ≠ 0 then f.left else f.right)))

/-- TAGOF (R338). -/
def execTagof (h : Hdr) (s : State) : Out :=
  onFiring s .off (fun f => fireResult f h (resultToken f ((keyTag f.key).setWidth 64) false))

/-- TEOS (R340). -/
def execTeos (h : Hdr) (s : State) : Out :=
  onFiring s .off (fun f => fireResult f h (resultToken f (boolWord (tokEos f.left)) false))

/-- The slot of the block's LGEN2 (R112). -/
def lgen2Slot (b : Block) : Option Nat :=
  (List.range b.words.length).find? (fun j => match instrAt b j with
    | some (.lgen2 _) => true
    | _ => false)

/-- The generator as LGEN starts it (R115, R133): at the first tag, or at the resume tag. -/
def startGen (b : Block) (c : Ctx) (slot n : Nat) : Gen :=
  let two := lgen2Slot b
  let g : Gen := { Gen.reset with fired := true, slot := slot, n := n, two := two }
  match (if c.inh then c.handlerResume else c.resume) with
  | none => g
  | some t =>
    match two with
    | none => { g with inner := t.toNat, retireInner := t.toNat }
    | some _ =>
      { g with nextOuter := t.toNat / 65536, row := t.toNat / 65536, inner := t.toNat % 65536,
               retireRow := t.toNat / 65536, retireInner := t.toNat % 65536 }

/-- LGEN (R115): takes its bound, EOS counting as 0; a bound above the limit traps with cause 0x07. -/
def execLgen (_h : Hdr) (s : State) : Out :=
  onFiring s .off (fun f s =>
    match (s.fabric f.tile).blk, (s.tile f.tile).ctx with
    | some b, some c =>
      let n := if tokEos f.left then 0 else (tokVal f.left).toNat
      let limit := if (lgen2Slot b).isSome then 65535 else 0xFFFFFFFF
      if f.key.isSome then trapFiring s f 0x08 0 0
      else if n > limit then trapFiring s f 0x07 (tokVal f.left) 0
      else (settle s f .fired).modFabric f.tile (fun x => { x with gen := startGen b c f.slot n })
    | _, _ => s)

/-- LGEN2 takes the inner bound and base of a row, with their EOS (R116, R290). Where the row's outer tag was purged and comes again, inner tags that
have been emitted stay emitted, and the row gets no further ones beyond the new bound (R121, R135). -/
def Gen.takeRow (g : Gen) (row m : Nat) (b : Word) (eos : Bool) : Gen :=
  let bound : Nat := match g.boundOf row with
    | none => m
    | some old => if row < g.row then old else if row = g.row then max m g.inner else m
  { g with rows := g.rows.filter (fun r => !(r.row == row)) ++ [{ row := row, m := bound, b := b, eos := eos }] }

/-- LGEN2 (R116, R290): takes the inner bound and base of the row of its outer tag; EOS on the bound counts as a bound of 0. -/
def execLgen2 (_h : Hdr) (s : State) : Out :=
  onFiring s .off (fun f s =>
    match f.key with
    | none => trapFiring s f 0x08 0 0
    | some t =>
      let m := if tokEos f.left then 0 else (tokVal f.left).toNat
      if !f.outer then trapFiring s f 0x08 0 0
      else if m > 65535 then trapFiring s f 0x07 (tokVal f.left) 0
      else takeDue ((settle s f .fired).modFabric f.tile (fun x => { x with
        gen := x.gen.takeRow (t.toNat / 65536) m (tokVal f.right) f.eos })) f.tile)

/-- ADD (R342). -/
def execAdd (h : Hdr) (s : State) : Out := binary h (aluAdd h.w) s

/-- SUB (R342). -/
def execSub (h : Hdr) (s : State) : Out := binary h (aluSub h.w) s

/-- MUL (R342). -/
def execMul (h : Hdr) (s : State) : Out := binary h (aluMul h.w) s

/-- MULH (R342). -/
def execMulh (h : Hdr) (s : State) : Out := binary h (aluMulh h.w) s

/-- MULHU (R342). -/
def execMulhu (h : Hdr) (s : State) : Out := binary h (aluMulhu h.w) s

/-- DIV (R343). -/
def execDiv (h : Hdr) (s : State) : Out := binary h (aluDiv h.w) s

/-- DIVU (R343). -/
def execDivu (h : Hdr) (s : State) : Out := binary h (aluDivu h.w) s

/-- REM (R343). -/
def execRem (h : Hdr) (s : State) : Out := binary h (aluRem h.w) s

/-- REMU (R343). -/
def execRemu (h : Hdr) (s : State) : Out := binary h (aluRemu h.w) s

/-- AND (R342). -/
def execAnd (h : Hdr) (s : State) : Out := binary h (aluAnd h.w) s

/-- OR (R342). -/
def execOr (h : Hdr) (s : State) : Out := binary h (aluOr h.w) s

/-- XOR (R342). -/
def execXor (h : Hdr) (s : State) : Out := binary h (aluXor h.w) s

/-- ANDN (R342). -/
def execAndn (h : Hdr) (s : State) : Out := binary h (aluAndn h.w) s

/-- SHL (R342). -/
def execShl (h : Hdr) (s : State) : Out := binary h (aluShl h.w) s

/-- SHR (R342). -/
def execShr (h : Hdr) (s : State) : Out := binary h (aluShr h.w) s

/-- SAR (R342). -/
def execSar (h : Hdr) (s : State) : Out := binary h (aluSar h.w) s

/-- ROL (R342). -/
def execRol (h : Hdr) (s : State) : Out := binary h (aluRol h.w) s

/-- MIN (R342). -/
def execMin (h : Hdr) (s : State) : Out := binary h (aluMin h.w) s

/-- MAX (R342). -/
def execMax (h : Hdr) (s : State) : Out := binary h (aluMax h.w) s

/-- MINU (R342). -/
def execMinu (h : Hdr) (s : State) : Out := binary h (aluMinu h.w) s

/-- MAXU (R342). -/
def execMaxu (h : Hdr) (s : State) : Out := binary h (aluMaxu h.w) s

/-- CLZ (R342). -/
def execClz (h : Hdr) (s : State) : Out := unary h (aluClz h.w) s

/-- CTZ (R342). -/
def execCtz (h : Hdr) (s : State) : Out := unary h (aluCtz h.w) s

/-- POPC (R342). -/
def execPopc (h : Hdr) (s : State) : Out := unary h (aluPopc h.w) s

/-- ADDI (R342). -/
def execAddi (h : Hdr) (imm : BitVec 30) (s : State) : Out := unary h (fun a => aluAdd h.w a (immValue imm)) s

/-- MULI (R342). -/
def execMuli (h : Hdr) (imm : BitVec 30) (s : State) : Out := unary h (fun a => aluMul h.w a (immValue imm)) s

/-- ANDI (R342). -/
def execAndi (h : Hdr) (imm : BitVec 30) (s : State) : Out := unary h (fun a => aluAnd h.w a (immValue imm)) s

/-- ORI (R342). -/
def execOri (h : Hdr) (imm : BitVec 30) (s : State) : Out := unary h (fun a => aluOr h.w a (immValue imm)) s

/-- XORI (R342). -/
def execXori (h : Hdr) (imm : BitVec 30) (s : State) : Out := unary h (fun a => aluXor h.w a (immValue imm)) s

/-- SHLI (R342). -/
def execShli (h : Hdr) (imm : BitVec 30) (s : State) : Out := unary h (fun a => aluShl h.w a (immValue imm)) s

/-- SHRI (R342). -/
def execShri (h : Hdr) (imm : BitVec 30) (s : State) : Out := unary h (fun a => aluShr h.w a (immValue imm)) s

/-- SARI (R342). -/
def execSari (h : Hdr) (imm : BitVec 30) (s : State) : Out := unary h (fun a => aluSar h.w a (immValue imm)) s

/-- BFX (R344). -/
def execBfx (h : Hdr) (lsb len1 : BitVec 6) (s : State) : Out := unary h (aluBfx h.w lsb len1) s

/-- BFXU (R344). -/
def execBfxu (h : Hdr) (lsb len1 : BitVec 6) (s : State) : Out := unary h (aluBfxu h.w lsb len1) s

/-- BFI (R344). -/
def execBfi (h : Hdr) (lsb len1 : BitVec 6) (s : State) : Out := binary h (aluBfi h.w lsb len1) s

/-- SHADD (R342). -/
def execShadd (h : Hdr) (s1 : BitVec 2) (s : State) : Out := binary h (aluShadd h.w s1) s

/-- TEQ (R345). -/
def execTeq (h : Hdr) (s : State) : Out := binary h (testEq h.w) s

/-- TNE (R345). -/
def execTne (h : Hdr) (s : State) : Out := binary h (testNe h.w) s

/-- TLT (R345). -/
def execTlt (h : Hdr) (s : State) : Out := binary h (testLt h.w) s

/-- TLE (R345). -/
def execTle (h : Hdr) (s : State) : Out := binary h (testLe h.w) s

/-- TLTU (R345). -/
def execTltu (h : Hdr) (s : State) : Out := binary h (testLtu h.w) s

/-- TLEU (R345). -/
def execTleu (h : Hdr) (s : State) : Out := binary h (testLeu h.w) s

/-- TEQI (R345). -/
def execTeqi (h : Hdr) (imm : BitVec 30) (s : State) : Out := unary h (fun a => testEq h.w a (immValue imm)) s

/-- TNEI (R345). -/
def execTnei (h : Hdr) (imm : BitVec 30) (s : State) : Out := unary h (fun a => testNe h.w a (immValue imm)) s

/-- TLTI (R345). -/
def execTlti (h : Hdr) (imm : BitVec 30) (s : State) : Out := unary h (fun a => testLt h.w a (immValue imm)) s

/-- TLEI (R345). -/
def execTlei (h : Hdr) (imm : BitVec 30) (s : State) : Out := unary h (fun a => testLe h.w a (immValue imm)) s

/-- TLTUI (R345). -/
def execTltui (h : Hdr) (imm : BitVec 30) (s : State) : Out := unary h (fun a => testLtu h.w a (immValue imm)) s

/-- TLEUI (R345). -/
def execTleui (h : Hdr) (imm : BitVec 30) (s : State) : Out := unary h (fun a => testLeu h.w a (immValue imm)) s

/-- PAND (R346). -/
def execPand (h : Hdr) (s : State) : Out := binary h (predAnd h.w) s

/-- POR (R346). -/
def execPor (h : Hdr) (s : State) : Out := binary h (predOr h.w) s

/-- PNOT (R346). -/
def execPnot (h : Hdr) (s : State) : Out := unary h (predNot h.w) s

end Sys2Proof.Machine
end

