-- ==== Sys2Proof/Machine/Blocks.lean ====
section
/-! DEFINITION. Blocks in memory: fetch through translation into the block cache, the checks of mapping, and mapping
(R91 to R98, R112, R312, R326, R352). -/

namespace Sys2Proof.Machine

/-! ### The CRC (R93) -/

/-- One bit of the CRC. -/
def crcBit (c : BitVec 16) : BitVec 16 := if c.msb then (c <<< 1) ^^^ 0x1021#16 else c <<< 1

/-- One byte of the CRC. -/
def crcByte (c : BitVec 16) (b : Byte) : BitVec 16 :=
  (List.range 8).foldl (fun c _ => crcBit c) (c ^^^ (b ++ 0#8))

/-- CRC-16/CCITT with initial value 0xFFFF. -/
def crc16 (bs : List Byte) : BitVec 16 := bs.foldl crcByte 0xFFFF#16

/-! ### The header (R91) -/

/-- The header words and instruction words of a block's bytes. -/
def wordAt (bs : List Byte) (i : Nat) : Word := BitVec.ofNat 64 (wordOfBytes ((bs.drop (8 * i)).take 8))

/-- N. -/
def hdrN (w0 : Word) : Nat := (w0.extractLsb' 48 8).toNat
/-- LOOP. -/
def hdrLoop (w0 : Word) : Bool := w0.getLsbD 24
/-- SUPERVISOR. -/
def hdrSupervisor (w0 : Word) : Bool := w0.getLsbD 25
/-- NO-PREFETCH. -/
def hdrNoPrefetch (w0 : Word) : Bool := w0.getLsbD 26
/-- TWH. -/
def hdrTwh (w0 : Word) : Nat := (w0.extractLsb' 16 8).toNat

/-- An opcode of the tracked groups (R104, R324): a reserved one is in none. -/
def opTracked (op : Nat) : Bool :=
  (decide (0x68 ≤ op) && decide (op ≤ 0x6C)) || (decide (0x70 ≤ op) && decide (op ≤ 0x72)) ||
  decide (op = 0x74) || decide (op = 0x75) || (decide (0x78 ≤ op) && decide (op ≤ 0x7B)) ||
  decide (op = 0x88) || decide (op = 0x89) || decide (op = 0x8B) || (decide (0x90 ≤ op) && decide (op ≤ 0x95)) ||
  (decide (0x9C ≤ op) && decide (op ≤ 0x9F)) || (decide (0xA0 ≤ op) && decide (op ≤ 0xC6)) ||
  (decide (0xC8 ≤ op) && decide (op ≤ 0xCC)) || (decide (0xD0 ≤ op) && decide (op ≤ 0xD4)) ||
  (decide (0xD8 ≤ op) && decide (op ≤ 0xE0))

/-- The opcode of a word. -/
def opOf (w : Word) : Nat := (w.extractLsb' 56 8).toNat

/-- The header breaks a rule of R91, or its WRC, S or CRC disagrees with the words. -/
def headerFault (w0 w1 : Word) (words : List Word) (body : List Byte) : Bool :=
  decide (w0.extractLsb' 56 8 ≠ 1) || decide (hdrN w0 = 0) || decide (hdrN w0 > 128) ||
  decide (w0.extractLsb' 27 5 ≠ 0) || decide (w0.extractLsb' 0 16 ≠ 0) ||
  (!hdrLoop w0 && decide (hdrTwh w0 ≠ 0)) || decide (w1.extractLsb' 0 48 ≠ 0) ||
  decide ((w0.extractLsb' 40 8).toNat > 32) || decide ((w0.extractLsb' 32 8).toNat > 64) ||
  decide ((w0.extractLsb' 40 8).toNat ≠ (words.filter (fun w => decide (opOf w = 0x02))).length) ||
  decide ((w0.extractLsb' 32 8).toNat ≠ (words.filter (fun w => opTracked (opOf w))).length) ||
  decide (w1.extractLsb' 48 16 ≠ crc16 body)

/-! ### The words (R112, R312, R313, R315) -/

/-- The instruction of a word. -/
def instrOf (w : Word) : Option Instr :=
  match decode w with
  | .ok i => some i
  | .error _ => none

/-- The slot and port that the nine bits of a target of slot j name (R312). -/
def namedPort (j : Nat) (t : BitVec 9) : Option (Nat × Port) :=
  if t.extractLsb' 2 7 = 0 then none
  else
    match portOf (t.extractLsb' 0 2) with
    | .ok p => some ((j + (t.extractLsb' 2 7).toNat) % 128, p)
    | .error _ => none

/-- The targets of slot j, whatever else its word holds. -/
def targetsOf (w : Word) (j : Nat) : List (Nat × Port) := [w.extractLsb' 39 9, w.extractLsb' 30 9].filterMap (namedPort j)

/-- A form of three operands (R315). -/
def threeOperand (i : Instr) : Bool := (formOf i).third

/-- The opcodes of class I (R324), whose right port holds the immediate (R313). -/
def opImmediate (op : Nat) : Bool :=
  decide (op = 0x04) || decide (op = 0x05) || (decide (0x2C ≤ op) && decide (op ≤ 0x2E)) || (decide (0x36 ≤ op) && decide (op ≤ 0x3B))

/-- A word accepts a token at a port (R312, R313). -/
def acceptsAt (w : Word) (p : Port) : Bool :=
  match p with
  | .left => true
  | .right => !opImmediate (opOf w)
  | .pred => decide (w.extractLsb' 50 2 ≠ 0)

/-- A slot's targets and its predicate port obey R312, R313 and R315 in their block. -/
def slotOk (words : List Word) (j : Nat) (i : Instr) : Bool :=
  let ts := targetsOf (words[j]?.getD 0) j
  let all := words.zipIdx.flatMap (fun e => targetsOf e.1 e.2)
  let preds := (all.filter (fun t => t.1 == j && t.2 == .pred)).length
  ts.all (fun t => decide (t.1 < words.length) && acceptsAt (words[t.1]?.getD 0) t.2) &&
  decide (ts.eraseDups.length = ts.length) &&
  (match hdrOf i with
    | some h => decide (h.pm = .always) || decide (0 < preds)
    | none => false) &&
  (!threeOperand i || decide (preds = 1))

/-- The generators of a block. -/
def generators (words : List Word) (two : Bool) : List Nat :=
  (List.range words.length).filter (fun j => match words[j]?.bind instrOf with
    | some (.lgen _) => !two
    | some (.lgen2 _) => two
    | _ => false)

/-- The slots of generators that R112 rejects: in a LOOP block every LGEN or LGEN2 after the first of its kind, in another block all
of them. -/
def extraGenerators (loop : Bool) (words : List Word) : List Nat :=
  let n := if loop then 1 else 0
  (generators words false).drop n ++ (generators words true).drop n

/-- The lowest slot that R112 rejects: 0x80 where a LOOP block has no LGEN. -/
def generatorFault (loop : Bool) (words : List Word) : Option Nat :=
  if loop && (generators words false).isEmpty then some 0x80
  else (sortBy (fun j => j) (extraGenerators loop words)).head?

/-- The slot at which the words of a block are rejected (R92, R326): the lowest failing one. -/
def wordFault (loop : Bool) (words : List Word) : Option Nat :=
  let bad := (List.range words.length).find? (fun j => match words[j]?.bind instrOf with
    | none => true
    | some i => !slotOk words j i)
  match bad, generatorFault loop words with
  | none, g => g
  | some j, none => some j
  | some j, some g => some (min j g)

/-! ### The block cache (R95) -/

/-- A line of the cache that an address and ASID name. -/
def cachedLine (s : State) (t asid va : Nat) : Option BlockLine :=
  (s.tile t).bcache.find? (fun l => l.asid == asid && l.gen == asidGeneration s asid && l.vline == va / 64)

/-- Keep a line: a full set of four ways gives up a free choice (R95, log 16). -/
def keepLine (s : State) (t : Nat) (l : BlockLine) : State :=
  let ls := (s.tile t).bcache.filter (fun y => !(y.asid == l.asid && y.vline == l.vline))
  let inSet := ls.filter (fun y => y.vline % 256 == l.vline % 256)
  if inSet.length < 4 then s.modTile t (fun x => { x with bcache := ls ++ [l] })
  else
    let (n, s) := s.drawNat
    let victim := inSet[n % inSet.length]?
    s.modTile t (fun x => { x with bcache := ls.filter (fun y => some y ≠ victim) ++ [l] })

/-- Read a line of a block from memory (R94, R147, R417): its bytes, or the cause and walk level. -/
def readLine (s : State) (tenant va : Nat) : State × Except (Nat × Nat) (List Byte) :=
  match translateAccess s tenant va .fetch with
  | (s, .error x) => (s, .error x)
  | (s, .ok p) =>
    match p with
    | .mailbox _ _ => (s, .error (0x28, 0))
    | .mailboxHole => (s, .error (0x28, 0))
    | _ =>
      match readFault s p 64 with
      | some x => (s, .error (x, 0))
      | none => (s, .ok (placeBytes s p 64))

/-- log2 of the size of the page through which an address that has just been translated was reached. -/
def pageShift (s : State) (tenant va : Nat) : Nat :=
  let asid := asidOf s tenant
  match (tlbMatches (s.tile (owningSlice va)).tlb asid (asidGeneration s asid) va).head? with
  | some e => e.shift
  | none => 16

/-- Bring one line of a block into the cache, from the cache itself unless `bypass`: its bytes and whether they came from
memory. -/
def fetchLine (s : State) (t tenant va : Nat) (bypass : Bool) : State × Except (Nat × Nat) (List Byte × Bool) :=
  let asid := asidOf s tenant
  match (if bypass then none else cachedLine s t asid va) with
  | some l => (s, .ok (l.bytes, false))
  | none =>
    match readLine s tenant va with
    | (s, .error x) => (s, .error x)
    | (s, .ok bs) =>
      (keepLine s t { asid := asid, gen := asidGeneration s asid, vline := va / 64, shift := pageShift s tenant va, bytes := bs,
                      sig := some ((wordAt bs 1).extractLsb' 48 16) },
       .ok (bs, true))

/-- The number of lines of a block's image, one where its N is illegal (R91). -/
def imageLines (w0 : Word) : Nat :=
  if hdrN w0 = 0 ∨ hdrN w0 > 128 then 1 else (16 + 8 * hdrN w0 + 63) / 64

/-- Bring `n` more lines from `va`: the address, cause and level of the first that faults, or whether all came from
memory. -/
def fetchLines (t tenant : Nat) (bypass : Bool) : Nat → Nat → Bool → State → State × Except (Nat × Nat × Nat) Bool
  | 0, _, fresh, s => (s, .ok fresh)
  | n + 1, va, fresh, s =>
    match fetchLine s t tenant va bypass with
    | (s, .error (cause, level)) => (s, .error (va, cause, level))
    | (s, .ok (_, f)) => fetchLines t tenant bypass n (va + 64) (fresh && f) s

/-- Bring a block's lines into the cache. -/
def fetchBlock (s : State) (t tenant va : Nat) (bypass : Bool) : State × Except (Nat × Nat × Nat) Bool :=
  match fetchLine s t tenant va bypass with
  | (s, .error (cause, level)) => (s, .error (va, cause, level))
  | (s, .ok (bs, f)) => fetchLines t tenant bypass (imageLines (wordAt bs 0) - 1) (va + 64) f s

/-- A block's bytes as the cache holds them: none where a line is missing. -/
def cachedBytes (s : State) (t asid : Nat) : Nat → Nat → Option (List Byte)
  | 0, _ => some []
  | n + 1, va =>
    match cachedLine s t asid va, cachedBytes s t asid n (va + 64) with
    | some l, some rest => some (l.bytes ++ rest)
    | _, _ => none

/-- A cached block: its bytes and signature. -/
def cachedBlock (s : State) (t asid va : Nat) : Option (List Byte × BitVec 16) :=
  match cachedLine s t asid va with
  | none => none
  | some l =>
    match cachedBytes s t asid (imageLines (wordAt l.bytes 0)) va with
    | none => none
    | some bs => some (bs, l.sig.getD ((wordAt l.bytes 1).extractLsb' 48 16))

/-! ### Fetch (R94, R97, R352) -/

/-- A trap of fetch or mapping: no slot applies but where one is named, and its block is the target (R94, R299). -/
def fetchTrap (s : State) (t : Nat) (target : Word) (cause slot : Nat) (info0 info1 : Word) : State :=
  trapNow s t { cause := cause, blk := target, slot := slot, tag := 0, info0 := info0, info1 := info1 }

/-- The checks of a target before it is fetched (R352 1 to 3). -/
def targetFault (a : Word) : Option (Nat × Word) :=
  if a.extractLsb' 0 6 ≠ 0 then some (0x02, 0)
  else if a.extractLsb' 57 7 ≠ 0 then some (0x29, memInfo1 0 64 false 0)
  else if a.getLsbD 56 then some (0x22, memInfo1 0 64 false 0)
  else none

/-- Something keeps the tile from its next block: a held trap that is due (R301), or a FENCE whose stores at far members
have not been performed (R227). -/
def fetchBlocked (s : State) (_t : Nat) (c : Ctx) : Bool := (!c.pendingTraps.isEmpty && !c.inh) || fencePending s c

/-- A fetch ahead of an exit's target (R97): a fault is dropped. -/
def prefetchBlock (s : State) (t : Nat) (c : Ctx) : State :=
  match (s.fabric t).blk, (s.fabric t).exit with
  | some b, some e =>
    match e.dest with
    | .block target _ =>
      if b.noPrefetch || (targetFault target).isSome then s
      else (fetchBlock s t c.tenant target.toNat false).1
    | .halt => s
    | .tret => s
  | _, _ => s

/-- BLOCK_FETCH (R94, R97, R352): a tile that wants a block brings its lines into the block cache, or traps; a running one
may read ahead of its exit. A copy that has once come from memory stays that (R96). -/
def execBlockFetch (tile : Nat) (s : State) : Out :=
  match (s.tile tile).ctx with
  | none => .next s
  | some c =>
    match c.phase with
    | .running => .next (prefetchBlock s tile c)
    | .loading | .halted | .done | .ended => .next s
    | .fetching =>
      if fetchBlocked s tile c then .next s
      else
        match targetFault c.pc with
        | some (cause, i1) => .next (fetchTrap s tile c.pc cause 0x80 c.pc i1)
        | none =>
          match fetchBlock s tile c.tenant c.pc.toNat false with
          | (s, .error (va, cause, level)) =>
            .next (fetchTrap s tile c.pc cause 0x80 (BitVec.ofNat 64 va) (memInfo1 0 64 false level))
          | (s, .ok fresh) => .next (s.modTile tile (fun x => { x with fresh := x.fresh || fresh }))

/-! ### Mapping (R92, R94, R96, R98) -/

/-- A crossing that R94 forbids. -/
def crossingFault (via : Via) (supervisor : Bool) : Bool :=
  match via with
  | .node => supervisor
  | .user => supervisor
  | .supervisor => !supervisor
  | .any => false

/-- A block enters (R98, R105, R133): the fabric holds its words and nothing else; outside a handler the replay buffer and
the resume tag survive only into the block they belong to (R300). -/
def enterBlock (s : State) (t : Nat) (c : Ctx) (b : Block) : State :=
  let same := c.inh || decide (c.lastBlk = b.addr)
  let c := if c.inh then c
    else if same then { c with lastBlk := b.addr }
    else { c with lastBlk := b.addr, replay := [], atomics := c.atomics.filter (fun a => a.inh), resume := none, heldVals := [], heldv := [] }
  let kept := if b.loop then (if c.inh then c.handlerHeld else c.heldVals) else []
  let (inst, s) := (if same then s else forgetLost s c.id).fresh
  s.modTile t (fun x => { x with
    ctx := some { c with phase := .running, fenced := false }
    fresh := false
    fabric := { Fabric.reset with
      blk := some b
      inst := inst
      kept := kept
      mapRbcnt := c.replay.length
      mapHeldv := c.heldv
      mapFlags := c.fflags
      mapPorts := c.ports } })

/-- The reason for which a block is not mapped: the cause, slot and information registers. -/
def mapFault (via : Via) (addr w0 w1 : Word) (words : List Word) (body : List Byte) :
    Option (Nat × Nat × Word × Word) :=
  if crossingFault via (hdrSupervisor w0) then some (0x04, 0x80, addr, 0)
  else if headerFault w0 w1 words body then some (0x03, 0x80, w0, w1)
  else
    match wordFault (hdrLoop w0) words with
    | some j => some (0x03, j, if j = 0x80 then w0 else words[j]?.getD 0, w1)
    | none => none

/-- The instruction words of a block's bytes. -/
def bodyWords (bs : List Byte) (n : Nat) : List Word := (List.range n).map (fun j => wordAt bs (j + 2))

end Sys2Proof.Machine
end

