-- ==== Sys2Proof/Machine/Caps.lean ====
section
/-! DEFINITION. The capability operations (R140, R141, R366, R367). -/

namespace Sys2Proof.Machine

/-- A block holds a key (R141). -/
def holdsKey (s : State) (tile : Nat) (i : Nat) : Bool :=
  isSupervisor s tile ||
  (match (s.tile tile).ctx with
    | some c => c.keys.getLsbD i
    | none => false)

/-- The source of a capability operation (R317, R366). -/
def capSource (f : Firing) : CapReg :=
  match f.left with
  | some t => t.toCap
  | none => CapReg.zero

/-- A capability operation that reads one field (R366). -/
def capField (h : Hdr) (g : CapReg → Word) (s : State) : Out :=
  onFiring s .off (fun f => fireResult f h (resultToken f (g (capSource f)) f.eos))

/-- A capability operation that changes its source (R367): its checks in order, then `op`, which gives the result or a
cause. `lockedOk` spares KOPEN the check of the lock; `right` is what TINFO1 records. -/
def capChange (h : Hdr) (lockedOk : Bool) (right : Firing → Word) (op : State → Firing → CapReg → Except Nat CapReg)
    (s : State) : Out :=
  onFiring s .off (fun f s =>
    let c := capSource f
    let trap (cause : Nat) : State := trapFiring s f cause c.base (right f)
    if c.tag = false then trap 0x20
    else if c.rsv ≠ 0 then trap 0x26
    else if lockedOk = false ∧ c.lock ≠ 0 then trap 0x25
    else
      match op s f c with
      | .error cause => trap cause
      | .ok r => fireResult f h (capToken f r f.eos) s)

/-- The right token's value. -/
def rightVal (f : Firing) : Word := tokVal f.right

/-- KADV (R367). -/
def execKadv (h : Hdr) (s : State) : Out :=
  capChange h false rightVal (fun _ f c =>
    let b := rightVal f
    if b.toNat > c.length then .error 0x23
    else .ok (.make c.space (c.base + b) (c.length - b.toNat) c.perms c.lock true)) s

/-- KTRIM (R367). -/
def execKtrim (h : Hdr) (s : State) : Out :=
  capChange h false rightVal (fun _ f c =>
    if (rightVal f).toNat > c.length then .error 0x23
    else .ok (.make c.space c.base (rightVal f).toNat c.perms c.lock true)) s

/-- KMASK (R367). -/
def execKmask (h : Hdr) (s : State) : Out :=
  capChange h false rightVal (fun _ f c =>
    .ok (.make c.space c.base c.length (c.perms &&& (rightVal f).setWidth 12) c.lock true)) s

/-- KBASE (R366). -/
def execKbase (h : Hdr) (s : State) : Out := capField h CapReg.base s

/-- KLEN (R366). -/
def execKlen (h : Hdr) (s : State) : Out := capField h (fun c => BitVec.ofNat 64 c.length) s

/-- KATTR's value (R366). -/
def capAttr (c : CapReg) : Word :=
  BitVec.ofBool c.tag ++ 0#39 ++ c.rsv ++ BitVec.ofNat 4 c.lock ++ BitVec.ofNat 2 c.space ++ c.perms

/-- KATTR (R366). -/
def execKattr (h : Hdr) (s : State) : Out := capField h capAttr s

/-- KLOCK (R141, R367). -/
def execKlock (h : Hdr) (s : State) : Out :=
  capChange h false rightVal (fun s f c =>
    let i := (rightVal f).toNat
    if c.perms &&& permLOCK = 0 ∨ i < 1 ∨ i > 15 then .error 0x24
    else if holdsKey s f.tile i = false then .error 0x24
    else .ok (.make c.space c.base c.length c.perms i true)) s

/-- KOPEN (R141, R367). -/
def execKopen (h : Hdr) (s : State) : Out :=
  capChange h true (fun _ => 0) (fun s f c =>
    if c.lock = 0 then .error 0x24
    else if holdsKey s f.tile c.lock = false then .error 0x24
    else if isSupervisor s f.tile = false ∧ c.perms &&& permOPEN = 0 then .error 0x24
    else .ok (.make c.space c.base c.length c.perms 0 true)) s

end Sys2Proof.Machine
end

