-- ==== Sys2Proof/Machine/System.lean ====
section
/-! DEFINITION. Fences, queue fences, barriers and the system instructions (R369 to R379): what each does at firing. What
is held takes effect when the block commits or the tag retires. -/

namespace Sys2Proof.Machine

/-! ### Fences and barriers -/

/-- FENCE (R127, R227, R369): held until its block commits or its tag retires. -/
def execFence (_h : Hdr) (kinds : BitVec 4) (scope : BitVec 3) (s : State) : Out :=
  onFiring s .nullified (fun f s => fireHeld s f false (.fence kinds scope.toNat))

/-- QFENCE (R209, R370). -/
def execQfence (_h : Hdr) (q : BitVec 4) (s : State) : Out :=
  blockWideForm s (fun f s => fireHeld s f false (.qfence q))

/-- BINIT (R371). -/
def execBinit (_h : Hdr) (b : BitVec 2) (s : State) : Out :=
  blockWideForm s (fun f s => fireHeld s f false (.binit b.toNat (tokVal f.left)))

/-- BARR (R371). -/
def execBarr (_h : Hdr) (b : BitVec 2) (s : State) : Out :=
  blockWideForm s (fun f s => fireHeld s f false (.barr b.toNat))

/-- Fire a tracked instruction that resolves only when what it waits for holds (R104), which may be at once (R210). -/
def fireWait (s : State) (f : Firing) (on : WaitOn) : State :=
  resolveWaits ((settle s f .fired).modFabric f.tile (fun x => { x with
    waits := x.waits ++ [{ slot := f.slot, key := f.key, on := on }] })) f.tile

/-- BWAIT (R371): resolved at once where the phase has already passed the tile's arrival phase; a tile that has not
arrived waits for the release of the present phase. -/
def execBwait (_h : Hdr) (b : BitVec 2) (s : State) : Out :=
  blockWideForm s (fun f s =>
    match (s.tile f.tile).ctx with
    | none => s
    | some c =>
      let now := (s.barrierOf c b.toNat).phase
      let mine := (c.arrival[b.toNat]?.getD none).getD now
      if mine < now then settle s f .fired else fireWait s f (.barrier b.toNat mine))

/-- WAITQ (R210, R370). -/
def execWaitq (_h : Hdr) (q : BitVec 4) (s : State) : Out :=
  blockWideForm s (fun f s => fireWait s f (.queues q))

/-- WFE (R379): resolves at once where EV is set, which it clears. -/
def execWfe (_h : Hdr) (s : State) : Out :=
  blockWideForm s (fun f s =>
    match (s.tile f.tile).ctx with
    | none => s
    | some c =>
      if c.ev then (settle s f .fired).modCtx f.tile (fun c => { c with ev := false })
      else fireWait s f (.event s.now))

/-! ### Traps asked for -/

/-- SYSCALL and BRK (R373): the left value goes on, and the trap is taken after the commit. -/
def callForm (h : Hdr) (cause : Nat) (s : State) : Out :=
  onFiring s .off (fun f s =>
    (fireResult f h (resultToken f (tokVal f.left) f.eos) s).modFabric f.tile (fun x =>
      { x with sys := x.sys ++ [{ slot := f.slot, key := f.key, cause := cause, val := tokVal f.left }] }))

/-- SYSCALL (R373). -/
def execSyscall (h : Hdr) (s : State) : Out := callForm h 0x01 s

/-- BRK (R373). -/
def execBrk (h : Hdr) (s : State) : Out := callForm h 0x09 s

/-! ### Supervisor registers (R263, R298, R375, R376) -/

/-- Fabric cycles in a number of nanoseconds: 1.6 GHz (R19). -/
def fabricCycles (ns : Nat) : Nat := ns * 8 / 5

/-- CYCLE of a tile (R310). -/
def cycleCount (s : State) (t : Nat) : Word := BitVec.ofNat 64 (fabricCycles s.now - Config.cycleLag t)

/-- HELDV (R298): a bit for each WR of the block, in slot order. -/
def heldvBits : List (Option Word) → Nat
  | [] => 0
  | v :: rest => (if v.isSome then 1 else 0) + 2 * heldvBits rest

/-- HWID (R376). -/
def hwid (s : State) (t : Nat) (c : Ctx) : Word :=
  BitVec.ofNat 64 (c.tenant % 16 * 4096 + ((s.tile t).running.getD 0) % 8 * 256 + t % 256)

/-- CROOT (R376). -/
def croot : CapReg := .make 3 0 0x10000 (permLD ||| permST ||| permSYS) 0 true

/-- TSTAT (R298). -/
def tstat (c : Ctx) : Word := BitVec.ofNat 64 ((if c.inh then 1 else 0) + (if c.async then 2 else 0) + (if c.after then 4 else 0))

/-- A supervisor register as it stood when the block was mapped (R375). -/
def csrValue (s : State) (t : Nat) (c : Ctx) (n : Nat) : Word :=
  let x := s.fabric t
  match n with
  | 0x000 => BitVec.ofNat 64 c.tcause
  | 0x001 => c.tblk
  | 0x002 => BitVec.ofNat 64 c.tslot
  | 0x003 => c.ttag.setWidth 64
  | 0x004 => c.tinfo0
  | 0x005 => c.tinfo1
  | 0x006 => c.tvec
  | 0x007 => c.treta
  | 0x008 => tstat c
  | 0x009 => x.mapFlags.setWidth 64
  | 0x00A => BitVec.ofNat 64 (heldvBits x.mapHeldv)
  | 0x00B => BitVec.ofNat 64 x.mapRbcnt
  | 0x010 => cycleCount s t
  | 0x011 => hwid s t c
  | 0x018 => BitVec.ofNat 64 (c.rbSlot * 2 ^ 32) + c.rbTag.setWidth 64
  | 0x021 => c.keys.setWidth 64
  | _ => 0

/-- CSRR (R375). -/
def execCsrr (h : Hdr) (n : BitVec 12) (s : State) : Out :=
  onFiring s .off (fun f => supervisorOnly f (fun s =>
    match (s.tile f.tile).ctx with
    | none => s
    | some c =>
      if n = 0x020 then fireResult f h (capToken f croot false) s
      else fireResult f h (resultToken f (csrValue s f.tile c n.toNat) false) s))

/-- CSRW (R375): held until commit. -/
def execCsrw (_h : Hdr) (n : BitVec 12) (s : State) : Out :=
  onFiring s .nullified (fun f s =>
    if f.eos then settle s f .nullified
    else supervisorOnly f (blockWideOnly f (fun s => fireHeld s f false (.csrw n.toNat (tokVal f.left)))) s)

/-! ### Translation caches (R157, R158, R377, R378) -/

/-- The ASID of the context that runs on a tile. -/
def ctxAsid (s : State) (t : Nat) : Nat :=
  match (s.tile t).ctx with
  | some c => asidOf s c.tenant
  | none => 0

/-- Remove the walk-cache entries of an ASID. -/
def removeWalks (s : State) (asid : Nat) : State :=
  removeCached s (fun _ => false) (fun e => e.asid == asid) (fun _ => false)

/-- TLBI VA (R377): a league address removes nothing beyond the walk caches. -/
def execTlbiVa (_h : Hdr) (s : State) : Out :=
  blockWideForm s (fun f s =>
    let a := ctxAsid s f.tile
    let va := tokVal f.left
    let s := settle s f .fired
    if va.getLsbD 56 then removeWalks s a else removePage s a va.toNat)

/-- TLBI CTX (R377). -/
def execTlbiCtx (_h : Hdr) (s : State) : Out :=
  blockWideForm s (fun f s => removeAsid (settle s f .fired) (ctxAsid s f.tile))

/-- A tracked block-wide form that is supervisor-only (R300, R377). -/
def supervisorForm (s : State) (k : Firing → State → State) : Out :=
  onFiring s .nullified (fun f s =>
    if f.eos then settle s f .nullified else supervisorOnly f (blockWideOnly f (k f)) s)

/-- TLBI ASID (R377). -/
def execTlbiAsid (_h : Hdr) (s : State) : Out :=
  supervisorForm s (fun f s => removeAsid (settle s f .fired) ((tokVal f.left).toNat % 65536))

/-- TLBI ALL (R377). -/
def execTlbiAll (_h : Hdr) (s : State) : Out := supervisorForm s (fun f s => removeAll (settle s f .fired))

/-- ASIDRT (R158, R378). -/
def execAsidrt (_h : Hdr) (s : State) : Out :=
  supervisorForm s (fun f s => bumpAsid (settle s f .fired) ((tokVal f.left).toNat % 65536))

end Sys2Proof.Machine
end

