-- ==== Sys2Proof/Machine/Tags.lean ====
section
/-! DEFINITION. Tokens on their way and tags in flight: arrival, the matching store and the toybox (R118 to R121, R314),
emission (R117), colour (R135), and when a tag is complete (R122). -/

namespace Sys2Proof.Machine

/-! ### Colour (R135) -/

/-- The present colour of a tag. -/
def colourOf (x : Fabric) (t : Tag) : BitVec 2 :=
  match x.colours.find? (fun c => c.1 == t) with
  | some c => c.2
  | none => 0

/-- A tag has been purged and has not been emitted again. -/
def awaitsReemission (x : Fabric) (t : Tag) : Bool := x.colours.any (fun c => c.1 == t) && !x.tags.any (fun r => r.tag == t)

/-- A token that is discarded wherever it is found (R135): one whose colour is no longer its tag's, and, since a colour comes back
after four purges, any of a tag that has still to be emitted again. -/
def staleToken (x : Fabric) (t : Token) : Bool := !t.bw && (decide (t.col ≠ colourOf x t.tag) || awaitsReemission x t.tag)

/-- Give a tag its next colour. -/
def recolour (x : Fabric) (t : Tag) : Fabric :=
  { x with colours := (t, colourOf x t + 1) :: x.colours.filter (fun c => !(c.1 == t)) }

/-- What a fabric holds of some keys is gone: operands, settled firings, unreleased effects, WRs, pops, parked traps, system calls
and an exit. -/
def dropKeys (x : Fabric) (gone : Key → Bool) : Fabric :=
  { x with
    operands := x.operands.filter (fun o => o.tok.bw || !gone (some o.tok.tag))
    settled := x.settled.filter (fun e => !gone e.key)
    held := x.held.filter (fun e => !gone e.key)
    wrs := x.wrs.filter (fun e => !gone e.key)
    waits := x.waits.filter (fun e => !gone e.key)
    pops := x.pops.filter (fun e => !gone e.key)
    sys := x.sys.filter (fun e => !gone e.key)
    parked := x.parked.filter (fun r => !gone (some r.tag))
    exit := match x.exit with
      | some e => if gone e.key then none else some e
      | none => none }

/-- Accesses of some keys of the block instance on a tile leave their lines (R146). -/
def dropPend (s : State) (tile : Nat) (gone : Key → Bool) : State :=
  let id := s.ctxId tile
  wake (dropReserved (dropFirings s tile id (handling s tile) gone) tile id gone)

/-- The position of a port after the pops that are left (R287, R291). -/
def portAfter (x : Fabric) (port : Nat) (com : PortPos) : PortPos :=
  x.pops.foldl (fun a p => if p.port == port then p.after else a) com

/-- Put the working positions of input ports where the pops that are left have brought them. -/
def replayPops (s : State) (tile : Nat) : State :=
  let x := s.fabric tile
  s.modCtx tile (fun c => { c with
    ports := (c.ports.zipIdx).map (fun p => if p.1.isOutput then p.1 else { p.1 with work := portAfter x p.2 p.1.com }) })

/-- The generator before the emission of a tag that is the youngest in flight (R121). The bound of an outer tag's row stays for its
inner tags in flight until the tag, emitted again, brings it anew. -/
def Gen.rewindTo (g : Gen) (t : Tag) (outer : Bool) : Gen :=
  match g.two with
  | none => { g with inner := t.toNat }
  | some _ =>
    if outer then { g with nextOuter := t.toNat / 65536 }
    else { g with row := t.toNat / 65536, inner := t.toNat % 65536 }

/-- The toybox entries of some keys are freed (R120). -/
def dropToys (s : State) (tile : Nat) (gone : Key → Bool) : State :=
  freeToys s tile (fun o => !o.tok.bw && gone (some o.tok.tag))

/-- Purge one tag (R121, R135): the generator emits it again. -/
def purgeTag (s : State) (tile : Nat) (r : TagRec) : State :=
  let gone (k : Key) : Bool := k == some r.tag
  let s := (dropToys s tile gone).modFabric tile (fun x =>
    let x := recolour (dropKeys x gone) r.tag
    { x with tags := x.tags.filter (fun y => !(y.tag == r.tag)), gen := x.gen.rewindTo r.tag r.outer })
  replayPops (dropPend s tile gone) tile

/-- Purge every unretired tag and emit them again from the oldest (R135). -/
def purgeAll (s : State) (tile : Nat) : State :=
  let tags := (s.fabric tile).tags
  let gone (k : Key) : Bool := tags.any (fun r => k == some r.tag)
  let s := (dropToys s tile gone).modFabric tile (fun x =>
    let x := (tags.foldl (fun x r => recolour x r.tag) (dropKeys x gone))
    { x with
      tags := []
      gen := { x.gen with nextOuter := x.gen.retireRow, row := x.gen.retireRow, inner := x.gen.retireInner,
                          rows := x.gen.rows.filter (fun r => decide (r.row < x.gen.retireRow)) } })
  replayPops (dropPend s tile gone) tile

/-- The youngest unretired tag. -/
def youngestTag (x : Fabric) : Option TagRec :=
  x.tags.foldl (fun (m : Option TagRec) r => match m with
    | none => some r
    | some y => if BitVec.ult y.tag r.tag then some r else some y) none

/-! ### The matching store and the toybox (R118 to R121) -/

/-- The set of a matching-store entry (R118). -/
def storeSet (slot : Nat) (t : Tag) : Nat := (t.toNat % 16) ^^^ (slot % 8)

/-- Two operands compete for the ways of one set of one cluster. -/
def sameSet (a b : Operand) : Bool :=
  a.slot / 8 == b.slot / 8 && storeSet a.slot a.tok.tag == storeSet b.slot b.tok.tag

/-- The operands that hold the ways of an operand's set. -/
def waysOf (x : Fabric) (o : Operand) : List Operand := x.operands.filter (fun e => e.stored && sameSet e o)

/-- The youngest of some operands. -/
def youngestOperand : List Operand → Option Operand
  | [] => none
  | o :: rest =>
    match youngestOperand rest with
    | none => some o
    | some p => if BitVec.ult o.tok.tag p.tok.tag then some p else some o

/-- PORT's code (R312). -/
def portBits (p : Port) : BitVec 2 :=
  match p with
  | .left => 0
  | .right => 1
  | .pred => 2

/-- A toybox entry (R120); CTX holds the context-store entry that runs. -/
def toyEntry (ctx : Nat) (o : Operand) : BitVec 128 :=
  o.tok.val ++ o.tok.tag ++ o.tok.col ++ BitVec.ofNat 3 ctx ++ BitVec.ofNat 7 o.slot ++ portBits o.port ++
  BitVec.ofBool o.tok.eos ++ BitVec.ofBool o.tok.null ++ residue o.tok.val ++ route o.slot ++ BitVec.ofBool o.tok.outer ++
  0#2 ++ 1#1

/-- The first free entry of the toybox. -/
def freeEntry (x : Fabric) : Option Nat := (List.range 4096).find? (fun e => !x.toybox.any (fun o => o.1 == e))

/-- Put an operand into the toybox (R119, R120). -/
def toToybox (s : State) (tile e : Nat) (o : Operand) : State :=
  let s := putScratch s tile (0x3E0000 + 16 * e) (bytesOf 16 (toyEntry ((s.tile tile).running.getD 0) o).toNat)
  s.modFabric tile (fun x => { x with toybox := x.toybox ++ [(e, { o with stored := false })] })

/-- An operand takes its place at its slot: with a way of its set, or in the toybox for the youngest of the five that lack CAP
(R119, R318). None where the toybox has no room, or all five carry CAP. -/
def placeOperand (s : State) (tile : Nat) (o : Operand) : Option State :=
  let x := s.fabric tile
  let ways := waysOf x o
  let add (s : State) (o : Operand) : State := s.modFabric tile (fun x => { x with operands := x.operands ++ [o] })
  if ways.length < 4 then some (add s { o with stored := true })
  else
    match freeEntry x, youngestOperand ((o :: ways).filter (fun p => !p.tok.cap)) with
    | some e, some y =>
      if y = o then some (toToybox s tile e o)
      else
        let s := s.modFabric tile (fun x => { x with operands := x.operands.filter (fun p => !(p == y)) })
        some (add (toToybox s tile e y) { o with stored := true })
    | _, _ => none

/-- Make room by purging the youngest tags, again and again, and place the operand (R121). -/
def placeByPurge (tile : Nat) (o : Operand) : Nat → State → State
  | 0, s => s
  | n + 1, s =>
    match placeOperand s tile o with
    | some s => s
    | none =>
      match youngestTag (s.fabric tile) with
      | none => s
      | some r => if r.tag = o.tok.tag then s else placeByPurge tile o n (purgeTag s tile r)

/-- The oldest toybox entry of a set of a cluster. -/
def oldestToy (x : Fabric) (cluster set : Nat) : Option (Nat × Operand) :=
  (x.toybox.filter (fun o => o.2.slot / 8 == cluster && storeSet o.2.slot o.2.tok.tag == set)).foldl
    (fun (m : Option (Nat × Operand)) o => match m with
      | none => some o
      | some p => if BitVec.ult o.2.tok.tag p.2.tok.tag then some o else some p) none

/-- The oldest toybox entry of a set returns where a way is free (R119). -/
def returnToy (s : State) (tile cluster set : Nat) : State :=
  let x := s.fabric tile
  match oldestToy x cluster set with
  | none => s
  | some (e, o) =>
    if (waysOf x o).length < 4 then
      (clearToy s tile e).modFabric tile (fun x => { x with
        toybox := x.toybox.filter (fun p => !(p.1 == e))
        operands := x.operands ++ [{ o with stored := true }] })
    else s

/-- Every toybox entry that has a free way returns, the oldest of a set first: before an operand arrives or an instruction fires
(R119: in the fabric cycle after the way was freed). -/
def returnToys (s : State) (tile : Nat) : State :=
  (s.fabric tile).toybox.foldl (fun s o => returnToy s tile (o.2.slot / 8) (storeSet o.2.slot o.2.tok.tag)) s

/-- TOYBOX_RETURN (R119). -/
def execToyboxReturn (tile cluster set : Nat) (s : State) : Out := .next (returnToy s tile cluster set)

/-- An instruction has every operand that it needs for a key, the toybox's among them (R99, R119). -/
def operandsReady (b : Block) (c : Ctx) (x : Fabric) (j : Nat) (i : Instr) (k : Key) : Bool :=
  let y := { x with operands := x.operands ++ x.toybox.map (·.2) }
  !settledFor x j k && (keysOf y b c j i).contains k && (portNeeds b j i).all (fun p => (operandAt y j p k).isSome)

/-- Some instruction of a block is ready, for keys that a test names. -/
def someReady (s : State) (tile : Nat) (which : Key → Bool) : Bool :=
  match (s.fabric tile).blk, (s.tile tile).ctx with
  | some b, some c =>
    let x := s.fabric tile
    let y := { x with operands := x.operands ++ x.toybox.map (·.2) }
    (List.range b.words.length).any (fun j => match instrAt b j with
      | none => false
      | some i => (keysOf y b c j i).any (fun k => which k && operandsReady b c x j i k))
  | _, _ => false

/-! ### Arrival (R118, R121, R314) -/

/-- The key for which a token counts at its slot. -/
def tokenKey (t : Token) : Key := if t.bw then none else some t.tag

/-- A second token of one tag at one port, or a token for a firing that has taken place (R314). -/
def duplicateToken (x : Fabric) (o : Operand) : Bool :=
  settledFor x o.slot (tokenKey o.tok) ||
  (if o.tok.bw then x.latches.any (fun p => p.slot == o.slot && p.port == o.port)
   else
    x.operands.any (fun p => p.slot == o.slot && p.port == o.port && p.tok.tag == o.tok.tag) ||
    x.toybox.any (fun p => p.2.slot == o.slot && p.2.port == o.port && p.2.tok.tag == o.tok.tag))

/-- A token that its instruction does not take: LGEN takes no tagged one, LGEN2 only those of an outer tag (R115, R116). -/
def wrongToken (b : Block) (o : Operand) : Bool :=
  match instrAt b o.slot with
  | some (.lgen _) => !o.tok.bw
  | some (.lgen2 _) => o.tok.bw || !o.tok.outer
  | _ => false

/-- The operand completes its instruction's firing, so that it needs no entry of the matching store (R118). -/
def completesFiring (b : Block) (x : Fabric) (o : Operand) : Bool :=
  match instrAt b o.slot with
  | none => true
  | some i =>
    let y := { x with operands := x.operands ++ x.toybox.map (·.2) ++ [o] }
    (portNeeds b o.slot i).all (fun p => (operandAt y o.slot p (tokenKey o.tok)).isSome)

/-- A token takes its place at the port it has reached. -/
def latchToken (s : State) (tile : Nat) (b : Block) (o : Operand) : Option State :=
  let x := s.fabric tile
  if o.tok.bw then some (s.modFabric tile (fun x => { x with latches := x.latches ++ [o] }))
  else if completesFiring b x o then
    some (s.modFabric tile (fun x => { x with operands := x.operands ++ [o] }))
  else placeOperand s tile o

/-- TOKEN_ARRIVAL (R115, R116, R118, R121, R135, R314): a token of the mesh reaches its port. A stale colour is discarded; a
token that a generator does not take and a second token trap; where it finds no room it stays on its link, unless it belongs to the
oldest unretired tag. -/
def execTokenArrival (tile index : Nat) (s : State) : Out :=
  let s := returnToys s tile
  let x := s.fabric tile
  match x.mesh[index]?, x.blk with
  | some o, some b =>
    let taken := s.modFabric tile (fun x => { x with mesh := x.mesh.eraseIdx index })
    if staleToken x o.tok then .next taken
    else if wrongToken b o then .next (trapSlot taken tile o.slot (tokenKey o.tok) 0x08 0 0)
    else if duplicateToken x o then .next (trapSlot taken tile o.slot (tokenKey o.tok) 0x06 0 0)
    else
      match latchToken taken tile b o with
      | some s => .next s
      | none =>
        if x.gen.isOldest o.tok.tag then .next (placeByPurge tile o (x.tags.length + 1) taken) else .next s
  | _, _ => .next s

/-! ### Emission (R115 to R117) -/

/-- The window (R117). -/
def windowOf (b : Block) (g : Gen) : Nat :=
  let w := if b.twh = 0 then 256 else b.twh
  if g.two.isSome && decide (w = 1) then 2 else w

/-- The next inner tag that may be emitted, with its row. Rows whose inner tags have all been emitted are passed over. -/
def Gen.nextInner (g : Gen) : Nat → Gen × Option Tag
  | 0 => (g, none)
  | n + 1 =>
    match g.two with
    | none => (g, if g.inner < g.n then some (BitVec.ofNat 32 g.inner) else none)
    | some _ =>
      if g.row < g.n then
        match g.boundOf g.row with
        | none => (g, none)
        | some m =>
          if g.inner < m then (g, some (innerTag g.row g.inner))
          else Gen.nextInner { g with row := g.row + 1, inner := 0 } n
      else (g, none)

/-- Every tag of the sequence has been emitted. -/
def Gen.allEmitted (g : Gen) : Bool :=
  let g := (g.nextInner (g.n + 1)).1
  match g.two with
  | none => decide (g.n ≤ g.inner)
  | some _ => decide (g.n ≤ g.nextOuter) && decide (g.n ≤ g.row)

/-- What the generator does next (R117). -/
inductive Emission where
  | inner (g : Gen) (t : Tag)
  | outer (t : Tag)
  | ended
  | nothing
  deriving DecidableEq, Repr

/-- A purged tag may be emitted again: no token of its colour is left, and the toybox has emptied (R121, R135). -/
def mayReemit (x : Fabric) (t : Tag) : Bool :=
  !x.colours.any (fun c => c.1 == t) ||
  (decide (x.toybox.length < 3584) &&
    !x.mesh.any (fun o => !o.tok.bw && o.tok.tag == t && decide (o.tok.col = colourOf x t)))

/-- The generator's next emission. -/
def emission (b : Block) (x : Fabric) : Emission :=
  let g := x.gen
  let w := windowOf b g
  if !g.fired then .nothing
  else
    match g.nextInner (g.n + 1) with
    | (g', some t) =>
      if x.tags.length < w && mayReemit x t then .inner g' t
      else if g.two.isSome && decide (g.nextOuter < g.n) && decide (x.tags.length + 2 ≤ w) &&
        mayReemit x (outerTag g.nextOuter) then .outer (outerTag g.nextOuter)
      else .nothing
    | (_, none) =>
      if g.two.isSome && decide (g.nextOuter < g.n) then
        (if x.tags.length + 2 ≤ w && mayReemit x (outerTag g.nextOuter) then .outer (outerTag g.nextOuter) else .nothing)
      else if g.allEmitted && !g.sentEnd then .ended
      else .nothing

/-- A generator's token. -/
def genToken (t : Tag) (outer bw : Bool) (col : BitVec 2) (v : Word) : Token :=
  { val := v, hi := 0, cap := false, ctag := false, tag := t, outer := outer, bw := bw, eos := false, null := false,
    col := col, anc := [] }

/-- The targets of the instruction at a slot. -/
def slotHdr (b : Block) (j : Nat) : Option Hdr := (instrAt b j).bind hdrOf

/-- Send a generator's tokens to the targets of a slot. -/
def sendGen (s : State) (tile : Nat) (b : Block) (j : Nat) (first second : Option Token) : State :=
  match slotHdr b j with
  | none => s
  | some h =>
    let s := match first with
      | some t => send s tile j h.t1 t
      | none => s
    match second with
    | some t => send s tile j h.t2 t
    | none => s

/-- TAG_EMIT (R115 to R117): the generator emits the first tag that it may, or sends its end token. Both of LGEN2's tokens carry EOS
where an operand of its row did (R290, R330, log 93); LGEN's end token carries none, also where its bound did (log 93). -/
def execTagEmit (tile : Nat) (s : State) : Out :=
  let x := s.fabric tile
  match x.blk with
  | none => .next s
  | some b =>
    match emission b x with
    | .nothing => .next s
    | .ended =>
      .next (sendGen (s.modFabric tile (fun x => { x with gen := { x.gen with sentEnd := true } })) tile b x.gen.slot none
        (some (genToken 0 false true 0 (BitVec.ofNat 64 x.gen.n))))
    | .outer t =>
      let col := colourOf x t
      let i := x.gen.nextOuter
      .next (sendGen (s.modFabric tile (fun x => { x with
        gen := { x.gen with nextOuter := i + 1 }
        tags := x.tags ++ [{ tag := t, outer := true, col := col, complete := false }] })) tile b x.gen.slot
        (some (genToken t true false col (BitVec.ofNat 64 i))) none)
    | .inner g t =>
      let col := colourOf x t
      let s := s.modFabric tile (fun x => { x with
        gen := { g with inner := g.inner + 1 }
        tags := x.tags ++ [{ tag := t, outer := false, col := col, complete := false }] })
      match g.two with
      | none => .next (sendGen s tile b g.slot (some (genToken t false false col (t.setWidth 64))) none)
      | some j2 =>
        let (base, eos) : Word × Bool := match g.rows.find? (fun r => r.row == g.row) with
          | some r => (r.b, r.eos)
          | none => (0, false)
        .next (sendGen s tile b j2 (some { genToken t false false col (BitVec.ofNat 64 g.row) with eos := eos })
          (some { genToken t false false col (base + BitVec.ofNat 64 g.inner) with eos := eos }))

/-! ### Which slots are block-wide (R114, R129) -/

/-- The slots that a slot's tokens reach, with the two targets told apart. -/
def feeds (b : Block) (j : Nat) : List (Nat × Bool) :=
  match slotHdr b j with
  | none => []
  | some h =>
    ((targetSlot j h.t1).toList.map (fun t => (t.1, true))) ++ ((targetSlot j h.t2).toList.map (fun t => (t.1, false)))

/-- One round of spreading tags along targets. -/
def spreadTags (b : Block) (c : Ctx) (known : List Nat) : List Nat :=
  ((List.range b.words.length).flatMap (fun j =>
    match instrAt b j with
    | none => []
    | some (.lgen _) => ((feeds b j).filter (·.2)).map (·.1)
    | some i =>
      (if known.contains j then (feeds b j).map (·.1) else []) ++
      (if (popPort c i).isSome then j :: (feeds b j).map (·.1) else []))).foldl
    (fun (ks : List Nat) j => if ks.contains j then ks else ks ++ [j]) known

/-- Spread until nothing changes, at most once for each slot. -/
def spreadAll (b : Block) (c : Ctx) : Nat → List Nat → List Nat
  | 0, ks => ks
  | n + 1, ks =>
    let ks' := spreadTags b c ks
    if ks'.length = ks.length then ks else spreadAll b c n ks'

/-- The slots of an iterating block that tagged tokens reach. -/
def taggedSlots (b : Block) (c : Ctx) : List Nat := spreadAll b c b.words.length []

/-- The WRs and tracked instructions that a commit needs resolved for the block itself: all of them without LOOP, the
block-wide ones with it (R106, R129). -/
def commitSlots (b : Block) (c : Ctx) : List Nat :=
  let tagged := if b.loop then taggedSlots b c else []
  (List.range b.words.length).filter (fun j => match instrAt b j with
    | none => false
    | some i => (decide ((formOf i).kind = .wr) || decide ((formOf i).kind = .tracked)) && !tagged.contains j)

/-- The key of the block itself: tag 0 without LOOP. -/
def blockKey (b : Block) : Key := if b.loop then none else some 0

/-! ### Completion (R122) -/

/-- An access of a key of the block instance on a tile is outstanding. -/
def outstanding (s : State) (tile : Nat) (which : Key → Bool) : Bool :=
  let id := s.ctxId tile
  s.pend.any (fun p => match p.who with
    | .firing u c _ k => u == tile && c == id && which k
    | _ => false)

/-- Nothing of a tag and nothing block-wide is on its way, ready or outstanding (R122): its tokens of any colour count. -/
def atRest (s : State) (tile : Nat) (t : Tag) : Bool :=
  !someReady s tile (fun q => q == none || q == some t) &&
  !(s.fabric tile).mesh.any (fun o => o.tok.bw || o.tok.tag == t) &&
  !outstanding s tile (fun q => q == none || q == some t)

/-- LGEN2 has taken the bound and base of an outer tag's row (R122). -/
def rowTaken (x : Fabric) (t : Tag) : Bool :=
  match x.gen.two with
  | some j => settledFor x j (some t) && (x.gen.boundOf (t.toNat / 65536)).isSome
  | none => false

/-- Everything that R122 asks of a tag before it is complete, and no trap of it is parked. -/
def mayComplete (s : State) (tile : Nat) (r : TagRec) : Bool :=
  let x := s.fabric tile
  !r.complete && !x.parked.any (fun p => p.tag == r.tag) && atRest s tile r.tag && (!r.outer || rowTaken x r.tag)

/-- The lowest WR or tracked instruction that holds an operand of a tag without having fired (R122). -/
def stuckSlot (b : Block) (x : Fabric) (t : Tag) : Option Nat :=
  (List.range b.words.length).find? (fun j => match instrAt b j with
    | none => false
    | some i =>
      (decide ((formOf i).kind = .wr) || decide ((formOf i).kind = .tracked)) && !settledFor x j (some t) &&
      (x.operands.any (fun o => o.slot == j && o.tok.tag == t) ||
        x.toybox.any (fun o => o.2.slot == j && o.2.tok.tag == t)))

end Sys2Proof.Machine
end

