-- ==== Sys2Proof/Machine/Commit.lean ====
section
/-! DEFINITION. What leaves the fabric: effects of tags and blocks (R104, R107, R123, R126, R129), retirement, commit,
traps that were parked or held (R132, R244, R297, R301), quiescence (R108, R122), and rollbacks (R306 to R308). -/

namespace Sys2Proof.Machine

/-! ### Queues and fences (R106, R206, R209, R210, R227) -/

/-- The queue number of an instruction's command (R206). -/
def queueOf (i : Instr) : Nat :=
  match i with
  | .cpy _ _ _ _ | .cpym _ _ _ _ | .cpy2d _ _ _ _ | .cpyfill _ _ _ | .cpyz _ _ _ _ => 0
  | .mlws _ _ _ | .mswap _ | .mpass _ _ _ _ | .mpasss _ _ _ _ | .mzero _ _ _ | .mrd _ _ _ _ _ _ _ | .mcbl _ _
  | .rkatl _ _ | .rkpass _ _ _ _ => 2
  | .riread _ _ _ | .rifilt _ _ _ | .rimatv _ _ _ | .riupd _ _ _ | .rired _ _ _ | .ricxg _ _ _ | .riwrite _ _ _
  | .rifill _ _ _ | .ripref _ _ _ => 3
  | _ => 1

/-- The places of a context's queue that are taken: what it holds, copies in progress, a pass under way or not stopped. -/
def queueUsed (s : State) (c : Ctx) (q : Nat) : Nat :=
  (c.queue q).length +
  (if q = 0 then (s.copies.filter (copyOfCtx c.id)).length else 0) +
  (if q = 2 ∧ c.pass.isSome then 1 else 0) + (if q = 2 ∧ c.stopping.isSome then 1 else 0)

/-- How many places of a queue some held effects need (R106, R209). -/
def queueNeeds (es : List Held) (q : Nat) : Nat :=
  (es.filter (fun h => match h.eff with
    | .command n _ => n == q
    | .qfence set => set.getLsbD q
    | _ => false)).length

/-- Every queue has room for the commands of some held effects. -/
def queuesHaveRoom (s : State) (c : Ctx) (es : List Held) : Bool :=
  [0, 1, 2, 3].all (fun q => decide (queueNeeds es q = 0) || decide (queueUsed s c q + queueNeeds es q ≤ 32))

/-- Stores that the context's blocks have released, on whichever tile, are all performed (R227). -/
def storesDone (s : State) (c : Ctx) : Bool := !storing s c.id

/-- Another party reserves the target of a held store, so that its release would have to wait (R363). -/
def heldBlocked (s : State) (tile : Nat) (c : Ctx) (h : Held) : Bool :=
  match heldOp h.eff with
  | some (_, p, _, _) => reservedByOther s tile c.id p
  | none => false

/-- The condition of a FENCE with the given kinds (R227): 0 LD, 1 ST, 2 ENG, 3 RIDE. Loads have returned by then. -/
def fenceHolds (s : State) (tile : Nat) (c : Ctx) (inst : Nat) (kinds : BitVec 4) (own : List Held) : Bool :=
  (!kinds.getLsbD 1 || (storesDone s c && !own.any (heldBlocked s tile c))) &&
  (!kinds.getLsbD 2 || (queueQuiet s c inst 0 && queueQuiet s c inst 1 && queueQuiet s c inst 2)) &&
  (!kinds.getLsbD 3 || queueQuiet s c inst 3)

/-- The kinds of the fences among some held effects; a BARR contains one with LD and ST (R372). -/
def fenceKinds (es : List Held) : BitVec 4 :=
  es.foldl (fun k h => match h.eff with
    | .fence kinds _ => k ||| kinds
    | .barr _ => k ||| 0x3
    | _ => k) 0

/-! ### Releasing effects -/

/-- Change the running context's port. -/
def modPort (s : State) (tile port : Nat) (g : SPort → SPort) : State := s.modCtx tile (fun c => c.modPort port g)

/-- Elements that a port has read ahead are gone. -/
def dropPort (s : State) (tile port : Nat) : State :=
  let s := dropAhead s (fun e => e.tile == tile && e.port == port)
  { s with pend := s.pend.filter (fun e => match e.who with
      | .prefetch t _ p _ => !(t == tile && p == port)
      | _ => true) }

/-- Every element that the ports of a tile have read ahead is gone, as when a handler returns (R294): the repaired element
is read afresh. -/
def dropPorts (s : State) (tile : Nat) : State :=
  let s := dropAhead s (fun e => e.tile == tile)
  { s with pend := s.pend.filter (fun e => match e.who with
      | .prefetch t _ _ _ => !(t == tile)
      | _ => true) }

/-- Write a supervisor register (R298, R375, R376): reserved bits ignore the value. -/
def csrWrite (c : Ctx) (n : Nat) (v : Word) : Ctx :=
  match n with
  | 0x000 => { c with tcause := v.toNat % 128 }
  | 0x001 => { c with tblk := v }
  | 0x002 => { c with tslot := v.toNat % 256 }
  | 0x003 => { c with ttag := v.setWidth 32 }
  | 0x004 => { c with tinfo0 := v }
  | 0x005 => { c with tinfo1 := v }
  | 0x006 => { c with tvec := v &&& ~~~0x3F#64 }
  | 0x007 => { c with treta := v &&& ~~~0x3F#64 }
  | 0x009 => { c with fflags := v.setWidth 6 }
  | 0x018 => { c with rbSlot := v.toNat / 2 ^ 32 % 128, rbTag := v.setWidth 32 }
  | 0x019 =>
    let e : ReplayEntry := { slot := c.rbSlot, tag := c.rbTag, val := v }
    if c.replay.any (fun r => r.slot == e.slot && r.tag == e.tag) then
      { c with replay := c.replay.map (fun r => if r.slot == e.slot && r.tag == e.tag then e else r) }
    else if c.replay.length < 64 then { c with replay := c.replay ++ [e] } else c
  | 0x021 => { c with keys := v.setWidth 16 &&& 0xFFFE }
  | _ => c

/-- Set a barrier's count (R371). -/
def barrierCount (r : Region) (b : Nat) (n : Word) : Region :=
  let old := r.bars[b]?.getD (Barrier.reset 0)
  let count := if n = 0 then r.nodes.length else if n.toNat ≤ 48 then n.toNat else old.count
  { r with bars := r.bars.setIfInBounds b { old with count := count } }

/-- Register an arrival (R85, R371); its phase is the tile's arrival phase, which the tile's later contexts of the region have
too. -/
def barrierArrive (s : State) (tile b : Nat) : State :=
  match (s.tile tile).ctx with
  | none => s
  | some c =>
    let phase := (s.barrierOf c b).phase
    let s := s.modRegion c.launch c.region (fun r =>
      let old := r.bars[b]?.getD (Barrier.reset 0)
      { r with bars := r.bars.setIfInBounds b { old with arrivals := old.arrivals + 1 }
               arrived := (c.node, b, phase) :: r.arrived })
    s.modCtx tile (fun c => { c with arrival := c.arrival.setIfInBounds b (some phase) })

/-- Set the lines empty that a command's entry empties (R145, R248). -/
def emptyLines (s : State) (tile : Nat) (ls : List Nat) : State := ls.foldl (fun s l => emptyOwn s tile (s.ctxId tile) l) s

/-- The array cycle of a tile: its stack's step boundary, and a free cycle of the four of a step (R86, log 59). -/
def arrayCycle (s : State) (t : Nat) : Nat × State :=
  let (n, s) := s.drawNat
  ((s.stack (t / 48)).cycle + n % 4, s)

/-- Enter a command into its queue (R86, R107, R145, R248). -/
def enterCommand (s : State) (tile q : Nat) (e : QEntry) : State :=
  let (now, s) := if q = 2 then arrayCycle s tile else (0, s)
  let e := { e with cycle := now, stamp := if e.stamp = 0 then s.nextId else e.stamp }
  emptyLines (s.modCtx tile (fun c => c.setQueue q (c.queue q ++ [e]))) tile e.empties

/-- A fence entry. -/
def fenceEntry (fence : Nat) (set : BitVec 4) (inst : Nat) : QEntry :=
  { instr := none, fence := fence, set := set, blk := 0, slot := 0, tag := 0, left := 0, right := 0, caps := [],
    record := [], supervisor := false, inst := inst, empties := [], cycle := 0, stamp := 0 }

/-- Place a QFENCE's entries at the tail of every queue of its set (R209). -/
def enterFence (s : State) (tile : Nat) (set : BitVec 4) (inst : Nat) : State :=
  let (id, s) := s.fresh
  [0, 1, 2, 3].foldl (fun s q =>
    if set.getLsbD q then s.modCtx tile (fun c => c.setQueue q (c.queue q ++ [fenceEntry id set inst])) else s) s

/-- An effect that the block holds writes the tile's own toybox. -/
def writesToybox (tile : Nat) (h : Held) : Bool :=
  match heldPlace h.eff with
  | some (.scratch t off) => t == tile && inToybox off 1
  | _ => false

/-- A commit that writes the tile's own toybox writes it while the block is mapped, so that what it writes beside is undefined
(R120, log 22). -/
def disturbToybox (s : State) (tile : Nat) (k : Key) : State :=
  if (s.fabric tile).held.any (fun h => h.key == k && writesToybox tile h) then disturb s tile else s

/-- Release one held effect, but the writes of supervisor registers, flags, queue fences and port control, which have
their own turn. -/
def releaseEffect (s : State) (tile ctx : Nat) (h : Held) : State :=
  match h.eff with
  | .command q e => enterCommand s tile q e
  | .binit b n =>
    match (s.tile tile).ctx with
    | some c => s.modRegion c.launch c.region (fun r => barrierCount r b n)
    | none => s
  | .barr b => acquire (barrierArrive s tile b) tile
  | .fence kinds _ => if kinds.getLsbD 0 then acquire s tile else s
  | .store _ _ _ _ _ | .stf _ _ _ | .stfw _ _ _ | .feclr _ | .feset _ => releaseStore s tile ctx h.eff h.scope
  | .sparm _ _ _ | .spdis _ | .spskip _ _ | .csrw _ _ | .qfence _ | .flags _ => s

/-- A port change of SPARM, SPDIS or SPSKIP (R283, R285). -/
def releasePort (s : State) (tile : Nat) (h : Held) : State :=
  match h.eff with
  | .sparm p r cap =>
    modPort (dropPort s tile p) tile p (fun _ =>
      { armed := true, record := r, cap := cap, com := PortPos.reset, work := PortPos.reset })
  | .spdis p => modPort (dropPort s tile p) tile p (fun q => { q with armed := false })
  | .spskip p n =>
    modPort (dropPort s tile p) tile p (fun q =>
      let at_ : PortPos := { q.com with pos := min (q.com.pos + n.toNat) q.total }
      { q with com := at_, work := at_ })
  | _ => s

/-- OR the flags of some held effects into FFLAGS (R263). -/
def releaseFlags (s : State) (tile : Nat) (es : List Held) : State :=
  es.foldl (fun s h => match h.eff with
    | .flags f => s.modCtx tile (fun c => { c with fflags := c.fflags ||| f })
    | _ => s) s

/-- A held effect is an engine command or rider. -/
def isCommand (h : Held) : Bool :=
  match h.eff with
  | .command _ _ => true
  | _ => false

/-- Release stores, full/empty operations and the like in slot order. -/
def releaseAll (s : State) (tile ctx : Nat) (es : List Held) : State :=
  (sortBy (fun h => h.slot) (es.filter (fun h => !isCommand h))).foldl (fun s h => releaseEffect s tile ctx h) s

/-- Enter engine commands and riders into their queues in slot order. -/
def enterAll (s : State) (tile ctx : Nat) (es : List Held) : State :=
  (sortBy (fun h => h.slot) (es.filter isCommand)).foldl (fun s h => releaseEffect s tile ctx h) s

/-- Write pushes in slot order (R107, R289). -/
def pushAll (s : State) (tile : Nat) (ws : List HeldWr) : State :=
  (sortBy (fun w => w.slot) ws).foldl (fun s w => performPush s tile w) s

/-- Give some pushes their positions in slot order. -/
def placePushes (s : State) (tile : Nat) (ws : List HeldWr) : State :=
  (sortBy (fun w => w.slot) ws).foldl (fun s w => placePush s tile w) s

/-- Where the working copy of every output port has come is committed (R289, R291). -/
def commitOutputs (s : State) (tile : Nat) : State :=
  s.modCtx tile (fun c => { c with ports := c.ports.map (fun p => if p.isOutput then { p with com := p.work } else p) })

/-! ### TAG_COMPLETE (R122, R123) -/

/-- The unreleased effects of a key on a channel. -/
def heldOf (x : Fabric) (k : Key) (tagged : Bool) : List Held := x.held.filter (fun h => h.key == k && h.tagged == tagged)

/-- The pushes of a key on a channel. -/
def pushesOf (x : Fabric) (k : Key) (tagged : Bool) : List HeldWr :=
  x.wrs.filter (fun w => w.push && w.key == k && w.tagged == tagged)

/-- Each tile of a locked pair forms the packet of what is about to take effect (R84): of a committing block, or of a tag whose
effects are released (log 40). A block's has the values of its retired tags' WRs, which its commit writes (R126), and what took effect
outside the pair as it fired. -/
def formPackets (s : State) (tile : Nat) (c : Ctx) (k : Key) (e : Option ExitRec) : State :=
  let x := s.fabric tile
  s.formPacket tile c
    { blk := (x.blk.map (fun b => b.addr)).getD 0
      wrs := x.wrs.filter (fun w => w.key == k) ++ (if e.isSome then x.kept else [])
      held := x.held.filter (fun h => h.key == k)
      atomics := c.atomics.filter (fun a => a.key == k && a.inh == c.inh && x.settled.any (fun y => y.slot == a.slot && y.key == k))
      exit := e }

/-- The tagged-channel effects of a tag whose pushes have all been checked take place (R123). -/
def releaseTagged (s : State) (tile : Nat) (c : Ctx) (t : Tag) : State :=
  let k : Key := some t
  let es := heldOf (s.fabric tile) k true
  let s := releaseAll (placePushes s tile (pushesOf (s.fabric tile) k true)) tile c.id es
  let s := enterAll (pushAll s tile (pushesOf (s.fabric tile) k true)) tile c.id es
  (commitOutputs s tile).modFabric tile (fun x => { x with
    held := x.held.filter (fun h => !(h.key == k && h.tagged))
    wrs := x.wrs.filter (fun w => !(w.push && w.key == k && w.tagged))
    tags := x.tags.map (fun r => if r.tag == t then { r with complete := true } else r) })

/-- A tag completes (R123, R289): its tagged pushes are checked, all before any is written, and then its tagged-channel effects
take place; a failed check parks the trap of the lowest failing WR. -/
def completeTag (s : State) (tile : Nat) (c : Ctx) (t : Tag) : State :=
  let k : Key := some t
  let x := s.fabric tile
  if !queuesHaveRoom s c (heldOf x k true) then s
  else
    match checkPushes tile c (sortBy (fun w => w.slot) (pushesOf x k true)) s with
    | (s, .fails slot a b) => trapSlot s tile slot k 0x41 a b
    | (s, .waits) => s
    | (s, .pass) =>
      let s := formPackets s tile c k none
      if packetsMatch s tile c then releaseTagged s tile c t else s

/-- TAG_COMPLETE (R122, R123): a tag that has come to rest completes, or traps with cause 0x06 where a WR or tracked
instruction still holds an operand of it. -/
def execTagComplete (tile : Nat) (tag : Tag) (s : State) : Out :=
  let x := s.fabric tile
  match x.blk, (s.tile tile).ctx, x.tags.find? (fun r => r.tag == tag) with
  | some b, some c, some r =>
    if b.loop && mayComplete s tile r then
      match stuckSlot b x tag with
      | some j => .next (trapSlot s tile j (some tag) 0x06 0 0)
      | none => .next (completeTag s tile c tag)
    else .next s
  | _, _, _ => .next s

/-! ### TAG_RETIRE (R123 to R127) -/

/-- Keep the values of a retired tag's WRs, each in place of the value its slot held (R126). -/
def keepValues (x : Fabric) (k : Key) : List HeldWr :=
  (x.wrs.filter (fun w => !w.push && w.key == k)).foldl (fun ks w => ks.filter (fun v => !(v.slot == w.slot)) ++ [w]) x.kept

/-- The pops of a tag become committed positions (R291). -/
def commitPops (s : State) (tile : Nat) (k : Key) : State :=
  ((s.fabric tile).pops.filter (fun p => p.key == k)).foldl (fun s p => modPort s tile p.port (fun q => { q with com := p.after })) s

/-- What the fabric holds of a retired tag is gone (R122, R125). -/
def forgetTag (s : State) (tile : Nat) (t : Tag) : State :=
  let gone (k : Key) : Bool := k == some t
  let s := (dropToys s tile gone).modFabric tile (fun x =>
    let sys := x.sys
    let exit := x.exit
    { dropKeys x gone with
      sys := sys
      exit := exit
      tags := x.tags.filter (fun r => !(r.tag == t))
      colours := x.colours.filter (fun c => !(c.1 == t))
      gen := x.gen.advance })
  s.modCtx tile (fun c =>
    let c := { c with atomics := c.atomics.filter (fun a => !(a.key == some t && a.inh == c.inh)) }
    if c.inh then c else { c with replay := c.replay.filter (fun e => !(e.tag == t)) })

/-- A tag whose pushes have been checked retires (R123 to R127): stores and commands are released in slot order, pushes take
positions and are written, its WRs' values are kept, its pops are committed and its flags raised. A FENCE with ST of the tag keeps
its retirement unfinished while stores are under way to far members (R227). A trap parked for the next tag is due (R132). -/
def releaseOrdered (s : State) (tile : Nat) (c : Ctx) (t : Tag) : State :=
  let k : Key := some t
  let es := heldOf (s.fabric tile) k false
  let s := releaseAll (placePushes s tile (pushesOf (s.fabric tile) k false)) tile c.id es
  let s := enterAll (pushAll s tile (pushesOf (s.fabric tile) k false)) tile c.id es
  let s := commitOutputs (commitPops (releaseFlags s tile es) tile k) tile
  let s := s.modCtx tile (fun c => { c with fenced := (fenceKinds es).getLsbD 1 })
  let s := s.modFabric tile (fun x => { x with kept := keepValues x k })
  takeDue ((forgetTag s tile t).clearFaulted tile) tile

/-- A complete oldest tag retires (R123, R289): its ordered pushes are checked first, and a failed check is the trap of the lowest
failing WR. A locked pair's packets of the tag are compared before its effects leave the pair (R84, log 40). -/
def retireTag (s : State) (tile : Nat) (c : Ctx) (t : Tag) : State :=
  let k : Key := some t
  match checkPushes tile c (sortBy (fun w => w.slot) (pushesOf (s.fabric tile) k false)) s with
  | (s, .fails slot a b) => trapSlot s tile slot k 0x41 a b
  | (s, .waits) => s
  | (s, .pass) =>
    let s := formPackets s tile c k none
    if packetsMatch s tile c then releaseOrdered s tile c t else s

/-- TAG_RETIRE (R123, R124, R127): the oldest unretired tag retires once it is complete, its fences hold and its commands
find room, all of them at once (log 111). -/
def execTagRetire (tile : Nat) (s : State) : Out :=
  let x := s.fabric tile
  match x.blk, (s.tile tile).ctx with
  | some b, some c =>
    let t := x.gen.resumeTag
    let es := heldOf x (some t) false
    if b.loop && x.gen.isOldest t && x.tags.any (fun r => r.tag == t && r.complete) &&
        !x.parked.any (fun r => r.tag == t) && !outstanding s tile (fun k => k == some t) && !fencePending s c &&
        queuesHaveRoom s c es && fenceHolds s tile c x.inst (fenceKinds es) es then
      .next (retireTag s tile c t)
    else .next s
  | _, _ => .next s

/-! ### BLOCK_COMMIT (R106, R107, R129) -/

/-- Everything but room in the queues and fences that a commit needs (R106, R129). -/
def commitReady (s : State) (tile : Nat) (b : Block) (c : Ctx) : Bool :=
  let x := s.fabric tile
  x.exit.isSome && x.parked.isEmpty && x.waits.isEmpty && !fencePending s c &&
  (commitSlots b c).all (fun j => settledFor x j (blockKey b)) &&
  !outstanding s tile (fun _ => true) &&
  (!b.loop || (x.gen.sentEnd && x.gen.allRetired))

/-- A BWAIT of the block has fired: it contains a FENCE with LD and ST after its resolution (R372). -/
def hasBwait (x : Fabric) (b : Block) : Bool :=
  x.settled.any (fun e => decide (e.how = .fired) && (match instrAt b e.slot with
    | some (.bwait _ _) => true
    | _ => false))

/-- The room and the fences that a commit needs. -/
def commitRoom (s : State) (tile : Nat) (b : Block) (c : Ctx) : Bool :=
  let x := s.fabric tile
  let es := heldOf x (blockKey b) false ++ heldOf x (blockKey b) true
  queuesHaveRoom s c es && fenceHolds s tile c x.inst (fenceKinds es ||| (if hasBwait x b then 0x3 else 0)) es

/-- A WR in the order in which registers are written (R102, R107, R126): block-wide WRs first, then by tag, then by
slot. -/
def wrRank (w : HeldWr) : Nat :=
  match w.key with
  | none => w.slot
  | some t => (t.toNat + 1) * 128 + w.slot

/-- Write the registers of a block's WRs (R102, R107, R126). -/
def writeRegisters (c : Ctx) (ws : List HeldWr) : Ctx :=
  (sortBy wrRank ws).foldl (fun c w => if w.kr then c.setK w.n w.cap else c.setG w.n w.val) c

/-- A held effect writes FFLAGS. -/
def writesFflags (h : Held) : Bool :=
  match h.eff with
  | .csrw n _ => n == 0x009
  | _ => false

/-- The CSRWs of a block in slot order, after its WRs (R375). One of FFLAGS leaves the flags raised that an engine command raises at
the same moment (R263, R415; log 107). -/
def writeCsrs (now : Nat) (c : Ctx) (es : List Held) : Ctx :=
  let d := (sortBy (fun h => h.slot) es).foldl (fun c h => match h.eff with
    | .csrw n v => csrWrite c n v
    | _ => c) c
  if es.any writesFflags && c.flagsAt == now then { d with fflags := d.fflags ||| c.flagsNow } else d

/-- The SYSCALL or BRK whose trap a commit takes (R373): the oldest tag, then the lowest slot. -/
def firstSys (xs : List SysRec) : Option SysRec :=
  (sortBy (fun e => (match e.key with
    | none => 0
    | some t => t.toNat + 1) * 128 + e.slot) xs).head?

/-- Where a committed block's exit leads (R107, R351, R353, R300). -/
def takeExit (s : State) (tile : Nat) (supervisor : Bool) (e : ExitRec) : State :=
  match e.dest with
  | .block target link =>
    s.modCtx tile (fun c =>
      let c := match link with
        | some r => c.setG 55 r
        | none => c
      { c with phase := .fetching, pc := target, via := if supervisor then .supervisor else .user })
  | .halt =>
    match (s.tile tile).ctx with
    | none => s
    | some c =>
      if c.inh then
        endUnresolved s tile { cause := c.tcause, blk := c.tblk, slot := c.tslot, tag := c.ttag, info0 := c.tinfo0,
                               info1 := c.tinfo1 } true
      else s.modCtx tile (fun c => { c with phase := .halted, pc := 0 })
  | .tret =>
    (dropPorts s tile).modCtx tile (fun c =>
      { returnFromTrap c with
        stopV := c.pendingTraps.any (fun p => p.source == 0), stopM := c.pendingTraps.any (fun p => p.source == 1) })

/-- A commit ends the block instance (R105, R133): the replay buffer is cleared but by a handler (R300), and nothing is
left to resume. -/
def endBlock (s : State) (tile : Nat) : State :=
  let s := s.modCtx tile (fun c =>
    let c := { c with atomics := c.atomics.filter (fun a => a.inh != c.inh) }
    if c.inh then { c with handlerResume := none, handlerHeld := [] }
    else { c with replay := [], resume := none, heldVals := [], heldv := [] })
  let s := freeToys (if handling s tile then s else forgetLost s (s.ctxId tile)) tile (fun _ => true)
  (s.modTile tile (fun x => { x with fabric := Fabric.reset })).clearFaulted tile

/-- Take the trap of a SYSCALL or BRK of a committed block (R297, R299, R373); where its exit was a TRET, the handler has returned
by then (R300, log 51). -/
def takeSys (s : State) (tile : Nat) (blk : Word) (e : ExitRec) (r : SysRec) : State :=
  let halted : Bool := match (s.tile tile).ctx with
    | some c => decide (c.phase = .halted)
    | none => false
  let target : Word := match e.dest with
    | .block a _ => a
    | .halt => 0
    | .tret => match (s.tile tile).ctx with
      | some c => if halted then 0 else c.treta
      | none => 0
  enterTrap s tile { cause := r.cause, blk := blk, slot := r.slot, tag := keyTag r.key, info0 := r.val, info1 := 0 }
    true false target (decide (e.dest = .halt) || halted)

/-- Everything a commit does up to its exit (R107, R126, R263, R285, R375): registers, supervisor registers, stores and
the like, pushes, port changes, commands, queue fences, which enter in the order in which they fired (log 101). `own` are the block's own held effects and `ws` its own pushes. -/
def commitEffects (s : State) (tile : Nat) (b : Block) (c : Ctx) (own : List Held) : State :=
  let x := s.fabric tile
  let k := blockKey b
  let regs := (x.wrs.filter (fun w => !w.push && w.key == k)) ++ (if b.loop then x.kept else [])
  let s := s.modCtx tile (fun c => writeCsrs s.now (writeRegisters c regs) own)
  let s := if hasBwait x b then acquire s tile else s
  let s := releaseFlags (releaseAll s tile c.id own) tile own
  let s := pushAll s tile (x.wrs.filter (fun w => w.push && w.key == k))
  let s := s.modCtx tile (fun c => { c with
    ports := c.ports.map (fun p => { p with com := p.work })
    fenced := (fenceKinds own).getLsbD 1 || hasBwait x b })
  let s := (sortBy (fun h => h.slot) own).foldl (fun s h => releasePort s tile h) s
  let s := enterAll s tile c.id own
  (own.filter (fun h => match h.eff with
    | .qfence _ => true
    | _ => false)).foldl (fun s h => match h.eff with
    | .qfence set => enterFence s tile set x.inst
    | _ => s) s

/-- The commit itself: effects, then the exit, then the trap of a SYSCALL or BRK (R107, R297). -/
def commitBlock (s : State) (tile : Nat) (b : Block) (c : Ctx) (e : ExitRec) : State :=
  let s := disturbToybox s tile (blockKey b)
  let x := s.fabric tile
  let k := blockKey b
  let own := x.held.filter (fun h => h.key == k)
  let sys := firstSys x.sys
  let s := endBlock (commitEffects s tile b c own) tile
  match sys with
  | none => takeExit s tile b.supervisor e
  | some r =>
    let s := match e.dest with
      | .block _ link => s.modCtx tile (fun c => match link with
        | some v => c.setG 55 v
        | none => c)
      | .halt => s
      | .tret => takeExit s tile b.supervisor e
    takeSys s tile b.addr e r

/-- BLOCK_COMMIT (R106, R107, R129): a block whose commit condition holds commits. The block-wide pushes of an iterating
block take their positions first, and a failed check traps. A locked pair's packets are compared before any effect (R84). -/
def execBlockCommit (tile : Nat) (s : State) : Out :=
  let x := s.fabric tile
  match x.blk, (s.tile tile).ctx, x.exit with
  | some b, some c, some e =>
    if commitReady s tile b c && commitRoom s tile b c then
      let pushes := sortBy (fun w => w.slot) (x.wrs.filter (fun w => w.push && w.key == none))
      match checkPushes tile c pushes s with
      | (s, .fails slot i0 i1) => .next (trapSlot s tile slot none 0x41 i0 i1)
      | (s, .waits) => .next s
      | (s, .pass) =>
        let s := formPackets (placePushes s tile pushes) tile c (blockKey b) (some e)
        if packetsMatch s tile c then .next (commitBlock s tile b c e) else .next s
    else .next s
  | _, _, _ => .next s

/-! ### Traps taken apart from their instruction -/

/-- A parked trap is due (R132): its tag is the oldest unretired one. Where that is an outer tag whose row's bound has not been
taken, it counts as the oldest once every older row has retired and the tag is at rest, so that the bound can no longer come
(log 15). -/
def trapDue (s : State) (tile : Nat) (r : TrapRec) : Bool :=
  let g := (s.fabric tile).gen
  g.isOldest r.tag ||
  (g.two.isSome && g.fired && (g.boundOf g.retireRow).isNone && decide (r.tag = outerTag g.retireRow) && atRest s tile r.tag)

/-- TRAP_ENTRY (R132, R299): a parked trap whose tag has become the oldest unretired one is taken. -/
def execTrapEntry (tile : Nat) (s : State) : Out :=
  match (s.fabric tile).parked.find? (trapDue s tile) with
  | none => .next s
  | some r => .next (trapNow s tile r)

/-- The held engine, copy or rider trap that is taken first (R244, R301). -/
def firstPending (ps : List AsyncTrap) : Option AsyncTrap := (sortBy (fun p => p.source) ps).head?

/-- Leave one held trap out. -/
def dropFirst (p : AsyncTrap) : List AsyncTrap → List AsyncTrap
  | [] => []
  | q :: rest => if q = p then rest else q :: dropFirst p rest

/-- ENGINE_TRAP_TAKEN (R110, R244, R297, R301): a reported trap is taken while no handler runs; an uncommitted block is
abandoned and the handler returns to it, and a halted context returns to its halted state. -/
def execEngineTrapTaken (tile : Nat) (s : State) : Out :=
  match (s.tile tile).ctx with
  | none => .next s
  | some c =>
    match firstPending c.pendingTraps with
    | none => .next s
    | some p =>
      if c.inh then .next s
      else
        let rest := dropFirst p c.pendingTraps
        let s := s.modCtx tile (fun c => { c with pendingTraps := rest })
        match c.phase with
        | .running =>
          let back := blockAddr s tile
          .next (enterTrap (abandon s tile) tile p.trap false true back false)
        | .fetching => .next (enterTrap s tile p.trap false true c.pc false)
        | .halted => .next (enterTrap s tile p.trap true true 0 true)
        | .loading | .done | .ended => .next s

/-- WFE_TIMEOUT (R379): a WFE resolves 65,536 fabric cycles after it fired. -/
def execWfeTimeout (tile : Nat) (s : State) : Out :=
  .next (s.modFabric tile (fun x => { x with waits := x.waits.filter (fun w => match w.on with
    | .event since => decide (fabricCycles (s.now - since) < 65536)
    | _ => true) }))

/-! ### Quiescence (R108, R122, R339) -/

/-- The tile is quiescent: nothing is on its way, ready, outstanding or waiting, and no tag can move on. -/
def quiescent (s : State) (tile : Nat) (b : Block) : Bool :=
  let x := s.fabric tile
  x.mesh.isEmpty && !someReady s tile (fun _ => true) && !outstanding s tile (fun _ => true) &&
  decide (emission b x = .nothing) && x.waits.isEmpty && !x.parked.any (trapDue s tile) &&
  !x.tags.any (fun r => r.complete && x.gen.isOldest r.tag) && !x.tags.any (fun r => mayComplete s tile r)

/-- The slots of the block's own FENCEs and BARRs that have fired while R227 does not hold for them: they have not resolved (R104,
R369, R372). -/
def openFences (s : State) (tile : Nat) (b : Block) (c : Ctx) : List Nat :=
  let x := s.fabric tile
  (x.held.filter (fun h => h.key == blockKey b && !fenceHolds s tile c x.inst (fenceKinds [h]) [])).map (fun h => h.slot)

/-- The trap of a quiescent block that cannot commit (R108, R122, R339): cause, slot and tag. Where a trap is parked for a younger tag,
only an outer tag that LGEN2 never took can keep the block (R122). A block that lacks only the condition of its fences waits for it. -/
def stuckTrap (s : State) (tile : Nat) (b : Block) (c : Ctx) : Option (Nat × Nat × Tag) :=
  let x := s.fabric tile
  let bw : Tag := if b.loop then 0xFFFFFFFF else 0
  let slots := commitSlots b c
  let unfired := slots.any (fun j => !settledFor x j (blockKey b))
  let unresolved :=
    if unfired || x.exit.isNone then slots.find? (fun j => !settledFor x j (blockKey b) || (openFences s tile b c).contains j) else none
  let late := x.tags.filter (fun r => r.outer && !r.complete && !rowTaken x r.tag && !x.parked.any (fun p => p.tag == r.tag))
  if b.loop && !x.gen.fired then some (0x06, (generators b.words false).head?.getD 0x80, 0xFFFFFFFF)
  else
    match x.gen.two, (sortBy (fun r => r.tag.toNat) late).head? with
    | some j, some r => some (0x06, j, r.tag)
    | _, _ =>
      if !x.parked.isEmpty then none
      else
      match unresolved with
      | some j => some (0x06, j, bw)
      | none => if x.exit.isNone then some (0x05, 0x80, bw) else none

/-- QUIESCENCE_TRAP (R108, R122, R339). -/
def execQuiescenceTrap (tile : Nat) (s : State) : Out :=
  let x := s.fabric tile
  match x.blk, (s.tile tile).ctx with
  | some b, some c =>
    if quiescent s tile b && !(commitReady s tile b c) then
      match stuckTrap s tile b c with
      | none => .next s
      | some (cause, slot, tag) =>
        .next (trapNow s tile { cause := cause, blk := b.addr, slot := slot, tag := tag, info0 := 0, info1 := 0 })
    else .next s
  | _, _ => .next s

/-! ### Rollback (R305 to R309) -/

/-- The record of a lasting fault (R303, R306 to R308): its cause, slot and information registers. -/
def faultRecord (tile : Nat) (k : FaultKind) : Nat × Nat × Word × Word :=
  match k with
  | .residue cluster slot _ => (0x71, slot, BitVec.ofNat 64 slot, BitVec.ofNat 64 (16 * cluster))
  | .route cluster slot _ => (0x71, slot, BitVec.ofNat 64 slot, BitVec.ofNat 64 (16 * cluster + 1))
  | .uncorrectable structure_ index => (0x70, 0x80, BitVec.ofNat 64 index, BitVec.ofNat 64 structure_)
  | .lockstep => (0x72, 0x80, 0, BitVec.ofNat 64 (if tile % 2 = 0 then tile + 1 else tile - 1))
  | .architectural structure_ index => (0x73, 0x80, BitVec.ofNat 64 index, BitVec.ofNat 64 structure_)

/-- The tile that holds the context of a tile: the leading one of a locked pair (R84). -/
def leadTile (s : State) (tile : Nat) : Nat :=
  match (s.tile (tile - tile % 2)).ctx with
  | some c => if c.lock then tile - tile % 2 else tile
  | none => tile

/-- The tag that a fault's record names (R298): that of the firing or token at fault; a block-wide source in an iterating block, and
0 in a block without LOOP. -/
def faultTag (s : State) (tile : Nat) (k : FaultKind) : Tag :=
  let other : Tag := if isLoop s tile then 0xFFFFFFFF else 0
  match k with
  | .residue _ _ tag | .route _ _ tag => tag.getD other
  | .uncorrectable _ _ | .lockstep | .architectural _ _ => other

/-- The tiles that a fault of a kind rolls back: both of a lockstep pair (R308). -/
def faultTiles (tile : Nat) (k : FaultKind) : List Nat :=
  match k with
  | .lockstep => [tile - tile % 2, tile - tile % 2 + 1]
  | _ => [tile]

/-- Roll back what a fault has spoilt (R135, R306): an iterating block purges its unretired tags, unless the fault lies on
a block-wide token; any other block is abandoned and entered again. -/
def rollback (s : State) (tile : Nat) (k : FaultKind) : State :=
  let x := s.fabric tile
  match x.blk, (s.tile tile).ctx with
  | some b, some _ =>
    let bw : Bool := match k with
      | .residue _ _ tag | .route _ _ tag => tag.isNone
      | .uncorrectable _ _ | .lockstep | .architectural _ _ => false
    if b.loop && x.gen.fired && !bw then purgeAll s tile
    else (abandon s tile).modCtx tile (fun c => { c with phase := .fetching, pc := b.addr, via := .any })
  | _, _ => s

/-- Record a lasting fault (R309). -/
def countLasting (s : State) (tile cause : Nat) : State :=
  s.modCtl (fun k => { k with
    lasting := if k.lasting = BitVec.allOnes 16 then k.lasting else k.lasting + 1
    relValid := true, relTile := BitVec.ofNat 8 tile, relCause := BitVec.ofNat 8 cause })

end Sys2Proof.Machine
end

