-- ==== Sys2Proof/Machine/Flags.lean ====
section
/-! DEFINITION. Number formats, rounding and the sticky flags (R16, R250 to R265): exact values, `round`, `deliver`,
`toint`, and the exact arithmetic of the scalar, vector, matrix and rider operations. -/

namespace Sys2Proof.Machine

/-! ### Exact values -/

/-- An exact value: NaN, an infinity, or (−1)^neg · m · 2^e. A value that is no dyadic number is held with its lowest
bit set beyond the precision of every format, which rounds, compares and flags as the value itself does. -/
inductive FNum where
  | nan
  | inf (neg : Bool)
  | fin (neg : Bool) (m : Nat) (e : Int)
  deriving DecidableEq, Repr

/-- +0. -/
def FNum.zero : FNum := .fin false 0 0

/-- An integer as an exact value; 0 is +0. -/
def FNum.ofInt (x : Int) : FNum := .fin (decide (x < 0)) x.natAbs 0

/-- The value is NaN. -/
def FNum.isNan (v : FNum) : Bool := match v with
  | .nan => true
  | _ => false

/-- The value is a zero. -/
def FNum.isZero (v : FNum) : Bool := match v with
  | .fin _ m _ => decide (m = 0)
  | _ => false

/-- The value is an infinity. -/
def FNum.isInf (v : FNum) : Bool := match v with
  | .inf _ => true
  | _ => false

/-- The sign of a value, false for NaN. -/
def FNum.neg? (v : FNum) : Bool := match v with
  | .nan => false
  | .inf n => n
  | .fin n _ _ => n

/-- −v. -/
def FNum.negate (v : FNum) : FNum := match v with
  | .nan => .nan
  | .inf n => .inf (!n)
  | .fin n m e => .fin (!n) m e

/-- m · 2^e as an integer multiple of 2^q, for q at most e. -/
def scaleTo (m : Nat) (e q : Int) : Nat := m * 2 ^ (e - q).toNat

/-- The signed multiple of 2^q, for q at most e. -/
def signedAt (neg : Bool) (m : Nat) (e q : Int) : Int :=
  if neg then -(scaleTo m e q : Int) else (scaleTo m e q : Int)

/-- The smaller exponent. -/
def minExp (a b : Int) : Int := if a ≤ b then a else b

/-- The order of two finite magnitudes: m1 · 2^e1 < m2 · 2^e2. -/
def magLt (m1 : Nat) (e1 : Int) (m2 : Nat) (e2 : Int) : Bool :=
  let q := minExp e1 e2
  decide (scaleTo m1 e1 q < scaleTo m2 e2 q)

/-- a < b by value; false with a NaN. -/
def FNum.lt (a b : FNum) : Bool :=
  match a, b with
  | .nan, _ => false
  | _, .nan => false
  | .inf n, .inf k => n && !k
  | .inf n, .fin _ _ _ => n
  | .fin _ _ _, .inf k => !k
  | .fin n1 m1 e1, .fin n2 m2 e2 =>
    let q := minExp e1 e2
    decide (signedAt n1 m1 e1 q < signedAt n2 m2 e2 q)

/-- a = b by value: the zeros are equal; false with a NaN. -/
def FNum.eqv (a b : FNum) : Bool := !a.isNan && !b.isNan && !FNum.lt a b && !FNum.lt b a

/-- a is below b where −0 is below +0 (R348, R382). -/
def FNum.below (a b : FNum) : Bool :=
  FNum.lt a b || (a.isZero && b.isZero && a.neg? && !b.neg?)

/-- An exact sum (R260): −0 only where both terms are −0. The flag says that it is Inf − Inf. -/
def FNum.add (a b : FNum) : FNum × Bool :=
  match a, b with
  | .nan, _ => (.nan, false)
  | _, .nan => (.nan, false)
  | .inf n, .inf k => if n = k then (.inf n, false) else (.nan, true)
  | .inf n, .fin _ _ _ => (.inf n, false)
  | .fin _ _ _, .inf k => (.inf k, false)
  | .fin n1 m1 e1, .fin n2 m2 e2 =>
    let q := minExp e1 e2
    let x := signedAt n1 m1 e1 q + signedAt n2 m2 e2 q
    if x = 0 then (.fin (n1 && n2) 0 0, false) else (.fin (decide (x < 0)) x.natAbs q, false)

/-- An exact product (R260). The flag says that it is 0 × Inf. -/
def FNum.mul (a b : FNum) : FNum × Bool :=
  match a, b with
  | .nan, _ => (.nan, false)
  | _, .nan => (.nan, false)
  | .inf n, .inf k => (.inf (xor n k), false)
  | .inf n, .fin k m _ => if m = 0 then (.nan, true) else (.inf (xor n k), false)
  | .fin k m _, .inf n => if m = 0 then (.nan, true) else (.inf (xor n k), false)
  | .fin n1 m1 e1, .fin n2 m2 e2 => (.fin (xor n1 n2) (m1 * m2) (e1 + e2), false)

/-- A quotient: invalid for 0/0 and Inf/Inf; the second flag says a finite nonzero value over zero (R261). -/
def FNum.div (a b : FNum) : FNum × Bool × Bool :=
  match a, b with
  | .nan, _ => (.nan, false, false)
  | _, .nan => (.nan, false, false)
  | .inf _, .inf _ => (.nan, true, false)
  | .inf n, .fin k _ _ => (.inf (xor n k), false, false)
  | .fin n _ _, .inf k => (.fin (xor n k) 0 0, false, false)
  | .fin n m1 e1, .fin k m2 e2 =>
    if m2 = 0 then (if m1 = 0 then (.nan, true, false) else (.inf (xor n k), false, true))
    else
      let w := 200 + bitLength m2
      let q := m1 * 2 ^ w / m2
      let rest := m1 * 2 ^ w % m2
      (.fin (xor n k) (2 * q + (if rest = 0 then 0 else 1)) (e1 - e2 - (w : Int) - 1), false, false)

/-- ⌊√x⌋, bit by bit from bit i − 1 down. -/
def isqrtFrom : Nat → Nat → Nat → Nat
  | 0, _, r => r
  | i + 1, x, r => if (r + 2 ^ i) * (r + 2 ^ i) ≤ x then isqrtFrom i x (r + 2 ^ i) else isqrtFrom i x r

/-- ⌊√x⌋. -/
def isqrt (x : Nat) : Nat := isqrtFrom (bitLength x / 2 + 1) x 0

/-- 1/√v for a positive finite v (R384). -/
def invSqrt (m : Nat) (e : Int) : FNum :=
  let m' := if e % 2 = 0 then m else 2 * m
  let e' := if e % 2 = 0 then e else e - 1
  let w := 200 + bitLength m'
  let x := 2 ^ (2 * w) / m'
  let q := isqrt x
  let exact := decide (q * q * m' = 2 ^ (2 * w))
  .fin false (2 * q + (if exact then 0 else 1)) (-(e' / 2) - (w : Int) - 1)

/-- The fraction bits of the fixed-point roots of `pow2Frac`. -/
def expBits : Nat := 320

/-- 2^(0.b) for the bits of a fraction t / 2^s, lowest bit first, as a fixed-point number (log 21). -/
def pow2Frac : Nat → Nat → Nat → Nat
  | 0, _, r => r
  | s + 1, t, r => pow2Frac s (t / 2) (isqrt ((if t % 2 = 1 then 2 * r else r) * 2 ^ expBits))

/-- 2^v for a finite v (R384, log 21): exact for an integer v; irrational otherwise, and held to 320 bits. -/
def pow2 (neg : Bool) (m : Nat) (e : Int) : FNum :=
  let s := (-e).toNat
  let scaled : Int := signedAt neg m e (minExp e 0)
  let whole := scaled / (2 ^ s : Int)
  let frac := (scaled % (2 ^ s : Int)).toNat
  if whole > 20000 then .fin false 1 20000
  else if whole < -20000 then .fin false 1 (-20000)
  else if frac = 0 then .fin false 1 whole
  else .fin false (2 * pow2Frac s frac (2 ^ expBits) + 1) (whole - (expBits : Int) - 1)

/-! ### Formats (R251, R252) -/

/-- A floating-point format: exponent and fraction widths, bias, whether it has infinities, largest finite value. -/
structure FFmt where
  e : Nat
  f : Nat
  bias : Nat
  hasInf : Bool
  maxM : Nat
  maxE : Int
  deriving DecidableEq, Repr

def fp32 : FFmt := { e := 8, f := 23, bias := 127, hasInf := true, maxM := 2 ^ 24 - 1, maxE := 104 }
def fp16 : FFmt := { e := 5, f := 10, bias := 15, hasInf := true, maxM := 2 ^ 11 - 1, maxE := 5 }
def bf16 : FFmt := { e := 8, f := 7, bias := 127, hasInf := true, maxM := 2 ^ 8 - 1, maxE := 120 }
def e4m3 : FFmt := { e := 4, f := 3, bias := 7, hasInf := false, maxM := 14, maxE := 5 }
def e5m2 : FFmt := { e := 5, f := 2, bias := 15, hasInf := true, maxM := 7, maxE := 13 }
def a80f : FFmt := { e := 15, f := 64, bias := 16383, hasInf := true, maxM := 2 ^ 65 - 1, maxE := 16319 }

/-- The exponent of the smallest normal number. -/
def FFmt.minE (F : FFmt) : Int := 1 - (F.bias : Int)

/-- The value of an encoding (R252). -/
def decodeFloat (F : FFmt) (x : Nat) : FNum :=
  let frac := x % 2 ^ F.f
  let ex := x / 2 ^ F.f % 2 ^ F.e
  let neg := decide (x / 2 ^ (F.f + F.e) % 2 = 1)
  if ex = 0 then .fin neg frac (F.minE - F.f)
  else if ex = 2 ^ F.e - 1 then
    if F.hasInf then (if frac = 0 then .inf neg else .nan)
    else if frac = 2 ^ F.f - 1 then .nan
    else .fin neg (2 ^ F.f + frac) ((ex : Int) - F.bias - F.f)
  else .fin neg (2 ^ F.f + frac) ((ex : Int) - F.bias - F.f)

/-- The canonical NaN (R252). -/
def canonicalNan (F : FFmt) : Nat :=
  if F.hasInf then (2 ^ F.e - 1) * 2 ^ F.f + 2 ^ (F.f - 1) else 2 ^ (F.e + F.f) - 1

/-- The sign bit's weight. -/
def signBit (F : FFmt) (neg : Bool) : Nat := if neg then 2 ^ (F.e + F.f) else 0

/-- The encoding of n · 2^q, where q is the quantum of the value's binade or of the subnormals. -/
def encodeAt (F : FFmt) (neg : Bool) (n : Nat) (q : Int) : Nat :=
  signBit F neg + (q + F.f - F.minE).toNat * 2 ^ F.f + n

/-- The encoding of the largest finite value. -/
def encodeMax (F : FFmt) (neg : Bool) : Nat :=
  signBit F neg + ((F.maxE + F.f - F.minE).toNat * 2 ^ F.f + F.maxM)

/-- The encoding of an infinity. -/
def encodeInf (F : FFmt) (neg : Bool) : Nat := signBit F neg + (2 ^ F.e - 1) * 2 ^ F.f

/-! ### Rounding (R16, R259) -/

/-- Whether a magnitude n + rest/2^k is rounded up in a mode: 0 RNE, 1 RTZ, 2 RDN, 3 RUP. -/
def roundUp (mode : Nat) (neg : Bool) (n rest k : Nat) : Bool :=
  if rest = 0 then false
  else
    match mode with
    | 0 => decide (2 * rest > 2 ^ k) || (decide (2 * rest = 2 ^ k) && decide (n % 2 = 1))
    | 1 => false
    | 2 => neg
    | _ => !neg

/-- Round m · 2^e to a multiple of 2^q: the multiple and whether it is exact. -/
def roundMag (mode : Nat) (neg : Bool) (m : Nat) (e q : Int) : Nat × Bool :=
  if q ≤ e then (scaleTo m e q, true)
  else
    let k := (q - e).toNat
    let n := m / 2 ^ k
    let rest := m % 2 ^ k
    (if roundUp mode neg n rest k then n + 1 else n, decide (rest = 0))

/-- What `round` gives: an encoding, whether the result is infinite, whether it differs from the value, and whether it
exceeds the largest finite value in the sense of OF (R261). -/
structure Rounded where
  bits : Nat
  isInf : Bool
  inexact : Bool
  beyond : Bool
  deriving DecidableEq, Repr

/-- round∞ of R261 on a finite value. -/
def roundFloat (F : FFmt) (mode : Nat) (neg : Bool) (m : Nat) (e : Int) : Rounded :=
  if m = 0 then { bits := signBit F neg, isInf := false, inexact := false, beyond := false }
  else
    let top : Int := e + (bitLength m : Int) - 1
    let q := (if F.minE ≤ top then top else F.minE) - (F.f : Int)
    let r := roundMag mode neg m e q
    if magLt F.maxM F.maxE r.1 q then
      let toInf : Bool := match mode with
        | 0 => true
        | 1 => false
        | 2 => neg
        | _ => !neg
      { bits := if toInf then encodeInf F neg else encodeMax F neg, isInf := toInf, inexact := true, beyond := true }
    else
      { bits := encodeAt F neg r.1 q, isInf := false, inexact := !r.2,
        beyond := decide (encodeAt F neg r.1 q = encodeMax F neg) && magLt F.maxM F.maxE m e }

/-! ### Flags (R263) -/

/-- SAT. -/
def flagSAT : BitVec 6 := 0x20
/-- NV. -/
def flagNV : BitVec 6 := 0x10
/-- DZ. -/
def flagDZ : BitVec 6 := 0x08
/-- OF. -/
def flagOF : BitVec 6 := 0x04
/-- UF. -/
def flagUF : BitVec 6 := 0x02
/-- NX. -/
def flagNX : BitVec 6 := 0x01

/-- A flag where a condition holds. -/
def flagIf (c : Bool) (x : BitVec 6) : BitVec 6 := if c then x else 0

/-- deliver (R261): the encoding and the flags raised. A NaN operand shows as the value NaN. -/
def deliverNum (F : FFmt) (mode : Nat) (satOn : Bool) (v : FNum) (invalid : Bool) : Nat × BitVec 6 :=
  let saturate (neg : Bool) (fl : BitVec 6) : Nat × BitVec 6 :=
    if satOn then (encodeMax F neg, fl ||| flagSAT)
    else if F.hasInf then (encodeInf F neg, fl)
    else (canonicalNan F, fl)
  if invalid then (canonicalNan F, flagNV)
  else
    match v with
    | .nan => (canonicalNan F, 0)
    | .inf neg => saturate neg 0
    | .fin neg m e =>
      let r := roundFloat F mode neg m e
      let fl := flagIf r.beyond flagOF ||| flagIf r.inexact flagNX |||
        flagIf (decide (m ≠ 0) && r.inexact && magLt m e 1 F.minE) flagUF
      if r.isInf then saturate neg fl else (r.bits, fl)

/-- Round a finite value to an integer. -/
def roundInt (mode : Nat) (neg : Bool) (m : Nat) (e : Int) : Int × Bool :=
  let r := roundMag mode neg m e (if e < 0 then 0 else e)
  let n : Nat := if e < 0 then r.1 else scaleTo m e 0
  (if neg then -(n : Int) else (n : Int), r.2)

/-- toint (R262) for an integer format with the given limits. -/
def tointNum (lo hi : Int) (mode : Nat) (v : FNum) : Int × BitVec 6 :=
  match v with
  | .nan => (0, flagNV)
  | .inf false => (hi, flagNV)
  | .inf true => (lo, flagNV)
  | .fin neg m e =>
    let (r, exact) := roundInt mode neg m e
    if r > hi then (hi, flagNV)
    else if r < lo then (lo, flagNV)
    else (r, flagIf (!exact) flagNX)

/-! ### Element types (R245, R322): codes 0 to 9 -/

/-- The width in bits of an element type: 0 INT8, 1 UINT8, 2 INT16, 3 INT32, 4 INT64, 5 BF16, 6 FP32, 7 FP16, 8 E4M3,
9 E5M2. -/
def typeBits (ty : Nat) : Nat :=
  match ty with
  | 0 => 8
  | 1 => 8
  | 2 => 16
  | 3 => 32
  | 4 => 64
  | 5 => 16
  | 6 => 32
  | 7 => 16
  | _ => 8

/-- The type is a float type. -/
def typeIsFloat (ty : Nat) : Bool := decide (5 ≤ ty)

/-- The float format of a type code. -/
def typeFmt (ty : Nat) : FFmt :=
  match ty with
  | 5 => bf16
  | 6 => fp32
  | 7 => fp16
  | 8 => e4m3
  | _ => e5m2

/-- The smallest value of an integer type. -/
def typeLo (ty : Nat) : Int := if ty = 1 then 0 else -(2 ^ (typeBits ty - 1) : Int)

/-- The largest value of an integer type. -/
def typeHi (ty : Nat) : Int := if ty = 1 then 255 else 2 ^ (typeBits ty - 1) - 1

/-- The value of `w` bits read as signed. -/
def signedOf (w x : Nat) : Int := if x % 2 ^ w < 2 ^ (w - 1) then ((x % 2 ^ w : Nat) : Int) else ((x % 2 ^ w : Nat) : Int) - 2 ^ w

/-- The integer value of a lane of an integer type. -/
def typeInt (ty x : Nat) : Int := if ty = 1 then ((x % 256 : Nat) : Int) else signedOf (typeBits ty) x

/-- The exact value of a lane of any type. -/
def typeNum (ty x : Nat) : FNum := if typeIsFloat ty then decodeFloat (typeFmt ty) x else .ofInt (typeInt ty x)

/-- The low `w` bits of an integer. -/
def wrapInt (w : Nat) (x : Int) : Nat := (x % (2 ^ w : Int)).toNat

/-- An integer result (R250): wrapped, or saturated with SAT, which raises its flag where it changes the value. -/
def deliverInt (ty : Nat) (satOn : Bool) (x : Int) : Nat × BitVec 6 :=
  if satOn then
    let y := if x > typeHi ty then typeHi ty else if x < typeLo ty then typeLo ty else x
    (wrapInt (typeBits ty) y, flagIf (decide (y ≠ x)) flagSAT)
  else (wrapInt (typeBits ty) x, 0)

/-- A conversion between element types (R264, R385). -/
def convertType (src dst mode : Nat) (satOn : Bool) (x : Nat) : Nat × BitVec 6 :=
  if typeIsFloat dst then deliverNum (typeFmt dst) mode satOn (typeNum src x) false
  else if typeIsFloat src then
    let (r, fl) := tointNum (typeLo dst) (typeHi dst) mode (typeNum src x)
    (wrapInt (typeBits dst) r, fl)
  else if typeBits src < typeBits dst then (wrapInt (typeBits dst) (typeInt src x), 0)
  else deliverInt dst satOn (typeInt src x)

/-! ### Sums -/

/-- Σ with its NaN and infinity rules (R265, R267): the exact sum, and whether +Inf and −Inf are both present. -/
def sumNums (vs : List FNum) : FNum × Bool :=
  let pos := vs.any (fun v => v.isInf && !v.neg?)
  let neg := vs.any (fun v => v.isInf && v.neg?)
  if pos && neg then (.nan, true)
  else if vs.any FNum.isNan then (.nan, false)
  else if pos then (.inf false, false)
  else if neg then (.inf true, false)
  else
    match vs with
    | [] => (.zero, false)
    | v :: rest => (rest.foldl (fun a x => (FNum.add a x).1) v, false)

end Sys2Proof.Machine
end

