-- ==== Sys2Proof/Machine/Float.lean ====
section
/-! DEFINITION. The scalar float instructions (R347 to R349). -/

namespace Sys2Proof.Machine

/-- The FP32 value of a port's token (R347). -/
def fpOperand (o : Option Token) : FNum := decodeFloat fp32 (tokVal o).toNat

/-- Deliver a float result and keep its flags until commit or retirement (R263, R330). -/
def fireFloat (f : Firing) (h : Hdr) (r : Nat × BitVec 6) (s : State) : State :=
  let s := fireResult f h (resultToken f (BitVec.ofNat 64 r.1) f.eos) s
  if r.2 = 0 then s else hold s f false (.flags r.2)

/-- A scalar float form that is formed once from its exact value (R347). -/
def floatForm (h : Hdr) (rm : BitVec 2) (sat : Bool) (op : FNum → FNum → FNum × Bool) (s : State) : Out :=
  onFiring s .off (fun f =>
    let v := op (fpOperand f.left) (fpOperand f.right)
    fireFloat f h (deliverNum fp32 rm.toNat sat v.1 v.2))

/-- FADD (R347). -/
def execFadd (h : Hdr) (rm : BitVec 2) (sat : Bool) (s : State) : Out := floatForm h rm sat FNum.add s

/-- FSUB (R347). -/
def execFsub (h : Hdr) (rm : BitVec 2) (sat : Bool) (s : State) : Out :=
  floatForm h rm sat (fun a b => FNum.add a b.negate) s

/-- FMUL (R347). -/
def execFmul (h : Hdr) (rm : BitVec 2) (sat : Bool) (s : State) : Out := floatForm h rm sat FNum.mul s

/-- a × b + c, exact; invalid on 0 × Inf or Inf − Inf (R347). -/
def fusedSum (a b c : FNum) : FNum × Bool :=
  let p := FNum.mul a b
  if p.2 then (.nan, true) else FNum.add p.1 c

/-- FFMA (R315, R347): the predicate token carries c. -/
def execFfma (h : Hdr) (rm : BitVec 2) (sat : Bool) (s : State) : Out :=
  onFiring s .off (fun f =>
    let v := fusedSum (fpOperand f.left) (fpOperand f.right) (fpOperand f.third)
    fireFloat f h (deliverNum fp32 rm.toNat sat v.1 v.2))

/-- FDIV (R347, R261). -/
def execFdiv (h : Hdr) (rm : BitVec 2) (sat : Bool) (s : State) : Out :=
  onFiring s .off (fun f =>
    let v := FNum.div (fpOperand f.left) (fpOperand f.right)
    let r := deliverNum fp32 rm.toNat sat v.1 v.2.1
    fireFloat f h (r.1, r.2 ||| flagIf v.2.2 flagDZ))

/-- The smaller or larger of two lanes, bit for bit; the canonical NaN with a NaN (R348, R382). -/
def pickFloat (F : FFmt) (larger : Bool) (a b : Nat) : Nat :=
  let x := decodeFloat F a
  let y := decodeFloat F b
  if x.isNan || y.isNan then canonicalNan F
  else if larger then (if FNum.below x y then b else a)
  else if FNum.below y x then b else a

/-- FMIN (R348). -/
def execFmin (h : Hdr) (s : State) : Out :=
  binary h (fun a b => BitVec.ofNat 64 (pickFloat fp32 false (zext 32 a).toNat (zext 32 b).toNat)) s

/-- FMAX (R348). -/
def execFmax (h : Hdr) (s : State) : Out :=
  binary h (fun a b => BitVec.ofNat 64 (pickFloat fp32 true (zext 32 a).toNat (zext 32 b).toNat)) s

/-- An exact conversion to FP32: only a NaN changes (R349). -/
def widenTo32 (F : FFmt) (x : Nat) : Nat := (deliverNum fp32 0 false (decodeFloat F x) false).1

/-- FCVT's result and flags (R264, R349). -/
def convertScalar (fn : BitVec 4) (rm : BitVec 2) (sat : Bool) (a : Word) : Word × BitVec 6 :=
  let x := decodeFloat fp32 a.toNat
  let narrow (F : FFmt) : Word × BitVec 6 :=
    let r := deliverNum F rm.toNat sat x false
    (BitVec.ofNat 64 r.1, r.2)
  let whole (n : Nat) : Word × BitVec 6 :=
    let r := tointNum (-(2 ^ (n - 1) : Int)) (2 ^ (n - 1) - 1) rm.toNat x
    (BitVec.ofInt 64 r.1, r.2)
  let single (v : Int) : Word × BitVec 6 :=
    let r := deliverNum fp32 rm.toNat sat (.ofInt v) false
    (BitVec.ofNat 64 r.1, r.2)
  match fn.toNat with
  | 0 => whole 32
  | 1 => whole 64
  | 2 => single (sext 32 a).toInt
  | 3 => single a.toInt
  | 4 => narrow bf16
  | 5 => (BitVec.ofNat 64 (widenTo32 bf16 a.toNat), 0)
  | 6 => narrow e4m3
  | 7 => narrow e5m2
  | 8 => (BitVec.ofNat 64 (widenTo32 e4m3 a.toNat), 0)
  | _ => (BitVec.ofNat 64 (widenTo32 e5m2 a.toNat), 0)

/-- FCVT (R349). -/
def execFcvt (h : Hdr) (fn : BitVec 4) (rm : BitVec 2) (sat : Bool) (s : State) : Out :=
  onFiring s .off (fun f =>
    let r := convertScalar fn rm sat (tokVal f.left)
    fireFloat f h (r.1.toNat, r.2))

/-- A float test (R348): 0 with a NaN, which raises NV where the test orders. -/
def floatTest (h : Hdr) (orders : Bool) (op : FNum → FNum → Bool) (s : State) : Out :=
  onFiring s .off (fun f =>
    let a := fpOperand f.left
    let b := fpOperand f.right
    fireFloat f h (if op a b then 1 else 0, flagIf (orders && (a.isNan || b.isNan)) flagNV))

/-- FTEQ (R348). -/
def execFteq (h : Hdr) (s : State) : Out := floatTest h false FNum.eqv s

/-- FTLT (R348). -/
def execFtlt (h : Hdr) (s : State) : Out := floatTest h true FNum.lt s

/-- FTLE (R348). -/
def execFtle (h : Hdr) (s : State) : Out := floatTest h true (fun a b => FNum.lt a b || FNum.eqv a b) s

end Sys2Proof.Machine
end

