-- ==== Sys2Proof/Machine/Engines.lean ====
section
/-! DEFINITION. The engine queues (R206 to R210, R244 to R248): how an instruction enters a command, what a command reads
of the scratchpad, how it completes or traps, and queue fences. -/

namespace Sys2Proof.Machine

/-! ### Firing a command (R104, R246, R380) -/

/-- The command that a firing captures: its tokens, the capabilities it names as they stood when the block was mapped, a
record where it read one, and the lines that its entry empties. -/
def commandOf (s : State) (f : Firing) (i : Instr) (caps : List CapReg) (record : List Byte) (empties : List Nat) : QEntry :=
  { instr := some i, fence := 0, set := 0, blk := blockAddr s f.tile, slot := f.slot, tag := keyTag f.key,
    left := tokVal f.left, right := tokVal f.right, caps := caps, record := record,
    supervisor := isSupervisor s f.tile, inst := (s.fabric f.tile).inst, empties := empties, cycle := 0, stamp := 0 }

/-- Fire a command into a queue. -/
def fireCommand (s : State) (f : Firing) (q : Nat) (tagged : Bool) (i : Instr) (caps : List CapReg) (record : List Byte)
    (empties : List Nat) : State :=
  fireHeld s f tagged (.command q (commandOf s f i caps record empties))

/-- A tracked engine form (R380, R392): a NULL token nullifies it, and so does an EOS token. -/
def engineForm (s : State) (k : Firing → State → State) : Out :=
  onFiring s .nullified (fun f s => if f.eos then settle s f .nullified else k f s)

/-- k register n of the context on a tile. -/
def kregOf (s : State) (t n : Nat) : CapReg :=
  match (s.tile t).ctx with
  | some c => c.kreg n
  | none => .zero

/-- The checks of a capability of an engine operand in space L up to its permissions (R390): the cause of the first that
fails. -/
def engineCapFault (c : CapReg) (need : BitVec 12) : Option Nat :=
  if c.tag = false then some 0x20
  else if c.rsv ≠ 0 then some 0x26
  else if c.lock ≠ 0 then some 0x25
  else if c.space = 2 then some 0x2C
  else if c.space ≠ 0 then some 0x27
  else if need &&& ~~~c.perms ≠ 0 then some 0x24
  else none

/-- The end of space L (R136). -/
def lLimit : Nat := 0x400000

/-- The checks of a matrix operand (R139, R234, R392): the capability, the length, the alignment, the end of space L. `size`
is none where the bounds are checked later. -/
def engineFault (c : CapReg) (off : Nat) (size : Option Nat) (align : Nat) (need : BitVec 12) : Option Nat :=
  match engineCapFault c need with
  | some x => some x
  | none =>
    let a := c.base.toNat + off
    let past (limit at_ : Nat) : Bool := match size with
      | some n => decide (limit < at_ + n)
      | none => false
    if past c.length off then some 0x23
    else if a % align ≠ 0 then some 0x28
    else if past lLimit a then some 0x23
    else none

/-! ### Operand reads (R145, R147) -/

/-- A range of a tile's scratchpad can be read: none of its lines is empty or reserved by another party. -/
def readable (s : State) (t ctx off n : Nat) : Bool := (linesOf off n).all (fun l => !blockedRead s t ctx (.scratch t (128 * l)))

/-- The lines that keep a range of a tile's scratchpad from being read. -/
def blockedLines (s : State) (t ctx off n : Nat) : List Nat :=
  (linesOf off n).filter (fun l => blockedRead s t ctx (.scratch t (128 * l)))

/-- An engine may not write a range yet: another party reserves one of its lines (R363), or a write of the context's own to one, which
comes first, is still under way (R211, R228). -/
def writeHeld (s : State) (t ctx off n : Nat) : Bool :=
  (linesOf off n).any (fun l =>
    reservedByOther s t ctx (.scratch t (128 * l)) || ownWrites s ctx (.scratch t (128 * l)) 1)

/-- A write of the context's own that comes before a command, to a line of some ranges, is still under way. -/
def ownEarlier (s : State) (t ctx stamp : Nat) (rs : List (Nat × Nat)) : Bool :=
  rs.any (fun r => (linesOf r.1 r.2).any (fun l => ownWritesBefore s ctx (.scratch t (128 * l)) 1 stamp))

/-- What the command at the head of a queue has asked its lines for: it stands among their waiters (R146). -/
def tickets (s : State) (t ctx q : Nat) : List Pend := s.pend.filter (fun e => e.who == .engine t ctx q)

/-- The command at the head of a queue joins the waiters of lines that it finds empty (R146). -/
def joinLines (s : State) (t : Nat) (c : Ctx) (q : Nat) (ls : List Nat) : State :=
  ls.foldl (fun s l =>
    if (tickets s t c.id q).any (fun e => e.place == .scratch t (128 * l)) then s
    else
      let (id, s1) := s.fresh
      submit s1 (Pend.start s id (.engine t c.id q) (.load 128 false) (.scratch t (128 * l)) 0 c.tenant c.id)) s

/-- A scratchpad line as an engine command's waited read has brought it. -/
def viewLine (s : State) (t : Nat) (e : Pend) : State :=
  match e.place, e.got with
  | .scratch _ off, some (.run bs) =>
    { s.modTile t (fun x => { x with
        mem := mwriteBytes x.mem off bs, lines := tset LineState.reset x.lines (off / 128) .reset }) with
      reserved := s.reserved.filter (fun r => !sameTarget r.place e.place) }
  | .scratch _ off, some (.failed _ _ _) =>
    { setLine s t (off / 128) { full := true, poison := true } with
      reserved := s.reserved.filter (fun r => !sameTarget r.place e.place) }
  | _, _ => s

/-- The state as the command at the head of a queue reads it: the lines that it has waited for hold what its reads brought. -/
def engineView (s : State) (t ctx q : Nat) : State := (tickets s t ctx q).foldl (fun v e => viewLine v t e) s

/-- After a command has been performed on its view, the scratchpad is as it was: such a command writes none of it. -/
def leaveView (s s1 : State) (t ctx q : Nat) : State :=
  if (tickets s t ctx q).isEmpty then s1
  else
    { s1.modTile t (fun x => { x with mem := (s.tile t).mem, lines := (s.tile t).lines }) with
      reserved := s.reserved, pend := s1.pend.filter (fun e => !(e.who == .engine t ctx q)) }

/-- The first byte of a range that lies in a poisoned line. -/
def poisonedAt (s : State) (t off n : Nat) : Option Nat :=
  ((linesOf off n).find? (fun l => (lineState s t l).poison)).map (fun l => max off (128 * l))

/-! ### How a command ends (R244, R248, R263, R379) -/

/-- What performing the command at the head of a queue comes to: it waits, for some lines it may be; it traps; or it is
complete, with the flags it raises. -/
inductive Performed where
  | waits (lines : List Nat)
  | traps (s : State) (cause : Nat) (info0 info1 : Word)
  | complete (s : State) (flags : BitVec 6)
  deriving DecidableEq, Repr

/-- A queue of the running context has become empty, which sets its event flag (R379). -/
def noteEmpty (s : State) (t q : Nat) : State :=
  match (s.tile t).ctx with
  | some c => if (c.queue q).isEmpty then setEv s t else s
  | none => s

/-- Take the command at the head of a queue out of it: a WAITQ may resolve (R210). -/
def popQueue (s : State) (t q : Nat) : State :=
  resolveWaits (noteEmpty (s.modCtx t (fun c => c.setQueue q (c.queue q).tail)) t q) t

/-- The record of a command's trap (R244). -/
def commandTrap (e : QEntry) (cause : Nat) (info0 info1 : Word) : TrapRec :=
  { cause := cause, blk := e.blk, slot := e.slot, tag := e.tag, info0 := info0, info1 := info1 }

/-- Report the trap of a vector (0) or matrix (1) command: its queue stops in front of the next command (R244), and the event
flag is set (R379). -/
def reportEngine (s : State) (t source : Nat) (r : TrapRec) : State :=
  setEv (s.modCtx t (fun c => { c with
    pendingTraps := c.pendingTraps ++ [{ source := source, trap := r }]
    stopV := c.stopV || source == 0, stopM := c.stopM || source == 1 })) t

/-- An engine command raises flags as it completes (R263). -/
def raiseFlags (now : Nat) (fl : BitVec 6) (c : Ctx) : Ctx :=
  { c with fflags := c.fflags ||| fl, flagsAt := now, flagsNow := (if c.flagsAt = now then c.flagsNow else 0) ||| fl }

/-- Perform the command at the head of a queue (R145, R146, R244): where lines make it wait it joins their waiters. One that fills
lines, which is a release, waits for the stores before it in tile order (R226) and for the emptying of those lines (R248). -/
def performHead (s : State) (t q source : Nat) (c : Ctx) (e : QEntry) (perform : State → Performed) : State :=
  if !e.empties.isEmpty &&
      (storingBefore s c.id e.stamp || e.empties.any (fun l => writeHeld s t c.id (128 * l) 128)) then s
  else
  match perform (engineView s t c.id q) with
  | .waits ls => joinLines s t c q ls
  | .traps s1 cause i0 i1 => reportEngine (popQueue (leaveView s s1 t c.id q) t q) t source (commandTrap e cause i0 i1)
  | .complete s1 fl =>
    popQueue ((leaveView s s1 t c.id q).modCtx t (raiseFlags s.now fl)) t q

/-- Fill the lines that a command's entry had set empty (R248). -/
def fillLines (s : State) (t : Nat) (ls : List Nat) : State := ls.foldl (fun s l => fillPlace s (.scratch t (128 * l))) s

/-! ### Queue fences (R209) -/

/-- A queue of a context has reached a fence entry: it is at the head and every command ahead of it is complete. -/
def reachedFence (s : State) (c : Ctx) (q fence : Nat) : Bool :=
  (match (c.queue q).head? with
    | some e => e.instr.isNone && e.fence == fence
    | none => false) &&
  (match q with
    | 0 => !s.copies.any (copyOfCtx c.id)
    | 2 => c.pass.isNone && c.stopping.isNone && c.flights.isEmpty
    | 3 => !s.riders.any (fun r => r.ctx == c.id)
    | _ => true)

/-- QUEUE_FENCE_RELEASE (R209): all the entries of a queue fence go together once every queue of its set has reached its
own. -/
def execQueueFenceRelease (tile fence : Nat) (s : State) : Out :=
  match (s.tile tile).ctx with
  | none => .next s
  | some c =>
    let qs := [0, 1, 2, 3].filter (fun q => (c.queue q).any (fun e => e.instr.isNone && e.fence == fence))
    if !qs.isEmpty && qs.all (fun q => reachedFence s c q fence) then
      .next (qs.foldl (fun s q => popQueue s tile q) s)
    else .next s

end Sys2Proof.Machine
end

