-- ==== Sys2Proof/Machine/Vector.lean ====
section
/-! DEFINITION. The vector instructions (R245 to R249, R380 to R391): what each captures at firing and what its command does
when it is performed. -/

namespace Sys2Proof.Machine

/-! ### Lanes (R245, R247) -/

/-- The guard lets lane i act (R247). -/
def guarded (c : Ctx) (mg : BitVec 3) (me : Bool) (i : Nat) : Bool := !me || (c.mreg mg.toNat).getLsbD i

end Sys2Proof.Machine

namespace Sys2Proof

/-- The element type of a vector instruction: TYX and TY (R322). -/
def VField.code (v : VField) : Nat := v.ty.toNat

/-- The lane width. -/
def VField.width (v : VField) : Nat := Machine.typeBits v.code

/-- Lane i of a vector command is active. -/
def VField.active (c : Machine.Ctx) (v : VField) (i : Nat) : Bool := Machine.guarded c v.mg v.me i

/-- Bit i of the mask that SPEC names (R387). -/
def VField.picks (c : Machine.Ctx) (v : VField) (i : Nat) : Bool := (c.mreg (v.spec.toNat % 8)).getLsbD i

/-- The bytes of a lane. -/
def VField.bytes (v : VField) : Nat := v.width / 8

/-- The capability register that VA[3:0] names. -/
def VField.cap (v : VField) : Nat := v.va.toNat % 16

end Sys2Proof

namespace Sys2Proof.Machine

/-- The lanes of a register whose lanes are w bits wide. -/
def laneCount (w : Nat) : Nat := 4096 / w

/-- Lane i of a register. -/
def lane (w : Nat) (x : VecReg) (i : Nat) : Nat := (x.extractLsb' (w * i) w).toNat

/-- The lanes of a register in order. -/
def lanesOf (w : Nat) (x : VecReg) : List Nat := (List.range (laneCount w)).map (lane w x)

/-- The value of lanes, lowest first. -/
def packNat (w : Nat) : List Nat → Nat
  | [] => 0
  | v :: vs => v % 2 ^ w + 2 ^ w * packNat w vs

/-- A register from its lanes. -/
def packLanes (w : Nat) (ls : List Nat) : VecReg := BitVec.ofNat 4096 (packNat w ls)

/-- A mask register from its bits. -/
def packMask (bs : List Bool) : MaskReg := BitVec.ofNat 512 (packNat 1 (bs.map (fun b => if b then 1 else 0)))

/-- The OR of flags. -/
def orFlags (fs : List (BitVec 6)) : BitVec 6 := fs.foldl (· ||| ·) 0

/-- A register and the flags that forming it raised. -/
abbrev VResult := VecReg × BitVec 6

/-- Form every active lane; inactive lanes keep their value (R247). -/
def formLanes (w : Nat) (old : VecReg) (act : Nat → Bool) (g : Nat → Nat × BitVec 6) : VResult :=
  let rs := (List.range (laneCount w)).map (fun i => if act i then g i else (lane w old i, 0))
  (packLanes w (rs.map (·.1)), orFlags (rs.map (·.2)))

/-- A form of two source lanes. -/
def formPairs (c : Ctx) (v : VField) (g : Nat → Nat → Nat × BitVec 6) : VResult :=
  let a := c.vreg v.va.toNat
  let b := c.vreg v.vb.toNat
  formLanes v.width (c.vreg v.vd.toNat) (v.active c) (fun i => g (lane v.width a i) (lane v.width b i))

/-! ### Element-wise arithmetic (R382, R384) -/

/-- An arithmetic lane: an exact integer, wrapped or saturated, or an exact float value, delivered (R382). -/
def arithLane (v : VField) (int : Int → Int → Int) (float : FNum → FNum → FNum × Bool) (a b : Nat) : Nat × BitVec 6 :=
  let t := v.code
  if typeIsFloat t then
    let r := float (typeNum t a) (typeNum t b)
    deliverNum (typeFmt t) v.rm.toNat v.sat r.1 r.2
  else deliverInt t v.sat (int (typeInt t a) (typeInt t b))

/-- VADD's register. -/
def vaddResult (c : Ctx) (v : VField) : VResult := formPairs c v (arithLane v (· + ·) FNum.add)

/-- VSUB's register. -/
def vsubResult (c : Ctx) (v : VField) : VResult := formPairs c v (arithLane v (· - ·) (fun a b => FNum.add a b.negate))

/-- VMUL's register. -/
def vmulResult (c : Ctx) (v : VField) : VResult := formPairs c v (arithLane v (· * ·) FNum.mul)

/-- VFMA's register: the old lane of VD is the addend. -/
def vfmaResult (c : Ctx) (v : VField) : VResult :=
  let t := v.code
  let w := v.width
  let a := c.vreg v.va.toNat
  let b := c.vreg v.vb.toNat
  let d := c.vreg v.vd.toNat
  formLanes w d (v.active c) (fun i =>
    let x := lane w a i
    let y := lane w b i
    let z := lane w d i
    if typeIsFloat t then
      let r := fusedSum (typeNum t x) (typeNum t y) (typeNum t z)
      deliverNum (typeFmt t) v.rm.toNat v.sat r.1 r.2
    else deliverInt t v.sat (typeInt t x * typeInt t y + typeInt t z))

/-- The smaller or the larger of two lanes (R382). -/
def pickLane (t : Nat) (larger : Bool) (a b : Nat) : Nat :=
  if typeIsFloat t then pickFloat (typeFmt t) larger a b
  else if larger then (if typeInt t a < typeInt t b then b else a)
  else if typeInt t b < typeInt t a then b else a

/-- VMIN's register. -/
def vminResult (c : Ctx) (v : VField) : VResult := formPairs c v (fun a b => (pickLane v.code false a b, 0))

/-- VMAX's register. -/
def vmaxResult (c : Ctx) (v : VField) : VResult := formPairs c v (fun a b => (pickLane v.code true a b, 0))

/-- A float lane with its sign bit cleared or inverted; a NaN gives the canonical NaN (R382). -/
def signLane (t : Nat) (invert : Bool) (a : Nat) : Nat :=
  let top := 2 ^ (typeBits t - 1)
  if (typeNum t a).isNan then canonicalNan (typeFmt t)
  else if invert then (a + top) % 2 ^ typeBits t
  else a % top

/-- VABS's register. -/
def vabsResult (c : Ctx) (v : VField) : VResult :=
  formPairs c v (fun a _ =>
    if typeIsFloat v.code then (signLane v.code false a, 0)
    else deliverInt v.code v.sat ((typeInt v.code a).natAbs : Int))

/-- VNEG's register. -/
def vnegResult (c : Ctx) (v : VField) : VResult :=
  formPairs c v (fun a _ =>
    if typeIsFloat v.code then (signLane v.code true a, 0) else deliverInt v.code v.sat (-(typeInt v.code a)))

/-- VEXP2 of a lane (R384). -/
def exp2Lane (v : VField) (a : Nat) : Nat × BitVec 6 :=
  let F := typeFmt v.code
  match typeNum v.code a with
  | .nan => (canonicalNan F, 0)
  | .inf false => deliverNum F v.rm.toNat v.sat (.inf false) false
  | .inf true => (0, 0)
  | .fin neg m e => deliverNum F v.rm.toNat v.sat (pow2 neg m e) false

/-- VRCP of a lane (R384). -/
def rcpLane (v : VField) (a : Nat) : Nat × BitVec 6 :=
  let F := typeFmt v.code
  let r := FNum.div (.fin false 1 0) (typeNum v.code a)
  let d := deliverNum F v.rm.toNat v.sat r.1 r.2.1
  (d.1, d.2 ||| flagIf r.2.2 flagDZ)

/-- VRSQ of a lane (R384). -/
def rsqLane (v : VField) (a : Nat) : Nat × BitVec 6 :=
  let F := typeFmt v.code
  match typeNum v.code a with
  | .nan => (canonicalNan F, 0)
  | .inf false => (0, 0)
  | .inf true => (canonicalNan F, flagNV)
  | .fin neg m e =>
    if m = 0 then
      let d := deliverNum F v.rm.toNat v.sat (.inf neg) false
      (d.1, d.2 ||| flagDZ)
    else if neg then (canonicalNan F, flagNV)
    else deliverNum F v.rm.toNat v.sat (invSqrt m e) false

/-! ### Bits, conversions, moves (R383, R385, R387) -/

/-- VAND's register. -/
def vandResult (c : Ctx) (v : VField) : VResult := formPairs c v (fun a b => (a &&& b, 0))

/-- VOR's register. -/
def vorResult (c : Ctx) (v : VField) : VResult := formPairs c v (fun a b => (a ||| b, 0))

/-- VXOR's register. -/
def vxorResult (c : Ctx) (v : VField) : VResult := formPairs c v (fun a b => (a ^^^ b, 0))

/-- VSHL's register. -/
def vshlResult (c : Ctx) (v : VField) : VResult :=
  formPairs c v (fun a b => (a * 2 ^ (b % v.width) % 2 ^ v.width, 0))

/-- VSHR's register: arithmetic but for UINT8. -/
def vshrResult (c : Ctx) (v : VField) : VResult :=
  formPairs c v (fun a b => (wrapInt v.width (typeInt v.code a / (2 ^ (b % v.width) : Int)), 0))

/-- VCVT's register (R385): lanes past the shorter register's count are written zero. -/
def vcvtResult (c : Ctx) (v : VField) : VResult :=
  let src := v.code
  let dst := v.spec.toNat
  let w := typeBits dst
  let a := c.vreg v.va.toNat
  let d := c.vreg v.vd.toNat
  let n := min (laneCount (typeBits src)) (laneCount w)
  let rs := (List.range (laneCount w)).map (fun i =>
    if n ≤ i then (0, 0)
    else if v.active c i then convertType src dst v.rm.toNat v.sat (lane (typeBits src) a i)
    else (lane w d i, 0))
  (packLanes w (rs.map (·.1)), orFlags (rs.map (·.2)))

/-- VBCST's register. -/
def vbcstResult (c : Ctx) (v : VField) (left : Word) : VResult :=
  formLanes v.width (c.vreg v.vd.toNat) (v.active c) (fun _ => (left.toNat % 2 ^ v.width, 0))

/-- VINS's register. -/
def vinsResult (c : Ctx) (v : VField) (left right : Word) : VResult :=
  let j := right.toNat % laneCount v.width
  formLanes v.width (c.vreg v.vd.toNat) (fun i => decide (i = j) && v.active c i) (fun _ => (left.toNat % 2 ^ v.width, 0))

/-- VSEL's register. -/
def vselResult (c : Ctx) (v : VField) : VResult :=
  let a := c.vreg v.va.toNat
  let b := c.vreg v.vb.toNat
  formLanes v.width (c.vreg v.vd.toNat) (v.active c) (fun i =>
    (if v.picks c i then lane v.width a i else lane v.width b i, 0))

/-- VPERM's register: 8-bit lanes move within each half. -/
def vpermResult (c : Ctx) (v : VField) : VResult :=
  let w := v.width
  let a := c.vreg v.va.toNat
  let b := c.vreg v.vb.toNat
  formLanes w (c.vreg v.vd.toNat) (v.active c) (fun i =>
    let x := lane w b i
    (lane w a (if w = 8 then i / 256 % 2 * 256 + x else x % laneCount w), 0))

/-- VCMPR's register: the chosen lanes close up, zeros follow. -/
def vcmprResult (c : Ctx) (v : VField) : VResult :=
  let a := c.vreg v.va.toNat
  (packLanes v.width (((List.range (laneCount v.width)).filter (v.picks c)).map (lane v.width a)), 0)

/-- VIOTA's register. -/
def viotaResult (c : Ctx) (v : VField) : VResult :=
  formLanes v.width (c.vreg v.vd.toNat) (v.active c) (fun i =>
    deliverInt v.code v.sat ((((List.range i).filter (v.picks c)).length : Nat) : Int))

/-! ### Compares and masks (R386, R389) -/

/-- The condition of VCMP on two lanes, and whether it raises NV. -/
def compareLanes (t cond a b : Nat) : Bool × Bool :=
  let x := typeNum t a
  let y := typeNum t b
  let nan := x.isNan || y.isNan
  match cond with
  | 0 => (FNum.eqv x y, false)
  | 1 => (!FNum.eqv x y, false)
  | 2 => (FNum.lt x y, nan)
  | 3 => (FNum.lt x y || FNum.eqv x y, nan)
  | 4 => (FNum.lt y x, nan)
  | _ => (FNum.lt y x || FNum.eqv x y, nan)

/-- VCMP's mask and flags. -/
def vcmpResult (c : Ctx) (cond : Nat) (v : VField) : MaskReg × BitVec 6 :=
  let w := v.width
  let a := c.vreg v.va.toNat
  let b := c.vreg v.vb.toNat
  let old := c.mreg (v.vd.toNat % 8)
  let rs := (List.range (laneCount w)).map (fun i =>
    if v.active c i then compareLanes v.code cond (lane w a i) (lane w b i) else (old.getLsbD i, false))
  (packMask (rs.map (·.1)), flagIf (rs.any (·.2)) flagNV)

/-- A mask form (R389): all 512 bits under the guard. -/
def maskResult (c : Ctx) (v : VField) (op : MaskReg → MaskReg → MaskReg) : MaskReg :=
  let old := c.mreg (v.vd.toNat % 8)
  let new := op (c.mreg (v.va.toNat % 8)) (c.mreg (v.vb.toNat % 8))
  let g : MaskReg := if v.me then c.mreg v.mg.toNat else BitVec.allOnes 512
  (old &&& ~~~g) ||| (new &&& g)

/-! ### Reductions (R267, R388) -/

/-- The active source lanes of a reduction. -/
def activeLanes (c : Ctx) (v : VField) : List Nat :=
  ((List.range (laneCount v.width)).filter (v.active c)).map (lane v.width (c.vreg v.va.toNat))

/-- A register with one value in lane 0 and zeros above. -/
def laneZero (w : Nat) (r : Nat × BitVec 6) : VResult := (packLanes w [r.1], r.2)

/-- VREDADD's register. -/
def vredaddResult (c : Ctx) (v : VField) : VResult :=
  let t := v.code
  let xs := activeLanes c v
  laneZero v.width (
    if typeIsFloat t then
      let r := sumNums (xs.map (typeNum t))
      deliverNum (typeFmt t) v.rm.toNat v.sat r.1 r.2
    else deliverInt t v.sat ((xs.map (typeInt t)).foldl (· + ·) 0))

/-- The largest or smallest of some lanes, 0 for none. -/
def extremeLane (t : Nat) (larger : Bool) : List Nat → Nat
  | [] => 0
  | x :: xs =>
    if typeIsFloat t && (x :: xs).any (fun y => (typeNum t y).isNan) then canonicalNan (typeFmt t)
    else xs.foldl (pickLane t larger) x

/-- VREDMAX's register. -/
def vredmaxResult (c : Ctx) (v : VField) : VResult := laneZero v.width (extremeLane v.code true (activeLanes c v), 0)

/-- VREDMIN's register. -/
def vredminResult (c : Ctx) (v : VField) : VResult := laneZero v.width (extremeLane v.code false (activeLanes c v), 0)

/-- MPOPC's register. -/
def mpopcResult (c : Ctx) (v : VField) : VResult :=
  let m := c.mreg (v.va.toNat % 8)
  laneZero v.width (deliverInt v.code v.sat
    (((List.range (laneCount v.width)).filter (fun i => m.getLsbD i && v.active c i)).length : Nat))

/-! ### Memory forms (R249, R390, R391) -/

/-- TINFO1 of a vector memory trap (R390). -/
def laneInfo (v : VField) (writes : Bool) : Word := memInfo1 v.cap v.bytes writes 0

/-- The L address of a lane's offset. -/
def laneAddr (c : CapReg) (off : Int) : Word := BitVec.ofInt 64 ((c.base.toNat : Int) + off)

/-- A lane's offset fails (R139, R390): bounds, then alignment, then the end of space L. -/
def laneFault (c : CapReg) (n : Nat) (off : Int) : Option Nat :=
  if off < 0 ∨ (c.length : Int) < off + n then some 0x23
  else
    let a := c.base.toNat + off.toNat
    if a % n ≠ 0 then some 0x28 else if lLimit < a + n then some 0x23 else none

/-- The first lane of a list that fails, lowest first: its cause and address. -/
def lanesFault (c : CapReg) (n : Nat) (offs : List Int) : Option (Nat × Word) :=
  match offs.find? (fun o => (laneFault c n o).isSome) with
  | some o => (laneFault c n o).map (fun x => (x, laneAddr c o))
  | none => none

/-- The offset of lane i of a consecutive form. -/
def unitOffset (v : VField) (left : Word) (i : Nat) : Int := (left.toNat : Int) + ((i * v.bytes : Nat) : Int)

/-- The offset of lane i of a strided form. -/
def strideOffset (left right : Word) (i : Nat) : Int := (left.toNat : Int) + (i : Int) * right.toInt

/-- The offset of lane i of an indexed form. -/
def indexOffset (c : Ctx) (v : VField) (left : Word) (i : Nat) : Int :=
  (left.toNat : Int) + ((lane v.width (c.vreg v.vb.toNat) i * v.bytes : Nat) : Int)

/-- The lines that hold a byte of any lane within the capability's range and space L (R391). -/
def storeLines (c : CapReg) (v : VField) (off : Nat → Int) : List Nat :=
  let here (i : Nat) : List Nat := ((List.range v.bytes).filterMap (fun (b : Nat) =>
    let o : Int := off i + (b : Int)
    let a := (c.base.toNat : Int) + o
    if 0 ≤ o ∧ o < (c.length : Int) ∧ a < (lLimit : Int) then some (a.toNat / 128) else none))
  ((List.range (laneCount v.width)).flatMap here).eraseDups

/-- The firing of a vector memory form (R390): the capability, then, where the form is unguarded and its offsets are known,
every lane. -/
def fireVectorMemory (s : State) (f : Firing) (i : Instr) (v : VField) (need : BitVec 12) (writes : Bool)
    (off : Option (Nat → Int)) (empties : List Nat) : State :=
  let c := kregOf s f.tile v.cap
  match engineCapFault c need with
  | some x => trapFiring s f x (c.base + tokVal f.left) (laneInfo v writes)
  | none =>
    let bad := match off with
      | some o => if v.me then none else lanesFault c v.bytes ((List.range (laneCount v.width)).map o)
      | none => none
    match bad with
    | some (x, a) => trapFiring s f x a (laneInfo v writes)
    | none => fireCommand s f 1 false i [c] [] empties

/-- The capability that a command captured. -/
def QEntry.cap (e : QEntry) (n : Nat) : CapReg := e.caps[n]?.getD .zero

/-- The active lanes of a command with their offsets. -/
def activeOffsets (c : Ctx) (v : VField) (off : Nat → Int) : List (Nat × Int) :=
  ((List.range (laneCount v.width)).filter (v.active c)).map (fun i => (i, off i))

/-- The L offset of a checked lane. -/
def laneByte (k : CapReg) (off : Int) : Nat := ((k.base.toNat : Int) + off).toNat

/-- Perform a load form (R391): checks, then the stall on empty lines, then poison, then the lanes. -/
def performLoad (s : State) (t : Nat) (c : Ctx) (e : QEntry) (v : VField) (off : Nat → Int) : Performed :=
  let k := e.cap 0
  let n := v.bytes
  let lanes := activeOffsets c v off
  match lanesFault k n (lanes.map (·.2)) with
  | some (x, a) => .traps s x a (laneInfo v false)
  | none =>
    if lanes.any (fun l => !readable s t c.id (laneByte k l.2) n) then
      .waits (lanes.flatMap (fun l => blockedLines s t c.id (laneByte k l.2) n)).eraseDups
    else
      match lanes.find? (fun l => (poisonedAt s t (laneByte k l.2) n).isSome) with
      | some l => .traps s 0x31 (laneAddr k l.2) (laneInfo v false)
      | none =>
        let r := formLanes v.width (c.vreg v.vd.toNat) (v.active c) (fun i =>
          (mread (s.tile t).mem (laneByte k (off i)) n, 0))
        .complete (s.modCtx t (fun c => c.setV v.vd.toNat r.1)) 0

/-- Write the active lanes of a command in increasing order. -/
def writeLanes (s : State) (t : Nat) (c : Ctx) (k : CapReg) (v : VField) (lanes : List (Nat × Int)) : State :=
  lanes.foldl (fun s l =>
    writeScratch s t (laneByte k l.2) (bytesOf v.bytes (lane v.width (c.vreg v.vd.toNat) l.1))) s

/-- Perform a store form (R391): checks, the active lanes, which wait for the context's own earlier writes there (R211, R228) and for
another party's reservation (R363), then its emptied lines full. -/
def performStore (s : State) (t : Nat) (c : Ctx) (e : QEntry) (v : VField) (off : Nat → Int) : Performed :=
  let k := e.cap 0
  let lanes := activeOffsets c v off
  match lanesFault k v.bytes (lanes.map (·.2)) with
  | some (x, a) => .traps s x a (laneInfo v true)
  | none =>
    if lanes.any (fun l => writeHeld s t c.id (laneByte k l.2) v.bytes) then .waits []
    else .complete (fillLines (writeLanes s t c k v lanes) t e.empties) 0

/-- VSCTA's sum of two lanes (R249). -/
def scatterSum (v : VField) (a b : Nat) : Nat × BitVec 6 := arithLane v (· + ·) FNum.add a b

/-- VSCTA's partial sums, by element offset in order of first lane (R249). -/
def scatterParts (v : VField) (lanes : List (Int × Nat)) : List (Int × Nat) × BitVec 6 :=
  lanes.foldl (fun acc l =>
    match acc.1.find? (fun p => p.1 == l.1) with
    | none => (acc.1 ++ [l], acc.2)
    | some p =>
      let r := scatterSum v p.2 l.2
      (acc.1.map (fun q => if q.1 == l.1 then (q.1, r.1) else q), acc.2 ||| r.2)) ([], 0)

/-- Perform VSCTA (R249, R391): every active lane is checked, then each element is read and written once, after the context's own
earlier writes there (R211, R228) and behind another party's reservation (R363). -/
def performScatterAdd (s : State) (t : Nat) (c : Ctx) (e : QEntry) (v : VField) : Performed :=
  let k := e.cap 0
  let n := v.bytes
  let lanes := activeOffsets c v (indexOffset c v e.left)
  match lanesFault k n (lanes.map (·.2)) with
  | some (x, a) => .traps s x a (laneInfo v true)
  | none =>
    if lanes.any (fun l => writeHeld s t c.id (laneByte k l.2) n) then .waits []
    else
    match lanes.find? (fun l => (poisonedAt s t (laneByte k l.2) n).isSome) with
    | some l => .traps s 0x31 (laneAddr k l.2) (laneInfo v true)
    | none =>
      let parts := scatterParts v (lanes.map (fun l => (l.2, lane v.width (c.vreg v.vd.toNat) l.1)))
      let r := parts.1.foldl (fun (acc : State × BitVec 6) p =>
        let at_ := laneByte k p.1
        let y := scatterSum v (mread (acc.1.tile t).mem at_ n) p.2
        (writeScratch acc.1 t at_ (bytesOf n y.1), acc.2 ||| y.2)) (s, parts.2)
      .complete r.1 r.2

/-! ### The instructions at firing (R380, R390) -/

/-- VLD (R390). -/
def execVld (h : Hdr) (v : VField) (s : State) : Out :=
  engineForm s (fun f s => fireVectorMemory s f (.vld h v) v permLD false (some (unitOffset v (tokVal f.left))) [])

/-- VST (R390, R391). -/
def execVst (h : Hdr) (v : VField) (s : State) : Out :=
  engineForm s (fun f s =>
    let off := unitOffset v (tokVal f.left)
    fireVectorMemory s f (.vst h v) v permST true (some off) (storeLines (kregOf s f.tile v.cap) v off))

/-- VLDS (R390). -/
def execVlds (h : Hdr) (v : VField) (s : State) : Out :=
  engineForm s (fun f s =>
    fireVectorMemory s f (.vlds h v) v permLD false (some (strideOffset (tokVal f.left) (tokVal f.right))) [])

/-- VSTS (R390, R391). -/
def execVsts (h : Hdr) (v : VField) (s : State) : Out :=
  engineForm s (fun f s =>
    let off := strideOffset (tokVal f.left) (tokVal f.right)
    fireVectorMemory s f (.vsts h v) v permST true (some off) (storeLines (kregOf s f.tile v.cap) v off))

/-- VGTH (R390). -/
def execVgth (h : Hdr) (v : VField) (s : State) : Out :=
  engineForm s (fun f s => fireVectorMemory s f (.vgth h v) v permLD false none [])

/-- VSCT (R390). -/
def execVsct (h : Hdr) (v : VField) (s : State) : Out :=
  engineForm s (fun f s => fireVectorMemory s f (.vsct h v) v permST true none [])

/-- VSCTA (R249, R390). -/
def execVscta (h : Hdr) (v : VField) (s : State) : Out :=
  engineForm s (fun f s => fireVectorMemory s f (.vscta h v) v (permLD ||| permST) true none [])

/-- A vector form that needs nothing but its tokens. -/
def vectorForm (i : Instr) (s : State) : Out := engineForm s (fun f s => fireCommand s f 1 false i [] [] [])

/-- VBCST (R380, R387). -/
def execVbcst (h : Hdr) (v : VField) (s : State) : Out := vectorForm (.vbcst h v) s

/-- VADD (R380, R382). -/
def execVadd (h : Hdr) (v : VField) (s : State) : Out := vectorForm (.vadd h v) s

/-- VSUB (R380, R382). -/
def execVsub (h : Hdr) (v : VField) (s : State) : Out := vectorForm (.vsub h v) s

/-- VMUL (R380, R382). -/
def execVmul (h : Hdr) (v : VField) (s : State) : Out := vectorForm (.vmul h v) s

/-- VFMA (R380, R382). -/
def execVfma (h : Hdr) (v : VField) (s : State) : Out := vectorForm (.vfma h v) s

/-- VMIN (R380, R382). -/
def execVmin (h : Hdr) (v : VField) (s : State) : Out := vectorForm (.vmin h v) s

/-- VMAX (R380, R382). -/
def execVmax (h : Hdr) (v : VField) (s : State) : Out := vectorForm (.vmax h v) s

/-- VABS (R380, R382). -/
def execVabs (h : Hdr) (v : VField) (s : State) : Out := vectorForm (.vabs h v) s

/-- VNEG (R380, R382). -/
def execVneg (h : Hdr) (v : VField) (s : State) : Out := vectorForm (.vneg h v) s

/-- VAND (R380, R383). -/
def execVand (h : Hdr) (v : VField) (s : State) : Out := vectorForm (.vand h v) s

/-- VOR (R380, R383). -/
def execVor (h : Hdr) (v : VField) (s : State) : Out := vectorForm (.vor h v) s

/-- VXOR (R380, R383). -/
def execVxor (h : Hdr) (v : VField) (s : State) : Out := vectorForm (.vxor h v) s

/-- VSHL (R380, R383). -/
def execVshl (h : Hdr) (v : VField) (s : State) : Out := vectorForm (.vshl h v) s

/-- VSHR (R380, R383). -/
def execVshr (h : Hdr) (v : VField) (s : State) : Out := vectorForm (.vshr h v) s

/-- VCVT (R380, R385). -/
def execVcvt (h : Hdr) (v : VField) (s : State) : Out := vectorForm (.vcvt h v) s

/-- VEXP2 (R380, R384). -/
def execVexp2 (h : Hdr) (v : VField) (s : State) : Out := vectorForm (.vexp2 h v) s

/-- VRCP (R380, R384). -/
def execVrcp (h : Hdr) (v : VField) (s : State) : Out := vectorForm (.vrcp h v) s

/-- VRSQ (R380, R384). -/
def execVrsq (h : Hdr) (v : VField) (s : State) : Out := vectorForm (.vrsq h v) s

/-- VREDADD (R380, R388). -/
def execVredadd (h : Hdr) (v : VField) (s : State) : Out := vectorForm (.vredadd h v) s

/-- VREDMAX (R380, R388). -/
def execVredmax (h : Hdr) (v : VField) (s : State) : Out := vectorForm (.vredmax h v) s

/-- VREDMIN (R380, R388). -/
def execVredmin (h : Hdr) (v : VField) (s : State) : Out := vectorForm (.vredmin h v) s

/-- VCMP (R380, R386). -/
def execVcmp (h : Hdr) (cond : BitVec 4) (v : VField) (s : State) : Out := vectorForm (.vcmp h cond v) s

/-- VSEL (R380, R387). -/
def execVsel (h : Hdr) (v : VField) (s : State) : Out := vectorForm (.vsel h v) s

/-- VPERM (R380, R387). -/
def execVperm (h : Hdr) (v : VField) (s : State) : Out := vectorForm (.vperm h v) s

/-- VCMPR (R380, R387). -/
def execVcmpr (h : Hdr) (v : VField) (s : State) : Out := vectorForm (.vcmpr h v) s

/-- VIOTA (R380, R387). -/
def execViota (h : Hdr) (v : VField) (s : State) : Out := vectorForm (.viota h v) s

/-- MAND (R380, R389). -/
def execMand (h : Hdr) (v : VField) (s : State) : Out := vectorForm (.mand h v) s

/-- MOR (R380, R389). -/
def execMor (h : Hdr) (v : VField) (s : State) : Out := vectorForm (.mor h v) s

/-- MNOT (R380, R389). -/
def execMnot (h : Hdr) (v : VField) (s : State) : Out := vectorForm (.mnot h v) s

/-- MPOPC (R380, R388). -/
def execMpopc (h : Hdr) (v : VField) (s : State) : Out := vectorForm (.mpopc h v) s

/-- VINS (R380, R387). -/
def execVins (h : Hdr) (v : VField) (s : State) : Out := vectorForm (.vins h v) s

/-! ### The commands as they are performed (R207, R382 to R391) -/

/-- Complete a command that writes a vector register. -/
def putVector (s : State) (t : Nat) (v : VField) (r : VResult) : Performed :=
  .complete (s.modCtx t (fun c => c.setV v.vd.toNat r.1)) r.2

/-- Complete a command that writes a mask register. -/
def putMask (s : State) (t : Nat) (v : VField) (m : MaskReg) (fl : BitVec 6) : Performed :=
  .complete (s.modCtx t (fun c => c.setM (v.vd.toNat % 8) m)) fl

/-- A lane form of one source with flags of its own. -/
def formOne (c : Ctx) (v : VField) (g : Nat → Nat × BitVec 6) : VResult := formPairs c v (fun a _ => g a)

/-- Perform a vector or mask instruction of classes V's rows 0xA0 to 0xBF; none for any other instruction. -/
def performVector (s : State) (t : Nat) (c : Ctx) (e : QEntry) (i : Instr) : Option Performed :=
  match i with
  | .vld _ v => some (performLoad s t c e v (unitOffset v e.left))
  | .vst _ v => some (performStore s t c e v (unitOffset v e.left))
  | .vlds _ v => some (performLoad s t c e v (strideOffset e.left e.right))
  | .vsts _ v => some (performStore s t c e v (strideOffset e.left e.right))
  | .vgth _ v => some (performLoad s t c e v (indexOffset c v e.left))
  | .vsct _ v => some (performStore s t c e v (indexOffset c v e.left))
  | .vscta _ v => some (performScatterAdd s t c e v)
  | .vbcst _ v => some (putVector s t v (vbcstResult c v e.left))
  | .vadd _ v => some (putVector s t v (vaddResult c v))
  | .vsub _ v => some (putVector s t v (vsubResult c v))
  | .vmul _ v => some (putVector s t v (vmulResult c v))
  | .vfma _ v => some (putVector s t v (vfmaResult c v))
  | .vmin _ v => some (putVector s t v (vminResult c v))
  | .vmax _ v => some (putVector s t v (vmaxResult c v))
  | .vabs _ v => some (putVector s t v (vabsResult c v))
  | .vneg _ v => some (putVector s t v (vnegResult c v))
  | .vand _ v => some (putVector s t v (vandResult c v))
  | .vor _ v => some (putVector s t v (vorResult c v))
  | .vxor _ v => some (putVector s t v (vxorResult c v))
  | .vshl _ v => some (putVector s t v (vshlResult c v))
  | .vshr _ v => some (putVector s t v (vshrResult c v))
  | .vcvt _ v => some (putVector s t v (vcvtResult c v))
  | .vexp2 _ v => some (putVector s t v (formOne c v (exp2Lane v)))
  | .vrcp _ v => some (putVector s t v (formOne c v (rcpLane v)))
  | .vrsq _ v => some (putVector s t v (formOne c v (rsqLane v)))
  | .vredadd _ v => some (putVector s t v (vredaddResult c v))
  | .vredmax _ v => some (putVector s t v (vredmaxResult c v))
  | .vredmin _ v => some (putVector s t v (vredminResult c v))
  | .vcmp _ cond v =>
    let r := vcmpResult c cond.toNat v
    some (putMask s t v r.1 r.2)
  | .vsel _ v => some (putVector s t v (vselResult c v))
  | .vperm _ v => some (putVector s t v (vpermResult c v))
  | .vcmpr _ v => some (putVector s t v (vcmprResult c v))
  | .viota _ v => some (putVector s t v (viotaResult c v))
  | .mand _ v => some (putMask s t v (maskResult c v (· &&& ·)) 0)
  | .mor _ v => some (putMask s t v (maskResult c v (· ||| ·)) 0)
  | .mnot _ v => some (putMask s t v (maskResult c v (fun a _ => ~~~a)) 0)
  | .mpopc _ v => some (putVector s t v (mpopcResult c v))
  | .vins _ v => some (putVector s t v (vinsResult c v e.left e.right))
  | _ => none

end Sys2Proof.Machine
end

