-- ==== Sys2Proof/Machine/Rank.lean ====
section
/-! DEFINITION. The vector-queue instructions of rank-coded mode: RANK, RKMERGE and RKRECON (R268 to R273, R277, R278), and
the vector engine's turn (R207, R244). -/

namespace Sys2Proof.Machine

/-! ### The ranking order (R268, R269) -/

/-- The format of the keys that KT selects. -/
def keyFmt (kt : Bool) : FFmt := if kt then fp32 else bf16

/-- The lane width of the keys. -/
def keyWidth (kt : Bool) : Nat := if kt then 32 else 16

/-- An entry of a ranking: its key's bits, its index, and whether it comes from run B. -/
structure RankEntry where
  key : Nat
  index : Nat
  runB : Bool
  deriving DecidableEq, Repr

/-- Entry x precedes entry y (R268). -/
def precedes (F : FFmt) (x y : RankEntry) : Bool :=
  let a := decodeFloat F x.key
  let b := decodeFloat F y.key
  let tied := decide (x.index < y.index) || (decide (x.index = y.index) && !x.runB && y.runB)
  if a.isNan then (b.isNan && tied)
  else if b.isNan then true
  else FNum.lt b a || (FNum.eqv a b && tied)

/-- Insert an entry into a ranked list. -/
def rankInsert (F : FFmt) (x : RankEntry) : List RankEntry → List RankEntry
  | [] => [x]
  | y :: ys => if precedes F x y then x :: y :: ys else y :: rankInsert F x ys

/-- Rank entries. -/
def rankSort (F : FFmt) (es : List RankEntry) : List RankEntry := es.foldl (fun acc e => rankInsert F e acc) []

/-- A key as it is written: a NaN as the canonical NaN, anything else bit for bit. -/
def writtenKey (F : FFmt) (k : Nat) : Nat := if (decodeFloat F k).isNan then canonicalNan F else k

/-- The mask whose lowest `n` bits are 1. -/
def countMask (n : Nat) : MaskReg := BitVec.ofNat 512 (2 ^ n - 1)

/-- Write the top `cnt` of ranked entries as a rank list with its keys and count mask (R269, R271). -/
def writeRankList (c : Ctx) (vd mc : Nat) (kt : Bool) (es : List RankEntry) (cnt : Nat) : Ctx :=
  let top := es.take cnt
  let n := laneCount (keyWidth kt)
  let at_ (r : Nat) (g : RankEntry → Nat) (d : Nat) : Nat := match top[r]? with
    | some e => g e
    | none => d
  let idx := packLanes 16 ((List.range 256).map (fun r => at_ r (·.index) 0xFFFF))
  let keys := packLanes (keyWidth kt) ((List.range n).map (fun r => at_ r (fun e => writtenKey (keyFmt kt) e.key) 0))
  ((c.setV vd idx).setV (vd + 1) keys).setM mc (countMask top.length)

/-! ### Tokens (R270, R278) -/

/-- c: bits [8:0]. -/
def rankCut (x : Word) : Nat := (x.extractLsb' 0 9).toNat

/-- The offset or base in bits [27:16]. -/
def rankLow (x : Word) : Nat := (x.extractLsb' 16 12).toNat

/-- The offset in bits [43:32]. -/
def rankHigh (x : Word) : Nat := (x.extractLsb' 32 12).toNat

/-- c lies from 1 to 256. -/
def cutLegal (x : Word) : Bool := decide (1 ≤ rankCut x) && decide (rankCut x ≤ 256)

/-- RANK's token is legal. -/
def rankTokenLegal (kt : Bool) (x : Word) : Bool :=
  decide (x &&& ~~~0x0FFF01FF#64 = 0) && cutLegal x && decide (rankLow x + laneCount (keyWidth kt) ≤ 4096)

/-- RKMERGE's token is legal. -/
def mergeTokenLegal (x : Word) : Bool := decide (x &&& ~~~0x00000FFF0FFF01FF#64 = 0) && cutLegal x

/-- The token that carries c and a base is legal: a multiple of `step` up to `top`. -/
def baseTokenLegal (step top : Nat) (x : Word) : Bool :=
  decide (x &&& ~~~0x0FFF01FF#64 = 0) && cutLegal x && decide (rankLow x % step = 0) && decide (rankLow x ≤ top)

/-! ### The instructions at firing -/

/-- RANK (R271, R278). -/
def execRank (h : Hdr) (vd va : BitVec 5) (mg : BitVec 3) (me kt : Bool) (mc : BitVec 3) (s : State) : Out :=
  engineForm s (fun f s =>
    if rankTokenLegal kt (tokVal f.left) then fireCommand s f 1 false (.rank h vd va mg me kt mc) [] [] []
    else trapFiring s f 0x15 (tokVal f.left) 0)

/-- RKMERGE (R272, R278). -/
def execRkmerge (h : Hdr) (vd va vb : BitVec 5) (kt : Bool) (mc : BitVec 3) (s : State) : Out :=
  engineForm s (fun f s =>
    if mergeTokenLegal (tokVal f.left) then fireCommand s f 1 false (.rkmerge h vd va vb kt mc) [] [] []
    else trapFiring s f 0x15 (tokVal f.left) 0)

/-- RKRECON (R277, R278): the right token has nothing above its BF16 fill value. -/
def execRkrecon (h : Hdr) (vd va vb : BitVec 5) (mg : BitVec 3) (me : Bool) (s : State) : Out :=
  engineForm s (fun f s =>
    if baseTokenLegal 256 3840 (tokVal f.left) = false then trapFiring s f 0x15 (tokVal f.left) 0
    else if tokVal f.right &&& ~~~0xFFFF#64 ≠ 0 then trapFiring s f 0x15 (tokVal f.right) 1
    else fireCommand s f 1 false (.rkrecon h vd va vb mg me) [] [] [])

/-! ### The commands as they are performed -/

/-- Perform RANK (R271). -/
def performRank (s : State) (t : Nat) (c : Ctx) (e : QEntry) (vd va mg : Nat) (me kt : Bool) (mc : Nat) : Performed :=
  let w := keyWidth kt
  let es := ((List.range (laneCount w)).filter (guarded c (BitVec.ofNat 3 mg) me)).map (fun i =>
    ({ key := lane w (c.vreg va) i, index := rankLow e.left + i, runB := false } : RankEntry))
  .complete (s.modCtx t (fun c => writeRankList c vd mc kt (rankSort (keyFmt kt) es) (rankCut e.left))) 0

/-- The lanes of a run below its first end mark, of the lanes that its key register has (R272). -/
def runLanes (c : Ctx) (v : Nat) (kt : Bool) : List (Nat × Nat × Nat) :=
  ((List.range (laneCount (keyWidth kt))).map (fun i =>
    (i, lane 16 (c.vreg v) i, lane (keyWidth kt) (c.vreg (v + 1)) i))).takeWhile (fun l => l.2.1 ≠ 0xFFFF)

/-- TINFO1 of cause 0x16 (R278). -/
def rankInfo (index rank : Nat) (runB : Bool) : Word := BitVec.ofNat 64 (index + 2 ^ 32 * rank + (if runB then 2 ^ 48 else 0))

/-- The entries of a run with its offset added, or the first whose index falls out of range before or after (R278). -/
def runEntries (c : Ctx) (v off : Nat) (kt runB : Bool) : Except (Nat × Nat) (List RankEntry) :=
  let ls := runLanes c v kt
  match ls.find? (fun l => l.2.1 + off ≥ 4096) with
  | some l => .error (l.1, if l.2.1 ≥ 4096 then l.2.1 else l.2.1 + off)
  | none => .ok (ls.map (fun l => { key := l.2.2, index := l.2.1 + off, runB := runB }))

/-- Perform RKMERGE (R272). -/
def performMerge (s : State) (t : Nat) (c : Ctx) (e : QEntry) (vd va vb : Nat) (kt : Bool) (mc : Nat) : Performed :=
  match runEntries c va (rankLow e.left) kt false with
  | .error (r, x) => .traps s 0x16 (BitVec.ofNat 64 r) (rankInfo x r false)
  | .ok a =>
    match runEntries c vb (rankHigh e.left) kt true with
    | .error (r, x) => .traps s 0x16 (BitVec.ofNat 64 r) (rankInfo x r true)
    | .ok b =>
      let cnt := min (rankCut e.left) (laneCount (keyWidth kt))
      .complete (s.modCtx t (fun c => writeRankList c vd mc kt (rankSort (keyFmt kt) (a ++ b)) cnt)) 0

/-- Perform RKRECON (R277): where an index stands twice, its lowest rank gives the lane. -/
def performRecon (s : State) (t : Nat) (c : Ctx) (e : QEntry) (vd va vb mg : Nat) (me : Bool) : Performed :=
  let cut := rankCut e.left
  let base := rankLow e.left
  let idx := (List.range cut).map (lane 16 (c.vreg va))
  match idx.zipIdx.find? (fun p => p.1 ≥ 4096) with
  | some p => .traps s 0x16 (BitVec.ofNat 64 p.2) (rankInfo p.1 p.2 false)
  | none =>
    let out (i : Nat) : Nat := match idx.zipIdx.find? (fun p => p.1 == base + i) with
      | some p => lane 16 (c.vreg vb) p.2
      | none => (e.right.extractLsb' 0 16).toNat
    let r := formLanes 16 (c.vreg vd) (guarded c (BitVec.ofNat 3 mg) me) (fun i => (out i, 0))
    .complete (s.modCtx t (fun c => c.setV vd r.1)) 0

/-! ### The vector engine's turn (R207, R244) -/

/-- Perform a vector-queue command. -/
def performVectorQueue (s : State) (t : Nat) (c : Ctx) (e : QEntry) (i : Instr) : Performed :=
  match i with
  | .rank _ vd va mg me kt mc => performRank s t c e vd.toNat va.toNat mg.toNat me kt mc.toNat
  | .rkmerge _ vd va vb kt mc => performMerge s t c e vd.toNat va.toNat vb.toNat kt mc.toNat
  | .rkrecon _ vd va vb mg me => performRecon s t c e vd.toNat va.toNat vb.toNat mg.toNat me
  | _ => (performVector s t c e i).getD (.waits [])

/-- VECTOR_COMMAND_PERFORM (R207, R244): the command at the head of the vector queue is performed, unless its operand lines
make it wait or the queue is stopped behind a command that trapped. -/
def execVectorCommandPerform (tile : Nat) (s : State) : Out :=
  match (s.tile tile).ctx with
  | none => .next s
  | some c =>
    match c.vectorQ with
    | [] => .next s
    | e :: _ =>
      match e.instr with
      | none => .next s
      | some i =>
        if c.stopV then .next s else .next (performHead s tile 1 0 c e (fun s => performVectorQueue s tile c e i))

end Sys2Proof.Machine
end

