-- ==== Sys2Proof/Machine/Matrix.lean ====
section
/-! DEFINITION. The matrix array (R233 to R243, R255 to R257, R265, R266, R274 to R276, R392 to R395) and the grants of its
stack (R86 to R88). -/

namespace Sys2Proof.Machine

/-! ### Formats and tiles of weights (R233 to R236) -/

/-- The element code of an FMT: 0 BF16, 1 E4M3, 2 E5M2, 3 INT8, 4 CB4. -/
def fmtElem (fmt : BitVec 5) : Nat := fmt.toNat % 8
/-- The format has MX scales. -/
def fmtMx (fmt : BitVec 5) : Bool := fmt.getLsbD 3
/-- The format is 2:4 sparse. -/
def fmtS24 (fmt : BitVec 5) : Bool := fmt.getLsbD 4
/-- The logical inputs of a tile. -/
def fmtK (fmt : BitVec 5) : Nat := if fmtS24 fmt then 256 else 128

/-- The bytes of the values part of a tile, with its metadata where it is sparse (R234). -/
def valuesSize (fmt : BitVec 5) : Nat :=
  if fmtS24 fmt then 20480
  else
    match fmtElem fmt with
    | 0 => 32768
    | 4 => 8192
    | _ => 16384

/-- The bytes of a tile (R234). -/
def tileSize (fmt : BitVec 5) : Nat := valuesSize fmt + (if fmtMx fmt then 128 * (fmtK fmt / 32) else 0)

/-- The metadata nibble of group g of column n (R234, R235). -/
def metaNibble (mem : Memory) (a n g : Nat) : Nat := (mget mem (a + 16384 + 32 * n + g / 2)).toNat / 16 ^ (g % 2) % 16

/-- The first group, in increasing group number, whose indices are illegal (R235): its column and group. -/
def illegalGroup (mem : Memory) (a : Nat) : Option (Nat × Nat) :=
  ((List.range 8192).map (fun i => (i / 64, i % 64))).find? (fun p =>
    let x := metaNibble mem a p.1 p.2
    decide (x % 4 ≥ x / 4))

/-- The bits of weight W[k][n] of a tile at L offset a (R234 to R236): the unselected inputs of a sparse tile are 0, and a CB4
code is read through the codebook. -/
def weightBits (mem : Memory) (a : Nat) (fmt : BitVec 5) (codebook : BitVec 256) (k n : Nat) : Nat :=
  if fmtS24 fmt then
    let x := metaNibble mem a n (k / 4)
    if k % 4 = x % 4 then (mget mem (a + 128 * (2 * (k / 4)) + n)).toNat
    else if k % 4 = x / 4 then (mget mem (a + 128 * (2 * (k / 4) + 1) + n)).toNat
    else 0
  else
    match fmtElem fmt with
    | 0 => mread mem (a + 2 * (128 * k + n)) 2
    | 4 =>
      let code := (mget mem (a + (128 * k + n) / 2)).toNat / 16 ^ (n % 2) % 16
      (codebook.extractLsb' (16 * code) 16).toNat
    | _ => (mget mem (a + 128 * k + n)).toNat

/-- A loaded plane from a tile at L offset a. -/
def readPlane (mem : Memory) (a : Nat) (fmt : BitVec 5) (codebook : BitVec 256) : Plane :=
  let K := fmtK fmt
  { loaded := true, fmt := fmt
    weights := (List.range (128 * K)).filterMap (fun i =>
      let w := weightBits mem a fmt codebook (i / 128) (i % 128)
      if w = 0 then none else some (i, BitVec.ofNat 64 w))
    scales := if fmtMx fmt then (List.range (128 * (K / 32))).filterMap (fun i =>
        let b := mget mem (a + valuesSize fmt + i)
        if b = 0 then none else some (i, b)) else []
    codebook := if fmtElem fmt = 4 then codebook else 0
    src := a }

/-- The exact value of an element of a plane or activation row. -/
def elemNum (elem bits : Nat) : FNum :=
  match elem with
  | 1 => decodeFloat e4m3 bits
  | 2 => decodeFloat e5m2 bits
  | 3 => .ofInt (signedOf 8 bits)
  | _ => decodeFloat bf16 bits

/-- Weight W[k][n] of a plane. -/
def Plane.weight (p : Plane) (k n : Nat) : FNum := elemNum (fmtElem p.fmt) (tget 0 p.weights (128 * k + n)).toNat

/-- An MX scale as a power of two; none for NaN (R255). -/
def mxScale (b : Byte) : Option Int := if b = 0xFF then none else some ((b.toNat : Int) - 127)

/-- The scale of block b of column n of a plane, 1 without MX. -/
def Plane.scale (p : Plane) (b n : Nat) : Option Int :=
  if fmtMx p.fmt then mxScale (tget 0 p.scales (128 * b + n)) else some 0

/-! ### Block sums (R265, R266) -/

/-- A value times a power of two. -/
def scaleNum (v : FNum) (s : Int) : FNum :=
  match v with
  | .fin n m e => .fin n m (e + s)
  | x => x

/-- ⌊log2⌋ of a nonzero finite magnitude. -/
def numTop (v : FNum) : Option Int :=
  match v with
  | .fin _ m e => if m = 0 then none else some (e + (bitLength m : Int) - 1)
  | _ => none

/-- quant(p, q) as a multiple of 2^q (R265). -/
def quantNum (q : Int) (v : FNum) : Int :=
  match v with
  | .fin neg m e =>
    let n : Int := ((roundMag 0 neg m e q).1 : Int)
    if neg then -n else n
  | _ => 0

/-- B of one block (R265): its products with their scale, or none where the scale is NaN. -/
def blockTotal (ps : List (FNum × Bool)) (s : Option Int) : Acc :=
  match s with
  | none => BitVec.ofNat 80 (canonicalNan a80f)
  | some x =>
    let vs := ps.map (fun p => scaleNum p.1 x)
    let special := sumNums vs
    if ps.any (·.2) || special.2 || special.1.isNan then BitVec.ofNat 80 (canonicalNan a80f)
    else
      match vs.filterMap numTop with
      | [] => BitVec.ofNat 80 (deliverNum a80f 0 false special.1 false).1
      | t :: ts =>
        if special.1.isInf then BitVec.ofNat 80 (deliverNum a80f 0 false special.1 false).1
        else
          let q := ts.foldl (fun a b => if a ≤ b then b else a) t - 79
          let total := (vs.map (quantNum q)).foldl (· + ·) 0
          BitVec.ofNat 80 (deliverNum a80f 0 false (.fin (decide (total < 0)) total.natAbs q) false).1

/-- acc := round(A80F, RNE, acc + B) with its NaN rule (R265). -/
def accAdd (acc b : Acc) : Acc :=
  let r := FNum.add (decodeFloat a80f acc.toNat) (decodeFloat a80f b.toNat)
  BitVec.ofNat 80 (deliverNum a80f 0 false r.1 r.2).1

/-- The sum of the scales of a product. -/
def addScales (x w : Option Int) : Option Int :=
  match x, w with
  | some a, some b => some (a + b)
  | _, _ => none

/-! ### Passes (R239 to R242, R275) -/

/-- What a pass command says: 0 MPASS, 1 MPASSS, 2 RKPASS, its capability number, rows and first accumulator row. -/
structure PassForm where
  kind : Nat
  k : Nat
  rows : Nat
  row0 : Nat
  deriving DecidableEq, Repr

/-- The pass that an instruction is. -/
def passOf (i : Instr) : Option PassForm :=
  match i with
  | .mpass _ k m1 row0 => some { kind := 0, k := k.toNat, rows := m1.toNat + 1, row0 := row0.toNat }
  | .mpasss _ k m1 row0 => some { kind := 1, k := k.toNat, rows := m1.toNat + 1, row0 := row0.toNat }
  | .rkpass _ k m1 row0 => some { kind := 2, k := k.toNat, rows := m1.toNat + 1, row0 := row0.toNat }
  | _ => none

/-- The pass that a queue entry is. -/
def QEntry.pass (e : QEntry) : PassForm :=
  ((e.instr.bind passOf)).getD { kind := 0, k := 0, rows := 0, row0 := 0 }

/-- The L address of a matrix operand. -/
def operandAddr (e : QEntry) : Nat := (e.cap 0).base.toNat + e.left.toNat

/-- The bytes of one element of an activation row (R239). -/
def activationBytes (fmt : BitVec 5) : Nat := if fmtElem fmt = 0 ∨ fmtElem fmt = 4 then 2 else 1

/-- Rows carry scales of their own: an FP8 plane with MX (R239). -/
def rowsScaled (fmt : BitVec 5) : Bool := fmtMx fmt && (fmtElem fmt == 1 || fmtElem fmt == 2)

/-- The ranges of the scratchpad that row m of a pass reads: its elements or list, and its scales. -/
def rowRanges (e : QEntry) (fmt : BitVec 5) (m : Nat) : List (Nat × Nat) :=
  let a := operandAddr e
  let K := fmtK fmt
  let n := K * activationBytes fmt
  if e.pass.kind = 2 then [(a + 512 * m, 2 * rankCut e.right)]
  else
    (a + m * n, n) :: (if rowsScaled fmt then [(a + e.pass.rows * n + K / 32 * m, K / 32)] else [])

/-- Ranges can be read. -/
def rangesReadable (s : State) (t ctx : Nat) (rs : List (Nat × Nat)) : Bool := rs.all (fun r => readable s t ctx r.1 r.2)

/-- The first poisoned byte of ranges. -/
def rangesPoisoned (s : State) (t : Nat) (rs : List (Nat × Nat)) : Option Nat :=
  (rs.filterMap (fun r => poisonedAt s t r.1 r.2)).head?

/-- The rows of the 32-row step that begins with row m, of a stretch that began with row `first`. -/
def stepRows (rows m : Nat) : List Nat := (List.range (min 32 (rows - m))).map (· + m)

/-- The ranges of the step that begins with row m. -/
def stepRanges (e : QEntry) (fmt : BitVec 5) (m : Nat) : List (Nat × Nat) :=
  (stepRows e.pass.rows m).flatMap (rowRanges e fmt)

/-- The checks of R240 at the head of the queue: cause and information registers of the first that holds. -/
def headFault (s : State) (t : Nat) (c : Ctx) (e : QEntry) (first : Nat) : Option (Nat × Word × Word) :=
  let p := e.pass
  let fmt := c.front.fmt
  let k := e.cap 0
  let kind := BitVec.ofNat 64 p.kind
  if c.front.loaded = false then some (0x13, 0, kind)
  else if (p.kind = 1 ∧ fmtS24 fmt = false) ∨ (p.kind ≠ 1 ∧ fmtS24 fmt = true) then some (0x12, fmt.setWidth 64, kind)
  else
    let n := p.rows * (fmtK fmt * activationBytes fmt + (if rowsScaled fmt then fmtK fmt / 32 else 0))
    let a := operandAddr e
    let legal := min (k.base.toNat + k.length) lLimit
    if p.kind ≠ 2 ∧ legal < a + n then some (0x23, BitVec.ofNat 64 (max a legal), memInfo1 p.k 128 false 0)
    else
      match rangesPoisoned s t (stepRanges e fmt first) with
      | some x => some (0x31, BitVec.ofNat 64 x, memInfo1 p.k 128 false 0)
      | none => none

/-- The value of element k of row m of a pass, and its scale. -/
def activation (mem : Memory) (e : QEntry) (fmt : BitVec 5) (m k : Nat) : FNum :=
  let n := activationBytes fmt
  elemNum (fmtElem fmt) (mread mem (operandAddr e + m * fmtK fmt * n + n * k) n)

/-- The scale of block b of row m. -/
def activationScale (mem : Memory) (e : QEntry) (fmt : BitVec 5) (m b : Nat) : Option Int :=
  let n := fmtK fmt * activationBytes fmt
  if rowsScaled fmt then mxScale (mget mem (operandAddr e + e.pass.rows * n + fmtK fmt / 32 * m + b)) else some 0

/-- What row m of a float pass adds to column n: a block sum per 32 inputs (R265). -/
def floatAdds (mem : Memory) (e : QEntry) (p : Plane) (m n : Nat) : List Acc :=
  (List.range (fmtK p.fmt / 32)).map (fun b =>
    blockTotal ((List.range 32).map (fun j => FNum.mul (activation mem e p.fmt m (32 * b + j)) (p.weight (32 * b + j) n)))
      (addScales (activationScale mem e p.fmt m b) (p.scale b n)))

/-- The integer value of an exact integer. -/
def numInt (v : FNum) : Int :=
  match v with
  | .fin neg m e => signedAt neg m e 0
  | _ => 0

/-- What row m of an INT8 pass adds to column n (R239). -/
def intAdd (mem : Memory) (e : QEntry) (p : Plane) (m n : Nat) : Acc :=
  BitVec.ofInt 80 (((List.range (fmtK p.fmt)).map (fun k =>
    numInt (activation mem e p.fmt m k) * numInt (p.weight k n))).foldl (· + ·) 0)

/-- What a rank row adds to column n: one block sum for each group in which an arrival takes part (R266, R275). -/
def rankAdds (c : Ctx) (p : Plane) (right : Word) (list : List Nat) (n : Nat) : List Acc :=
  let base := rankLow right
  (List.range ((rankCut right + 31) / 32)).filterMap (fun g =>
    let ps := (list.zipIdx.filter (fun x => decide (x.2 / 32 = g) && decide (base ≤ x.1) && decide (x.1 < base + 128)))
    if ps.isEmpty then none
    else
      some (blockTotal (ps.map (fun x =>
        let a := decodeFloat bf16 (c.atten.extractLsb' (16 * x.2) 16).toNat
        match p.scale ((x.1 - base) / 32) n with
        | none => (.nan, false)
        | some w =>
          let r := FNum.mul a (p.weight (x.1 - base) n)
          (scaleNum r.1 w, r.2))) (some 0)))

/-- What row m of a pass adds to every column. -/
def rowAdds (s : State) (t : Nat) (c : Ctx) (e : QEntry) (lists : List (List Nat)) (first m : Nat) : List (List Acc) :=
  let mem := (s.tile t).mem
  (List.range 128).map (fun n =>
    if e.pass.kind = 2 then rankAdds c c.front e.right (lists[m - first]?.getD []) n
    else if fmtElem c.front.fmt = 3 then [intAdd mem e c.front m n]
    else floatAdds mem e c.front m n)

/-- The lists that an RKPASS reads from row `first` on. -/
def readLists (s : State) (t : Nat) (e : QEntry) (first : Nat) : List (List Nat) :=
  (List.range (e.pass.rows - first)).map (fun i =>
    (List.range (rankCut e.right)).map (fun r =>
      mread (s.tile t).mem (operandAddr e + 512 * (first + i) + 2 * r) 2))

/-- The first index of the lists that is out of range: its list, rank and value. An entry that lies in a poisoned line is not
read (R147): its list is left to its step. -/
def badIndex (s : State) (t : Nat) (e : QEntry) (first : Nat) (lists : List (List Nat)) : Option (Nat × Nat × Nat) :=
  (lists.zipIdx.filterMap (fun (l, i) =>
    (l.zipIdx.find? (fun x =>
      decide (4096 ≤ x.1) && (poisonedAt s t (operandAddr e + 512 * (first + i) + 2 * x.2) 2).isNone)).map
        (fun x => (first + i, x.2, x.1)))).head?

/-- The lists that lie in a poisoned line, each with its first poisoned address. -/
def badLists (s : State) (t : Nat) (e : QEntry) (first : Nat) : List (Nat × Nat) :=
  (List.range (e.pass.rows - first)).filterMap (fun i =>
    (poisonedAt s t (operandAddr e + 512 * (first + i)) (2 * rankCut e.right)).map (fun a => (first + i, a)))

/-- Take the pass out of the head of the matrix queue. -/
def beginPass (s : State) (t : Nat) (p : Pass) : State :=
  s.modCtx t (fun c => { c with matrixQ := c.matrixQ.tail, pass := some p })

/-- A pass at the head of the queue (R86, R239, R240): it traps, or it takes over an array that still draws current, whose
pending stop is withdrawn, or it waits for its grant. One row enters in an array cycle, so that its entry cycle comes after that
of every row that has entered (R241). -/
def reachHead (s : State) (t : Nat) (c : Ctx) (e : QEntry) (first : Nat) : State :=
  match headFault s t c e first with
  | some (x, i0, i1) => reportEngine (popQueue s t 2) t 1 (commandTrap e x i0 i1)
  | none =>
    let (cycle, s) := arrayCycle s t
    let now := c.flights.foldl (fun n l => max n (l.cycle + 1)) cycle
    let (id, s) := s.fresh
    let p : Pass := { id := id, entry := e, next := first, first := first, cycle := now, start := now, granted := false,
                      lists := none, bad := [] }
    if (s.tile t).drawing then
      ((beginPass s t { p with granted := true }).modCtx t (fun c => { c with stopping := none })).dropRequests t false true
    else beginPass s t p

/-- A pass ends early by a trap (R86, R207, R240, R242): the rows of its present step do not stand, and the pass is complete once
its stop is granted. -/
def trapPass (s : State) (t : Nat) (p : Pass) (cause : Nat) (i0 i1 : Word) : State :=
  let step := (p.next - p.first) / 32
  let s := s.endDraw t (p.start + (p.next - p.first) + 256)
  let drawing := (s.tile t).drawing
  let s := s.modCtx t (fun c => { c with
    pass := none, stopping := if drawing then some p.entry.inst else c.stopping
    flights := c.flights.filter (fun l => !(l.pass == p.id && l.step == step)) })
  resolveWaits (reportEngine s t 1 (commandTrap p.entry cause i0 i1)) t

/-- Every row of a pass has entered: its stop is asked for M + 256 array cycles after its start grant, or its entry cycle
where it needed none (R86). -/
def allEntered (s : State) (t : Nat) (p : Pass) : State :=
  (s.modCtx t (fun c => { c with pass := none, stopping := some p.entry.inst })).askStop t
    (p.start + (p.entry.pass.rows - p.first) + 256)

/-- Enter row m of a pass, with what it is to add (R241). -/
def enterRow (s : State) (t : Nat) (c : Ctx) (p : Pass) (adds : List (List Acc)) : State :=
  let now := (s.stack (t / 48)).cycle
  let cycle := max p.cycle now
  let l : Flight := {
    row := p.entry.pass.row0 + p.next, cycle := cycle, shadow := false, pass := p.id, inst := p.entry.inst
    step := (p.next - p.first) / 32
    int := p.entry.pass.kind ≠ 2 && fmtElem c.front.fmt == 3
    adds := adds }
  let p := { p with next := p.next + 1, cycle := cycle + 1 }
  let s := s.modCtx t (fun c => { c with pass := some p, flights := c.flights ++ [l] })
  if p.next = p.entry.pass.rows then allEntered s t p else s

/-- What is examined for poison before the next row of a pass that reads rows (R240): the step that begins, or the row. -/
def poisonRanges (c : Ctx) (p : Pass) : List (Nat × Nat) :=
  if (p.next - p.first) % 32 = 0 then stepRanges p.entry c.front.fmt p.next else rowRanges p.entry c.front.fmt p.next

/-- The poisoned byte that ends a pass before its next row: of an RKPASS, in a list that its step reads; of any other pass, in
the rows of the step that begins, or in the row. -/
def rowPoison (s : State) (t : Nat) (c : Ctx) (p : Pass) : Option Nat :=
  let e := p.entry
  if e.pass.kind = 2 then
    (p.bad.find? (fun b => decide (p.next ≤ b.1) && decide ((b.1 - p.first) / 32 = (p.next - p.first) / 32))).map (·.2)
  else rangesPoisoned s t (poisonRanges c p)

/-- The next row of a granted pass enters, unless a line makes it wait, among whose waiters it then stands (R146), or a poisoned
one ends the pass (R240, R241). A store before the pass in tile order that is still under way to what is examined comes first
(R211). -/
def tryRow (s : State) (t : Nat) (c : Ctx) (p : Pass) : State :=
  let e := p.entry
  let v := engineView s t c.id 2
  let rs := rowRanges e c.front.fmt p.next
  if e.pass.kind ≠ 2 && ownEarlier s t c.id e.stamp (poisonRanges c p) then s
  else
  match rowPoison v t c p with
  | some x => trapPass (leaveView s s t c.id 2) t p 0x31 (BitVec.ofNat 64 x) (memInfo1 e.pass.k 128 false 0)
  | none =>
    if e.pass.kind ≠ 2 && !rangesReadable v t c.id rs then
      joinLines s t c 2 (rs.flatMap (fun r => blockedLines v t c.id r.1 r.2)).eraseDups
    else enterRow (leaveView s s t c.id 2) t c p (rowAdds v t c e (p.lists.getD []) p.first p.next)

/-- A turn of a pass under way: RKPASS reads and checks its lists; a granted pass enters its next row, unless a line makes it
wait or a poisoned one ends it. -/
def turnPass (s : State) (t : Nat) (c : Ctx) (p : Pass) : State :=
  let e := p.entry
  if e.pass.kind = 2 ∧ p.lists.isNone then
    let rs := (List.range (e.pass.rows - p.first)).flatMap (fun i => rowRanges e c.front.fmt (p.first + i))
    let v := engineView s t c.id 2
    if rangesReadable v t c.id rs = false then
      joinLines s t c 2 (rs.flatMap (fun r => blockedLines v t c.id r.1 r.2)).eraseDups
    else
      let lists := readLists v t e p.first
      let s1 := leaveView s s t c.id 2
      match badIndex v t e p.first lists with
      | some (m, r, x) =>
        trapPass s1 t p 0x16 (BitVec.ofNat 64 (operandAddr e + 512 * m + 2 * r)) (rankInfo x r false)
      | none =>
        s1.modCtx t (fun c => { c with pass := some { p with lists := some lists, bad := badLists v t e p.first } })
  else if p.granted = false ∨ (s.stack (t / 48)).cycle + 4 ≤ p.cycle then s
  else tryRow s t c p

/-! ### Landing (R241) -/

/-- Land a row in the accumulator file. -/
def landRow (c : Ctx) (l : Flight) : Ctx :=
  l.adds.zipIdx.foldl (fun c (adds, n) =>
    c.setAcc l.row n (adds.foldl (fun a x => if l.int then a + x else accAdd a x) (c.accAt l.row n))) c

/-- ACCUMULATOR_ROW_LAND (R241): the row that entered first lands, 256 array cycles after it entered. -/
def execAccumulatorRowLand (tile : Nat) (s : State) : Out :=
  match (s.tile tile).ctx with
  | none => .next s
  | some c =>
    match c.flights with
    | [] => .next s
    | l :: rest =>
      if l.cycle + 256 < (s.stack (tile / 48)).cycle + 4 then
        .next (resolveWaits (s.modCtx tile (fun c => landRow { c with flights := rest } l)) tile)
      else .next s

/-! ### The other matrix commands (R234 to R238, R274, R393 to R395) -/

/-- A row aimed at accumulator rows [row0, row0 + n) is in flight. -/
def rowsInFlight (c : Ctx) (row0 n : Nat) : Bool := c.flights.any (fun l => decide (row0 ≤ l.row) && decide (l.row < row0 + n))

/-- Perform MLWS (R237, R393). -/
def performMlws (s : State) (t : Nat) (c : Ctx) (e : QEntry) (k : Nat) (fmt : BitVec 5) : Performed :=
  let a := operandAddr e
  let n := tileSize fmt
  let clear := s.modCtx t (fun c => { c with shadow := .reset })
  if c.flights.any (·.shadow) then .waits []
  else if !readable s t c.id a n then .waits (blockedLines s t c.id a n)
  else
    match poisonedAt s t a n with
    | some x => .traps clear 0x31 (BitVec.ofNat 64 x) (memInfo1 k 128 false 0)
    | none =>
      let mem := (s.tile t).mem
      match (if fmtS24 fmt then illegalGroup mem a else none) with
      | some (col, g) =>
        .traps clear 0x14 (BitVec.ofNat 64 (64 * col + g)) (BitVec.ofNat 64 (a + 16384 + 32 * col + g / 2))
      | none => .complete (s.modCtx t (fun c => { c with shadow := readPlane mem a fmt c.codebook })) 0

/-- Exchange the planes (R238): rows in flight keep theirs. -/
def swapPlanes (c : Ctx) : Ctx :=
  { c with front := c.shadow, shadow := c.front, flights := c.flights.map (fun l => { l with shadow := !l.shadow }) }

/-- Perform MZERO (R394). -/
def performMzero (s : State) (t : Nat) (c : Ctx) (row0 n : Nat) : Performed :=
  if rowsInFlight c row0 n then .waits []
  else .complete (s.modCtx t (fun c => { c with acc := tclear c.acc (128 * row0) (128 * (row0 + n)) })) 0

/-- Perform MCBL (R236, R394). -/
def performMcbl (s : State) (t : Nat) (c : Ctx) (e : QEntry) (k : Nat) : Performed :=
  let a := operandAddr e
  if !readable s t c.id a 32 then .waits (blockedLines s t c.id a 32)
  else
    match poisonedAt s t a 32 with
    | some x => .traps s 0x31 (BitVec.ofNat 64 x) (memInfo1 k 32 false 0)
    | none => .complete (s.modCtx t (fun c => { c with codebook := BitVec.ofNat 256 (mread (s.tile t).mem a 32) })) 0

/-- Perform RKATL (R274). -/
def performRkatl (s : State) (t : Nat) (c : Ctx) (e : QEntry) (k : Nat) : Performed :=
  let a := operandAddr e
  if !c.flights.isEmpty then .waits []
  else if !readable s t c.id a 512 then .waits (blockedLines s t c.id a 512)
  else
    match poisonedAt s t a 512 with
    | some x => .traps s 0x31 (BitVec.ofNat 64 x) (memInfo1 k 128 false 0)
    | none =>
      .complete (s.modCtx t (fun c => { c with
        atten := BitVec.ofNat 4096 (mread (s.tile t).mem a 512), attenSrc := a, attenRun := true })) 0

/-- The bytes that a DT of MRD writes (R395). -/
def mrdBytes (dt : Nat) : Nat :=
  match dt with
  | 0 => 4
  | 1 => 2
  | 2 => 1
  | 3 => 1
  | 4 => 4
  | 5 => 1
  | _ => 8

/-- What MRD writes of an accumulator entry (R395). -/
def mrdValue (dt rm : Nat) (sat : Bool) (e : Acc) : Nat × BitVec 6 :=
  let v := decodeFloat a80f e.toNat
  match dt with
  | 0 => deliverNum fp32 rm sat v false
  | 1 => deliverNum bf16 rm sat v false
  | 2 => deliverNum e4m3 rm sat v false
  | 3 => deliverNum e5m2 rm sat v false
  | 4 => deliverInt 3 sat e.toInt
  | 5 => deliverInt 0 sat e.toInt
  | _ => deliverInt 4 sat e.toInt

/-- Perform MRD (R395). -/
def performMrd (s : State) (t : Nat) (c : Ctx) (e : QEntry) (n row0 dt rm : Nat) (sat : Bool) : Performed :=
  let w := mrdBytes dt
  if rowsInFlight c row0 n || writeHeld s t c.id (operandAddr e) (w * (128 * n)) then .waits []
  else
    let ys := (List.range (128 * n)).map (fun i => mrdValue dt rm sat (c.accAt (row0 + i / 128) (i % 128)))
    let s := writeScratch s t (operandAddr e) (ys.flatMap (fun y => bytesOf w y.1))
    .complete (fillLines s t e.empties) (orFlags (ys.map (·.2)))

/-- Perform a matrix-queue command that is no pass; none for any other instruction. -/
def performMatrix (s : State) (t : Nat) (c : Ctx) (e : QEntry) (i : Instr) : Option Performed :=
  match i with
  | .mlws _ k fmt => some (performMlws s t c e k.toNat fmt)
  | .mswap _ => some (.complete (s.modCtx t swapPlanes) 0)
  | .mzero _ m1 row0 => some (performMzero s t c row0.toNat (m1.toNat + 1))
  | .mrd _ _ m1 row0 dt rm sat => some (performMrd s t c e (m1.toNat + 1) row0.toNat dt.toNat rm.toNat sat)
  | .mcbl _ k => some (performMcbl s t c e k.toNat)
  | .rkatl _ k => some (performRkatl s t c e k.toNat)
  | _ => none

/-- MATRIX_COMMAND_PERFORM (R207, R240, R244): a pass under way takes its turn; otherwise the command at the head of the
queue is performed, or reaches the head as a pass, once the stores before it in tile order to what is then examined are performed
(R211). -/
def execMatrixCommandPerform (tile : Nat) (s : State) : Out :=
  match (s.tile tile).ctx with
  | none => .next s
  | some c =>
    match c.pass with
    | some p => .next (turnPass s tile c p)
    | none =>
      match c.matrixQ with
      | [] => .next s
      | e :: _ =>
        match e.instr with
        | none => .next s
        | some i =>
          if c.stopM then .next s
          else
            if (passOf i).isSome then
              .next (if ownEarlier s tile c.id e.stamp (stepRanges e c.front.fmt 0) then s else reachHead s tile c e 0)
            else .next (performHead s tile 2 1 c e (fun s => (performMatrix s tile c e i).getD (.waits [])))

/-! ### The instructions at firing (R392, R396) -/

/-- A matrix form that reads an operand: the checks at firing, then the command. `size` is none where the bounds are checked
at the head of the queue. -/
def fireMatrix (s : State) (f : Firing) (h : Hdr) (i : Instr) (k : BitVec 4) (size : Option Nat) (align : Nat)
    (writes : Bool) : State :=
  let c := kregOf s f.tile k.toNat
  let off := tokVal f.left
  match engineFault c off.toNat size align (if writes then permST else permLD) with
  | some x => trapFiring s f x (c.base + off) (memInfo1 k.toNat align writes 0)
  | none =>
    fireCommand s f 2 h.w i [c] [] (if writes then linesOf (c.base.toNat + off.toNat) (size.getD 0) else [])

/-- MLWS (R234, R392). -/
def execMlws (h : Hdr) (k : BitVec 4) (fmt : BitVec 5) (s : State) : Out :=
  engineForm s (fun f s => fireMatrix s f h (.mlws h k fmt) k (some (tileSize fmt)) 128 false)

/-- MSWAP (R238, R394). -/
def execMswap (h : Hdr) (s : State) : Out := engineForm s (fun f s => fireCommand s f 2 h.w (.mswap h) [] [] [])

/-- MPASS (R239). -/
def execMpass (h : Hdr) (k : BitVec 4) (m1 row0 : BitVec 10) (s : State) : Out :=
  engineForm s (fun f s => fireMatrix s f h (.mpass h k m1 row0) k none 128 false)

/-- MPASSS (R239). -/
def execMpasss (h : Hdr) (k : BitVec 4) (m1 row0 : BitVec 10) (s : State) : Out :=
  engineForm s (fun f s => fireMatrix s f h (.mpasss h k m1 row0) k none 128 false)

/-- MZERO (R394). -/
def execMzero (h : Hdr) (m1 row0 : BitVec 10) (s : State) : Out :=
  engineForm s (fun f s => fireCommand s f 2 h.w (.mzero h m1 row0) [] [] [])

/-- MRD (R395). -/
def execMrd (h : Hdr) (k : BitVec 4) (m1 row0 : BitVec 10) (dt : BitVec 3) (rm : BitVec 2) (sat : Bool) (s : State) : Out :=
  engineForm s (fun f s =>
    fireMatrix s f h (.mrd h k m1 row0 dt rm sat) k (some (128 * (m1.toNat + 1) * mrdBytes dt.toNat)) 128 true)

/-- MCBL (R236, R392). -/
def execMcbl (h : Hdr) (k : BitVec 4) (s : State) : Out :=
  engineForm s (fun f s => fireMatrix s f h (.mcbl h k) k (some 32) 32 false)

/-- RKATL (R274). -/
def execRkatl (h : Hdr) (k : BitVec 4) (s : State) : Out :=
  engineForm s (fun f s => fireMatrix s f h (.rkatl h k) k (some 512) 128 false)

/-- RKPASS (R275, R278): the right token first, then the source over the bytes of its lists. -/
def execRkpass (h : Hdr) (k : BitVec 4) (m1 row0 : BitVec 10) (s : State) : Out :=
  engineForm s (fun f s =>
    if baseTokenLegal 128 3968 (tokVal f.right) = false then trapFiring s f 0x15 (tokVal f.right) 1
    else fireMatrix s f h (.rkpass h k m1 row0) k (some (512 * m1.toNat + 2 * rankCut (tokVal f.right))) 128 false)

/-! ### Grants (R86 to R89) -/

/-- Entry i of a slew table. -/
def slewEntry (table : BitVec 32) (i : Nat) : Nat := (table.extractLsb' (4 * i) 4).toNat

/-- A pass waits for its start grant and may ask for it in the step that begins (R86). -/
def mayAskStart (s : State) (t now : Nat) : Bool :=
  match (s.tile t).ctx with
  | none => false
  | some c =>
    match c.pass with
    | none => false
    | some p =>
      !p.granted && decide (p.entry.cycle + 4 ≤ now) && !(s.stack (t / 48)).starts.any (fun r => r.1 == t) &&
      (if p.entry.pass.kind = 2 then p.lists.isSome
       else rangesReadable s t c.id (stepRanges p.entry c.front.fmt p.next))

/-- The trailing array of a locked pair asks for its start grant with the leading one, or behind it where it draws no current yet
(R84, R86, log 40). -/
def mayAskTrailing (s : State) (t now : Nat) : Bool :=
  decide (t % 2 = 1) && !(s.tile t).drawing && !(s.stack (t / 48)).starts.any (fun r => r.1 == t) &&
  (match (s.tile (t - 1)).ctx with
    | none => false
    | some c => c.lock && (mayAskStart s (t - 1) now || (match c.pass with
      | some p => p.granted
      | none => false)))

/-- Grant a start: the array draws current, and the pass may stream from this boundary on; a stop that a trailing array still has to
be granted for an earlier pass is withdrawn. A trailing array's own start leaves the stop that its pass has asked for by then. -/
def grantStart (s : State) (now t : Nat) : State :=
  ((if (s.tile t).ctx.isSome then s.dropRequests t false true else s).modTile t (fun x => { x with drawing := true })).modCtx t (fun c => { c with
    pass := c.pass.map (fun p => { p with granted := true, start := now, cycle := now }) })

/-- A pass of a tile's context is complete: the matrix queue may hold nothing any more, which sets the event flag (R379), and a WAITQ
may resolve (R210). -/
def noteMatrixEmpty (s : State) (t : Nat) : State :=
  match (s.tile t).ctx with
  | some c => resolveWaits (if c.matrixQ.isEmpty && c.pass.isNone && c.stopping.isNone then setEv s t else s) t
  | none => s

/-- Grant a stop: the array draws no current, and the pass that asked is complete (R207). -/
def grantStop (s : State) (t : Nat) : State :=
  let s := s.modTile t (fun x => { x with drawing := false })
  match (s.tile t).ctx with
  | some c => if c.stopping.isSome then noteMatrixEmpty (s.modCtx t (fun c => { c with stopping := none })) t else s
  | none => s

/-- GRANT_STEP (R87, R88): the next step boundary of a stack. -/
def execGrantStep (k : Nat) (s : State) : Out :=
  if 4 ≤ k then .next s
  else
    let now := (s.stack k).cycle + 4
    let s := s.modStack k (fun x => match x.write with
      | some v => { x with cycle := now, write := none, up := v.extractLsb' 0 32, dn := v.extractLsb' 32 32 }
      | none => { x with cycle := now })
    let asking := ((List.range 48).map (· + 48 * k)).filter (fun t => mayAskStart s t now || mayAskTrailing s t now)
    let s := s.modStack k (fun x => { x with starts := x.starts ++ asking.map (fun t => (t, now)) })
    let x := s.stack k
    let up := x.starts.take (slewEntry x.up x.iu)
    let due := sortBy (fun r => r.2 * 256 + r.1) (x.stops.filter (fun r => r.2 ≤ now && (s.tile r.1).drawing))
    let dn := due.take (slewEntry x.dn x.id)
    let s := s.modStack k (fun x => { x with
      starts := x.starts.filter (fun r => !up.contains r)
      stops := x.stops.filter (fun r => !dn.contains r)
      fill := x.fill + BitVec.ofNat 32 (due.length - dn.length)
      iu := if up.isEmpty then 0 else min (x.iu + 1) 7
      id := if dn.isEmpty then 0 else min (x.id + 1) 7 })
    let s := up.foldl (fun s r => grantStart s now r.1) s
    .next (dn.foldl (fun s r => grantStop s r.1) s)

end Sys2Proof.Machine
end

