-- ==== Sys2Proof/Machine/Shares.lean ====
section
/-! DEFINITION. Where a context's scratchpad share lies (R78, R79, R302): on the tile that runs it, in its save image, or
nowhere once it has ended. Copies and riders that run on outside the context read and write it here. -/

namespace Sys2Proof.Machine

/-- The whereabouts of a context's share. -/
inductive Home where
  | tile (t : Nat)
  | image
  | gone
  deriving DecidableEq, Repr

/-- The image of a context. -/
def imageOf (s : State) (ctx : Nat) : Option Image := s.images.find? (fun i => i.ctx.id == ctx)

/-- The tile on which a context that is neither done nor ended runs. -/
def tileOf (s : State) (ctx : Nat) : Option Nat :=
  (List.range 192).find? (fun t =>
    match (s.tile t).ctx with
    | some c => c.id == ctx && c.phase.live
    | none => false)

/-- Where a context's share lies. -/
def homeOf (s : State) (ctx : Nat) : Home :=
  match tileOf s ctx with
  | some t => .tile t
  | none => if (imageOf s ctx).isSome then .image else .gone

/-- Change a context's image. -/
def State.modImage (s : State) (ctx : Nat) (g : Image → Image) : State :=
  { s with images := s.images.map (fun i => if i.ctx.id == ctx then g i else i) }

/-- Change a context wherever it is. -/
def modContext (s : State) (ctx : Nat) (g : Ctx → Ctx) : State :=
  match homeOf s ctx with
  | .tile t => s.modCtx t g
  | .image => s.modImage ctx (fun i => { i with ctx := g i.ctx })
  | .gone => s

/-- A context wherever it is. -/
def contextOf (s : State) (ctx : Nat) : Option Ctx :=
  match homeOf s ctx with
  | .tile t => (s.tile t).ctx
  | .image => (imageOf s ctx).map (·.ctx)
  | .gone => none

/-- Where what a context's copies and riders read of its share lies: on the tile that an unresolved trap has ended it on too,
until they have completed (R302). -/
def readHome (s : State) (ctx : Nat) : Home :=
  match homeOf s ctx with
  | .gone =>
    match (List.range 192).find? (fun t => (s.tile t).owed.contains ctx) with
    | some t => .tile t
    | none => .gone
  | h => h

/-- The state of a line of a context's share; a line of a share that is gone counts as full. -/
def shareLine (s : State) (ctx l : Nat) : LineState :=
  match readHome s ctx with
  | .tile t => lineState s t l
  | .image =>
    match imageOf s ctx with
    | some i => tget LineState.reset i.lines l
    | none => .reset
  | .gone => .reset

/-- A write of the context's own to a line of its saved share is still to reach the image (R77, R79). -/
def imageWrites (s : State) (ctx l : Nat) : Bool :=
  match imageOf s ctx with
  | some i => ownWrites s ctx (.scratch i.tile (128 * l)) 1
  | none => false

/-- A line of a share can be read. -/
def shareReadable (s : State) (ctx l : Nat) : Bool :=
  match readHome s ctx with
  | .tile t => !blockedRead s t ctx (.scratch t (128 * l))
  | .image => (shareLine s ctx l).full && !imageWrites s ctx l
  | .gone => true

/-- A line of a share cannot be delivered to yet: another party reserves it (R363), or a write of the context's own to it, which
comes first, is still under way (R211, R228). -/
def shareReserved (s : State) (ctx l : Nat) : Bool :=
  match homeOf s ctx with
  | .tile t => reservedByOther s 192 0 (.scratch t (128 * l)) || ownWrites s ctx (.scratch t (128 * l)) 1
  | .image => imageWrites s ctx l
  | .gone => false

/-- Bytes of a share. -/
def shareBytes (s : State) (ctx off n : Nat) : List Byte :=
  match readHome s ctx with
  | .tile t => mbytes (s.tile t).mem off n
  | .image =>
    match imageOf s ctx with
    | some i => mbytes i.mem off n
    | none => List.replicate n 0
  | .gone => List.replicate n 0

/-- Write bytes into a share: granule tags are cleared (R143). -/
def shareWrite (s : State) (ctx off : Nat) (bs : List Byte) : State :=
  match homeOf s ctx with
  | .tile t => writeScratch s t off bs
  | .image => s.modImage ctx (fun i => { i with
      mem := mwriteBytes i.mem off bs
      gtags := (granulesOf off bs.length).foldl (fun g k => tset false g k false) i.gtags })
  | .gone => s

/-- Set a line of a share full, as poison or not (R145, R147). -/
def shareFill (s : State) (ctx l : Nat) (poison : Bool) : State :=
  match homeOf s ctx with
  | .tile t => wake (fillLine s t l poison)
  | .image => s.modImage ctx (fun i => { i with lines := tset LineState.reset i.lines l { full := true, poison := poison } })
  | .gone => s

/-- Set a line of a share empty. -/
def shareEmpty (s : State) (ctx l : Nat) : State :=
  match homeOf s ctx with
  | .tile t => emptyPlace s (.scratch t (128 * l))
  | .image => s.modImage ctx (fun i => { i with lines := tset LineState.reset i.lines l { full := false, poison := false } })
  | .gone => s

/-- Set the event flag of a context (R379). -/
def contextEvent (s : State) (ctx : Nat) : State :=
  match homeOf s ctx with
  | .tile t => setEv s t
  | .image => s.modImage ctx (fun i => { i with ctx := { i.ctx with ev := true } })
  | .gone => s

/-- A copy or rider of a context is complete: a WAITQ of its block may resolve (R210). -/
def shareResolve (s : State) (ctx : Nat) : State :=
  match homeOf s ctx with
  | .tile t => resolveWaits s t
  | .image => s
  | .gone => s

/-- Report a trap of a copy (2) or rider (3) to its context (R204, R219). -/
def reportTrap (s : State) (ctx source : Nat) (r : TrapRec) : State :=
  contextEvent (modContext s ctx (fun c => { c with pendingTraps := c.pendingTraps ++ [{ source := source, trap := r }] })) ctx

/-- An owed context that has ended keeps its tile until its copies and riders are done (R302). -/
def owes (s : State) (ctx : Nat) : Bool := s.copies.any (copyOfCtx ctx) || s.riders.any (fun r => r.ctx == ctx)

end Sys2Proof.Machine
end

