-- ==== Sys2Proof/Machine/Zstd.lean ====
section
/-! DEFINITION. Zstandard frames: the decompressor of RFC 8878 within the limits of R179, for fills (R178 to R180), copies
(R403) and copy packets (R57). The manual names the RFC and does not repeat it; log 9. -/

namespace Sys2Proof.Machine

/-- A little-endian number. -/
def leNat (bs : List Byte) : Nat := bs.foldr (fun b n => b.toNat + 256 * n) 0

/-- A bit stream that is read from its last bit down: its number, and how many bits are still unread. -/
structure ZBits where
  val : Nat
  left : Nat
  deriving DecidableEq, Repr

/-- The bit stream of some bytes: the highest set bit of the last byte, which may not be 0, marks its start. -/
def zOpen (bs : List Byte) : Option ZBits :=
  match bs.getLast? with
  | none => none
  | some b => if b = 0 then none else some { val := leNat bs, left := (leNat bs).log2 }

/-- The next n bits, as a number whose highest bit comes first. -/
def ZBits.take (b : ZBits) (n : Nat) : Option (Nat × ZBits) :=
  if n ≤ b.left then some ((b.val >>> (b.left - n)) % 2 ^ n, { b with left := b.left - n }) else none

/-- The next n bits, with zeros past the end of the stream, unread. -/
def ZBits.peek (b : ZBits) (n : Nat) : Nat :=
  if n ≤ b.left then (b.val >>> (b.left - n)) % 2 ^ n else (b.val % 2 ^ b.left) * 2 ^ (n - b.left)

/-! ### Finite-state entropy tables -/

/-- One state of a table: the symbol it gives, and how the next state is read. -/
structure ZRow where
  sym : Nat
  bits : Nat
  base : Nat
  deriving DecidableEq, Repr

/-- A table: the logarithm of its number of states, and its rows. -/
structure ZTable where
  log : Nat
  rows : List ZRow
  deriving DecidableEq, Repr

/-- How many zeros a run of 2-bit repeat flags stands for, and where it ends. -/
def zZeros (n : Nat) : Nat → Nat → Nat → Nat × Nat
  | 0, pos, k => (k, pos)
  | fuel + 1, pos, k =>
    let r := (n >>> pos) % 4
    if r = 3 then zZeros n fuel (pos + 2) (k + 3) else (k + r, pos + 2)

/-- The counts of a table description, from bit `pos` on, with `rest` states still to give out: 0 stands for the count
"less than one", and k + 1 for the count k. At most `top` symbols. -/
def zCounts (n top : Nat) : Nat → Nat → Nat → List Nat → Option (List Nat × Nat)
  | 0, _, _, _ => none
  | fuel + 1, pos, rest, acc =>
    if rest = 0 then (if acc.length ≤ top then some (acc.reverse, pos) else none)
    else if top ≤ acc.length then none
    else
      let bits := (rest + 1).log2 + 1
      let half := 2 ^ (bits - 1)
      let spare := 2 ^ bits - 2 - rest
      let v := (n >>> pos) % 2 ^ bits
      let (x, used) := if v % half < spare then (v % half, bits - 1) else if half ≤ v then (v - spare, bits) else (v, bits)
      if x = 1 then
        let (k, pos) := zZeros n 128 (pos + used) 0
        zCounts n top fuel pos rest (List.replicate k 1 ++ 1 :: acc)
      else zCounts n top fuel (pos + used) (rest - (if x = 0 then 1 else x - 1)) (x :: acc)

/-- The place after one that the spread takes, past the places of the rare symbols. -/
def zNextPlace (size high : Nat) : Nat → Nat → Nat
  | 0, pos => pos
  | fuel + 1, pos =>
    let pos := (pos + size / 2 + size / 8 + 3) % size
    if high < pos then zNextPlace size high fuel pos else pos

/-- Put a symbol into k places. -/
def zSpread (size high sym : Nat) : Nat → List Nat × Nat → List Nat × Nat
  | 0, x => x
  | k + 1, (cells, pos) => zSpread size high sym k (cells.set pos sym, zNextPlace size high size pos)

/-- The rows of the states in order, each symbol's states taking its numbers in order. -/
def zRows (log : Nat) : List Nat → List Nat → List ZRow
  | [], _ => []
  | sym :: rest, next =>
    let k := next.getD sym 1
    let bits := log - k.log2
    { sym := sym, bits := bits, base := k * 2 ^ bits - 2 ^ log } :: zRows log rest (next.set sym (k + 1))

/-- The table of some counts. -/
def zTable (log : Nat) (counts : List Nat) : ZTable :=
  let size := 2 ^ log
  let syms := (List.range counts.length).map (fun i => (i, counts.getD i 1))
  let rare := (syms.filter (fun p => p.2 == 0)).map (·.1)
  let cells := (List.range rare.length).foldl (fun c i => c.set (size - 1 - i) (rare.getD i 0)) (List.replicate size 0)
  let cells := syms.foldl (fun x p => zSpread size (size - 1 - rare.length) p.1 (p.2 - 1) x) (cells, 0)
  { log := log, rows := zRows log cells.1 (counts.map (fun x => if x = 0 then 1 else x - 1)) }

/-- A table of one symbol. -/
def zOneSymbol (sym : Nat) : ZTable := { log := 0, rows := [{ sym := sym, bits := 0, base := 0 }] }

/-- A table description at the head of some bytes, and the bytes after it. -/
def zReadTable (maxLog top : Nat) (bs : List Byte) : Option (ZTable × List Byte) :=
  let n := leNat (bs.take 512)
  let log := n % 16 + 5
  if maxLog < log then none
  else
    match zCounts n top 600 4 (2 ^ log) [] with
    | none => none
    | some (counts, pos) =>
      let used := (pos + 7) / 8
      if bs.length < used then none else some (zTable log counts, bs.drop used)

/-- The row of a state. -/
def ZTable.row (t : ZTable) (state : Nat) : ZRow := t.rows.getD state { sym := 0, bits := 0, base := 0 }

/-! ### Literals -/

/-- A Huffman code: its longest length, and its symbols in the order of their codes, each with its weight. -/
structure ZHuff where
  log : Nat
  codes : List (Nat × Byte)
  deriving DecidableEq, Repr

/-- The code of some weights, to which the last symbol's weight is added. -/
def zHuff (weights : List Nat) : Option ZHuff :=
  let sum := (weights.map (fun w => if w = 0 then 0 else 2 ^ (w - 1))).foldl (· + ·) 0
  let log := sum.log2 + 1
  let rest := 2 ^ log - sum
  if sum = 0 ∨ 11 < log ∨ 2 ^ rest.log2 ≠ rest ∨ 255 < weights.length then none
  else
    let all := weights ++ [rest.log2 + 1]
    let of (w : Nat) : List (Nat × Byte) :=
      ((List.range all.length).filter (fun i => all.getD i 0 == w)).map (fun i => (w, BitVec.ofNat 8 i))
    some { log := log, codes := (List.range log).flatMap (fun i => of (i + 1)) }

/-- The weights that two interleaved states give, up to the end of their stream. -/
def zWeights (t : ZTable) : Nat → Nat → Nat → ZBits → List Nat → Option (List Nat)
  | 0, _, _, _, _ => none
  | fuel + 1, a, b, bits, acc =>
    let r := t.row a
    match bits.take r.bits with
    | none => some ((t.row b).sym :: r.sym :: acc).reverse
    | some (n, bits) => zWeights t fuel b (r.base + n) bits (r.sym :: acc)

/-- A Huffman tree description at the head of some bytes, and the bytes after it. -/
def zReadHuff (bs : List Byte) : Option (ZHuff × List Byte) :=
  match bs with
  | [] => none
  | h :: rest =>
    let h := h.toNat
    if 128 ≤ h then
      let count := h - 127
      let n := (count + 1) / 2
      if rest.length < n then none
      else
        let ws := ((rest.take n).flatMap (fun b => [b.toNat / 16, b.toNat % 16])).take count
        (zHuff ws).map (fun t => (t, rest.drop n))
    else if rest.length < h then none
    else
      match zReadTable 6 256 (rest.take h) with
      | none => none
      | some (t, stream) =>
        match zOpen stream with
        | none => none
        | some bits =>
          match bits.take t.log with
          | none => none
          | some (a, bits) =>
            match bits.take t.log with
            | none => none
            | some (b, bits) =>
              match zWeights t 256 a b bits [] with
              | none => none
              | some ws => (zHuff ws).map (fun t => (t, rest.drop h))

/-- The symbol whose codes span an index. -/
def zFindCode : List (Nat × Byte) → Nat → Option (Nat × Byte)
  | [], _ => none
  | (w, s) :: rest, i => if i < 2 ^ (w - 1) then some (w, s) else zFindCode rest (i - 2 ^ (w - 1))

/-- Decode n symbols, which must use up the stream. -/
def zSymbols (t : ZHuff) : Nat → ZBits → List Byte → Option (List Byte)
  | 0, bits, acc => if bits.left = 0 then some acc.reverse else none
  | n + 1, bits, acc =>
    match zFindCode t.codes (bits.peek t.log) with
    | none => none
    | some (w, s) =>
      match bits.take (t.log + 1 - w) with
      | none => none
      | some (_, bits) => zSymbols t n bits (s :: acc)

/-- One stream of n literals. -/
def zStream (t : ZHuff) (n : Nat) (bs : List Byte) : Option (List Byte) :=
  match zOpen bs with
  | none => none
  | some bits => zSymbols t n bits []

/-- The literals of one stream, or of four behind a jump table. -/
def zStreams (t : ZHuff) (four : Bool) (n : Nat) (bs : List Byte) : Option (List Byte) :=
  if !four then zStream t n bs
  else
    let each := (n + 3) / 4
    let s1 := leNat (bs.take 2)
    let s2 := leNat ((bs.drop 2).take 2)
    let s3 := leNat ((bs.drop 4).take 2)
    let body := bs.drop 6
    if bs.length < 6 ∨ body.length < s1 + s2 + s3 ∨ n < 3 * each then none
    else
      match zStream t each (body.take s1), zStream t each ((body.drop s1).take s2),
          zStream t each ((body.drop (s1 + s2)).take s3), zStream t (n - 3 * each) (body.drop (s1 + s2 + s3)) with
      | some a, some b, some c, some d => some (a ++ b ++ c ++ d)
      | _, _, _, _ => none

/-- What a frame carries from block to block, and the output so far, newest byte first. -/
structure ZFrame where
  huff : Option ZHuff
  ll : Option ZTable
  of : Option ZTable
  ml : Option ZTable
  reps : Nat × Nat × Nat
  out : List Byte
  made : Nat
  deriving DecidableEq, Repr

/-- A literals section at the head of a block: its literals, and the bytes after it. -/
def zLiterals (f : ZFrame) (limit : Nat) (bs : List Byte) : Option (List Byte × ZFrame × List Byte) :=
  match bs with
  | [] => none
  | b :: _ =>
    let kind := b.toNat % 4
    let form := b.toNat / 4 % 4
    if kind < 2 then
      let head := if form % 2 = 0 then 1 else if form = 1 then 2 else 3
      let n := leNat (bs.take head) / (if form % 2 = 0 then 8 else 16)
      let body := bs.drop head
      if bs.length < head ∨ limit < n then none
      else if kind = 0 then (if body.length < n then none else some (body.take n, f, body.drop n))
      else
        match body with
        | [] => none
        | x :: rest => some (List.replicate n x, f, rest)
    else
      let head := if form < 2 then 3 else form + 2
      let width := if form < 2 then 10 else if form = 2 then 14 else 18
      let h := leNat (bs.take head) / 16
      let n := h % 2 ^ width
      let size := h / 2 ^ width
      let body := (bs.drop head).take size
      if bs.length < head + size ∨ limit < n then none
      else
        let tree := if kind = 2 then zReadHuff body else f.huff.map (fun t => (t, body))
        match tree with
        | none => none
        | some (t, streams) =>
          (zStreams t (decide (form ≠ 0)) n streams).map (fun lits =>
            (lits, { f with huff := some t }, bs.drop (head + size)))

/-! ### Sequences -/

/-- The base and the extra bits of each literal-length code. -/
def zLitBases : List (Nat × Nat) :=
  (List.range 16).map (fun i => (i, 0)) ++
  [(16, 1), (18, 1), (20, 1), (22, 1), (24, 2), (28, 2), (32, 3), (40, 3), (48, 4), (64, 6)] ++
  (List.range 10).map (fun i => (2 ^ (i + 7), i + 7))

/-- The base and the extra bits of each match-length code. -/
def zMatchBases : List (Nat × Nat) :=
  (List.range 32).map (fun i => (i + 3, 0)) ++
  [(35, 1), (37, 1), (39, 1), (41, 1), (43, 2), (47, 2), (51, 3), (59, 3), (67, 4), (83, 4), (99, 5)] ++
  (List.range 10).map (fun i => (2 ^ (i + 7) + 3, i + 7))

/-- The predefined tables, their counts as `zCounts` gives them. -/
def zLitDefault : ZTable :=
  zTable 6 ([5, 4] ++ List.replicate 11 3 ++ [2, 2, 2] ++ List.replicate 9 3 ++ [4, 3] ++ List.replicate 5 2 ++
    List.replicate 4 0)

def zMatchDefault : ZTable :=
  zTable 6 ([2, 5, 4] ++ List.replicate 6 3 ++ List.replicate 37 2 ++ List.replicate 7 0)

def zOffsetDefault : ZTable :=
  zTable 5 (List.replicate 6 2 ++ List.replicate 3 3 ++ List.replicate 15 2 ++ List.replicate 5 0)

/-- The table of one kind of code by its mode, and the bytes after its description. -/
def zModeTable (mode maxLog top : Nat) (predefined : ZTable) (old : Option ZTable) (bs : List Byte) :
    Option (ZTable × List Byte) :=
  if mode = 0 then some (predefined, bs)
  else if mode = 1 then
    match bs with
    | [] => none
    | b :: rest => if b.toNat < top then some (zOneSymbol b.toNat, rest) else none
  else if mode = 2 then zReadTable maxLog top bs
  else old.map (fun t => (t, bs))

/-- Copy m bytes from `off` bytes back. -/
def zMatch (off : Nat) : Nat → Nat → List Byte → List Byte
  | 0, _, out => out
  | fuel + 1, m, out =>
    if m = 0 then out
    else
      let k := min m off
      zMatch off fuel (m - k) ((out.drop (off - k)).take k ++ out)

/-- The offset that an offset value names, and the recent offsets after it. -/
def zOffset (v : Nat) (lits : Nat) (reps : Nat × Nat × Nat) : Nat × (Nat × Nat × Nat) :=
  let (a, b, c) := reps
  if 3 < v then (v - 3, (v - 3, a, b))
  else
    match (if lits = 0 then v + 1 else v) with
    | 1 => (a, (a, b, c))
    | 2 => (b, (b, a, c))
    | 3 => (c, (c, a, b))
    | _ => (a - 1, (a - 1, a, b))

/-- The states of the three tables. -/
structure ZStates where
  ll : Nat
  of : Nat
  ml : Nat
  deriving DecidableEq, Repr

/-- Read the next state of a table. -/
def zAdvance (t : ZTable) (state : Nat) (bits : ZBits) : Option (Nat × ZBits) :=
  (bits.take (t.row state).bits).map (fun r => ((t.row state).base + r.1, r.2))

/-- Carry out n sequences over the literals left. The answer says whether the block ends well; on a breach the frame holds
what was produced before it. -/
def zSequences (ll of ml : ZTable) (window limit : Nat) : Nat → ZStates → ZBits → List Byte → ZFrame → ZFrame × Bool
  | 0, _, bits, lits, f =>
    if bits.left = 0 ∧ f.made + lits.length ≤ limit then
      ({ f with out := lits.reverse ++ f.out, made := f.made + lits.length }, true)
    else (f, false)
  | n + 1, st, bits, lits, f =>
    let oc := (of.row st.of).sym
    match bits.take oc with
    | none => (f, false)
    | some (ox, bits) =>
      let (mb, mx) := zMatchBases.getD (ml.row st.ml).sym (0, 0)
      match bits.take mx with
      | none => (f, false)
      | some (m, bits) =>
        let (lb, lx) := zLitBases.getD (ll.row st.ll).sym (0, 0)
        match bits.take lx with
        | none => (f, false)
        | some (l, bits) =>
          let l := lb + l
          let m := mb + m
          let (off, reps) := zOffset (2 ^ oc + ox) l f.reps
          if lits.length < l ∨ limit < f.made + l + m then (f, false)
          else
            let g := { f with out := (lits.take l).reverse ++ f.out, made := f.made + l, reps := reps }
            if off = 0 ∨ g.made < off ∨ window < off then (g, false)
            else
              let g := { g with out := zMatch off m m g.out, made := g.made + m }
              if n = 0 then zSequences ll of ml window limit n st bits (lits.drop l) g
              else
                match zAdvance ll st.ll bits with
                | none => (g, false)
                | some (a, bits) =>
                  match zAdvance ml st.ml bits with
                  | none => (g, false)
                  | some (c, bits) =>
                    match zAdvance of st.of bits with
                    | none => (g, false)
                    | some (b, bits) =>
                      zSequences ll of ml window limit n { ll := a, of := b, ml := c } bits (lits.drop l) g

/-- The count of a sequences section, and the bytes after it. -/
def zCount (bs : List Byte) : Option (Nat × List Byte) :=
  match bs with
  | [] => none
  | b :: rest =>
    if b.toNat < 128 then some (b.toNat, rest)
    else if b.toNat < 255 then
      match rest with
      | [] => none
      | c :: rest => some ((b.toNat - 128) * 256 + c.toNat, rest)
    else if rest.length < 2 then none else some (leNat (rest.take 2) + 0x7F00, rest.drop 2)

/-- A compressed block. -/
def zCompressed (window most : Nat) (f : ZFrame) (bs : List Byte) : ZFrame × Bool :=
  match zLiterals f most bs with
  | none => (f, false)
  | some (lits, f, bs) =>
    match zCount bs with
    | none => (f, false)
    | some (n, bs) =>
      let limit := f.made + most
      if n = 0 then
        if bs.isEmpty then zSequences zLitDefault zOffsetDefault zMatchDefault window limit 0 { ll := 0, of := 0, ml := 0 }
          { val := 1, left := 0 } lits f
        else (f, false)
      else
        match bs with
        | [] => (f, false)
        | modes :: bs =>
          let m := modes.toNat
          match (if m % 4 = 0 then zModeTable (m / 64) 9 36 zLitDefault f.ll bs else none) with
          | none => (f, false)
          | some (ll, bs) =>
            match zModeTable (m / 16 % 4) 8 32 zOffsetDefault f.of bs with
            | none => (f, false)
            | some (of, bs) =>
              match zModeTable (m / 4 % 4) 9 53 zMatchDefault f.ml bs with
              | none => (f, false)
              | some (ml, bs) =>
                let start := (zOpen bs).bind (fun bits =>
                  (bits.take ll.log).bind (fun a => (a.2.take of.log).bind (fun b =>
                    (b.2.take ml.log).map (fun c => (({ ll := a.1, of := b.1, ml := c.1 } : ZStates), c.2)))))
                match start with
                | none => (f, false)
                | some (st, bits) =>
                  zSequences ll of ml window limit n st bits lits { f with ll := some ll, of := some of, ml := some ml }

/-! ### Frames -/

/-- A frame's header: its window, the content size and the presence of a checksum it states, and its own length. -/
structure ZHeader where
  window : Nat
  size : Option Nat
  sum : Bool
  len : Nat
  deriving DecidableEq, Repr

/-- The length of the header that a descriptor byte announces, the magic number and the descriptor in it. -/
def zHeaderLen (d : Nat) : Nat :=
  let single := d / 32 % 2
  5 + (1 - single) + [0, 1, 2, 4].getD (d % 4) 0 + [single, 2, 4, 8].getD (d / 64) 0

/-- Read a header within the limits of R179: the magic number, no dictionary, no reserved bit and a window of at most
8 MiB. -/
def zHeader (bs : List Byte) : Option ZHeader :=
  if leNat (bs.take 4) ≠ 0xFD2FB528 ∨ bs.length < 5 then none
  else
    let d := (bs.getD 4 0).toNat
    let single := d / 32 % 2
    let len := zHeaderLen d
    let wd := (bs.getD 5 0).toNat
    let idAt := 5 + (1 - single)
    let idLen := [0, 1, 2, 4].getD (d % 4) 0
    let sizeLen := [single, 2, 4, 8].getD (d / 64) 0
    let size := leNat ((bs.drop (idAt + idLen)).take sizeLen) + (if sizeLen = 2 then 256 else 0)
    let window := if single = 1 then size else 2 ^ (10 + wd / 8) / 8 * (8 + wd % 8)
    if bs.length < len ∨ d / 8 % 2 = 1 ∨ leNat ((bs.drop idAt).take idLen) ≠ 0 ∨ 2 ^ 23 < window then none
    else some { window := window, size := if sizeLen = 0 then none else some size, sum := decide (d / 4 % 2 = 1), len := len }

/-- The blocks of a frame, which stop once more than `total` bytes are there: the bytes after the last block, or none where
a block breaks the format. -/
def zBlocks (window total : Nat) : Nat → List Byte → ZFrame → ZFrame × Option (List Byte)
  | 0, _, f => (f, none)
  | fuel + 1, bs, f =>
    let h := leNat (bs.take 3)
    let most := min window (2 ^ 17)
    let size := h / 8
    let kind := h / 2 % 4
    let need := if kind = 1 then 1 else size
    let body := (bs.drop 3).take need
    if bs.length < 3 + need ∨ most < size then (f, none)
    else
      let r := match kind with
        | 0 => ({ f with out := body.reverse ++ f.out, made := f.made + size }, true)
        | 1 => ({ f with out := List.replicate size (body.getD 0 0) ++ f.out, made := f.made + size }, true)
        | 2 => zCompressed window most f body
        | _ => (f, false)
      if !r.2 then (r.1, none)
      else if total < r.1.made ∨ h % 2 = 1 then (r.1, some (bs.drop (3 + need)))
      else zBlocks window total fuel (bs.drop (3 + need)) r.1

/-! ### The content checksum: the low 32 bits of XXH64 with seed 0 -/

def xxP1 : Word := 0x9E3779B185EBCA87
def xxP2 : Word := 0xC2B2AE3D27D4EB4F
def xxP3 : Word := 0x165667B19E3779F9
def xxP4 : Word := 0x85EBCA77C2B2AE63
def xxP5 : Word := 0x27D4EB2F165667C5

/-- One round of XXH64. -/
def xxRound (acc x : Word) : Word := (acc + x * xxP2).rotateLeft 31 * xxP1

/-- Fold an accumulator into the hash. -/
def xxMerge (h acc : Word) : Word := (h ^^^ xxRound 0 acc) * xxP1 + xxP4

/-- The n little-endian bytes at the head of a list, as a word. -/
def xxWord (n : Nat) (bs : List Byte) : Word := BitVec.ofNat 64 (leNat (bs.take n))

/-- The stripes of 32 bytes, and what is left. -/
def xxStripes : Nat → List Byte → Word × Word × Word × Word → (Word × Word × Word × Word) × List Byte
  | 0, bs, a => (a, bs)
  | n + 1, bs, (a, b, c, d) =>
    xxStripes n (bs.drop 32) (xxRound a (xxWord 8 bs), xxRound b (xxWord 8 (bs.drop 8)),
      xxRound c (xxWord 8 (bs.drop 16)), xxRound d (xxWord 8 (bs.drop 24)))

/-- The last bytes, fewer than 32. -/
def xxTail : Nat → List Byte → Word → Word
  | 0, _, h => h
  | fuel + 1, bs, h =>
    if 8 ≤ bs.length then xxTail fuel (bs.drop 8) ((h ^^^ xxRound 0 (xxWord 8 bs)).rotateLeft 27 * xxP1 + xxP4)
    else if 4 ≤ bs.length then xxTail fuel (bs.drop 4) ((h ^^^ xxWord 4 bs * xxP1).rotateLeft 23 * xxP2 + xxP3)
    else
      match bs with
      | [] => h
      | b :: rest => xxTail fuel rest ((h ^^^ b.setWidth 64 * xxP5).rotateLeft 11 * xxP1)

/-- XXH64 with seed 0. -/
def xxHash (bs : List Byte) : Word :=
  let n := bs.length
  let ((a, b, c, d), rest) := xxStripes (n / 32) bs (xxP1 + xxP2, xxP2, 0, 0 - xxP1)
  let h := if n < 32 then xxP5
    else xxMerge (xxMerge (xxMerge (xxMerge (a.rotateLeft 1 + b.rotateLeft 7 + c.rotateLeft 12 + d.rotateLeft 18) a) b) c) d
  let h := xxTail 32 rest (h + BitVec.ofNat 64 n)
  let h := (h ^^^ (h >>> 33)) * xxP2
  let h := (h ^^^ (h >>> 29)) * xxP3
  h ^^^ (h >>> 32)

/-- Decompress a source that is to give `total` bytes (R179): the bytes it produces, and the status of R180 where it does
not: 4 where it breaks R179, 5 where its length is another, 6 where its checksum does not match. -/
def zstdDecode (src : List Byte) (total : Nat) : List Byte × Option Nat :=
  match zHeader src with
  | none => ([], some 4)
  | some h =>
    if h.size.isSome ∧ h.size ≠ some total then ([], some 4)
    else
      let r := zBlocks h.window total src.length (src.drop h.len)
        { huff := none, ll := none, of := none, ml := none, reps := (1, 4, 8), out := [], made := 0 }
      let out := r.1.out.reverse
      if total < r.1.made then (out, some 5)
      else
        match r.2 with
        | none => (out, some 4)
        | some rest =>
          if rest.length ≠ (if h.sum then 4 else 0) then (out, some 4)
          else if r.1.made < total then (out, some 5)
          else if h.sum ∧ leNat rest ≠ ((xxHash out).setWidth 32).toNat then (out, some 6)
          else (out, none)

/-- How many more bytes the blocks from position `pos` on are sure to take, of a source whose bytes from there are `bs`. -/
def zBlocksNeed (sum : Nat) : Nat → List Byte → Nat
  | 0, _ => 0
  | fuel + 1, bs =>
    if bs.length < 3 then 3 - bs.length
    else
      let h := leNat (bs.take 3)
      let n := 3 + (if h / 2 % 4 = 1 then 1 else h / 8)
      if h / 2 % 4 = 3 then 0
      else if h % 2 = 1 then n + sum - bs.length
      else if bs.length < n then n - bs.length
      else zBlocksNeed sum fuel (bs.drop n)

/-- How many more bytes a source is sure to hold after those given: 0 once its frame has ended, or cannot be one (R57). -/
def zstdNeeds (src : List Byte) : Nat :=
  if src.length < 5 then 5 - src.length
  else
    let d := (src.getD 4 0).toNat
    let len := zHeaderLen d
    if src.length < len then len - src.length
    else if (zHeader src).isNone then 0
    else zBlocksNeed (if d / 4 % 2 = 1 then 4 else 0) (src.length + 1) (src.drop len)

end Sys2Proof.Machine
end

