-- ==== Sys2Proof/Machine/Copies.lean ====
section
/-! DEFINITION. Copies (R212 to R220, R398 to R406): the instructions at firing, and the copy engine's steps. -/

namespace Sys2Proof.Machine

/-! ### The parameter record (R400) -/

/-- The 8-byte word of a record at a byte offset. -/
def recWord (r : List Byte) (off : Nat) : Word := BitVec.ofNat 64 (wordOfBytes ((r.drop off).take 8))

/-- The fields of a copy's record. -/
structure CopyRec where
  trap : Bool
  src : Nat
  dst : Nat
  total : Nat
  rlen : Nat
  rows : Nat
  sstr : Nat
  dstr : Nat
  pattern : Word
  slen : Nat
  fow : Word
  cmpl : Nat
  foright : Word
  foleft : Word
  deriving DecidableEq, Repr

/-- Read a record for a kind of copy. -/
def copyRec (kind : CopyKind) (r : List Byte) : CopyRec :=
  let w3 := recWord r 0x18
  let w4 := recWord r 0x20
  let w6 := recWord r 0x30
  let two := kind == .cpy2d
  let len := (w3.extractLsb' 0 40).toNat
  let rlen := if two then (w3.extractLsb' 0 32).toNat else len
  let rows := if two then (w3.extractLsb' 32 32).toNat else 1
  { trap := (recWord r 0).getLsbD 0, src := (recWord r 0x08).toNat, dst := (recWord r 0x10).toNat
    total := rlen * rows, rlen := rlen, rows := rows
    sstr := if two then (w4.extractLsb' 0 32).toNat else 0
    dstr := if two then (w4.extractLsb' 32 32).toNat else 0
    pattern := w4, slen := (w4.extractLsb' 0 40).toNat, fow := recWord r 0x28
    cmpl := (w6.extractLsb' 0 22).toNat, foright := (w6.extractLsb' 32 32).setWidth 64, foleft := recWord r 0x38 }

/-- The bytes that a side of a copy spans (R401): 0 where it has none. -/
def spanOf (total rows rlen stride : Nat) : Nat := if total = 0 then 0 else (rows - 1) * stride + rlen

/-- The bytes of its source that a kind of copy spans. -/
def CopyRec.sourceSpan (r : CopyRec) (kind : CopyKind) : Nat :=
  match kind with
  | .cpyz => r.slen
  | .cpyfill => 0
  | _ => spanOf r.total r.rows r.rlen r.sstr

/-- The bytes of its destination that a copy spans. -/
def CopyRec.destSpan (r : CopyRec) : Nat := spanOf r.total r.rows r.rlen r.dstr

/-! ### The checks at firing (R401, R404) -/

/-- The checks of a source or destination capability (R401): the cause of the first that fails. -/
def copyCapFault (c : CapReg) (off span : Nat) (need : BitVec 12) : Option Nat :=
  let first := (c.base.toNat + off) % 2 ^ 64
  let last := (c.base.toNat + off + (span - 1)) % 2 ^ 64
  if c.tag = false then some 0x20
  else if c.rsv ≠ 0 then some 0x26
  else if c.lock ≠ 0 then some 0x25
  else if c.space = 2 then some 0x2C
  else if c.space = 3 then some 0x27
  else if need &&& ~~~c.perms ≠ 0 then some 0x24
  else if span ≠ 0 ∧ c.length < off + span then some 0x23
  else if c.space = 0 then (if lLimit ≤ first ∨ lLimit ≤ last then some 0x23 else none)
  else if first / 2 ^ 57 ≠ 0 ∨ last / 2 ^ 57 ≠ 0 then some 0x29
  else none

/-- TINFO1 of a trap of a copy's range: the spec gives no access size to a range, so [6:4] is free (log 23). -/
def rangeInfo1 (s : State) (k : Nat) (writes : Bool) : Word × State :=
  let (n, s) := s.drawNat
  (BitVec.ofNat 64 (k + 16 * (n % 8) + (if writes then 128 else 0)), s)

/-- Header word 1 of the block mapped on a tile (R91). -/
def headerWord1 (s : State) (t : Nat) : Word :=
  match (s.fabric t).blk with
  | some b => crc16 (b.words.flatMap (fun w => bytesOf 8 w.toNat)) ++ 0#48
  | none => 0

/-- What a matrix instruction checks at firing (R274, R278, R392): capability number, size where it is checked, alignment,
whether it writes. -/
def matrixNeeds (i : Instr) (right : Word) : Option (Nat × Option Nat × Nat × Bool) :=
  match i with
  | .mlws _ k fmt => some (k.toNat, some (tileSize fmt), 128, false)
  | .mpass _ k _ _ => some (k.toNat, none, 128, false)
  | .mpasss _ k _ _ => some (k.toNat, none, 128, false)
  | .mrd _ k m1 _ dt _ _ => some (k.toNat, some (128 * (m1.toNat + 1) * mrdBytes dt.toNat), 128, true)
  | .mcbl _ k => some (k.toNat, some 32, 32, false)
  | .rkatl _ k => some (k.toNat, some 512, 128, false)
  | .rkpass _ k m1 _ => some (k.toNat, some (512 * m1.toNat + 2 * rankCut right), 128, false)
  | _ => none

/-- The follow-on instruction that a word is (R404): a matrix instruction whose common fields are all zero. -/
def followInstr (w : Word) : Option Instr :=
  match instrOf w with
  | some i => if queueOf i = 2 ∧ w.extractLsb' 30 26 = 0 then some i else none
  | none => none

/-- The checks of a follow-on command (R404): the command, or the trap. -/
def followOn (s : State) (f : Firing) (r : CopyRec) : Except MemTrap QEntry :=
  match followInstr r.fow with
  | none => .error ⟨0x03, r.fow, headerWord1 s f.tile⟩
  | some i =>
    let rank := match i with
      | .rkpass _ _ _ _ => true
      | _ => false
    let entry (caps : List CapReg) (empties : List Nat) : QEntry :=
      { commandOf s f i caps [] empties with left := r.foleft, right := if rank then r.foright else 0 }
    if rank && !baseTokenLegal 128 3968 r.foright then .error ⟨0x15, r.foright, 1⟩
    else
      match matrixNeeds i r.foright with
      | none => .ok (entry [] [])
      | some (k, size, align, writes) =>
        let c := kregOf s f.tile k
        match engineFault c r.foleft.toNat size align (if writes then permST else permLD) with
        | some x => .error ⟨x, c.base + r.foleft, memInfo1 k align writes 0⟩
        | none => .ok (entry [c] (if writes then linesOf (c.base.toNat + r.foleft.toNat) (size.getD 0) else []))

/-! ### Geometry (R402) -/

/-- The address of the byte at copy offset j. -/
def CopyEnd.byteAt (e : CopyEnd) (j : Nat) : Nat := if e.rlen = 0 then e.base else e.base + j / e.rlen * e.stride + j % e.rlen

/-- Some byte at copy offset `start` or above, of `total`, has its address in [lo, hi). -/
def CopyEnd.hits (e : CopyEnd) (total start lo hi : Nat) : Bool :=
  if e.rlen = 0 ∨ total ≤ start then false
  else
    let rows := total / e.rlen
    let i := start / e.rlen
    let row (k : Nat) : Nat := e.base + k * e.stride
    let partly := decide (row i + start % e.rlen < hi) && decide (lo < row i + e.rlen)
    let below := lo + 1 - (e.base + e.rlen)
    let k := if e.stride = 0 then i + 1 else max (i + 1) ((below + e.stride - 1) / e.stride)
    partly || (decide (k < rows) && decide (row k < hi) && decide (lo < row k + e.rlen))

/-- A run of bytes of a copy: its first copy offset, address and length; it lies in one aligned 16-byte granule, which is read
and landed single-copy atomically (R208, R231). -/
structure Piece where
  off : Nat
  addr : Nat
  len : Nat
  deriving DecidableEq, Repr

/-- The runs of copy offsets [j, j + n) of a side. -/
def piecesFrom (e : CopyEnd) : Nat → Nat → List Piece
  | _, 0 => []
  | j, n + 1 =>
    let a := e.byteAt j
    match piecesFrom e (j + 1) n with
    | [] => [{ off := j, addr := a, len := 1 }]
    | p :: ps =>
      if p.addr = a + 1 ∧ a / 16 = p.addr / 16 then { off := j, addr := a, len := p.len + 1 } :: ps
      else { off := j, addr := a, len := 1 } :: p :: ps

/-! ### Entry (R145, R398, R399, R401, R214) -/

/-- The lines of space L that a copy's entry sets empty: those of its destination and its completion line. -/
def copyEmpties (r : CopyRec) (dst : CapReg) (line : Nat) : List Nat :=
  let e : CopyEnd := { global := false, base := dst.base.toNat + r.dst, rlen := r.rlen, stride := r.dstr }
  let ls := if dst.space = 0 then (List.range 32768).filter (fun l => e.hits r.total 0 (128 * l) (128 * l + 128)) else []
  if ls.contains line then ls else ls ++ [line]

/-- A copy with its record read (R401): the checks in order, then the command. -/
def copyRecord (s : State) (f : Firing) (h : Hdr) (i : Instr) (kind : CopyKind) (k ks kd : Nat) (bytes : List Byte) : State :=
  let r := copyRec kind bytes
  let rc := kregOf s f.tile k
  let sc := kregOf s f.tile ks
  let dc := kregOf s f.tile kd
  match resolveRange s f.tile k rc (BitVec.ofNat 64 r.cmpl) 128 128 permST .write (isSupervisor s f.tile) true true with
  | (s, .error e) => trapFiring s f e.cause e.info0 e.info1
  | (s, .ok (_, line)) =>
    match (if kind == .cpyfill then none else copyCapFault sc r.src (r.sourceSpan kind) permLD) with
    | some x =>
      let (i1, s) := rangeInfo1 s ks false
      trapFiring s f x (sc.base + BitVec.ofNat 64 r.src) i1
    | none =>
      match copyCapFault dc r.dst r.destSpan permST with
      | some x =>
        let (i1, s) := rangeInfo1 s kd true
        trapFiring s f x (dc.base + BitVec.ofNat 64 r.dst) i1
      | none =>
        let enter (follow : List CapReg) : State :=
          fireCommand s f 0 h.w i ([rc, sc, dc] ++ follow) bytes (copyEmpties r dc (line.toNat / 128))
        if kind == .cpym then
          match followOn s f r with
          | .error e => trapFiring s f e.cause e.info0 e.info1
          | .ok e => enter e.caps
        else enter []

/-- A copy form (R399 to R401): its record is read through the record capability in space L. -/
def copyForm (h : Hdr) (i : Instr) (kind : CopyKind) (k ks kd : BitVec 4) (s : State) : Out :=
  engineForm s (fun f s =>
    match resolveRange s f.tile k.toNat (kregOf s f.tile k.toNat) (tokVal f.left) 64 64 permLD .read
        (isSupervisor s f.tile) false true with
    | (s, .error e) => trapFiring s f e.cause e.info0 e.info1
    | (s, .ok (q, a)) =>
      match (s.tile f.tile).ctx with
      | none => s
      | some c =>
        readRecord s f c k.toNat q a (fun s bs => copyRecord s f h i kind k.toNat ks.toNat kd.toNat bs))

/-- CPY (R402). -/
def execCpy (h : Hdr) (k ks kd : BitVec 4) (s : State) : Out := copyForm h (.cpy h k ks kd) .cpy k ks kd s

/-- CPYM (R216, R404). -/
def execCpym (h : Hdr) (k ks kd : BitVec 4) (s : State) : Out := copyForm h (.cpym h k ks kd) .cpym k ks kd s

/-- CPY2D (R402). -/
def execCpy2d (h : Hdr) (k ks kd : BitVec 4) (s : State) : Out := copyForm h (.cpy2d h k ks kd) .cpy2d k ks kd s

/-- CPYFILL (R402). -/
def execCpyfill (h : Hdr) (k kd : BitVec 4) (s : State) : Out := copyForm h (.cpyfill h k kd) .cpyfill k 0 kd s

/-- CPYZ (R403). -/
def execCpyz (h : Hdr) (k ks kd : BitVec 4) (s : State) : Out := copyForm h (.cpyz h k ks kd) .cpyz k ks kd s

/-! ### COPY_START (R207, R213, R405) -/

/-- The kind of a copy instruction. -/
def kindOf (i : Instr) : Option CopyKind :=
  match i with
  | .cpy _ _ _ _ => some .cpy
  | .cpym _ _ _ _ => some .cpym
  | .cpy2d _ _ _ _ => some .cpy2d
  | .cpyfill _ _ _ => some .cpyfill
  | .cpyz _ _ _ _ => some .cpyz
  | _ => none

/-- The follow-on command of a CPYM's queue entry, with the captured capability (R404). -/
def followEntry (e : QEntry) (r : CopyRec) : Option QEntry :=
  match followInstr r.fow with
  | none => none
  | some i =>
    let right := match i with
      | .rkpass _ _ _ _ => r.foright
      | _ => 0
    let c := e.caps[3]?.getD .zero
    let empties := match matrixNeeds i right with
      | some (_, some n, _, true) => linesOf (c.base.toNat + r.foleft.toNat) n
      | _ => []
    some { e with instr := some i, left := r.foleft, right := right, caps := e.caps.drop 3, record := [], empties := empties }

/-- One side of a copy from its capability. -/
def copyEnd (c : CapReg) (off rlen stride : Nat) : CopyEnd :=
  { global := decide (c.space = 1), base := c.base.toNat + off, rlen := rlen, stride := stride }

/-- The copy that a queue entry stands for. -/
def copyOf (id : Nat) (c : Ctx) (e : QEntry) (kind : CopyKind) : Copy :=
  let r := copyRec kind e.record
  let src : CopyEnd := if kind == .cpyfill then { global := false, base := 0, rlen := 0, stride := 0 }
    else copyEnd (e.cap 1) r.src (if kind == .cpyz then r.slen else r.rlen) r.sstr
  { id := id, inst := e.inst, owner := .ctx c.id, tenant := c.tenant, kind := kind
    src := src, dst := copyEnd (e.cap 2) r.dst r.rlen r.dstr
    total := r.total, pattern := r.pattern, cmpl := (e.cap 0).base.toNat + r.cmpl, cmplOff := r.cmpl, trap := r.trap
    follow := if kind == .cpym then followEntry e r else none
    blk := e.blk, slot := e.slot, tag := e.tag, landed := 0, pages := [], input := [], output := none, stop := none
    foin := false }

/-- Where one byte run of a side of a copy lies, if it lies anywhere: a far league address as it is, this member's own under
the tenant's tables (R26). -/
def globalPlace (s : State) (tenant a : Nat) : Option Place :=
  let walk (va : Nat) : Option Place :=
    match walkFrom s [] (asidOf s tenant) 0 (va % 2 ^ 57) 5 (rootOf s tenant) 0 with
    | .ok (l, _) =>
      if pteKind l.pte = 2 then none
      else
        let pa := ptePa l.pte + va % 2 ^ l.shift
        some (if pteKind l.pte = 0 then .host pa else devicePlace pa)
    | .error _ => none
  if 2 ^ 57 ≤ a then none
  else if a < 2 ^ 56 then walk a
  else
    match leagueRoute s (BitVec.ofNat 64 a) with
    | .here => walk (a % 2 ^ 45)
    | .far _ _ | .unreachable => some (.league (BitVec.ofNat 64 a))
    | .outOfRange => none

/-- The runs of bytes that `n` bytes from an address of a side occupy, page by page. What does not translate is left to the
copy itself. -/
def rowPlaces (s : State) (c : Copy) (global : Bool) (a n : Nat) : List (Place × Nat) :=
  if n = 0 then []
  else if global then
    (List.range ((a + n - 1) / 65536 - a / 65536 + 1)).filterMap (fun i =>
      let lo := max a (65536 * (a / 65536 + i))
      let hi := min (a + n) (65536 * (a / 65536 + i + 1))
      (globalPlace s c.tenant lo).map (fun p => (p, hi - lo)))
  else
    match c.owner with
    | .ctx id =>
      match homeOf s id with
      | .tile t => [(.scratch t a, n)]
      | .image => []
      | .gone => []
    | .packet _ _ _ => []

/-- The runs of bytes that a side of a copy occupies, row by row. -/
def physical (s : State) (c : Copy) (e : CopyEnd) (total : Nat) : List (Place × Nat) :=
  if e.rlen = 0 then []
  else (List.range (total / e.rlen)).flatMap (fun i => rowPlaces s c e.global (e.base + i * e.stride) e.rlen)

/-- What a copy writes: its destination and its completion line. -/
def copyWrites (s : State) (c : Copy) : List (Place × Nat) :=
  physical s c c.dst c.total ++
  (match c.owner with
    | .ctx _ => rowPlaces s c false c.cmpl 128
    | .packet _ _ _ => [])

/-- What a copy reads. -/
def copyReads (s : State) (c : Copy) : List (Place × Nat) :=
  physical s c c.src (if c.kind == .cpyz then c.src.rlen else c.total)

/-- A copy would read or write a byte that an earlier one writes (R213). -/
def conflicts (s : State) (early late : Copy) : Bool :=
  let w := copyWrites s early
  (copyReads s late ++ copyWrites s late).any (fun p => w.any (fun q => sharesByte p.1 p.2 q.1 q.2))

/-! ### Where a copy's bytes lie -/

/-- The context of a copy. -/
def Copy.ctx (c : Copy) : Nat :=
  match c.owner with
  | .ctx id => id
  | .packet _ _ _ => 0

/-- Whose order a copy's accesses stand in (R228): its context's, or its own. -/
def Copy.party (c : Copy) : Nat :=
  match c.owner with
  | .ctx id => id
  | .packet _ _ _ => c.id

/-- Change a copy. -/
def State.modCopy (s : State) (id : Nat) (g : Copy → Copy) : State :=
  { s with copies := s.copies.map (fun c => if c.id == id then g c else c) }

/-- Where a byte of a side lies: in the share, or at the place that its G address translates to. -/
inductive Spot where
  | share (off : Nat)
  | place (p : Place)
  deriving DecidableEq, Repr

/-- A copy's context has left its share on a tile (R79, R302): saved from it, or ended on it. What a G page maps there is the
share's all the same, so that a write the copy owes goes to the image or is discarded. -/
def sharePlace (s : State) (c : Copy) (p : Place) : Spot :=
  match c.owner, p with
  | .ctx id, .scratch t off =>
    let left : Bool := match homeOf s id with
      | .image => (match imageOf s id with
        | some i => i.tile == t
        | none => false)
      | .gone => (s.tile t).owed.contains id
      | .tile _ => false
    if left && decide (off < 0x3E0000) then .share off else .place p
  | _, _ => .place p

/-- Translate an address of a side (R27, R139, R153, R405): its spot, or the status that stops the copy. -/
def spotOf (s : State) (c : Copy) (e : CopyEnd) (a : Nat) (acc : Access) : State × Except Nat Spot :=
  if e.global = false then (s, .ok (.share a))
  else if 2 ^ 57 ≤ a then (s, .error 0x29)
  else
    let va : Word := BitVec.ofNat 64 a
    let here (s : State) (va : Nat) : State × Except Nat Spot :=
      match translateAccess s c.tenant va acc with
      | (s, .error x) => (s, .error x.1)
      | (s, .ok p) =>
        match p with
        | .mailbox _ _ => (s, .error 0x28)
        | .mailboxHole => (s, .error 0x28)
        | _ => (s, .ok (sharePlace s c p))
    if va.getLsbD 56 then
      match leagueRoute s va with
      | .outOfRange => (s, .error 0x2D)
      | .unreachable => (s, .error 0x2E)
      | .here => here s (a % 2 ^ 45)
      | .far _ _ => (s, .ok (.place (.league va)))
    else here s a

/-- A write of a copy that has been decided on: it takes place at once, or waits behind another party's reservation (R363) or
an earlier write, or goes to the far member; the copy is not complete before (R228). -/
def landAt (s : State) (c : Copy) (op : MemOp) (p : Place) (data : BitVec 128) : State :=
  let (id, s1) := s.fresh
  let a : Word := match p with
    | .league a => a
    | _ => 0
  let e := { Pend.start s id (.landing c.id) op p a c.tenant c.party with data := data }
  match p, canGo s e with
  | .league _, _ | _, false => submit s1 e
  | _, true => wake (performOwn s none e)

/-- A write that a copy has landed is still under way. -/
def landingYet (s : State) (c : Copy) : Bool := s.pend.any (fun e => e.who == .landing c.id)

/-- Set the lines empty that a copy writes in one 64 KiB page of its G destination, where the page maps a scratchpad, at this
module or at a far member (R145, R214, R405). -/
def openPage (s : State) (c : Copy) (page : Nat) (p : Place) : State :=
  let at_ (i : Nat) : Option Place := match p with
    | .scratch t off => some (.scratch t (off / 65536 * 65536 + 128 * i))
    | .league a => some (.league (a &&& ~~~0xFFFF#64 ||| BitVec.ofNat 64 (128 * i)))
    | _ => none
  let home : Nat × Nat := match p with
    | .scratch t off => (t, off / 65536 * 65536)
    | _ => (192, 0)
  if c.pages.any (fun q => q.1 == page) then s
  else
    let ls := (List.range 512).filter (fun i =>
      c.dst.hits c.total 0 (65536 * page + 128 * i) (65536 * page + 128 * i + 128))
    let s := ls.foldl (fun s i => match at_ i with
      | some q => landAt s c (.line false false) q 0
      | none => s) s
    s.modCopy c.id (fun c => { c with pages := c.pages ++ [(page, home.1, home.2)] })

/-- The 64 KiB pages of a copy's G destination. -/
def destPages (c : Copy) : List Nat :=
  if !c.dst.global || c.dst.rlen = 0 then []
  else
    ((List.range (c.total / c.dst.rlen)).flatMap (fun i =>
      let a := c.dst.base + i * c.dst.stride
      (List.range ((a + c.dst.rlen - 1) / 65536 - a / 65536 + 1)).map (· + a / 65536))).eraseDups

/-- At its start a copy sets the lines of its G destination empty, page by page; a page that does not translate then is left
to its first landing (R145, R214, R405). -/
def openPages (s : State) (id : Nat) : State :=
  match s.copies.find? (fun c => c.id == id) with
  | none => s
  | some c =>
    (destPages c).foldl (fun s page =>
      let a := max c.dst.base (65536 * page)
      match spotOf s c c.dst a .write with
      | (s, .ok (.place p)) => openPage s ((s.copies.find? (fun k => k.id == id)).getD c) page p
      | (s, _) => s) s

/-- COPY_START (R207, R213, R405): the copy at the head of the queue starts when fewer than four are in progress and no earlier
one writes what it reads or writes, after the stores before it in tile order (R211, R226), and sets the lines of its G destination
empty. -/
def execCopyStart (tile : Nat) (s : State) : Out :=
  match (s.tile tile).ctx with
  | none => .next s
  | some c =>
    match c.copyQ with
    | [] => .next s
    | e :: rest =>
      match e.instr.bind kindOf with
      | none => .next s
      | some kind =>
        let (id, s1) := s.fresh
        let k := copyOf id c e kind
        let running := s.copies.filter (copyOfCtx c.id)
        if running.length < 4 ∧ running.all (fun x => !conflicts s x k) ∧ !storingBefore s c.id e.stamp then
          .next (openPages ({ s1 with copies := s1.copies ++ [k] }.modCtx tile (fun c => { c with copyQ := rest })) id)
        else .next s

/-! ### COPY_CHUNK (R214, R217, R218, R402, R403, R405) -/

/-- A scratchpad line that a copy has set empty and has not yet filled (R145, R402): a destination line or its completion
line. -/
def ownLine (s : State) (c : Copy) (t l : Nat) : Bool :=
  let open_ (a : Nat) : Bool := c.dst.hits c.total c.landed a (a + 128)
  let shared := match c.owner with
    | .ctx id => (match readHome s id with
      | .tile u => u == t
      | .image => (match imageOf s id with
        | some i => i.tile == t
        | none => false)
      | .gone => false)
    | .packet _ _ _ => false
  (shared && (decide (c.cmpl / 128 = l) || (!c.dst.global && open_ (128 * l)))) ||
  c.pages.any (fun p => decide (p.2.1 = t) && decide (p.2.2 ≤ 128 * l) && decide (128 * l < p.2.2 + 65536) &&
    open_ (65536 * p.1 + (128 * l - p.2.2)))

/-- A far line that the copy has set empty and has not yet filled (R214, R402), named by the address of both sides. -/
def ownFarLine (c : Copy) (a : Nat) : Bool :=
  c.dst.global && c.pages.any (fun p => p.1 == a / 65536) && c.dst.hits c.total c.landed (a / 128 * 128) (a / 128 * 128 + 128)

/-- The tile whose scratchpad holds a copy's share, or held it before it was saved. -/
def shareTile (s : State) (c : Copy) : Nat :=
  match readHome s c.ctx with
  | .tile t => t
  | .image => (match imageOf s c.ctx with
    | some i => i.tile
    | none => 192)
  | .gone => 192

/-- What a run of bytes brings: its bytes, a wait, or the end of the copy. -/
inductive Got where
  | bytes (bs : List Byte)
  | waits
  | stops (x : CopyStop)
  deriving DecidableEq, Repr

/-- A copy's read or check that has been asked for. -/
def askedFor (s : State) (c : Copy) (p : Place) (write : Bool) : Option Pend :=
  s.pend.find? (fun e => e.who == .copy c.id && e.place == p && opWrites e.op == write)

/-- Ask for a read of a copy that has to wait for its line (R146), or for a read or check at a far member. -/
def ask (s : State) (c : Copy) (op : MemOp) (p : Place) (data : BitVec 128) : State :=
  let (id, s1) := s.fresh
  let a : Word := match p with
    | .league a => a
    | _ => 0
  submit s1 { Pend.start s id (.copy c.id) op p a c.tenant c.party with data := data }

/-- The first byte of a run of host memory that does not answer well. -/
def badHostByte (s : State) (a n : Nat) : Option (Nat × HostAnswer) :=
  ((List.range n).map (fun i => (i, hostAnswer s (a + i) 1))).find? (fun x => decide (x.2 ≠ .good))

/-- A stop of a source. -/
def sourceStop (status : Nat) (off addr : Nat) (poison : Bool) : CopyStop :=
  { status := status, erroff := off, addr := BitVec.ofNat 64 addr, dst := false, poison := poison, whole := false }

/-- What a read that has been asked for brings to its run. -/
def gotPiece (p : Piece) (g : Option Loaded) : Got :=
  match g with
  | none => .waits
  | some (.value v) => .bytes (bytesOf p.len v.val.toNat)
  | some (.run bs) => .bytes bs
  | some (.failed 0x31 _ _) => .stops (sourceStop 0x18 p.off p.addr true)
  | some (.failed x _ _) => .stops (sourceStop x p.off p.addr false)

/-- Read a run that lies in a scratchpad line at once, or among the line's waiters (R145, R146, R147). -/
def readLinePiece (s : State) (c : Copy) (p : Piece) (t off : Nat) (blocked : Bool) : State × Got :=
  match askedFor s c (.scratch t off) false with
  | some e => (s, gotPiece p e.got)
  | none =>
    if (lineState s t (off / 128)).poison then (s, .stops (sourceStop 0x18 p.off p.addr true))
    else if blocked && !ownLine s c t (off / 128) then (ask s c (.load p.len false) (.scratch t off) 0, .waits)
    else (s, .bytes (mbytes (s.tile t).mem off p.len))

/-- Read one run of a source (R145, R147, R217, R218, R402, R417). -/
def readPiece (s : State) (c : Copy) (p : Piece) : State × Got :=
  match spotOf s c c.src p.addr .read with
  | (s, .error x) => (s, .stops (sourceStop x p.off p.addr false))
  | (s, .ok (.share off)) =>
    match readHome s c.ctx with
    | .tile t => readLinePiece s c p t off (blockedRead s t c.ctx (.scratch t off))
    | _ =>
      if (shareLine s c.ctx (off / 128)).poison then (s, .stops (sourceStop 0x18 p.off p.addr true))
      else if !ownLine s c (shareTile s c) (off / 128) && !shareReadable s c.ctx (off / 128) then (s, .waits)
      else (s, .bytes (shareBytes s c.ctx off p.len))
  | (s, .ok (.place q)) =>
    match q with
    | .scratch t off => readLinePiece s c p t off (blockedRead s 192 0 q || ownWrites s c.party q p.len)
    | .league _ =>
      match askedFor s c q false with
      | none => (ask s c (if ownFarLine c p.addr then .peek p.len else .load p.len false) q 0, .waits)
      | some e => (s, gotPiece p e.got)
    | .host a =>
      if ownWrites s c.party q p.len then (s, .waits)
      else
      match badHostByte s a p.len with
      | some (i, .failed) => (s, .stops (sourceStop 0x33 (p.off + i) (p.addr + i) false))
      | some (i, _) => (s, .stops (sourceStop 0x18 (p.off + i) (p.addr + i) true))
      | none => (s, .bytes (mbytes s.host a p.len))
    | .mailbox _ _ => (s, .waits)
    | .mailboxHole => (s, .waits)
    | .control _ => (s, .waits)

/-- Read the runs of a chunk in order. -/
def readPieces (c : Copy) : List Piece → State → State × Got
  | [], s => (s, .bytes [])
  | p :: ps, s =>
    match readPiece s c p with
    | (s, .bytes bs) =>
      match readPieces c ps s with
      | (s, .bytes rest) => (s, .bytes (bs ++ rest))
      | r => r
    | r => r

/-- A spot lies in a poisoned line of this module. -/
def spotPoisoned (s : State) (c : Copy) (q : Spot) : Bool :=
  match q with
  | .share off => (shareLine s c.ctx (off / 128)).poison
  | .place (.scratch t off) => (lineState s t (off / 128)).poison
  | .place _ => false

/-- The destination of a run (R217, R218, R405, R406): its spot, a wait for a far member's check, or the end of the copy, which a
poisoned destination line is too. -/
def aimPiece (s : State) (c : Copy) (p : Piece) (data : BitVec 128) : State × Except CopyStop (Option Spot) :=
  let stop (x : Nat) : Except CopyStop (Option Spot) :=
    .error { status := x, erroff := p.off, addr := BitVec.ofNat 64 p.addr, dst := true, poison := x == 0x18, whole := false }
  match spotOf s c c.dst p.addr .write with
  | (s, .error x) => (s, stop x)
  | (s, .ok (.share off)) => if spotPoisoned s c (.share off) then (s, stop 0x18) else (s, .ok (some (.share off)))
  | (s, .ok (.place q)) =>
    if spotPoisoned s c (.place q) then (s, stop 0x18)
    else
    match q with
    | .league _ =>
      match askedFor s c q true with
      | none => (ask s c (.store p.len) q data, .ok none)
      | some e =>
        match e.got with
        | none => (s, .ok none)
        | some (.value _) | some (.run _) => (s, .ok (some (.place q)))
        | some (.failed x _ _) => (s, stop x)
    | _ => (s, .ok (some (.place q)))

/-- The bytes of a run of a chunk. -/
def pieceData (bs : List Byte) (first : Nat) (p : Piece) : List Byte := (bs.drop (p.off - first)).take p.len

/-- Aim every run of a chunk: the spots, a wait, or the end of the copy. -/
def aimPieces (c : Copy) (bs : List Byte) (first : Nat) : List Piece → State → State × Except CopyStop (Option (List (Piece × Spot)))
  | [], s => (s, .ok (some []))
  | p :: ps, s =>
    match aimPiece s c p (BitVec.ofNat 128 (bytesValue (pieceData bs first p))) with
    | (s, .error x) => (s, .error x)
    | (s, .ok none) => (s, .ok none)
    | (s, .ok (some q)) =>
      match aimPieces c bs first ps s with
      | (s, .ok (some rest)) => (s, .ok (some ((p, q) :: rest)))
      | r => r

/-- The place of a byte of a copy's share: on the tile that holds it, or held it before it was saved, from where a landing goes to the
image (R79). -/
def sharePlaceAt (s : State) (ctx off : Nat) : Option Place :=
  match homeOf s ctx with
  | .tile t => some (.scratch t off)
  | .image => (imageOf s ctx).map (fun i => .scratch i.tile off)
  | .gone => none

/-- Land one run: in a share that is saved or ended, in the image or not at all (R79, R302). -/
def landPiece (s : State) (c : Copy) (bs : List Byte) (p : Piece) (q : Spot) : State :=
  let data := BitVec.ofNat 128 (bytesValue bs)
  match q with
  | .share off =>
    match sharePlaceAt s c.ctx off with
    | some q => landAt s c (.store p.len) q data
    | none => shareWrite s c.ctx off bs
  | .place q => landAt s c (.store p.len) q data

/-- Set a line of a copy full, as poison or not, behind its landings there (R214, R217). -/
def landLine (s : State) (c : Copy) (q : Spot) (poison : Bool) : State :=
  match q with
  | .share off =>
    match sharePlaceAt s c.ctx off with
    | some q => landAt s c (.line true poison) q 0
    | none => shareFill s c.ctx (off / 128) poison
  | .place (.league a) => landAt s c (.line true poison) (.league (a &&& ~~~0x7F#64)) 0
  | .place q => landAt s c (.line true poison) q 0

/-- The line of a spot is the copy's completion line, which waits for its record. -/
def isCompletion (s : State) (c : Copy) (q : Spot) : Bool :=
  match c.owner, q with
  | .packet _ _ _, _ => false
  | .ctx _, .share off => off / 128 == c.cmpl / 128
  | .ctx id, .place (.scratch t off) => homeOf s id == .tile t && off / 128 == c.cmpl / 128
  | .ctx _, .place _ => false

/-- Set the line of a landed run full once every byte of the copy in it has landed (R214). -/
def closeLine (s : State) (c : Copy) (landed : Nat) (p : Piece) (q : Spot) : State :=
  if c.dst.hits c.total landed (p.addr / 128 * 128) (p.addr / 128 * 128 + 128) || isCompletion s c q then s
  else landLine s c q false

/-- The copy's reads and checks are forgotten. -/
def dropFar (s : State) (id : Nat) : State := { s with pend := s.pend.filter (fun e => !(e.who == .copy id)) }

/-- The line that holds the destination of a copy's failing byte is written as poison and set full (R217). -/
def poisonLine (s : State) (c : Copy) (x : CopyStop) : State :=
  if !x.poison ∨ c.total ≤ x.erroff then s
  else
    match spotOf s c c.dst (c.dst.byteAt x.erroff) .write with
    | (s, .ok q) => landLine s c q true
    | (s, .error _) => s

/-- Stop a copy. -/
def stopCopy (s : State) (c : Copy) (x : CopyStop) : State :=
  (poisonLine (dropFar s c.id) c x).modCopy c.id (fun c => { c with stop := some x })

/-- Of the runs of a chunk, the last one in each line. -/
def lastInLines : List (Piece × Spot) → List (Piece × Spot)
  | [] => []
  | x :: xs => if xs.any (fun y => y.1.addr / 128 == x.1.addr / 128) then lastInLines xs else x :: lastInLines xs

/-- Land a chunk whose bytes are known (R214, R402); a line that it finishes is set full once. -/
def landChunk (s : State) (c : Copy) (bs : List Byte) : State :=
  match aimPieces c bs c.landed (piecesFrom c.dst c.landed bs.length) s with
  | (s, .error x) => stopCopy s c x
  | (s, .ok none) => s
  | (s, .ok (some ps)) =>
    let s := ps.foldl (fun s (p, q) => match q with
      | .place q => openPage s ((s.copies.find? (fun k => k.id == c.id)).getD c) (p.addr / 65536) q
      | .share _ => s) (dropFar s c.id)
    let s := ps.foldl (fun s (p, q) => landPiece s c (pieceData bs c.landed p) p q) s
    let landed := c.landed + bs.length
    let s := s.modCopy c.id (fun c => { c with landed := landed })
    (lastInLines ps).foldl (fun s (p, q) => closeLine s c landed p q) s

/-- The n bytes of a pattern from copy offset j (R402). -/
def patternBytes (v : Word) (j n : Nat) : List Byte := (List.range n).map (fun i => v.extractLsb' (8 * ((j + i) % 8)) 8)

/-- How the output of a frame ends against the length asked for (R179, R403). -/
def frameEnd (out : List Byte) (status : Option Nat) (total : Nat) : Option CopyStop :=
  let x (at_ : Nat) (whole : Bool) : CopyStop :=
    { status := 0x19, erroff := at_, addr := 0, dst := false, poison := false, whole := whole }
  match status with
  | none => none
  | some 4 => some (x (min out.length total) false)
  | some _ => some (if out.length < total then x out.length false else x total true)

/-- Output bytes of the frame that the source bytes read so far give (R403). -/
def unpacked (c : Copy) : List Byte := (zstdDecode c.input c.total).1.take c.total

/-- CPYZ's turn: a chunk whose output the source bytes read so far give lands; else it reads its source on, in order, 64 bytes at
a time, and at its end lands what is left (R403; log 24). The chunk that ends the output waits for the end of the frame, since what is
found there may leave it unlanded (R217, R218, R403). A source byte that faults or is uncorrectable stops the copy at the output
offset that the bytes before it give, or at LEN − 1 where they give all of it (log 24). A copy packet's source has no length: it is
read up to the end of its frame (R57). -/
def unpackTurn (s : State) (c : Copy) : State :=
  let produce (s : State) (input : List Byte) (cut : Option CopyStop) : State :=
    let r := zstdDecode input c.total
    let out := r.1.take c.total
    let end_ := match cut with
      | some x => some { x with erroff := min r.1.length (c.total - 1) }
      | none => frameEnd r.1 r.2 c.total
    s.modCopy c.id (fun c => { c with input := [], output := some (out, end_) })
  match c.output with
  | none =>
    let ready := (unpacked c).drop c.landed
    let chunk := min 64 (c.total - c.landed)
    if c.landed + chunk < c.total ∧ chunk ≤ ready.length then landChunk s c (ready.take chunk)
    else
    let taken := c.input.length
    let packet := match c.owner with
      | .packet _ _ _ => true
      | .ctx _ => false
    let n := min 64 (if packet then zstdNeeds c.input else c.src.rlen - taken)
    if n = 0 then produce s c.input none
    else
      match readPieces c (piecesFrom c.src taken n) s with
      | (s, .waits) => s
      | (s, .stops x) => produce (dropFar s c.id) c.input (some x)
      | (s, .bytes bs) => (dropFar s c.id).modCopy c.id (fun c => { c with input := c.input ++ bs })
  | some (out, end_) =>
    let n := min 64 (c.total - c.landed)
    let top := match end_ with
      | none => c.total
      | some x => if x.whole then c.total else x.erroff / 64 * 64
    if c.landed + n ≤ top ∧ 0 < n then landChunk s c ((out.drop c.landed).take n)
    else
      match end_ with
      | some x => stopCopy s c x
      | none => s

/-- COPY_CHUNK (R214, R217, R218, R402): the next chunk's source bytes are read, and then its destination bytes land. -/
def execCopyChunk (id : Nat) (s : State) : Out :=
  match s.copies.find? (fun c => c.id == id) with
  | none => .next s
  | some c =>
    if c.stop.isSome then .next s
    else
      match c.kind with
      | .cpyz => if c.total = 0 then .next s else .next (unpackTurn s c)
      | .cpyfill =>
        if c.landed < c.total then .next (landChunk s c (patternBytes c.pattern c.landed (min 64 (c.total - c.landed)))) else .next s
      | .cpy | .cpym | .cpy2d =>
        if c.total ≤ c.landed then .next s
        else
          match readPieces c (piecesFrom c.src c.landed (min 64 (c.total - c.landed))) s with
          | (s, .waits) => .next s
          | (s, .stops x) => .next (stopCopy s c x)
          | (s, .bytes bs) => .next (landChunk s c bs)

/-! ### FOLLOW_ON_ENTRY and COPY_COMPLETE (R214 to R219) -/

/-- Every byte of a copy has landed without a fault, the far ones answered (R57, R228). -/
def copyLanded (s : State) (c : Copy) : Bool :=
  c.stop.isNone && decide (c.total ≤ c.landed) && !landingYet s c &&
  (decide (c.total = 0) || !(c.kind == .cpyz) || (match c.output with
    | some (_, none) => true
    | _ => false))

/-- FOLLOW_ON_ENTRY (R78, R216): after the last byte of a CPYM has landed, its follow-on command enters the matrix queue once
that has room; a pre-empted context's command joins its saved queue. -/
def execFollowOnEntry (id : Nat) (s : State) : Out :=
  match s.copies.find? (fun c => c.id == id) with
  | none => .next s
  | some c =>
    match c.follow with
    | none => .next s
    | some e =>
      if !copyLanded s c || c.foin then .next s
      else
        let mark (s : State) : State := s.modCopy id (fun c => { c with foin := true })
        match contextOf s c.ctx with
        | none => .next (mark s)
        | some x =>
          if 32 ≤ queueUsed s x 2 then .next s
          else
            match homeOf s c.ctx with
            | .tile t => .next (mark (enterCommand s t 2 e))
            | _ =>
              .next (mark (e.empties.foldl (fun s l => shareEmpty s c.ctx l)
                (modContext s c.ctx (fun x => { x with matrixQ := x.matrixQ ++ [e] }))))

/-- The code of a copy's kind in its completion record (R215). -/
def kindCode (k : CopyKind) : Nat :=
  match k with
  | .cpy => 1
  | .cpym => 2
  | .cpy2d => 3
  | .cpyfill => 4
  | .cpyz => 5

/-- LANDED of a copy (R215, R217, R403). -/
def landedOf (c : Copy) : Nat :=
  match c.stop with
  | none => c.total
  | some x => if x.whole then c.total else x.erroff / 64 * 64

/-- The completion record (R215). -/
def copyRecordBytes (c : Copy) : List Byte :=
  let bit (b : Bool) (i : Nat) : Nat := if b then 2 ^ i else 0
  let stop := c.stop.isSome
  let w0 := (match c.stop with
      | some x => x.status
      | none => 0) + 256 * kindCode c.kind +
    bit (match c.stop with
      | some x => x.poison
      | none => false) 16 +
    bit (stop && c.follow.isSome && !c.foin) 17 + bit c.foin 18 +
    bit (match c.stop with
      | some x => x.dst
      | none => false) 19
  let w2 := match c.stop with
    | some x => x.erroff
    | none => 2 ^ 64 - 1
  let w3 := match c.stop with
    | some x => x.addr.toNat
    | none => 0
  bytesOf 8 w0 ++ bytesOf 8 (landedOf c) ++ bytesOf 8 w2 ++ bytesOf 8 w3 ++ List.replicate 96 0

/-- A copy that moves nothing writes its record in queue order (R402): an earlier copy of its queue is still incomplete. -/
def recordWaits (s : State) (c : Copy) (x : Nat) : Bool :=
  decide (c.total = 0) && (s.copies.takeWhile (fun k => !(k.id == c.id))).any (copyOfCtx x)

/-- COPY_COMPLETE (R214, R215, R219, R228, R379, R402): once every write of the copy has been performed, the completion record is
written and its line set full; a nonzero status traps where the record asks for it. A copy that moves nothing waits for those
before it in its queue. A packet's copy ends with its packet. -/
def execCopyComplete (id : Nat) (s : State) : Out :=
  match s.copies.find? (fun c => c.id == id) with
  | none => .next s
  | some c =>
    match c.owner with
    | .packet _ _ _ => .next s
    | .ctx x =>
      if shareReserved s x (c.cmpl / 128) || landingYet s c || recordWaits s c x then .next s
      else if c.stop.isSome || (copyLanded s c && (c.follow.isNone || c.foin)) then
        let s := shareFill (shareWrite s x c.cmpl (copyRecordBytes c)) x (c.cmpl / 128) false
        let s := { dropFar s id with copies := s.copies.filter (fun k => !(k.id == id)) }
        let s := shareResolve (match contextOf s x with
          | some y => if y.copyQ.isEmpty && !s.copies.any (copyOfCtx x) then contextEvent s x else s
          | none => s) x
        match c.stop with
        | none => .next s
        | some e =>
          if c.trap then
            .next (reportTrap s x 2 { cause := e.status, blk := c.blk, slot := c.slot, tag := c.tag, info0 := e.addr,
                                      info1 := BitVec.ofNat 64 c.cmplOff })
          else .next s
      else .next s

end Sys2Proof.Machine
end

