-- ==== Sys2Proof/Machine/Riders.lean ====
section
/-! DEFINITION. Riders at firing (R192, R193, R407, R409) and out of their queue (R185, R194): the parameter record, the
region's geometry, the queue's head leaving as legs. -/

namespace Sys2Proof.Machine

/-! ### The parameter record (R192) -/

/-- The fields of a rider's record. -/
structure RiderRec where
  kind : Nat
  etype : Nat
  await_ : Bool
  trap : Bool
  vec : Bool
  sat : Bool
  rm : Nat
  outBf16 : Bool
  op : Nat
  tokv : Bool
  e : Int
  lapse : BitVec 3
  lset : Bool
  res : Bool
  rel : Bool
  roff : Nat
  n0 : Nat
  n1 : Nat
  s0 : Nat
  s1 : Nat
  v0 : Word
  a : Word
  dst : Nat
  opnd : Nat
  cmpl : Nat
  outmax : Nat
  deriving DecidableEq, Repr

/-- Read a rider's record. -/
def riderRec (r : List Byte) : RiderRec :=
  let w0 := recWord r 0
  let w2 := recWord r 0x10
  let w3 := recWord r 0x18
  let w6 := recWord r 0x30
  let w7 := recWord r 0x38
  { kind := (w0.extractLsb' 0 4).toNat, etype := (w0.extractLsb' 4 4).toNat, await_ := w0.getLsbD 8
    trap := w0.getLsbD 9, vec := w0.getLsbD 10, sat := w0.getLsbD 11, rm := (w0.extractLsb' 12 2).toNat
    outBf16 := w0.getLsbD 14, op := (w0.extractLsb' 16 3).toNat, tokv := w0.getLsbD 19
    e := (w0.extractLsb' 20 12).toInt, lapse := w0.extractLsb' 32 3, lset := w0.getLsbD 35, res := w0.getLsbD 36
    rel := w0.getLsbD 37, roff := ((recWord r 8).extractLsb' 0 40).toNat
    n0 := (w2.extractLsb' 0 32).toNat, n1 := (w2.extractLsb' 32 32).toNat
    s0 := (w3.extractLsb' 0 32).toNat, s1 := (w3.extractLsb' 32 32).toNat
    v0 := recWord r 0x20, a := recWord r 0x28
    dst := (w6.extractLsb' 0 22).toNat, opnd := (w6.extractLsb' 32 22).toNat
    cmpl := (w7.extractLsb' 0 22).toNat, outmax := (w7.extractLsb' 32 32).toNat }

/-- The element type's code as `typeBits` numbers the types. -/
def RiderRec.ty (r : RiderRec) : Nat := if r.etype ≤ 6 then r.etype else r.etype + 1

/-- The element type is a float type. -/
def RiderRec.isFloat (r : RiderRec) : Bool := decide (5 ≤ r.etype)

/-- ESZ. -/
def RiderRec.esz (r : RiderRec) : Nat := typeBits r.ty / 8

/-- The bytes from the first element's first to the last one's last (R193). -/
def RiderRec.span (r : RiderRec) : Nat := (r.n0 - 1) * r.s0 + (r.n1 - 1) * r.s1 + r.esz

/-- The bytes of a rider's destination range (R193). -/
def RiderRec.destLen (r : RiderRec) : Nat :=
  match r.kind with
  | 1 => r.n0 * r.n1 * r.esz
  | 2 => r.outmax * r.esz
  | 3 => r.n1 * (if r.outBf16 then 2 else 4)
  | _ => 0

/-- The bytes of a rider's operand range (R193). -/
def RiderRec.operandLen (r : RiderRec) : Nat :=
  match r.kind with
  | 3 => r.n0 * 2
  | 4 => if r.vec then r.n0 * r.n1 * r.esz else 0
  | 7 => r.n0 * r.n1 * r.esz
  | _ => 0

/-! ### A malformed record (R193, R407) -/

/-- The element types of a kind. -/
def kindTypes (kind etype : Nat) : Bool :=
  match kind with
  | 3 => etype == 5 || etype == 7 || etype == 8
  | 6 => decide (etype ≤ 4)
  | 9 => etype == 0
  | _ => decide (etype ≤ 8)

/-- A condition's mask. -/
def maskIf (c : Bool) (m : Word) : Word := if c then m else 0

/-- The bits of word 0 that a kind uses. -/
def usedWord0 (r : RiderRec) : Word :=
  0x3FF ||| (match r.kind with
    | 2 => 0xF0000
    | 3 => 0xFFF04800
    | 4 => 0xC00 ||| maskIf r.isFloat 0x3000
    | 5 => 0x70000 ||| maskIf (r.isFloat && r.op == 0) 0xFFF04800
    | 9 => 0x3800000000 ||| maskIf r.lset 0x700000000
    | _ => 0)

/-- The bits of words 1 to 7 that a kind uses. -/
def usedWords (r : RiderRec) : List Word :=
  let k := r.kind
  let all : Word := BitVec.allOnes 64
  [0xFFFFFFFFFF, all, all,
   maskIf ((k == 2 && !r.tokv) || (k == 4 && !r.vec) || k == 6 || k == 8) all,
   maskIf (k == 4 || k == 6) all,
   maskIf (k == 1 || k == 2 || k == 3) 0x3FFFFF ||| maskIf (k == 3 || (k == 4 && r.vec) || k == 7) 0x3FFFFF00000000,
   0x3FFFFF ||| maskIf (k == 2) 0xFFFFFFFF00000000]

/-- Two ranges of offsets share a byte. -/
def rangesMeet (a n b m : Nat) : Bool := decide (a < b + m) && decide (b < a + n)

/-- The record is malformed for an instruction of a kind; `fed` says that a target names the right port (R193, R407). -/
def recordMalformed (kind : Nat) (bytes : List Byte) (fed : Bool) : Bool :=
  let r := riderRec bytes
  r.kind != kind || !kindTypes kind r.etype ||
  decide (recWord bytes 0 &&& ~~~(usedWord0 r) ≠ 0) ||
  ((usedWords r).zipIdx.any (fun m => decide (recWord bytes (8 * (m.2 + 1)) &&& ~~~m.1 ≠ 0))) ||
  r.n0 == 0 || r.n1 == 0 ||
  (decide (1 < r.n0) && (r.s0 == 0 || r.s0 % r.esz != 0)) ||
  (decide (1 < r.n1) && (r.s1 % r.esz != 0 || decide (r.s1 < (r.n0 - 1) * r.s0 + r.esz))) ||
  (kind == 3 && (decide (16384 < r.n0) || decide (8192 < r.n1))) ||
  (kind == 2 && (r.outmax == 0 || decide (5 < r.op) || (r.tokv && !fed))) ||
  (kind == 5 && decide (2 < r.op)) ||
  (kind == 9 && (r.await_ != r.res || (r.res && r.rel))) ||
  r.cmpl % 128 != 0 || rangesMeet r.cmpl 128 r.dst r.destLen || rangesMeet r.cmpl 128 r.opnd r.operandLen

/-! ### The checks at firing (R193) -/

/-- The checks of a region capability (R193): the cause of the first that fails. -/
def regionFault (c : CapReg) (r : RiderRec) : Option Nat :=
  if c.tag = false then some 0x20
  else if c.rsv ≠ 0 then some 0x26
  else if c.lock ≠ 0 then some 0x25
  else if c.space ≠ 2 then some 0x27
  else if permRIDE &&& ~~~c.perms ≠ 0 then some 0x24
  else if c.length < r.roff + r.span then some 0x23
  else if (c.base + BitVec.ofNat 64 r.roff).toNat % r.esz ≠ 0 then some 0x28
  else none

/-- The checks of a destination or operand range of a record capability in space L (R193): the cause of the first that
fails; an empty range has none. -/
def shareRangeFault (c : CapReg) (off len : Nat) (need : BitVec 12) : Option Nat :=
  if len = 0 then none
  else if need &&& ~~~c.perms ≠ 0 then some 0x24
  else if c.length < off + len then some 0x23
  else if lLimit < (c.base + BitVec.ofNat 64 off).toNat + len then some 0x23
  else none

/-- The lines that a rider's entry sets empty (R194). -/
def riderEmpties (r : RiderRec) (c : CapReg) : List Nat :=
  linesOf (c.base.toNat + r.dst) r.destLen ++ [(c.base.toNat + r.cmpl) / 128]

/-- Check the share ranges of a rider in their order (R193): destination and completion line as stores, the operand as a
load. -/
def checkShare (s : State) (t k : Nat) (c : CapReg) (r : RiderRec) : State × Option MemTrap :=
  let at_ (off : Nat) : Word := c.base + BitVec.ofNat 64 off
  match shareRangeFault c r.dst r.destLen permST with
  | some x =>
    let (i1, s) := rangeInfo1 s k true
    (s, some ⟨x, at_ r.dst, i1⟩)
  | none =>
    match resolveRange s t k c (BitVec.ofNat 64 r.cmpl) 128 128 permST .write (isSupervisor s t) true true with
    | (s, .error e) => (s, some e)
    | (s, .ok _) =>
      match shareRangeFault c r.opnd r.operandLen permLD with
      | some x =>
        let (i1, s) := rangeInfo1 s k false
        (s, some ⟨x, at_ r.opnd, i1⟩)
      | none => (s, none)

/-- A rider with its record read: the checks of R193 from the second on, then the command. -/
def riderRecord (s : State) (f : Firing) (h : Hdr) (i : Instr) (kind kr kc : Nat) (bytes : List Byte) : State :=
  let r := riderRec bytes
  let region := kregOf s f.tile kr
  let rec_ := kregOf s f.tile kc
  let ra : Word := region.base + BitVec.ofNat 64 r.roff
  let cm : Word := BitVec.ofNat 64 r.cmpl
  if recordMalformed kind bytes f.right.isSome then trapFiring s f 0x50 ra cm
  else
    match regionFault region r with
    | some x => trapFiring s f x ra (memInfo1 kr r.esz false 0)
    | none =>
      let last : Word := ra + BitVec.ofNat 64 (r.span - 1)
      if ra.extractLsb' 30 27 ≠ last.extractLsb' 30 27 then trapFiring s f 0x51 ra cm
      else
        match checkShare s f.tile kc rec_ r with
        | (s, some e) => trapFiring s f e.cause e.info0 e.info1
        | (s, none) =>
          if kind = 9 ∧ r.lset ∧ (ra.toNat % 2 ^ 21 ≠ 0 ∨ r.span % 2 ^ 21 ≠ 0) then trapFiring s f 0x5A ra cm
          else fireCommand s f 3 h.w i [region, rec_] bytes (riderEmpties r rec_)

/-- A rider form (R193, R399): its record is read through the record capability in space L. -/
def riderForm (h : Hdr) (i : Instr) (kind : Nat) (kr kc : BitVec 4) (s : State) : Out :=
  engineForm s (fun f s =>
    match resolveRange s f.tile kc.toNat (kregOf s f.tile kc.toNat) (tokVal f.left) 64 64 permLD .read
        (isSupervisor s f.tile) false true with
    | (s, .error e) => trapFiring s f e.cause e.info0 e.info1
    | (s, .ok (q, a)) =>
      match (s.tile f.tile).ctx with
      | none => s
      | some c => readRecord s f c kc.toNat q a (fun s bs => riderRecord s f h i kind kr.toNat kc.toNat bs))

/-- RIREAD (R195, R408). -/
def execRiread (h : Hdr) (region rec_ : BitVec 4) (s : State) : Out := riderForm h (.riread h region rec_) 1 region rec_ s

/-- RIFILT (R195, R408). -/
def execRifilt (h : Hdr) (region rec_ : BitVec 4) (s : State) : Out := riderForm h (.rifilt h region rec_) 2 region rec_ s

/-- RIMATV (R195, R408). -/
def execRimatv (h : Hdr) (region rec_ : BitVec 4) (s : State) : Out := riderForm h (.rimatv h region rec_) 3 region rec_ s

/-- RIUPD (R195, R196, R408). -/
def execRiupd (h : Hdr) (region rec_ : BitVec 4) (s : State) : Out := riderForm h (.riupd h region rec_) 4 region rec_ s

/-- RIRED (R195, R197, R198, R408). -/
def execRired (h : Hdr) (region rec_ : BitVec 4) (s : State) : Out := riderForm h (.rired h region rec_) 5 region rec_ s

/-- RICXG (R195, R408). -/
def execRicxg (h : Hdr) (region rec_ : BitVec 4) (s : State) : Out := riderForm h (.ricxg h region rec_) 6 region rec_ s

/-- RIWRITE (R195, R408). -/
def execRiwrite (h : Hdr) (region rec_ : BitVec 4) (s : State) : Out :=
  riderForm h (.riwrite h region rec_) 7 region rec_ s

/-- RIFILL (R195, R408). -/
def execRifill (h : Hdr) (region rec_ : BitVec 4) (s : State) : Out := riderForm h (.rifill h region rec_) 8 region rec_ s

/-- RIPREF (R169, R195, R409). -/
def execRipref (h : Hdr) (region rec_ : BitVec 4) (s : State) : Out := riderForm h (.ripref h region rec_) 9 region rec_ s

/-! ### Geometry (R192, R409) -/

/-- The elements of a region: element i1 · n0 + i0 lies at base + i1 · s1 + i0 · s0 and has `esz` bytes. -/
structure Region2 where
  base : Nat
  n0 : Nat
  n1 : Nat
  s0 : Nat
  s1 : Nat
  esz : Nat
  deriving DecidableEq, Repr

/-- The region of a record: RIPREF's is its byte range, each byte an element. -/
def geometry (region : CapReg) (r : RiderRec) : Region2 :=
  let base := (region.base + BitVec.ofNat 64 r.roff).toNat
  if r.kind = 9 then { base := base, n0 := r.span, n1 := 1, s0 := 1, s1 := 0, esz := 1 }
  else { base := base, n0 := r.n0, n1 := r.n1, s0 := r.s0, s1 := r.s1, esz := r.esz }

/-- The address of element e. -/
def Region2.addr (g : Region2) (e : Nat) : Nat := g.base + e / g.n0 * g.s1 + e % g.n0 * g.s0

/-- The first index from which a rising sequence first, first + step, … is at least `lo`. -/
def firstFrom (first step lo : Nat) : Nat :=
  if lo ≤ first then 0 else if step = 0 then 2 ^ 64 else (lo - first + step - 1) / step

/-- The elements whose addresses lie in [lo, lo + n), in increasing order. -/
def Region2.within (g : Region2) (lo n : Nat) : List Nat :=
  let inner := (g.n0 - 1) * g.s0
  let i := if g.n1 = 1 then 0 else firstFrom (g.base + inner) g.s1 lo
  let rows := if g.n1 = 1 then 1 else min g.n1 (firstFrom g.base g.s1 (lo + n)) - i
  (List.range rows).flatMap (fun k =>
    let row := g.base + (i + k) * g.s1
    let j := firstFrom row g.s0 lo
    let stop := if g.n0 = 1 then (if row < lo + n then 1 else 0) else min g.n0 (firstFrom row g.s0 (lo + n))
    if g.n0 = 1 ∧ row < lo then [] else (List.range (stop - j)).map (fun x => (i + k) * g.n0 + (j + x)))

/-- The virtual addresses of the 8 KiB rows of a region that lie on a ring and hold an element (R163, R185). -/
def Region2.rowsOn (g : Region2) (q : Nat) : List Nat :=
  let last := g.base + (g.n1 - 1) * g.s1 + (g.n0 - 1) * g.s0
  let block := 2 ^ 18
  ((List.range (last / block - g.base / block + 1)).map (fun i => (g.base / block + i) * block + q * 8192)).filter
    (fun va => !(g.within va 8192).isEmpty)

/-- The region of a rider. -/
def Rider.geo (r : Rider) : Region2 := geometry r.region (riderRec r.record)

/-! ### Leaving the queue (R185, R194) -/

/-- A leg that has not reached its ring. -/
def Leg.start (ring : Nat) : Leg :=
  { ring := ring, arrived := none, seated := false, laneAsked := none, lane := false, boarded := none,
    alighted := false, frames := [], deferred := [], waited := false, freed := none, failedAt := none, acted := [], wins := [] }

/-- The slot count since cold reset. -/
def slotNow (s : State) : Nat := s.now / 2

/-- The rider of a queue entry as it leaves. -/
def riderOf (id tile now : Nat) (c : Ctx) (e : QEntry) (operand : List Byte) : Rider :=
  let g := geometry (e.cap 0) (riderRec e.record)
  { id := id, inst := e.inst, tile := tile, ctx := c.id, tenant := c.tenant, since := now, region := e.cap 0,
    record := e.record, recBase := (e.cap 1).base.toNat, right := e.right, operand := operand, blk := e.blk,
    slot := e.slot, tag := e.tag
    legs := ((List.range 32).filter (fun q => !(g.rowsOn q).isEmpty)).map Leg.start
    kept := [], landed := [], spoilt := [], owed := [], folded := none, nanSeen := false, count := 0, lowest := none,
    lapse := false, lcnt := 0, pcnt := 0, first := none, st54 := false, st53 := false, st52 := false, st55 := false,
    fillst := 0, defer := false, orphan := false }

/-- The rider at the head of the queue waits on: what its lines have brought it so far is forgotten, and it waits for those that keep it
(R146, R194). -/
def waitAnew (s : State) (t : Nat) (c : Ctx) (ls : List Nat) : State :=
  joinLines { s with pend := s.pend.filter (fun e => !(e.who == .engine t c.id 3 && e.got.isSome)) } t c 3 ls

/-- RIDER_LEAVE_QUEUE (R185, R194): the rider at the head leaves once its operand lines are all full at one moment and fewer than 64
riders of the tile are out, after the stores before it in tile order (R226, R229); it reads its operand as it stands then. Where lines
make it wait it joins their waiters (R146). A poisoned operand line traps instead (R147). -/
def execRiderLeaveQueue (tile : Nat) (s : State) : Out :=
  match (s.tile tile).ctx with
  | none => .next s
  | some c =>
    match c.riderQ with
    | [] => .next s
    | e :: _ =>
      if e.instr.isNone then .next s
      else
        let r := riderRec e.record
        let off := (e.cap 1).base.toNat + r.opnd
        if 64 ≤ (s.riders.filter (fun x => x.tile == tile)).length ∨ storingBefore s c.id e.stamp then .next s
        else if !readable s tile c.id off r.operandLen then
          .next (waitAnew s tile c (blockedLines s tile c.id off r.operandLen))
        else
          match poisonedAt s tile off r.operandLen with
          | some a =>
            let k := match e.instr with
              | some (.riread _ _ k) | some (.rifilt _ _ k) | some (.rimatv _ _ k) | some (.riupd _ _ k)
              | some (.rired _ _ k) | some (.ricxg _ _ k) | some (.riwrite _ _ k) | some (.rifill _ _ k)
              | some (.ripref _ _ k) => k.toNat
              | _ => 0
            let (i1, s) := rangeInfo1 (leaveView s s tile c.id 3) k false
            .next (reportTrap (popQueue s tile 3) c.id 3 (commandTrap e 0x31 (BitVec.ofNat 64 a) i1))
          | none =>
            let (id, s) := (leaveView s s tile c.id 3).fresh
            let x := riderOf id tile (slotNow s) c e (mbytes (s.tile tile).mem off r.operandLen)
            .next (popQueue { s with riders := s.riders ++ [x] } tile 3)

end Sys2Proof.Machine
end

