-- ==== Sys2Proof/Machine/Acts.lean ====
section
/-! DEFINITION. What a rider's leg does at a row (R195 to R198, R202, R408): the act on each element, window accumulators,
and the landings of RIREAD. -/

namespace Sys2Proof.Machine

/-- Change a rider. -/
def State.modRider (s : State) (id : Nat) (g : Rider → Rider) : State :=
  { s with riders := s.riders.map (fun r => if r.id == id then g r else r) }

/-- A rider by its number. -/
def riderAt (s : State) (id : Nat) : Option Rider := s.riders.find? (fun r => r.id == id)

/-- The leg of a rider on a ring. -/
def Rider.leg (r : Rider) (q : Nat) : Option Leg := r.legs.find? (fun l => l.ring == q)

/-- Change the leg of a rider on a ring. -/
def Rider.modLeg (r : Rider) (q : Nat) (g : Leg → Leg) : Rider :=
  { r with legs := r.legs.map (fun l => if l.ring == q then g l else l) }

/-- Keep an element's index where it is the lowest so far (R200, R202). -/
def Rider.noteFirst (r : Rider) (e : Nat) : Rider :=
  { r with first := some (match r.first with
      | none => e
      | some x => min x e) }

/-! ### Window accumulators (R197) -/

/-- An empty window. -/
def Window.empty : Window := { sum := 0, ovf := false, nan := false, pinf := false, ninf := false }

/-- add of R197. -/
def Window.add (w : Window) (ex : Int) (v : FNum) : Window :=
  match v with
  | .nan => { w with nan := true }
  | .inf false => { w with pinf := true }
  | .inf true => { w with ninf := true }
  | .fin neg m e =>
    let q := (roundInt 0 neg m (e - ex)).1
    let hi : Int := 2 ^ 127 - 1
    let lo : Int := -(2 ^ 127)
    if hi < q then { w with sum := w.sum + hi, ovf := true }
    else if q < lo then { w with sum := w.sum + lo, ovf := true }
    else { w with sum := w.sum + q }

/-- The sum of two windows, flags ORed. -/
def Window.join (a b : Window) : Window :=
  { sum := a.sum + b.sum, ovf := a.ovf || b.ovf, nan := a.nan || b.nan, pinf := a.pinf || b.pinf, ninf := a.ninf || b.ninf }

/-- finish of R197: the encoding, the saturated sum and OVF. -/
def Window.finish (w : Window) (bf sat : Bool) (ex : Int) : Nat × Int × Bool :=
  let hi : Int := 2 ^ 127 - 1
  let lo : Int := -(2 ^ 127)
  let x := if hi < w.sum then hi else if w.sum < lo then lo else w.sum
  let F := if bf then bf16 else fp32
  let v : FNum :=
    if w.nan || (w.pinf && w.ninf) then .nan
    else if w.pinf then .inf false
    else if w.ninf then .inf true
    else .fin (decide (x < 0)) x.natAbs ex
  ((deliverNum F 0 sat v false).1, x, w.ovf || decide (x ≠ w.sum))

/-! ### Acts (R195, R196, R198) -/

/-- The result of a comparison of RIFILT (R192). -/
def compareOp (op : Nat) (lt eq : Bool) : Bool :=
  match op with
  | 0 => eq
  | 1 => !eq
  | 2 => lt
  | 3 => lt || eq
  | 4 => !lt && !eq
  | _ => !lt

/-- W OP v (R195). -/
def keeps (r : RiderRec) (v : Word) (w : Nat) : Bool :=
  if r.isFloat then
    let a := typeNum r.ty w
    let b := decodeFloat fp32 (v.toNat % 2 ^ 32)
    if a.isNan || b.isNan then r.op == 1 else compareOp r.op (FNum.lt a b) (FNum.eqv a b)
  else compareOp r.op (decide (typeInt r.ty w < v.toInt)) (decide (typeInt r.ty w = v.toInt))

/-- update of R196: `g` is the operand element of a vector form. -/
def updated (r : RiderRec) (g : Nat) (w : Nat) : Nat :=
  if r.isFloat then
    let gv := if r.vec then typeNum r.ty g else decodeFloat fp32 (r.v0.toNat % 2 ^ 32)
    let v := fusedSum (decodeFloat fp32 (r.a.toNat % 2 ^ 32)) gv (typeNum r.ty w)
    (deliverNum (typeFmt r.ty) r.rm r.sat v.1 v.2).1
  else
    let gv := if r.vec then typeInt r.ty g else r.v0.toInt
    (deliverInt r.ty r.sat (typeInt r.ty w + r.a.toInt * gv)).1

/-- The element with index e of a rider's operand. -/
def operandElem (x : Rider) (esz e : Nat) : Nat := bytesValue ((x.operand.drop (esz * e)).take esz)

/-- Fold an integer into a reduction (R198). -/
def foldInt (op ty : Nat) (acc : Option Word) (w : Nat) : Word :=
  let v : Word := BitVec.ofInt 64 (typeInt ty w)
  match acc with
  | none => v
  | some a =>
    match op with
    | 0 => a + v
    | 1 => if v.toInt < a.toInt then v else a
    | _ => if a.toInt < v.toInt then v else a

/-- Fold a float into MIN or MAX (R198). -/
def foldFloat (op ty : Nat) (acc : Option Word) (w : Nat) : Word :=
  match acc with
  | none => BitVec.ofNat 64 w
  | some a =>
    let x := typeNum ty a.toNat
    let y := typeNum ty w
    if (if op = 1 then FNum.below y x else FNum.below x y) then BitVec.ofNat 64 w else a

/-- Add a value to a window of a leg. -/
def Leg.addTo (l : Leg) (n : Nat) (ex : Int) (v : FNum) : Leg :=
  { l with wins := tset Window.empty l.wins n ((tget Window.empty l.wins n).add ex v) }

/-- What a leg works on during a visit: the row's bytes, its uncorrectable chunks, whether it has been written, its new
deadline where one was set. -/
structure RowView where
  data : Memory
  bad : List Nat
  wrote : Bool
  deadline : Option (BitVec 3)
  deriving DecidableEq, Repr

/-- A rider at work on a row. -/
structure Acting where
  rider : Rider
  view : RowView
  deriving DecidableEq, Repr

/-- Write an element of the row. -/
def RowView.put (v : RowView) (off esz w : Nat) : RowView := { v with data := mwrite v.data off esz w, wrote := true }

/-- The act on one element e at a row offset (R195, R202, R408). -/
def actOn (r : RiderRec) (q : Nat) (lapsed : Bool) (a : Acting) (el : Nat × Nat) : Acting :=
  let e := el.1
  let off := el.2
  let poison := a.view.bad.contains (off / 64)
  let x := a.rider
  let x := if lapsed || poison then x.noteFirst e else x
  let x := if poison then { x with pcnt := x.pcnt + 1 } else x
  if poison && !(r.kind == 1 || r.kind == 7 || r.kind == 8) then { a with rider := { x with st55 := true } }
  else
    let w := mread a.view.data off r.esz
    let counted : Rider := { x with count := x.count + 1 }
    match r.kind with
    | 1 => { a with rider := { counted with owed := x.owed ++ [(e, BitVec.ofNat 64 w, poison)] } }
    | 2 => { a with rider := if keeps r (if r.tokv then x.right else r.v0) w then { x with kept := x.kept ++ [(e, BitVec.ofNat 64 w)] } else x }
    | 3 =>
      let xk := decodeFloat bf16 (operandElem x 2 (e % r.n0))
      { a with rider := x.modLeg q (fun l => l.addTo (e / r.n0) r.e (FNum.mul (typeNum r.ty w) xk).1) }
    | 4 => { rider := counted, view := a.view.put off r.esz (updated r (operandElem x r.esz e) w) }
    | 5 =>
      if !r.isFloat then { a with rider := { counted with folded := some (foldInt r.op r.ty x.folded w) } }
      else if r.op = 0 then { a with rider := counted.modLeg q (fun l => l.addTo 0 r.e (typeNum r.ty w)) }
      else if (typeNum r.ty w).isNan then { a with rider := { counted with nanSeen := true } }
      else { a with rider := { counted with folded := some (foldFloat r.op r.ty x.folded w) } }
    | 6 =>
      if w = r.v0.toNat % 256 ^ r.esz then
        { rider := { counted with lowest := some (match x.lowest with
            | none => e
            | some y => min y e) }
          view := a.view.put off r.esz r.a.toNat }
      else { a with rider := x }
    | 7 => { rider := counted, view := a.view.put off r.esz (operandElem x r.esz e) }
    | 8 => { rider := counted, view := a.view.put off r.esz r.v0.toNat }
    | _ => { a with rider := x }

/-- Elements of a size, at their offsets in a row, cover every byte of a chunk. -/
def coversChunk (esz : Nat) (els : List (Nat × Nat)) (c : Nat) : Bool :=
  (List.range 64).all (fun i => els.any (fun e => decide (e.2 ≤ 64 * c + i) && decide (64 * c + i < e.2 + esz)))

/-- Chunks of which a leg has written every byte are replaced (R172, R202). -/
def replaced (r : RiderRec) (els : List (Nat × Nat)) (v : RowView) : RowView :=
  if r.kind = 7 ∨ r.kind = 8 then { v with bad := v.bad.filter (fun c => !coversChunk r.esz els c) } else v

/-- What an element of RIPREF at a visit brings about (R202): a poisoned one counts, and it or a lapsed one may be the first. -/
def prefetchOn (lapsed : Bool) (v : RowView) (x : Rider) (el : Nat × Nat) : Rider :=
  let poison := v.bad.contains (el.2 / 64)
  let x := if lapsed || poison then x.noteFirst el.1 else x
  if poison then { x with pcnt := x.pcnt + 1, st55 := true } else x

/-- The act of a leg at a visit on the elements it has in the row (R166, R195, R202). RIPREF sets the row's deadline (R169). -/
def actRow (x : Rider) (q row : Nat) (els : List (Nat × Nat)) (lapsed : Bool) (v : RowView) : Acting :=
  let r := riderRec x.record
  let x := if lapsed then { x with lapse := true, lcnt := x.lcnt + 1 } else x
  let x := x.modLeg q (fun l => if l.waited then { l with acted := l.acted ++ [row] } else l)
  if r.kind = 9 then
    { rider := els.foldl (prefetchOn lapsed v) x, view := { v with deadline := some r.lapse } }
  else
    let a := els.foldl (actOn r q lapsed) { rider := x, view := v }
    { a with view := replaced r els a.view }

/-! ### Landings of RIREAD (R194, R202) -/

/-- How many elements of an RIREAD lie in a line of its destination. -/
def elementsIn (r : RiderRec) (base l : Nat) : Nat :=
  let d := base + r.dst
  let lo := (128 * l - d) / r.esz
  let hi := min (r.n0 * r.n1) ((128 * l + 128 - d + r.esz - 1) / r.esz)
  hi - lo

/-- Land one element: its bytes, then each line it completes is set full, as poison where it got a poisoned element. -/
def landElement (s : State) (id : Nat) (el : Nat × Word × Bool) : State :=
  match riderAt s id with
  | none => s
  | some x =>
    let r := riderRec x.record
    let off := x.recBase + r.dst + el.1 * r.esz
    let s := shareWrite s x.ctx off (bytesOf r.esz el.2.1.toNat)
    (linesOf off r.esz).foldl (fun s l =>
      match riderAt s id with
      | none => s
      | some x =>
        let n := tget 0 x.landed l + 1
        let spoilt := if el.2.2 && !x.spoilt.contains l then x.spoilt ++ [l] else x.spoilt
        let s := s.modRider id (fun x => { x with landed := tset 0 x.landed l n, spoilt := spoilt })
        if n = elementsIn r x.recBase l then shareFill s x.ctx l (spoilt.contains l) else s) s

/-- Land what a rider owes and no reservation holds back (R363). -/
def landOwed (s : State) (id : Nat) : State :=
  match riderAt s id with
  | none => s
  | some x =>
    let r := riderRec x.record
    let free (el : Nat × Word × Bool) : Bool :=
      (linesOf (x.recBase + r.dst + el.1 * r.esz) r.esz).all (fun l => !shareReserved s x.ctx l)
    let s := s.modRider id (fun x => { x with owed := x.owed.filter (fun el => !free el) })
    (x.owed.filter free).foldl (fun s el => landElement s id el) s

end Sys2Proof.Machine
end

