-- ==== Sys2Proof/Machine/Legs.lean ====
section
/-! DEFINITION. Legs of riders (R186 to R190, R199 to R204): arrival, seats, the walk of their pages, bench lanes, boarding,
alighting, and a rider's completion. -/

namespace Sys2Proof.Machine

/-- One turn, in slots (R164). -/
def turn : Nat := 2 ^ 21

/-! ### The walk (R199 to R201, R409) -/

/-- What a sweep virtual address translates to. -/
inductive SweepLeaf where
  | resident (f : Frame)
  | absent (w : PageWant)
  | bad
  deriving DecidableEq, Repr

/-- Walk a tenant's tables, as they stand, to the leaf of a sweep address (R174, R175, R199). -/
def sweepLeaf (s : State) (tenant va : Nat) : SweepLeaf :=
  match walkFrom s [] (asidOf s tenant) 0 va 5 (rootOf s tenant) 0 with
  | .error _ => .bad
  | .ok (l, _) =>
    let page := va / 2 ^ l.shift * 2 ^ l.shift
    if pteKind l.pte ≠ 2 then .bad
    else if pteRes l.pte then
      if l.shift = 16 ∧ ptePa l.pte / 2 ^ 16 % 4 ≠ va / 2 ^ 16 % 4 then .bad
      else .resident { va := page, shift := l.shift, pa := ptePa l.pte }
    else .absent { va := page, shift := l.shift, leaf := l.at_, desc := ptePa l.pte, raised := false }

/-- What a leg's walk finds. -/
structure Walked where
  bad : Bool
  frames : List Frame
  wants : List PageWant
  /-- the lowest element in a page that is not resident -/
  first : Option Nat
  deriving DecidableEq, Repr

/-- A frame's page holds a virtual address. -/
def Frame.covers (f : Frame) (va : Nat) : Bool := decide (f.va ≤ va) && decide (va < f.va + 2 ^ f.shift)

/-- A page holds a virtual address. -/
def PageWant.covers (w : PageWant) (va : Nat) : Bool := decide (w.va ≤ va) && decide (va < w.va + 2 ^ w.shift)

/-- Walk the pages of the rows, in order, in which a region has elements. -/
def walkRows (s : State) (tenant : Nat) (g : Region2) : List Nat → Walked → Walked
  | [], w => w
  | va :: rest, w =>
    if w.frames.any (fun f => f.covers va) || w.wants.any (fun p => p.covers va) then walkRows s tenant g rest w
    else
      match sweepLeaf s tenant va with
      | .bad => walkRows s tenant g rest { w with bad := true }
      | .resident f => walkRows s tenant g rest { w with frames := w.frames ++ [f] }
      | .absent p =>
        walkRows s tenant g rest { w with
          wants := w.wants ++ [p]
          first := match w.first with
            | none => (g.within va 8192).head?
            | some e => some e }

/-- Mark the resident pages of some frames releasable, or clear the mark (R182, R409). -/
def markFrames (s : State) (fs : List Frame) (releasable : Bool) : State :=
  { s with residents := s.residents.map (fun r =>
      if fs.any (fun f => decide (f.pa = r.frame) && decide (f.shift = r.page.shift)) then { r with releasable := releasable }
      else r) }

/-- A request for a page joins its fill, or begins one (R177). -/
def requestFill (s : State) (f leaf : Nat) (w : PageWant) : State :=
  if s.fills.any (fun x => x.page.leaf == leaf) then s
  else
    { s with fills := s.fills ++ [{ tenant := f, page := { w with raised := true }, frame := 0, src := 0, slen := 0, zstd := false,
                                    zero := false, st := .requested, content := [] }] }

/-- The requests for some pages that have still to be raised are raised, where what waits for the pages goes (R46, R177): each begins a
fill or joins the one in progress. -/
def issueWants (s : State) (f : Nat) (ws : List PageWant) : State :=
  (ws.filter (fun w => !w.raised)).foldl (fun s w => requestFill (raise s .pageRequest (pageKey f w.leaf)) f w.leaf w) s

/-- A leg that does not board counts as alighted. -/
def giveUp (x : Rider) (q : Nat) : Rider := x.modLeg q (fun l => { l with alighted := true, seated := false })

/-- Take the translations of a leg's pages (R199 to R202, R409). The leg may go on unless it raises a status, or, with
RIMATV, waits for pages; its lowest non-resident element counts for FIRST whatever becomes of it, and under the await policy the
pages that its walk has found non-resident are asked for (R177). -/
def takePages (s : State) (id q : Nat) : State × Bool :=
  match riderAt s id with
  | none => (s, false)
  | some x =>
    let r := riderRec x.record
    let w := walkRows s x.tenant x.geo (x.geo.rowsOn q) { bad := false, frames := [], wants := [], first := none }
    let wants := if r.kind = 9 ∧ r.res = false then [] else w.wants
    let found (x : Rider) : Rider := match w.first with
      | some e => x.noteFirst e
      | none => x
    if w.bad then
      let s := if r.await_ then issueWants s x.tenant wants else s
      (s.modRider id (fun x => giveUp { found x with st54 := true, st52 := x.st52 || (!wants.isEmpty && !r.await_) } q), false)
    else
      let s := if r.kind = 9 ∧ (r.rel ∨ r.res) then markFrames s w.frames r.rel else s
      if wants.isEmpty then (s.modRider id (fun x => (found x).modLeg q (fun l => { l with frames := w.frames })), true)
      else if r.await_ = false then (s.modRider id (fun x => giveUp (found { x with st52 := true }) q), false)
      else if r.kind = 3 then
        (s.modRider id (fun x => (found x).modLeg q (fun l => { l with deferred := wants })), false)
      else
        (s.modRider id (fun x => (found { x with defer := true }).modLeg q (fun l => { l with
          frames := w.frames, deferred := wants, waited := true })), true)

/-! ### Seats (R186) -/

/-- The riders of a tile with a leg on a ring that has not alighted, in the order in which they left the queue. -/
def legsOf (s : State) (tile q : Nat) : List (Rider × Leg) :=
  s.riders.filterMap (fun x =>
    if x.tile == tile then
      match x.leg q with
      | some l => if l.alighted then none else some (x, l)
      | none => none
    else none)

/-- Give seats in order: the first leg without one gets one while fewer than 8 are taken; a leg that has not arrived, or an
RIMATV leg that waits for pages, keeps the legs behind it waiting. -/
def seatFrom (q : Nat) : List (Rider × Leg) → Nat → State → State
  | [], _, s => s
  | (x, l) :: rest, taken, s =>
    if l.seated then seatFrom q rest taken s
    else if l.arrived.isNone || ((riderRec x.record).kind == 3 && !l.deferred.isEmpty) || decide (8 ≤ taken) then s
    else seatFrom q rest (taken + 1) (s.modRider x.id (fun x => x.modLeg q (fun l => { l with seated := true })))

/-- Give the seats of a tile on a ring. -/
def giveSeats (s : State) (tile q : Nat) : State :=
  let ls := legsOf s tile q
  seatFrom q ls (ls.filter (fun l => l.2.seated)).length s

/-! ### Arrival (R185) -/

/-- A leg reaches its ring: an RIMATV leg walks its pages, the others ask for a seat. -/
def arrive (s : State) (id q : Nat) : State :=
  match riderAt s id with
  | none => s
  | some x =>
    let s := s.modRider id (fun x => x.modLeg q (fun l => { l with arrived := some (slotNow s) }))
    let s := if (riderRec x.record).kind = 3 then (takePages s id q).1 else s
    giveSeats s x.tile q

/-- A leg may reach its ring: it has not, and every leg of an earlier rider of its tile has. -/
def mayArrive (s : State) (id q : Nat) : Bool :=
  match riderAt s id with
  | none => false
  | some x =>
    match (legsOf s x.tile q).find? (fun l => l.2.arrived.isNone) with
    | some (y, _) => y.id == id
    | none => false

/-- LEG_ARRIVAL (R185): a leg reaches its ring, in the order in which its tile's riders left. -/
def execLegArrival (rider ring : Nat) (s : State) : Out := .next (if mayArrive s rider ring then arrive s rider ring else s)

/-! ### Sequencers -/

/-- A sequencer. -/
def State.ring (s : State) (q : Nat) : Ring := s.rings[q]?.getD Ring.reset

/-- Change a sequencer. -/
def State.modRing (s : State) (q : Nat) (g : Ring → Ring) : State :=
  { s with rings := s.rings.setIfInBounds q (g (s.ring q)) }

/-! ### Bench lanes (R189) -/

/-- 16 µs, in slots (R187, R189). -/
def staging : Nat := 8000

/-- The legs on a ring that have not alighted, in the order of `State.riders`. -/
def ringLegs (s : State) (q : Nat) : List (Rider × Leg) :=
  s.riders.filterMap (fun x => match x.leg q with
    | some l => if l.alighted then none else some (x, l)
    | none => none)

/-- An RIMATV leg makes its request for a lane: seated, staged, and no earlier RIMATV leg of its tile is still out. -/
def mayAsk (s : State) (q : Nat) (x : Rider) (l : Leg) : Bool :=
  (riderRec x.record).kind == 3 && l.seated && l.laneAsked.isNone &&
  (match l.arrived with
    | some a => decide (a + staging ≤ slotNow s)
    | none => false) &&
  (match (legsOf s x.tile q).find? (fun y => (riderRec y.1.record).kind == 3) with
    | some (y, _) => y.id == x.id
    | none => false)

/-- The slot to which a request of the present moment belongs: once the ring has granted a lane in a slot, the next one (log 92). -/
def askSlot (s : State) (q : Nat) : Nat := if (s.ring q).laneSlot = slotNow s + 1 then slotNow s + 1 else slotNow s

/-- Make the requests that are due. -/
def askLanes (s : State) (q : Nat) : State :=
  let at_ := askSlot s q
  ((ringLegs s q).filter (fun l => mayAsk s q l.1 l.2)).foldl (fun s l =>
    s.modRider l.1.id (fun x => x.modLeg q (fun k => { k with laneAsked := some at_ }))) s

/-- The request that is granted next: the oldest, then that of the lowest tile. -/
def nextLane (s : State) (q : Nat) : Option Nat :=
  let ls := ringLegs s q
  if 8 ≤ (ls.filter (fun l => l.2.lane)).length then none
  else
    ((sortBy (fun l => match l.2.laneAsked with
        | some a => 256 * a + l.1.tile
        | none => 0) (ls.filter (fun l => decide ((l.2.laneAsked.getD (slotNow s + 1)) ≤ slotNow s) && !l.2.lane))).head?).map (fun l => l.1.id)

/-- Grant one lane of a ring. -/
def grantLane (s : State) (q : Nat) : State :=
  let s := askLanes s q
  match nextLane s q with
  | none => s
  | some id =>
    (s.modRing q (fun g => { g with laneSlot := slotNow s + 1 })).modRider id (fun x => x.modLeg q (fun l => { l with lane := true }))

/-! ### Boarding (R187, R190) -/

/-- A leg meets every condition of R187 at the present slot. -/
def mayBoard (s : State) (q : Nat) (x : Rider) (l : Leg) : Bool :=
  let r := riderRec x.record
  match l.arrived with
  | none => false
  | some a =>
    l.boarded.isNone && !l.alighted && l.seated && decide (a ≤ slotNow s) &&
    (!((r.kind == 4 && r.vec) || r.kind == 7) || decide (a + staging ≤ slotNow s)) &&
    (r.kind != 3 || l.lane) &&
    (match (legsOf s x.tile q).find? (fun y => y.2.boarded.isNone) with
      | some (y, _) => y.id == x.id
      | none => false)

/-- The service legs of a ring that are aboard. -/
def serviceAboard (s : State) (q : Nat) : Nat :=
  (s.services.filter (fun v => v.ring == q && v.boarded.isSome && !v.alighted)).length

/-- The place of a leg among those that board at one slot (R187): by arrival, service legs first in the order of their issue, then
by tile, then in queue order. -/
def boardRank (s : State) (who : Aboard) (q : Nat) : Nat :=
  match who with
  | .service id =>
    match s.services.find? (fun v => v.id == id) with
    | some v => 2 * v.arrived * 2 ^ 64 + v.id
    | none => 0
  | .rider id =>
    match s.riders.zipIdx.find? (fun x => x.1.id == id) with
    | some (x, i) => (2 * ((x.leg q).bind (fun l => l.arrived)).getD 0 + 1) * 2 ^ 64 + x.tile * 2 ^ 40 + i
    | none => 0

/-- The slot at which a leg boarded. -/
def boardedAt (s : State) (who : Aboard) (q : Nat) : Nat :=
  match who with
  | .service id => ((s.services.find? (fun v => v.id == id)).bind (fun v => v.boarded)).getD 0
  | .rider id => (((riderAt s id).bind (fun x => x.leg q)).bind (fun l => l.boarded)).getD 0

/-- The legs that can board a ring at the present slot. -/
def boarders (s : State) (q : Nat) : List Aboard :=
  let service := (s.services.filter (fun v => v.ring == q && v.boarded.isNone && !v.alighted)).map (fun v => Aboard.service v.id)
  (if serviceAboard s q < 4 then (sortBy (fun w => boardRank s w q) service).take 1 else []) ++
  ((ringLegs s q).filter (fun y => mayBoard s q y.1 y.2)).map (fun y => Aboard.rider y.1.id)

/-- The leg that boards a ring first. -/
def firstBoarder (s : State) (q : Nat) : Option Aboard := (sortBy (fun w => boardRank s w q) (boarders s q)).head?

/-- A leg that has boarded takes its place in boarding order (R190): by boarding slot, and within one slot in the order of R187. -/
def takePlace (s : State) (q : Nat) (who : Aboard) : State :=
  s.modRing q (fun g => { g with aboard := insertBy (fun w => boardedAt s w q * 2 ^ 192 + boardRank s w q) who g.aboard })

/-- A leg boards, or raises the status that keeps it off (R187, R199 to R201). -/
def board (s : State) (q : Nat) (who : Aboard) : State :=
  match who with
  | .service id =>
    let on (v : ServiceLeg) : ServiceLeg := if v.id == id then { v with boarded := some (slotNow s) } else v
    takePlace { s with services := s.services.map on } q who
  | .rider id =>
    match riderAt s id with
    | none => s
    | some x =>
      let (s, go) := if (riderRec x.record).kind = 3 then (s, true) else takePages s id q
      if go then
        takePlace (s.modRider id (fun x => x.modLeg q (fun l => { l with boarded := some (slotNow s) }))) q who
      else giveSeats s x.tile q

/-- Board every leg that can board at the present slot, in order. -/
def boardAll (q : Nat) : Nat → State → State
  | 0, s => s
  | n + 1, s =>
    match firstBoarder s q with
    | none => s
    | some who => boardAll q n (board s q who)

/-- LEG_BOARD (R187, R190): a leg that meets every condition boards its ring at the present slot. -/
def execLegBoard (rider ring : Nat) (s : State) : Out :=
  match riderAt s rider with
  | none => .next s
  | some x =>
    match x.leg ring with
    | none => .next s
    | some l => .next (if (s.ring ring).running && mayBoard s ring x l then board s ring (.rider rider) else s)

/-! ### Alighting (R188, R201) -/

/-- A leg's ride is over at the present slot. -/
def rideOver (l : Leg) (now : Nat) : Bool :=
  match l.boarded with
  | none => false
  | some b =>
    let later (at_ : Nat) : Bool := decide (at_ ≤ now)
    match l.failedAt with
    | some x => later (b + ((x - b) / turn + 1) * turn)
    | none =>
      if !l.deferred.isEmpty then false
      else
        match l.freed with
        | some x => later (b + ((x - b + turn - 1) / turn + 1) * turn)
        | none => later (b + turn)

/-- A leg alights: its seat and lane are free. -/
def alight (s : State) (id q : Nat) : State :=
  match riderAt s id with
  | none => s
  | some x =>
    let s := s.modRider id (fun x => x.modLeg q (fun l => { l with alighted := true, seated := false, lane := false }))
    giveSeats (s.modRing q (fun g => { g with aboard := g.aboard.filter (fun a => decide (a ≠ .rider id)) })) x.tile q

/-- LEG_ALIGHT (R188, R201): a leg whose ride is over alights. -/
def execLegAlight (rider ring : Nat) (s : State) : Out :=
  match (riderAt s rider).bind (fun x => x.leg ring) with
  | none => .next s
  | some l => .next (if (s.ring ring).running && !l.alighted && rideOver l (slotNow s) then alight s rider ring else s)

/-! ### Completion (R194, R197, R198, R203, R204) -/

/-- The window of result n over all legs. -/
def Rider.window (x : Rider) (n : Nat) : Window :=
  x.legs.foldl (fun w l => w.join (tget Window.empty l.wins n)) Window.empty

/-- The bytes that a rider writes to its destination after its last leg (R195, R408). -/
def finalOutput (x : Rider) : List Byte :=
  let r := riderRec x.record
  match r.kind with
  | 2 =>
    let ks := (sortBy (fun k => k.1) x.kept).take r.outmax
    ks.flatMap (fun k => bytesOf r.esz k.2.toNat) ++ List.replicate ((r.outmax - ks.length) * r.esz) 0
  | 3 => (List.range r.n1).flatMap (fun n => bytesOf (if r.outBf16 then 2 else 4) ((x.window n).finish r.outBf16 r.sat r.e).1)
  | _ => []

/-- RESULT, RAW and OVF of a completion record (R198, R203). -/
def resultOf (x : Rider) : Nat × Nat × Bool :=
  let r := riderRec x.record
  match r.kind with
  | 3 => (0, 0, (List.range r.n1).any (fun n => ((x.window n).finish r.outBf16 r.sat r.e).2.2))
  | 5 =>
    if r.isFloat ∧ r.op = 0 then
      let f := (x.window 0).finish r.outBf16 r.sat r.e
      (f.1, wrapInt 128 f.2.1, f.2.2)
    else if r.isFloat ∧ x.nanSeen then (canonicalNan (typeFmt r.ty), 0, false)
    else ((x.folded.getD 0).toNat, 0, false)
  | 6 => (match x.lowest with
      | some e => e
      | none => 2 ^ 64 - 1, 0, false)
  | _ => (0, 0, false)

/-- STATUS (R204). -/
def Rider.status (x : Rider) : Nat :=
  if x.st54 then 0x54 else if x.st53 then 0x53 else if x.st52 then 0x52 else if x.st55 then 0x55 else 0

/-- COUNT (R195). -/
def countOf (x : Rider) : Nat :=
  let r := riderRec x.record
  match r.kind with
  | 2 => x.kept.length
  | 3 => r.n1
  | 9 => 0
  | _ => x.count

/-- FADDR (R203). -/
def Rider.faddr (x : Rider) : Nat :=
  match x.first with
  | some e => x.geo.addr e
  | none => 0

/-- The completion record (R203). -/
def riderRecordBytes (x : Rider) : List Byte :=
  let r := riderRec x.record
  let bit (b : Bool) (i : Nat) : Nat := if b then 2 ^ i else 0
  let (result, raw, ovf) := resultOf x
  let w0 := x.status + 256 * r.kind + bit x.lapse 16 + bit (decide (0 < x.pcnt)) 17 + bit ovf 18 +
    bit (r.kind == 2 && decide (r.outmax < x.kept.length)) 19 + bit x.defer 20 + 2 ^ 24 * x.fillst
  let rings := (x.legs.map (fun l => 2 ^ l.ring)).sum
  bytesOf 8 w0 ++ bytesOf 8 (countOf x) ++ bytesOf 8 result ++ bytesOf 8 0 ++
  bytesOf 8 (x.first.getD (2 ^ 64 - 1)) ++ bytesOf 8 x.faddr ++ bytesOf 4 x.lcnt ++ bytesOf 4 x.pcnt ++
  bytesOf 4 x.legs.length ++ bytesOf 4 rings ++ bytesOf 16 raw ++ List.replicate 48 0

/-- RIDER_COMPLETE (R194, R203, R204): after the last leg has alighted and every delivery has landed, the outputs and then
the completion record are written and their lines set full, and a nonzero status traps where the record asks for it. A rider
whose context was reset or has ended leaves no record (R48, R302). What its legs have still to ask for is asked for (R177). -/
def execRiderComplete (rider : Nat) (s : State) : Out :=
  match riderAt (landOwed s rider) rider with
  | none => .next s
  | some x =>
    let s := landOwed s rider
    let gone (s : State) : State :=
      issueWants { s with riders := s.riders.filter (fun y => !(y.id == rider)) } x.tenant (x.legs.flatMap (fun l => l.deferred))
    if !x.legs.all (fun l => l.alighted) then .next s
    else if x.orphan then .next (gone s)
    else
      let r := riderRec x.record
      let line := (x.recBase + r.cmpl) / 128
      let out := finalOutput x
      let outLines := linesOf (x.recBase + r.dst) out.length
      if !x.owed.isEmpty || (line :: outLines).any (fun l => shareReserved s x.ctx l) then .next s
      else
        let s := outLines.foldl (fun s l => shareFill s x.ctx l false) (shareWrite s x.ctx (x.recBase + r.dst) out)
        let s := shareResolve (gone (shareFill (shareWrite s x.ctx (x.recBase + r.cmpl) (riderRecordBytes x)) x.ctx line false)) x.ctx
        if r.trap ∧ x.status ≠ 0 then
          .next (reportTrap s x.ctx 3 { cause := x.status, blk := x.blk, slot := x.slot, tag := x.tag,
                                        info0 := BitVec.ofNat 64 x.faddr, info1 := BitVec.ofNat 64 r.cmpl })
        else .next s

end Sys2Proof.Machine
end

