-- ==== Sys2Proof/Machine/SaveImage.lean ====
section
/-! DEFINITION. The bytes of a save image of layout version 0x0003 (R82, R296, R298), as a drain writes them to the save
pool (R80). Bytes that the table names without a layout are free (log 25). -/

namespace Sys2Proof.Machine

/-- The length of a save image (R82). -/
def imageSize : Nat := 0x560000

/-- Byte j of a value, lowest first. -/
def byteOf (v j : Nat) : Byte := BitVec.ofNat 8 (v / 256 ^ j)

/-- A flag at a bit of a word. -/
def flagAt (b : Bool) (i : Nat) : Nat := if b then 2 ^ i else 0

/-- The byte at `off` of fields given by offset, length and value; zero where none lies. -/
def fieldByte (fs : List (Nat × Nat × Nat)) (off : Nat) : Byte :=
  match fs.find? (fun f => decide (f.1 ≤ off) && decide (off < f.1 + f.2.1)) with
  | some f => byteOf f.2.2 (off - f.1)
  | none => 0

/-- A byte of the first 256 (R82): a barrier is held by a tile that has arrived at it, and has 16 bits without a layout (log 25). ITER and the
resume tag are those of the block that a handler interrupted (log 98). -/
def headByte (i : Image) (off : Nat) : Byte :=
  let c := i.ctx
  let ktags := ((List.range 16).map (fun n => flagAt (c.kreg n).tag n)).sum
  let held := ((List.range 4).map (fun b => flagAt (c.arrival[b]?.getD none).isSome b)).sum
  let bar (b : Nat) : Nat :=
    let x := i.bars[b]?.getD (Barrier.reset 0)
    (Config.barrierBits x.phase x.arrivals).toNat
  fieldByte
      [(0x00, 8, 3 + 2 ^ 16 * c.tenant + flagAt i.valid 24 + flagAt c.resume.isSome 25 + flagAt c.lock 26),
       (0x08, 8, c.pc.toNat), (0x10, 8, (c.resume.getD 0).toNat), (0x18, 8, ktags),
       (0x20, 4, held), (0x24, 1, c.tileIdx), (0x28, 2, bar 0), (0x2A, 2, bar 1), (0x2C, 2, bar 2), (0x2E, 2, bar 3)] off

/-- A byte of a port's area (R296). -/
def portByte (p : SPort) (off : Nat) : Byte :=
  fieldByte
    [(0x00, 64, p.record.toNat), (0x40, 8, p.com.pos),
     (0x48, 8, flagAt p.armed 0 + flagAt p.com.lastV 1 + flagAt p.com.lastEos 2 + flagAt p.com.ovr 3),
     (0x50, 8, p.com.last.toNat), (0x58, 16, p.cap.bits.toNat), (0x68, 1, flagAt p.cap.tag 0)] off

/-- A byte of the supervisor-register area, by its offset in the image (R298, R376). -/
def supervisorByte (c : Ctx) (off : Nat) : Byte :=
  if 0xB00 ≤ off ∧ off < 0xF00 then
    match c.replay[(off - 0xB00) / 16]? with
    | some r => byteOf (r.tag.toNat + 2 ^ 32 * r.slot + 2 ^ 63 + 2 ^ 64 * r.val.toNat) (off % 16)
    | none => 0
  else if 0xF00 ≤ off then byteOf ((c.heldv[(off - 0xF00) / 8]?.getD none).getD 0).toNat (off % 8)
  else
    let planes := c.front.fmt.toNat + flagAt c.front.loaded 5 + 2 ^ 8 * c.shadow.fmt.toNat + flagAt c.shadow.loaded 13
    fieldByte
      [(0xA00, 8, c.tcause), (0xA08, 8, c.tblk.toNat), (0xA10, 8, c.tslot), (0xA18, 8, c.ttag.toNat),
       (0xA20, 8, c.tinfo0.toNat), (0xA28, 8, c.tinfo1.toNat), (0xA30, 8, c.tvec.toNat), (0xA38, 8, c.treta.toNat),
       (0xA40, 8, (tstat c).toNat), (0xA48, 8, c.fflags.toNat), (0xA50, 8, heldvBits c.heldv), (0xA58, 8, c.replay.length),
       (0xA60, 8, planes), (0xA68, 8, c.front.src), (0xA70, 8, c.shadow.src),
       (0xA78, 8, c.attenSrc + flagAt c.attenRun 63), (0xA80, 32, c.codebook.toNat), (0xAA0, 32, c.front.codebook.toNat),
       (0xAC0, 32, c.shadow.codebook.toNat), (0xAE0, 8, c.keys.toNat)] off

/-- A byte of the four queues' area: R82 gives an entry 64 bytes and no layout; unused entries are zero. -/
def queueByte (i : Image) (off : Nat) : Byte :=
  let q := (off - 0x1000) / 2048
  let used := (i.ctx.queue q).length + (if q = 2 ∧ i.ctx.pass.isSome then 1 else 0)
  if (off - 0x1000) % 2048 / 64 < used then Config.savedOpen i.id off else 0

/-- Eight bits of a table of flags, from index 8k on. -/
def flagByte (f : Nat → Bool) (k : Nat) : Byte := BitVec.ofNat 8 ((List.range 8).map (fun b => flagAt (f (8 * k + b)) b)).sum

/-- Byte `off` of a save image (R82). -/
def imageByte (i : Image) (off : Nat) : Byte :=
  let c := i.ctx
  if off < 0x100 then headByte i off
  else if off < 0x300 then byteOf (c.greg ((off - 0x100) / 8)).toNat (off % 8)
  else if off < 0x400 then byteOf (c.kreg ((off - 0x300) / 16)).bits.toNat (off % 16)
  else if off < 0x600 then byteOf (c.m[(off - 0x400) / 64]?.getD 0).toNat (off % 64)
  else if off < 0xA00 then portByte (c.port ((off - 0x600) / 128)) (off % 128)
  else if off < 0x1000 then supervisorByte c off
  else if off < 0x3000 then queueByte i off
  else if off < 0x7000 then byteOf (c.vreg ((off - 0x3000) / 512)).toNat (off % 512)
  else if off < 0x10000 then 0
  else if off < 0x150000 then
    let e := (off - 0x10000) / 10
    byteOf (c.accAt (e / 128) (e % 128)).toNat ((off - 0x10000) % 10)
  else if off < 0x160000 then 0
  else if off < 0x160F80 then flagByte (fun l => (tget LineState.reset i.lines l).full) (off - 0x160000)
  else if off < 0x161000 then 0
  else if off < 0x168C00 then flagByte (fun g => tget false i.gtags g) (off - 0x161000)
  else if off < 0x180000 then 0
  else mget i.mem (off - 0x180000)

/-- The bytes of a save image at `off` stand for a poisoned line, which is written as uncorrectable data (R147). -/
def imagePoison (i : Image) (off : Nat) : Bool :=
  decide (0x180000 ≤ off) && (tget LineState.reset i.lines ((off - 0x180000) / 128)).poison

/-! ### The save pool (R80, R81, R183) -/

/-- The first byte of the save pool. -/
def poolBase : Nat := 65536 * (Config.savePoolFrame % 2 ^ 22)

/-- The images that the save pool holds. -/
def poolImages : Nat := Config.savePoolSize % 2 ^ 15 + 1

/-- The bytes of the save pool: 88 frames for each image and two for each queue's save set (log 13). -/
def poolSize : Nat := 65536 * (88 * poolImages + 2 * 65536)

/-- A frame of a size meets the save pool. -/
def inSavePool (frame size : Nat) : Bool := decide (frame < poolBase + poolSize) && decide (poolBase < frame + size)

/-- Where an image lies that has a place in the pool. -/
def imageBase (i : Image) : Option Nat := i.spot.map (fun n => poolBase + 88 * 65536 * (n % poolImages))

/-- Where the save set of a queue lies (R81). -/
def saveSetAddr (f q : Nat) : Nat := poolBase + 65536 * (88 * poolImages + 2 * (4096 * f + q))

/-- The lowest place of the pool that no image has. -/
def freeSpot (s : State) : Option Nat :=
  (List.range (s.images.length + 1)).find? (fun n => decide (n < poolImages) && !s.images.any (fun i => i.spot == some n))

/-- Where n bytes at a sweep address meet the row that begins at address a: the offsets in the row and in the bytes, and the
length. -/
def rowSpan (base n a : Nat) : Nat × Nat × Nat :=
  let lo := max base a
  let hi := min (base + n) (a + 8192)
  (lo - a, lo - base, hi - lo)

/-- Where a save image meets the row that begins at sweep address a. -/
def imageSpan (i : Image) (a : Nat) : Nat × Nat × Nat :=
  match imageBase i with
  | none => (0, 0, 0)
  | some base => rowSpan base imageSize a

/-- The save set of a launch (R81): a header, and for each node its index and the sweep address of its image, or 0. -/
def saveSetBytes (s : State) (l : Launch) : List Byte :=
  let image (n : Nat) : Nat := match s.images.find? (fun i => i.ctx.launch == l.id && i.ctx.node == n && i.complete) with
    | some i => (imageBase i).getD 0
    | none => 0
  (Config.saveSetHeader l.id).take 64 ++ List.replicate (64 - (Config.saveSetHeader l.id).length) 0 ++
  (List.range l.nodes.length).flatMap (fun n => bytesOf 8 n ++ bytesOf 8 (image n))

/-- Where the save set that a leg carries meets the row that begins at sweep address a. -/
def setSpan (v : ServiceLeg) (a : Nat) : Nat × Nat × Nat := rowSpan v.base v.bytes.length a

end Sys2Proof.Machine
end

