-- ==== Sys2Proof/Machine/Sweep.lean ====
section
/-! DEFINITION. The sweep (R163 to R173, R188 to R190): a slot of every ring, the visit of a row, and the fill engine (R175
to R182). -/

namespace Sys2Proof.Machine

/-! ### Addresses (R163, R164) -/

/-- The low n bits of a number in reverse order. -/
def bitrev : Nat → Nat → Nat
  | 0, _ => 0
  | n + 1, x => (x % 2) * 2 ^ n + bitrev n (x / 2)

/-- The sweep physical address of a ring row. -/
def rowAddr (q x : Nat) : Nat := x * 2 ^ 18 + q * 2 ^ 13

/-! ### Who needs a row (R166) -/

/-- The elements of a rider that a leg acts on at a row, with their offsets in it (R195, R201). -/
def elementsAt (x : Rider) (l : Leg) (q row : Nat) : List (Nat × Nat) :=
  let a := rowAddr q row
  if l.waited && l.acted.contains row then []
  else
    (l.frames.filter (fun f => decide (f.pa ≤ a) && decide (a < f.pa + 2 ^ f.shift))).flatMap (fun f =>
      let va := f.va + (a - f.pa)
      if va / 8192 % 32 = q then (x.geo.within va 8192).map (fun e => (e, x.geo.addr e - va)) else [])

/-- The image that a drain's leg writes. -/
def drainImage (s : State) (v : ServiceLeg) : Option Image := s.images.find? (fun i => i.ctx.id == v.image)

/-- A leg aboard needs a row. RIPREF needs rows only to set their deadlines (R169, R409); a save drain and a resume's read need the
rows of their image (R80, R81), and the legs of a save set its rows. -/
def needsRow (s : State) (q row : Nat) (who : Aboard) : Bool :=
  match who with
  | .rider id =>
    match riderAt s id with
    | none => false
    | some x =>
      match x.leg q with
      | none => false
      | some l =>
        let r := riderRec x.record
        (r.kind != 9 || r.lset) && !(elementsAt x l q row).isEmpty
  | .service id =>
    match s.services.find? (fun v => v.id == id) with
    | none => false
    | some v =>
      match v.fill with
      | none =>
        match drainImage s v with
        | some i => decide (0 < (imageSpan i (rowAddr q row)).2.2)
        | none => decide (0 < (setSpan v (rowAddr q row)).2.2)
      | some leaf =>
        s.fills.any (fun f => decide (f.page.leaf = leaf) && decide (f.frame ≤ rowAddr q row) &&
          decide (rowAddr q row < f.frame + 2 ^ f.page.shift))

/-! ### The visit (R166) -/

/-- What a visit works on. -/
structure Visiting where
  s : State
  view : RowView
  /-- a tenant's leg has written the row -/
  tenant : Bool
  deriving DecidableEq, Repr

/-- The act of a drain's leg (R80, R147, R172): the image's bytes replace the chunks they cover; a poisoned line's become
uncorrectable. -/
def drainRow (i : Image) (a : Nat) (v : RowView) : RowView :=
  let (at_, off, n) := imageSpan i a
  let covered (c : Nat) : Bool := decide (at_ ≤ 64 * c) && decide (64 * c < at_ + n)
  { v with
    data := mwriteBytes v.data at_ ((List.range n).map (fun j => imageByte i (off + j)))
    bad := v.bad.filter (fun c => !covered c) ++
      (List.range 128).filter (fun c => covered c && imagePoison i (off + (64 * c - at_)))
    wrote := true }

/-- The act of a save set's leg (R81): the save set that it carries replaces what the row holds of it; an uncorrectable chunk that it
covers whole is good again. -/
def setRow (l : ServiceLeg) (a : Nat) (v : RowView) : RowView :=
  let (at_, off, n) := setSpan l a
  { v with
    data := mwriteBytes v.data at_ ((l.bytes.drop off).take n)
    bad := v.bad.filter (fun c => !(decide (at_ ≤ 64 * c) && decide (64 * (c + 1) ≤ at_ + n)))
    wrote := true }

/-- The act of a resume's read leg (R81, R147): a line whose chunks are uncorrectable comes back poisoned. -/
def readRow (i : Image) (a : Nat) (v : RowView) : Image :=
  let (at_, off, n) := imageSpan i a
  let lost := (v.bad.filter (fun c => decide (at_ ≤ 64 * c) && decide (64 * c < at_ + n))).map (fun c => off + (64 * c - at_))
  { i with lines := (lost.filter (fun o => decide (0x180000 ≤ o))).foldl (fun t o =>
      tset LineState.reset t ((o - 0x180000) / 128) { full := true, poison := true }) i.lines }

/-- The act of a fill leg (R178): the row's part of the page's contents. -/
def fillRow (q row leaf : Nat) (v : Visiting) : Visiting :=
  match v.s.fills.find? (fun f => f.page.leaf == leaf) with
  | none => v
  | some f =>
    let off := rowAddr q row - f.frame
    { v with view := { v.view with data := tslice f.content off (off + 8192), bad := [], wrote := true } }

/-- A needing leg acts (R166). An RIPREF, which writes no element, leaves its page clean (R182, log 116). -/
def actLeg (q row : Nat) (lapsed : Bool) (v : Visiting) (who : Aboard) : Visiting :=
  match who with
  | .rider id =>
    match riderAt v.s id with
    | none => v
    | some x =>
      match x.leg q with
      | none => v
      | some l =>
        let a := actRow x q row (elementsAt x l q row) lapsed { v.view with wrote := false }
        { s := landOwed (v.s.modRider id (fun _ => a.rider)) id
          view := { a.view with wrote := v.view.wrote || a.view.wrote }
          tenant := v.tenant || a.view.wrote }
  | .service id =>
    match v.s.services.find? (fun y => y.id == id) with
    | none => v
    | some y =>
      match y.fill with
      | none =>
        match drainImage v.s y with
        | none => { v with view := setRow y (rowAddr q row) v.view }
        | some i =>
          if i.reading then { v with s := v.s.modImage i.ctx.id (readRow · (rowAddr q row) v.view) }
          else { v with view := drainRow i (rowAddr q row) v.view }
      | some leaf => fillRow q row leaf v

/-- A lapse row's age and deadline before any (R168). -/
def Lapse.zero : Lapse := { d := 0, a := 0 }

/-- The error codes of a row's chunks. -/
def rowErrors (s : State) (q row : Nat) : Table Nat := tslice s.badChunks (rowAddr q row / 64) (rowAddr q row / 64 + 128)

/-- Put a row's codes back: its uncorrectable chunks. -/
def setErrors (s : State) (q row : Nat) (bad : List Nat) : State :=
  let lo := rowAddr q row / 64
  { s with badChunks := bad.foldl (fun t c => tset 0 t (lo + c) 2) (tclear s.badChunks lo (lo + 128)) }

/-- Saturating count of a sequencer (R173). -/
def countUp (c : BitVec 32) (n : Nat) : BitVec 32 := BitVec.ofNat 32 (min (c.toNat + n) (2 ^ 32 - 1))

/-- Sensing a row corrects its correctable chunks and reports the others (R171 to R173): the uncorrectable chunks. -/
def sense (s : State) (q row : Nat) : State × List Nat :=
  let errs := rowErrors s q row
  let bad := (errs.filter (fun e => e.2 == 2)).map (·.1)
  let fixed := (errs.filter (fun e => e.2 != 2)).length
  if errs.isEmpty then (s, [])
  else
    let s := (setErrors s q row bad).modRing q (fun g => { g with
      corrected := countUp g.corrected fixed, uncorrected := countUp g.uncorrected bad.length })
    (bad.foldl (fun s c => s.emit (.uncorrectable q row c)) s, bad)

/-- Write a row's final contents (R166, R172): a chunk that stays uncorrectable keeps the bytes it was sensed with. -/
def restore (s : State) (q row : Nat) (sensed data : Memory) (bad : List Nat) : State :=
  let a := rowAddr q row
  let put (t : Memory) (b : Host.Cell) : Memory := tput t (a + b.1) b.2
  let keep (b : Host.Cell) : Bool := bad.contains (b.1 / 64)
  let s := setErrors s q row bad
  { s with sweep := (sensed.filter keep).foldl put ((data.filter (fun b => !keep b)).foldl put (tclear s.sweep a (a + 8192))) }

/-- Set a row's lapse state. -/
def setLapse (s : State) (q row : Nat) (l : Lapse) : State :=
  { s with lapse := tset Lapse.zero s.lapse (q * 2 ^ 21 + row) l }

/-- Mark the frames dirty that a tenant's leg has written (R182). -/
def markDirty (s : State) (q row : Nat) : State :=
  let a := rowAddr q row
  { s with residents := s.residents.map (fun r =>
      if r.frame ≤ a ∧ a < r.frame + 2 ^ r.page.shift then { r with dirty := true } else r) }

/-- The legs aboard act on a row in boarding order. -/
def actAll (s : State) (q row : Nat) (legs : List Aboard) (lapsed : Bool) (view : RowView) : Visiting :=
  legs.foldl (actLeg q row lapsed) { s := s, view := view, tenant := false }

/-- A visit of a ring's first turn writes zeros to its row (R49). -/
def zeroRow (s : State) (q row : Nat) : State := if (s.ring q).zeroing = 0 then s else restore s q row [] [] []

/-- The visit of a ring row (R166, R168 to R170), which in the first turn finds the row's zeros (R49). -/
def visit (s : State) (q row : Nat) : State :=
  let s := zeroRow s q row
  let l := tget Lapse.zero s.lapse (q * 2 ^ 21 + row)
  let hot := s.dram[q / 4]?.getD false
  let d := if hot ∧ l.d ≠ 0 then 1 else l.d
  let a := if d ≠ 0 ∧ l.a ≠ 7 then l.a + 1 else l.a
  let legs := (s.ring q).aboard.filter (needsRow s q row)
  let need := !legs.isEmpty
  if d = 0 ∨ (need ∧ a < d) then
    let (s, bad) := sense s q row
    if !need then setLapse s q row { l with a := 0 }
    else
      let sensed := tslice s.sweep (rowAddr q row) (rowAddr q row + 8192)
      let v := actAll s q row legs false { data := sensed, bad := bad, wrote := false, deadline := none }
      let s := restore v.s q row sensed v.view.data v.view.bad
      setLapse (if v.tenant then markDirty s q row else s) q row { d := v.view.deadline.getD l.d, a := 0 }
  else if need then
    let v := actAll s q row legs true { data := [], bad := [], wrote := false, deadline := none }
    let d' := v.view.deadline.getD l.d
    if v.view.wrote ∨ v.view.deadline.isSome then
      let s := restore v.s q row [] v.view.data []
      setLapse (if v.tenant then markDirty s q row else s) q row { d := d', a := 0 }
    else setLapse v.s q row { d := d', a := a }
  else setLapse s q row { l with a := a }

/-! ### A slot (R164, R185 to R190) -/

/-- 400 ns, in slots (R185). -/
def transit : Nat := 200

/-- Legs that left their queues 400 ns ago reach their rings. -/
def arriveLate (s : State) (q : Nat) : State :=
  (s.riders.filter (fun x => decide (x.since + transit ≤ slotNow s))).foldl (fun s x =>
    if mayArrive s x.id q then arrive s x.id q else s) s

/-- Every leg whose ride is over alights; a service leg whose image has been given up leaves nothing behind. -/
def alightAll (s : State) (q : Nat) : State :=
  let s := ((ringLegs s q).filter (fun l => rideOver l.2 (slotNow s))).foldl (fun s l => alight s l.1.id q) s
  let past (v : ServiceLeg) : Bool := v.ring == q && !v.alighted && (match v.boarded with
    | some b => decide (b + turn ≤ slotNow s)
    | none => false)
  let left (g : Ring) : Ring := { g with aboard := g.aboard.filter (fun a => match a with
    | .service id => !s.services.any (fun v => v.id == id && past v)
    | .rider _ => true) }
  let off (v : ServiceLeg) : ServiceLeg := if past v then { v with alighted := true } else v
  let spent (v : ServiceLeg) : Bool := v.alighted && v.fill.isNone && (drainImage s v).isNone
  { s.modRing q left with services := (s.services.map off).filter (fun v => !spent v) }

/-- What a slot of a running ring begins with: arrivals, rides that are over, and boardings. -/
def beginSlot (s : State) (q : Nat) : State := boardAll q (s.riders.length + s.services.length) (alightAll (arriveLate s q) q)

/-- Grant the lanes of a ring that are free. -/
def grantLanes (s : State) (q : Nat) : State := (List.range 8).foldl (fun s _ => grantLane s q) s

/-- BENCH_LANE_GRANT (R189): the oldest request of a ring is granted where a lane is free, once every request of the present slot
has been made. -/
def execBenchLaneGrant (ring : Nat) (s : State) : Out :=
  .next (if (s.ring ring).running then grantLane (beginSlot s ring) ring else s)

/-- A slot of a running ring: arrivals, rides over, boardings, lanes with the boardings they allow, the visit, and the cursor's
advance. -/
def ringSlot (s : State) (q : Nat) : State :=
  if !(s.ring q).running then s
  else
    let s := grantLanes (beginSlot s q) q
    let s := boardAll q (s.riders.length + s.services.length) s
    let c := (s.ring q).cursor
    (visit s q (bitrev 21 c)).modRing q (fun g => { g with cursor := (c + 1) % turn, zeroing := g.zeroing - 1 })

/-- SWEEP_SLOT (R164): 2 ns pass, in which every running ring's cursor visits a row and advances. What riders owe to lines
that were reserved is tried again. -/
def execSweepSlot (s : State) : Out :=
  let s := (s.riders.filter (fun x => !x.owed.isEmpty)).foldl (fun s x => landOwed s x.id) s
  let s := (List.range 32).foldl ringSlot s
  .next { s with now := s.now + 2 }

/-! ### Page requests (R177) -/

/-- A page is waited for and its request has still to be raised. -/
def unraised (leaf : Nat) (w : PageWant) : Bool := w.leaf == leaf && !w.raised

/-- Note that the request for a page is raised. -/
def markRaised (leaf : Nat) (ws : List PageWant) : List PageWant :=
  ws.map (fun w => if w.leaf == leaf then { w with raised := true } else w)

/-- The leg that raises a page request next: its rider and ring. -/
def askingLeg (s : State) (f leaf : Nat) : Option (Nat × Nat × PageWant) :=
  (s.riders.flatMap (fun x => if x.tenant == f then
    x.legs.flatMap (fun l => (l.deferred.filter (unraised leaf)).map (fun w => (x.id, l.ring, w))) else [])).head?

/-- The hint packet that raises a page request next: its queue's index and its own. -/
def askingHint (s : State) (f leaf : Nat) : Option (Nat × BitVec 32 × PageWant) :=
  (s.queues.flatMap (fun q => if q.tenant == f then q.started.flatMap (fun p => match p.work with
    | .hint ps _ => (ps.filter (unraised leaf)).map (fun w => (q.index, p.index, w))
    | .launch _ | .copy _ | .wait _ | .signal _ => []) else [])).head?

/-- PAGE_REQUEST (R46, R177): the next request for a page reaches the event matcher, and begins a fill or joins the one in
progress; one that the matcher holds back waits. -/
def execPageRequest (f leaf : Nat) (s : State) : Out :=
  match askingLeg s f leaf, askingHint s f leaf with
  | some (id, ring, w), _ =>
    match eventArrives s .pageRequest (pageKey f leaf) with
    | none => .next s
    | some s =>
      .next (requestFill (s.modRider id (fun x => x.modLeg ring (fun l => { l with deferred := markRaised leaf l.deferred }))) f leaf w)
  | none, some (q, index, w) =>
    match eventArrives s .pageRequest (pageKey f leaf) with
    | none => .next s
    | some s =>
      let mark (p : PacketRec) : PacketRec := match p.work with
        | .hint ps bad => if p.index = index then { p with work := .hint (markRaised leaf ps) bad } else p
        | .launch _ | .copy _ | .wait _ | .signal _ => p
      .next (requestFill (s.modQueue f q (fun x => { x with started := x.started.map mark })) f leaf w)
  | none, none => .next s

/-! ### Fills (R176, R178 to R182) -/

/-- Change a fill. -/
def State.modFill (s : State) (leaf : Nat) (g : Fill → Fill) : State :=
  { s with fills := s.fills.map (fun f => if f.page.leaf == leaf then g f else f) }

/-- Read a fill descriptor and check its fields (R176): the fill with them, or the status of R180. A read that comes back poisoned
counts as one that failed (log 114). -/
def parseDescriptor (s : State) (f : Fill) : Except Nat Fill :=
  if hostAnswer s f.page.desc 64 ≠ .good then .error 1
  else
    let bytes := mbytes s.host f.page.desc 64
    let w1 := recWord bytes 8
    let w2 := recWord bytes 0x10
    let w3 := recWord bytes 0x18
    let size := 2 ^ f.page.shift
    let src := recWord bytes 0
    let slen := (w1.extractLsb' 0 40).toNat
    let zstd := w1.getLsbD 48
    let zero := w1.getLsbD 49
    let frame := (w2.extractLsb' 0 39).toNat
    let psz := if f.page.shift = 16 then 0 else if f.page.shift = 21 then 1 else 2
    let named := decide (w1 &&& ~~~0x300FFFFFFFFFF#64 = 0) && decide (w2.extractLsb' 39 25 = 0) &&
      decide (w3.extractLsb' 2 62 = 0) && (bytes.drop 32).all (fun b => b == 0)
    let source := if zero then decide (src = 0) && slen == 0 && !zstd
      else if zstd then decide (1 ≤ slen) else slen == size
    if !named || !source || frame % size != 0 || w3.toNat != psz then .error 2
    else .ok { f with frame := frame, src := src.toNat, slen := slen, zstd := zstd, zero := zero, st := .waiting }

/-- Read and check a fill descriptor (R176, R183): its frame must not meet the save pool, which is status 7 (R180). -/
def readDescriptor (s : State) (f : Fill) : Except Nat Fill :=
  match parseDescriptor s f with
  | .error k => .error k
  | .ok x => if inSavePool x.frame (2 ^ f.page.shift) then .error 7 else .ok x

/-- Other resident pages than a leaf's that hold a byte of a frame (R178). -/
def holders (s : State) (leaf frame size : Nat) : List Resident :=
  s.residents.filter (fun r => r.page.leaf != leaf && rangesMeet r.frame (2 ^ r.page.shift) frame size)

/-- FILL_START (R178): the first requested fill has its descriptor read and checked; it waits while another resident page
holds its frame, and then reads its source. Another fill that is under way to the frame does not hold it back (log 117). -/
def execFillStart (f leaf : Nat) (s : State) : Out :=
  let proceed (s : State) (x : Fill) : State :=
    if (holders s leaf x.frame (2 ^ x.page.shift)).isEmpty then s.modFill leaf (fun y => { y with st := .reading }) else s
  match s.fills.find? (fun x => x.page.leaf == leaf && x.tenant == f) with
  | none => .next s
  | some x =>
    match x.st with
    | .requested =>
      if (s.fills.find? (fun y => y.st == .requested)).map (fun y => y.page.leaf) = some leaf then
        match readDescriptor s x with
        | .error k => .next (s.modFill leaf (fun y => { y with st := .failed k }))
        | .ok y => .next (proceed (s.modFill leaf (fun _ => y)) y)
      else .next s
    | .waiting => .next (proceed s x)
    | .reading | .ready | .boarding | .failed _ => .next s

/-- Rewrite a sweep leaf in one aligned 8-byte store (R178, R182). -/
def rewriteLeaf (s : State) (leaf pa : Nat) (resident : Bool) : State :=
  let old : Word := BitVec.ofNat 64 (mread s.host leaf 8)
  let new : Word := (old &&& 0xFF000000000000FB#64) ||| (BitVec.ofNat 64 (pa / 256) <<< 8) ||| (if resident then 4 else 0)
  { s with host := mwrite s.host leaf 8 new.toNat }

/-- PAGE_EVICT (R182): a resident page that is releasable and clean, and whose frame a fill needs, is made non-resident, with
a TLBI for the page; the next fill of its frame waits for the legs that hold its translation. -/
def execPageEvict (leaf : Nat) (s : State) : Out :=
  match s.residents.find? (fun r => r.page.leaf == leaf) with
  | none => .next s
  | some r =>
    let needs (x : Fill) : Bool := x.st == .waiting && x.page.leaf != leaf && rangesMeet r.frame (2 ^ r.page.shift) x.frame (2 ^ x.page.shift)
    if r.releasable && !r.dirty && s.fills.any needs then
      let s := removeTenantPage (rewriteLeaf s leaf r.page.desc false) r.tenant r.page.va
      let old : Frame := { va := r.page.va, shift := r.page.shift, pa := r.frame }
      .next { s with
        residents := s.residents.filter (fun x => !(x.page.leaf == leaf)), evicted := s.evicted ++ [(r.tenant, old)] }
    else .next s

/-- A fill's frame meets that of an evicted translation. -/
def Fill.meets (f : Fill) (e : Nat × Frame) : Bool := rangesMeet e.2.pa (2 ^ e.2.shift) f.frame (2 ^ f.page.shift)

/-- A leg that has not alighted holds the translation of an evicted page whose frame a fill takes (R182). -/
def heldBack (s : State) (f : Fill) : Bool :=
  let ev := s.evicted.filter f.meets
  s.riders.any (fun x => x.legs.any (fun l => !l.alighted && l.frames.any (fun g => ev.contains (x.tenant, g))))

/-- The content of a page from its source (R178 to R180). -/
def pageContent (s : State) (f : Fill) : Except Nat Memory :=
  let size := 2 ^ f.page.shift
  if f.zero then .ok []
  else if hostAnswer s f.src f.slen ≠ .good then .error 3
  else if f.zstd then
    match zstdDecode (mbytes s.host f.src f.slen) size with
    | (_, some k) => .error k
    | (out, none) => if out.length = size then .ok (mwriteBytes [] 0 out) else .error 5
  else .ok (tslice s.host f.src (f.src + size))

/-- The rings that a frame touches (R163). -/
def frameRings (frame shift : Nat) : List Nat :=
  (List.range 32).filter (fun q => (List.range (min 32 (2 ^ shift / 8192))).any (fun i => (frame / 8192 + i) % 32 == q))

/-- Send service legs to rings (R178, R181), those of a save set with its bytes and where they begin. -/
def sendService (s : State) (fill : Option Nat) (image set base : Nat) (bytes : List Byte) (rings : List Nat) : State :=
  rings.foldl (fun s q =>
    let (id, s) := s.fresh
    { s with services := s.services ++ [{ id := id, fill := fill, image := image, set := set, base := base, bytes := bytes,
                                          ring := q, arrived := slotNow s, boarded := none, alighted := false }] }) s

/-- FILL_SOURCE_READY (R178, R182): the page's contents are buffered, or the source fails; then a fill leg goes to each ring
of the frame once no leg holds the translation of a page that has been evicted from it. -/
def execFillSourceReady (leaf : Nat) (s : State) : Out :=
  let go (s : State) (x : Fill) : State :=
    if heldBack s x then s
    else
      sendService { s.modFill leaf (fun y => { y with st := .boarding }) with evicted := s.evicted.filter (fun e => !x.meets e) }
        (some leaf) 0 0 0 [] (frameRings x.frame x.page.shift)
  match s.fills.find? (fun x => x.page.leaf == leaf) with
  | none => .next s
  | some x =>
    match x.st with
    | .reading =>
      match pageContent s x with
      | .error k => .next (s.modFill leaf (fun y => { y with st := .failed k }))
      | .ok m =>
        let x := { x with content := m, st := .ready }
        .next (go (s.modFill leaf (fun _ => x)) x)
    | .ready => .next (go s x)
    | .requested | .waiting | .boarding | .failed _ => .next s

/-- A page that a leg waited for has become resident (R201). -/
def pageArrives (leaf : Nat) (f : Frame) (now : Nat) (l : Leg) : Leg :=
  if l.deferred.any (fun w => w.leaf == leaf) then
    let rest := l.deferred.filter (fun w => !(w.leaf == leaf))
    { l with deferred := rest, frames := l.frames ++ [f], freed := if rest.isEmpty then some now else l.freed }
  else l

/-- Hints no longer wait for a page. -/
def settleHints (s : State) (leaf : Nat) (failed : Bool) : State :=
  { s with queues := s.queues.map (fun q => { q with started := q.started.map (fun p => match p.work with
      | .hint ps bad =>
        { p with work := .hint (ps.filter (fun w => !(w.leaf == leaf))) (bad || (failed && ps.any (fun w => w.leaf == leaf))) }
      | _ => p) }) }

/-- RIMATV legs that have waited for their pages and wait for none any more, by rider and ring. -/
def rewalkers (s : State) (leaf : Nat) : List (Nat × Nat) :=
  s.riders.flatMap (fun x =>
    if (riderRec x.record).kind = 3 then
      (x.legs.filter (fun l => l.boarded.isNone && !l.alighted && !l.deferred.isEmpty &&
        l.deferred.all (fun w => w.leaf == leaf))).map (fun l => (x.id, l.ring))
    else [])

/-- An RIMATV leg walks again (R201). -/
def rewalk (s : State) (id q : Nat) : State :=
  match riderAt s id with
  | none => s
  | some x =>
    let s := s.modRider id (fun x => x.modLeg q (fun l => { l with deferred := [], frames := [] }))
    giveSeats (takePages s id q).1 x.tile q

/-- The requests for a page that have still to be raised, by tenant: of legs and of hint packets. -/
def unraisedRequests (s : State) (leaf : Nat) : List Nat :=
  s.riders.flatMap (fun x => x.legs.flatMap (fun l => (l.deferred.filter (unraised leaf)).map (fun _ => x.tenant))) ++
  s.queues.flatMap (fun q => q.started.flatMap (fun p => match p.work with
    | .hint ps _ => (ps.filter (unraised leaf)).map (fun _ => q.tenant)
    | .launch _ | .copy _ | .wait _ | .signal _ => []))

/-- A fill that ends has every request for its page reach the event matcher that has not yet (R46, R177). -/
def raiseRequests (s : State) (leaf : Nat) : State :=
  (unraisedRequests s leaf).foldl (fun s f => raise s .pageRequest (pageKey f leaf)) s

/-- FILL_COMPLETE (R178, R201): once every fill leg has alighted the leaf is rewritten as resident; legs that waited take the
page's translation, and hints no longer wait for it. -/
def execFillComplete (leaf : Nat) (s : State) : Out :=
  match s.fills.find? (fun x => x.page.leaf == leaf) with
  | none => .next s
  | some x =>
    let mine (v : ServiceLeg) : Bool := v.fill == some leaf
    if x.st = .boarding ∧ s.services.all (fun v => !mine v || v.alighted) then
      let again := rewalkers s leaf
      let f : Frame := { va := x.page.va, shift := x.page.shift, pa := x.frame }
      let s := settleHints (rewriteLeaf (raiseRequests s leaf) leaf x.frame true) leaf false
      let s := { s with
        services := s.services.filter (fun v => !mine v)
        fills := s.fills.filter (fun y => !(y.page.leaf == leaf))
        residents := s.residents.filter (fun r => !(r.page.leaf == leaf)) ++
          [{ tenant := x.tenant, page := x.page, frame := x.frame, releasable := false, dirty := false }]
        riders := s.riders.map (fun r => { r with legs := r.legs.map (pageArrives leaf f (slotNow s)) }) }
      .next (again.foldl (fun s y => rewalk s y.1 y.2) s)
    else .next s

/-- The legs of a rider whose page has failed to fill (R201): an RIMATV leg that waited counts as alighted, another ends its
ride with the turn in which its first page has failed. -/
def failLeg (kind leaf now : Nat) (l : Leg) : Leg :=
  if l.deferred.any (fun w => w.leaf == leaf) then
    if kind = 3 then { l with alighted := true, deferred := [], seated := false }
    else { l with deferred := l.deferred.filter (fun w => !(w.leaf == leaf)), failedAt := some (l.failedAt.getD now) }
  else l

/-- What the RIMATV legs that a failed page ends were waiting for beside it: the requests that have still to be raised. -/
def failedWants (r : Rider) (leaf : Nat) : List PageWant :=
  if (riderRec r.record).kind = 3 then
    (r.legs.filter (fun l => l.deferred.any (fun w => w.leaf == leaf))).flatMap (fun l => l.deferred.filter (fun w => !(w.leaf == leaf)))
  else []

/-- FILL_FAIL (R180, R201): a fill that has failed with a status ends; the leaf stays non-resident and the riders that waited
end with status 0x53. FILLST keeps the status of the first page of a rider to fail (log 115). -/
def execFillFail (leaf status : Nat) (s : State) : Out :=
  match s.fills.find? (fun x => x.page.leaf == leaf) with
  | none => .next s
  | some x =>
    if x.st = .failed status then
      let hit (r : Rider) : Bool := r.legs.any (fun l => l.deferred.any (fun w => w.leaf == leaf))
      let tiles := (s.riders.filter hit).flatMap (fun r => r.legs.map (fun l => (r.tile, l.ring)))
      let s := (s.riders.filter hit).foldl (fun s r => issueWants s r.tenant (failedWants r leaf)) s
      let s := settleHints (raiseRequests s leaf) leaf true
      let s := { s with
        fills := s.fills.filter (fun y => !(y.page.leaf == leaf))
        riders := s.riders.map (fun r =>
          if hit r then
            { r with st53 := true, fillst := if r.fillst = 0 then status else r.fillst
                     legs := r.legs.map (failLeg (riderRec r.record).kind leaf (slotNow s)) }
          else r) }
      .next (tiles.foldl (fun s t => giveSeats s t.1 t.2) s)
    else .next s

end Sys2Proof.Machine
end

