-- ==== Sys2Proof/Machine/Launch.lean ====
section
/-! DEFINITION. Launches (R66 to R70): reads of a tenant's G space by the device itself, the task-graph descriptor and its
checks, and the placement of regions (R69, R84). -/

namespace Sys2Proof.Machine

/-! ### Reads of G space by the device (R148, R153, R417) -/

/-- What a read of G space brings: the bytes as a memory that starts at 0, a wait for a scratchpad line, or a failure with
its cause, the address of the first byte not read and the level of the walk. -/
inductive GRead where
  | data (m : Memory)
  | waits
  | fails (cause : Nat) (addr level : Nat)
  deriving DecidableEq, Repr

/-- The first byte of a run of host memory that does not answer well, and its cause. -/
def firstBad (s : State) (a n : Nat) : Option (Nat × Nat) :=
  let hits := s.hostBad.filter (fun r => decide (r.1 < a + n) && decide (a < r.2.1))
  match (sortBy (fun x => x) (hits.map (fun r => max a r.1))).head? with
  | none => none
  | some x => some (x, if hostAnswer s x 1 = .failed then 0x33 else 0x31)

/-- A read of the device itself for a tenant that waits for a line or for a far member. -/
def deviceAsked (s : State) (f n : Nat) (p : Place) : Option Pend :=
  s.pend.find? (fun e => e.who == .device f && e.place == p && e.op == .load n false)

/-- Ask for such a read. -/
def deviceAsk (s : State) (f n : Nat) (p : Place) (a : Word) : State :=
  let (id, s1) := s.fresh
  submit s1 (Pend.start s id (.device f) (.load n false) p a f 0)

/-- Bytes as a memory that starts at 0. -/
def bytesMemory (bs : List Byte) : Memory := mwriteBytes [] 0 bs

/-- What a read that has been asked for brings; `va` is its address. -/
def deviceGot (n va : Nat) (g : Option Loaded) : GRead :=
  match g with
  | none => .waits
  | some (.value v) => .data (bytesMemory (bytesOf n v.val.toNat))
  | some (.run bs) => .data (bytesMemory bs)
  | some (.failed cause _ _) => .fails cause va 0

/-- Read `n` bytes that lie in one line at a place; `va` is their address. A read that meets an empty line joins its waiters
(R146), and one at a far member waits for the answer (R27); a mailbox word takes accesses of its own size only (R61). -/
def readRun (s : State) (f : Nat) (p : Place) (va n : Nat) : State × GRead :=
  match deviceAsked s f n p with
  | some e => (s, deviceGot n va e.got)
  | none =>
    match p with
    | .host a =>
      match firstBad s a n with
      | some (x, cause) => (s, .fails cause (va + (x - a)) 0)
      | none => (s, .data (tslice s.host a (a + n)))
    | .scratch t off =>
      match poisonedAt s t off n with
      | some x => (s, .fails 0x31 (va + (x - off)) 0)
      | none =>
        if blockedRead s 192 0 p then (deviceAsk s f n p (BitVec.ofNat 64 va), .waits)
        else (s, .data (tslice (s.tile t).mem off (off + n)))
    | .mailbox _ _ | .mailboxHole => (s, .fails 0x28 va 0)
    | .league a => (deviceAsk s f n p a, .waits)
    | .control _ => (s, .fails 0x2E va 0)

/-- Read `n` bytes of a tenant's G space that lie in one line. -/
def readGLine (s : State) (f va n : Nat) : State × GRead :=
  let here (s : State) (a : Nat) : State × GRead :=
    match translateAccess s f a .read with
    | (s, .error (cause, level)) => (s, .fails cause va level)
    | (s, .ok p) => readRun s f p va n
  if 2 ^ 57 ≤ va then (s, .fails 0x29 va 0)
  else if va < 2 ^ 56 then here s va
  else
    match leagueRoute s (BitVec.ofNat 64 va) with
    | .outOfRange => (s, .fails 0x2D va 0)
    | .unreachable => (s, .fails 0x2E va 0)
    | .far _ _ => readRun s f (.league (BitVec.ofNat 64 va)) va n
    | .here => here s (va % 2 ^ 45)

/-- Put the entries of a memory in above an offset. -/
def placeAbove (m : Memory) (off : Nat) (part : Memory) : Memory := part.foldl (fun m e => tput m (off + e.1) e.2) m

/-- Read `n` bytes of a tenant's G space, line by line. -/
def readGlobal (f : Nat) : Nat → Nat → Nat → Nat → Memory → State → State × GRead
  | 0, _, _, _, m, s => (s, .data m)
  | fuel + 1, va, n, done, m, s =>
    if n = 0 then (s, .data m)
    else
      let k := min n (128 - va % 128)
      match readGLine s f va k with
      | (s, .data part) => readGlobal f fuel (va + k) (n - k) (done + k) (placeAbove m done part) s
      | r => r

/-- The answers that the device's reads of a range of a tenant's G space have taken are forgotten. -/
def forgetReads (s : State) (f va n : Nat) : State :=
  { s with pend := s.pend.filter (fun e => !(e.who == .device f && decide (va ≤ e.addr.toNat) && decide (e.addr.toNat < va + n))) }

/-- Read `n` bytes of a tenant's G space. -/
def readG (s : State) (f va n : Nat) : State × GRead :=
  match readGlobal f (n / 128 + 2) va n 0 [] s with
  | (s, .waits) => (s, .waits)
  | (s, r) => (forgetReads s f va n, r)

/-! ### The descriptor (R66, R67) -/

/-- The 64-bit word at an offset of a memory. -/
def memWord (m : Memory) (off : Nat) : Word := BitVec.ofNat 64 (mread m off 8)

/-- The fields of a task-graph descriptor. -/
structure GraphDesc where
  nnode : Nat
  nedge : Nat
  nodes : Nat
  edges : Nat
  deriving DecidableEq, Repr

/-- A descriptor's fields; none where one breaks a rule of R66. -/
def graphDesc (m : Memory) : Option GraphDesc :=
  let w0 := memWord m 0
  let d : GraphDesc := { nnode := (w0.extractLsb' 16 16).toNat, nedge := (w0.extractLsb' 32 16).toNat,
                         nodes := (memWord m 8).toNat, edges := (memWord m 16).toNat }
  if w0.extractLsb' 0 16 = 1 ∧ w0.extractLsb' 48 16 = 0 ∧ 1 ≤ d.nnode ∧ d.nnode ≤ 4096 ∧ d.nodes % 128 = 0 ∧
      (d.nedge = 0 ∨ d.edges % 4 = 0) ∧ tslice m 24 64 = [] then some d else none

/-- Node record i (R67). -/
def nodeRec (m : Memory) (i : Nat) : NodeRec :=
  let w (k : Nat) : Word := memWord m (128 * i + 8 * k)
  let x := w 2
  { entry := w 0, image := w 1, imglen := (x.extractLsb' 0 22).toNat, tile := (x.extractLsb' 32 8).toNat,
    region := (x.extractLsb' 40 6).toNat, args := (List.range 13).map (fun k => w (3 + k)) }

/-- The fields of node record i obey R67. -/
def nodeOk (m : Memory) (i : Nat) : Bool :=
  let x := memWord m (128 * i + 16)
  let n := nodeRec m i
  decide (x &&& ~~~0x00003FFF003FFFFF#64 = 0) && decide (n.entry.toNat % 64 = 0) &&
  decide (n.imglen ≤ 0x3E0000) && (decide (n.imglen = 0) || decide (n.image.toNat % 128 = 0)) &&
  (decide (n.tile < 192) || decide (n.tile = 255))

/-- Edge e (R67). -/
def edgeAt (m : Memory) (e : Nat) : Nat × Nat :=
  let w := mread m (4 * e) 4
  (w % 65536, w / 65536)

/-! ### The checks of a launch (R68) -/

/-- The regions that have a node, in increasing number. -/
def regionNumbers (ns : List NodeRec) : List Nat := (List.range 64).filter (fun r => ns.any (fun n => n.region == r))

/-- The nodes of a region with their numbers, in increasing number. -/
def nodesOf (ns : List NodeRec) (r : Nat) : List (Nat × NodeRec) :=
  (ns.zipIdx.filter (fun p => p.1.region == r)).map (fun p => (p.2, p.1))

/-- The tile that a node names, as a LOCK launch takes it (R84). -/
def namedTile (lock : Bool) (n : NodeRec) : Option Nat :=
  if n.tile = 255 then none else some (if lock then n.tile - n.tile % 2 else n.tile)

/-- No value stands twice in a list. -/
def distinct : List Nat → Bool
  | [] => true
  | x :: xs => !xs.contains x && distinct xs

/-- A region breaks a rule of R68. -/
def regionMalformed (lock : Bool) (ns : List (Nat × NodeRec)) : Bool :=
  let named := ns.filterMap (fun p => namedTile lock p.2)
  decide ((if lock then 24 else 48) < ns.length) || !distinct named ||
  named.any (fun t => named.any (fun u => decide (t / 48 ≠ u / 48)))

/-- An edge breaks a rule of R68. -/
def edgeMalformed (ns : List NodeRec) (e : Nat × Nat) : Bool :=
  decide (ns.length ≤ e.1) || decide (ns.length ≤ e.2) || decide (e.2 ≤ e.1) ||
  decide ((ns[e.1]?.map (·.region)) = (ns[e.2]?.map (·.region)))

/-! ### Placement (R69, R84) -/

/-- Tile t is fenced (R39). -/
def fenced (s : State) (t : Nat) : Bool := s.ctl.tfence.getLsbD t

/-- The tiles of a stack on which a node may be placed: unfenced ones, or the even tiles of unfenced pairs. -/
def openTiles (s : State) (lock : Bool) (k : Nat) : List Nat :=
  ((List.range 48).map (· + 48 * k)).filter (fun t => !fenced s t && (!lock || (decide (t % 2 = 0) && !fenced s (t + 1))))

/-- A free choice from a list (log 2). -/
def chooseOne (s : State) (l : List Nat) : State × Option Nat :=
  let (n, s) := s.drawNat
  (s, l[n % l.length]?)

/-- Place nodes, in increasing number, on the open tiles of a stack: one that wants an open tile gets it, the others get free
choices among what no other node wants or has. -/
def placeNodes (avail kept : List Nat) : List (Nat × Option Nat) → List Nat → State → State × Option (List (Nat × Nat))
  | [], _, s => (s, some [])
  | (i, want) :: rest, used, s =>
    let pick : State × Option Nat := match want with
      | some t => if avail.contains t then (s, some t)
        else chooseOne s (avail.filter (fun u => !kept.contains u && !used.contains u))
      | none => chooseOne s (avail.filter (fun u => !kept.contains u && !used.contains u))
    match pick with
    | (s, none) => (s, none)
    | (s, some t) =>
      match placeNodes avail kept rest (t :: used) s with
      | (s, some ps) => (s, some ((i, t) :: ps))
      | r => r

/-- Place the nodes of a region in stack k; `wants` are the tiles they want there. -/
def placeIn (s : State) (lock : Bool) (k : Nat) (wants : List (Nat × Option Nat)) : State × Option (List (Nat × Nat)) :=
  let avail := openTiles s lock k
  placeNodes avail ((wants.filterMap (·.2)).filter (fun t => avail.contains t)) wants [] s

/-- The stacks that hold enough open tiles. -/
def roomyStacks (s : State) (lock : Bool) (n : Nat) : List Nat :=
  (List.range 4).filter (fun k => decide (n ≤ (openTiles s lock k).length))

/-- Place a region (R69): in the stack that its nodes name where that has room, else in the lowest stack with room, each named
tile keeping its place within the stack. A region that names no tile goes to a stack of the puppeteer's choosing. The tile
of each node, in node order; none where no stack has room. -/
def placeRegion (s : State) (lock : Bool) (wants : List (Nat × Option Nat)) : State × Option (List (Nat × Nat)) :=
  let roomy := roomyStacks s lock wants.length
  match (wants.filterMap (·.2)).head? with
  | none =>
    match chooseOne s roomy with
    | (s, none) => (s, none)
    | (s, some k) => placeIn s lock k wants
  | some t =>
    if roomy.contains (t / 48) then placeIn s lock (t / 48) wants
    else
      match roomy.head? with
      | none => (s, none)
      | some k => placeIn s lock k (wants.map (fun w => (w.1, w.2.map (fun t => 48 * k + t % 48))))

/-- A region that waits to start (R70, R85). -/
def newRegion (r : Nat) (ps : List (Nat × Nat)) : Region :=
  { region := r, st := .waiting, stack := match ps.head? with
      | some p => p.2 / 48
      | none => 0
    nodes := ps, bars := Vector.replicate 4 (Barrier.reset ps.length), seqs := [], done := [], arrived := [] }

/-- Place every region of a launch. -/
def placeAll (lock : Bool) (ns : List NodeRec) : List Nat → State → State × Option (List Region)
  | [], s => (s, some [])
  | r :: rest, s =>
    match placeRegion s lock ((nodesOf ns r).map (fun p => (p.1, namedTile lock p.2))) with
    | (s, none) => (s, none)
    | (s, some ps) =>
      match placeAll lock ns rest s with
      | (s, some rs) => (s, some (newRegion r ps :: rs))
      | x => x

/-! ### A launch begins (R66 to R69) -/

/-- What beginning a launch comes to. -/
inductive LaunchStart where
  | waits
  | error (code : Nat)
  | begun (id : Nat)
  deriving DecidableEq, Repr

/-- The roots k1 and k2 of a tenant's contexts (R41, R103). -/
def tenantRoots (s : State) (f : Nat) : CapReg × CapReg :=
  let x := s.tenant f
  (CapReg.make 1 x.wingb x.wingl.toNat
      (permLD ||| permST ||| permLDK ||| permSTK ||| permATOM ||| permFE ||| permARM ||| permGLOBAL) 0 true,
   CapReg.make 2 x.winsb x.winsl.toNat permRIDE 0 true)

/-- Check a launch whose records have been read, and place it. -/
def acceptLaunch (s : State) (q : Queue) (index : BitVec 32) (signal : Option (Nat × Word)) (ns : List NodeRec)
    (es : List (Nat × Nat)) (ok : Bool) : State × LaunchStart :=
  if !ok || es.any (edgeMalformed ns) || (regionNumbers ns).any (fun r => regionMalformed q.lock (nodesOf ns r)) then
    (s, .error 1)
  else
    match placeAll q.lock ns (regionNumbers ns) s with
    | (s, none) => (s, .error 1)
    | (s, some rs) =>
      let (id, s) := s.fresh
      let l : Launch := { id := id, tenant := q.tenant, queue := q.index, index := index, lock := q.lock, nodes := ns,
                          edges := es, regions := rs, roots := tenantRoots s q.tenant, signal := signal, ended := false }
      ({ s with launches := s.launches ++ [l] }, .begun id)

/-- Begin a launch (R66 to R68): the descriptor, then the node records and the edges are read and checked. -/
def beginLaunch (s : State) (q : Queue) (index : BitVec 32) (desc : Word) (signal : Option (Nat × Word)) :
    State × LaunchStart :=
  match readG s q.tenant desc.toNat 64 with
  | (s, .waits) => (s, .waits)
  | (s, .fails _ _ _) => (s, .error 3)
  | (s, .data m) =>
    match graphDesc m with
    | none => (s, .error 1)
    | some d =>
      match readG s q.tenant d.nodes (128 * d.nnode) with
      | (s, .waits) => (s, .waits)
      | (s, .fails _ _ _) => (s, .error 3)
      | (s, .data nm) =>
        match readG s q.tenant d.edges (4 * d.nedge) with
        | (s, .waits) => (s, .waits)
        | (s, .fails _ _ _) => (s, .error 3)
        | (s, .data em) =>
          acceptLaunch s q index signal ((List.range d.nnode).map (nodeRec nm)) ((List.range d.nedge).map (edgeAt em))
            ((List.range d.nnode).all (nodeOk nm))

/-- A launch by its number. -/
def launchOf (s : State) (id : Nat) : Option Launch := s.launches.find? (fun l => l.id == id)

/-- Change a launch. -/
def State.modLaunch (s : State) (id : Nat) (g : Launch → Launch) : State :=
  { s with launches := s.launches.map (fun l => if l.id == id then g l else l) }

end Sys2Proof.Machine
end

