-- ==== Sys2Proof/Machine/Contexts.lean ====
section
/-! DEFINITION. Context stores and regions (R70 to R75, R85): MAP and UNMAP, a region's start, the load of a data image,
local done, convergence, and barrier release. -/

namespace Sys2Proof.Machine

/-! ### Entries (R71, R74) -/

/-- Entry i of a tile's context store. -/
def entryOf (s : State) (t i : Nat) : Entry := (s.tile t).entries[i]?.getD Entry.reset

/-- Replace an entry. -/
def setEntry (s : State) (t i : Nat) (e : Entry) : State :=
  s.modTile t (fun x => { x with entries := x.entries.setIfInBounds i e })

/-- The entries of a region's sequence on a tile, the present one first. -/
def Region.seq (r : Region) (t : Nat) : List Nat :=
  match r.seqs.find? (fun p => p.1 == t) with
  | some p => p.2
  | none => []

/-- Replace a tile's sequence; an empty one is left out. -/
def Region.setSeq (r : Region) (t : Nat) (es : List Nat) : Region :=
  { r with seqs := (r.seqs.filter (fun p => !(p.1 == t))) ++ (if es.isEmpty then [] else [(t, es)]) }

/-- The tile of a node of a region. -/
def Region.tileOfNode (r : Region) (n : Nat) : Option Nat := (r.nodes.find? (fun p => p.1 == n)).map (·.2)

/-- The tenant that a source belongs to. -/
def tenantOfSource (s : State) (src : MapSource) : Nat :=
  match src with
  | .node l _ =>
    match launchOf s l with
    | none => 0
    | some x => x.tenant
  | .image ctx =>
    match imageOf s ctx with
    | none => 0
    | some i => i.ctx.tenant

/-- The launch, region and node that a source belongs to. -/
def sourceOf (s : State) (src : MapSource) : Option (Nat × Nat × Nat) :=
  match src with
  | .node l n =>
    match launchOf s l with
    | none => none
    | some x => x.nodes[n]?.map (fun r => (l, r.region, n))
  | .image ctx => (imageOf s ctx).map (fun i => (i.ctx.launch, i.ctx.region, i.ctx.node))

/-- The MAP command (R71): FREE becomes READY, and the entry joins the region's sequence on the tile. It is refused where the
entry is not FREE, and by a fenced tile (R306). -/
def mapEntry (s : State) (t i : Nat) (src : MapSource) : State :=
  if 192 ≤ t ∨ 8 ≤ i then s
  else
    match sourceOf s src with
    | none => s
    | some (l, r, _) =>
      if (entryOf s t i).st ≠ .free ∨ fenced s t then s.emit (.mapRefused t i)
      else
        (setEntry s t i { st := .ready, tenant := tenantOfSource s src, launch := l, region := r, source := some src }).modRegion l r
          (fun x => x.setSeq t (x.seq t ++ [i]))

/-- Free an entry and take it out of its region's sequence; an image that was restored into it can be read back again. -/
def dropEntry (s : State) (t i : Nat) : State :=
  let e := entryOf s t i
  let s := match e.st, e.source with
    | .ready, some (.image ctx) => s.modImage ctx (fun k => { k with restored := false })
    | _, _ => s
  (setEntry s t i Entry.reset).modRegion e.launch e.region (fun x => x.setSeq t ((x.seq t).filter (fun k => !(k == i))))

/-- MAP (R71). -/
def execMap (tile entry : Nat) (source : MapSource) (s : State) : Out := .next (mapEntry s tile entry source)

/-- UNMAP (R71): READY or DONE becomes FREE; it is refused for a RUNNING entry, and changes nothing of a FREE one. A DONE
entry's context leaves the tile with it. -/
def execUnmap (tile entry : Nat) (s : State) : Out :=
  match (entryOf s tile entry).st with
  | .free => .next s
  | .running => .next (s.emit (.mapRefused tile entry))
  | .ready => .next (dropEntry s tile entry)
  | .done =>
    let s := dropEntry s tile entry
    if (s.tile tile).running = some entry then .next (s.modTile tile (fun x => { x with ctx := none, running := none }))
    else .next s

/-! ### Entering RUNNING (R72, R81, R103, R243, R276) -/

/-- The context of a node record (R72, R103). -/
def nodeContext (id : Nat) (l : Launch) (n : Nat) (r : NodeRec) (rank : Nat) : Ctx :=
  let c := blankCtx id l.tenant l.id n r.region rank r.entry
  let c := { c with phase := .loading, lock := l.lock }
  let c := (c.setG 1 (BitVec.ofNat 64 n)).setG 2 (BitVec.ofNat 64 rank)
  let c := r.args.zipIdx.foldl (fun c a => c.setG (3 + a.2) a.1) c
  ((c.setK 0 (CapReg.make 0 0 0x3E0000 (permLD ||| permST ||| permLDK ||| permSTK ||| permATOM ||| permFE ||| permARM) 0
    true)).setK 1 l.roots.1).setK 2 l.roots.2

/-- A trap that reloading a context's matrix state raises, at its saved block address (R243). -/
def reloadTrap (c : Ctx) (cause : Nat) (i0 i1 : Word) : AsyncTrap :=
  { source := 1, trap := { cause := cause, blk := c.pc, slot := 0x80, tag := 0, info0 := i0, info1 := i1 } }

/-- A plane loaded again from a restored share, with the trap that it raises (R243). A plane that a poisoned line keeps from
being loaded is left as the one with an illegal group is. -/
def reloadPlane (s : State) (t : Nat) (c : Ctx) (p : Plane) : Plane × List AsyncTrap :=
  if !p.loaded then (p, [])
  else
    match poisonedAt s t p.src (tileSize p.fmt) with
    | some x => (.reset, [reloadTrap c 0x31 (BitVec.ofNat 64 x) (memInfo1 0 128 false 0)])
    | none =>
      let mem := (s.tile t).mem
      match (if fmtS24 p.fmt then illegalGroup mem p.src else none) with
      | some (col, g) =>
        (.reset, [reloadTrap c 0x14 (BitVec.ofNat 64 (64 * col + g)) (BitVec.ofNat 64 (p.src + 16384 + 32 * col + g / 2))])
      | none => (readPlane mem p.src p.fmt p.codebook, [])

/-- The attenuation table loaded again (R276). -/
def reloadAtten (s : State) (t : Nat) (c : Ctx) : BitVec 4096 × List AsyncTrap :=
  if !c.attenRun then (c.atten, [])
  else
    match poisonedAt s t c.attenSrc 512 with
    | some x => (c.atten, [reloadTrap c 0x31 (BitVec.ofNat 64 x) (memInfo1 0 128 false 0)])
    | none => (BitVec.ofNat 4096 (mread (s.tile t).mem c.attenSrc 512), [])

/-- Put a share on a tile: what lies above it stays. -/
def putShare (s : State) (t : Nat) (mem : Memory) (lines : Table LineState) (gtags : Table Bool) : State :=
  wake (s.modTile t (fun x => { x with
    mem := placeAbove (tclear x.mem 0 shareSize) 0 mem
    lines := lines ++ tclear x.lines 0 31744
    gtags := gtags ++ tclear x.gtags 0 253952 }))

/-- Resume a context from its image on a tile (R81, R242, R243, R276, R379). -/
def resumeContext (s : State) (t : Nat) (i : Image) : State :=
  let s := putShare s t i.mem i.lines i.gtags
  let now := (s.stack (t / 48)).cycle
  let c := i.ctx
  let front := reloadPlane s t c c.front
  let shadow := reloadPlane s t c c.shadow
  let atten := reloadAtten s t c
  let queue := match c.pass with
    | some p => p.entry :: c.matrixQ
    | none => c.matrixQ
  let c : Ctx := { c with
    front := front.1, shadow := shadow.1, atten := atten.1, ev := true, pass := none
    pendingTraps := c.pendingTraps ++ front.2 ++ shadow.2 ++ atten.2
    matrixQ := queue.map (fun e => { e with cycle := now }) }
  let s := s.modTile t (fun x => { x with ctx := some c })
  let s := { s with images := s.images.filter (fun k => !(k.id == i.id)) }
  match i.ctx.pass, c.matrixQ with
  | some p, e :: _ => reachHead s t c e p.next
  | _, _ => s

/-- The tile's arrival phases since its region started (R371): of the latest arrivals that a node on it has made. -/
def arrivalPhases (r : Option Region) (t : Nat) : Vector (Option Nat) 4 :=
  Vector.ofFn (fun b : Fin 4 => match r with
    | none => none
    | some r => (r.arrived.find? (fun a => a.2.1 == b.val && r.nodes.any (fun p => p.1 == a.1 && p.2 == t))).map (fun a => a.2.2))

/-- A context enters RUNNING (R72, R75): entry i of a tile, which is READY. The start of a node's context drops the tile's
cached blocks (R95); what the ports of the tile's last context have read ahead is gone (R296). -/
def makeRunning (s : State) (t i : Nat) : State :=
  let e := entryOf s t i
  let start (s : State) : State :=
    (setEntry (dropPorts s t) t i { e with st := .running }).modTile t (fun x => { x with
      running := some i, fabric := Fabric.reset, fresh := false })
  match e.source with
  | none => s
  | some (.image ctx) =>
    match imageOf s ctx with
    | none => s
    | some im => (resumeContext (start s) t im).forgetFaults t
  | some (.node l n) =>
    match launchOf s l with
    | none => s
    | some x =>
      match x.nodes[n]? with
      | none => s
      | some r =>
        let rank := ((nodesOf x.nodes r.region).filter (fun p => decide (p.1 < n))).length
        let (id, s) := s.fresh
        let c := { nodeContext id x n r rank with arrival := arrivalPhases (s.regionOf l r.region) t }
        ((start s).modTile t (fun y => { y with bcache := [], ctx := some c })).forgetFaults t

/-! ### A region starts (R70) -/

/-- A tile can take a context (R71, R84, R302): none runs on it, none that ended still has anything out, and its even
neighbour runs no lockstep pair. -/
def tileIdle (s : State) (t : Nat) : Bool :=
  let x := s.tile t
  x.running.isNone && x.ctx.isNone && !x.owed.any (fun c => owes s c || storing s c) &&
  !(decide (t % 2 = 1) && (match (s.tile (t - 1)).ctx with
    | some c => c.lock
    | none => false))

/-- The queue of a launch, where it has a slot (R64). -/
def launchQueue (s : State) (l : Launch) : Option Queue :=
  s.queues.find? (fun q => q.tenant == l.tenant && q.index == l.queue && q.slot.isSome && decide (q.st ≠ .destroyed))

/-- A launch has a region that was pre-empted and has not completed (R56). -/
def hasPreempted (l : Launch) : Bool := l.regions.any (fun r => decide (r.st = .preempted))

/-- Regions of a launch may start: its queue has a slot. In ERROR what has started runs on, and a pre-empted launch is not
resumed (R55). -/
def launchGoes (s : State) (l : Launch) : Bool :=
  match launchQueue s l with
  | none => false
  | some q => decide (q.st ≠ .error) || !hasPreempted l

/-- Every predecessor of a region's nodes has finished (R70). -/
def predecessorsDone (l : Launch) (r : Region) : Bool :=
  l.edges.all (fun e => !(r.tileOfNode e.2).isSome ||
    l.regions.any (fun x => (x.tileOfNode e.1).isSome && decide (x.st = .finished)))

/-- A node's tile holds its READY entry next in the region's sequence, and can take it. -/
def nodeMapped (s : State) (l : Launch) (r : Region) (p : Nat × Nat) : Bool :=
  match (r.seq p.2).head? with
  | none => false
  | some i =>
    let e := entryOf s p.2 i
    decide (e.st = .ready) && tileIdle s p.2 && (!l.lock || tileIdle s (p.2 + 1)) &&
    (match e.source.bind (sourceOf s) with
      | some (_, _, n) => n == p.1
      | none => false)

/-- The nodes of a region that have not raised local done. -/
def Region.unfinished (r : Region) : List (Nat × Nat) := r.nodes.filter (fun p => !r.done.contains p.1)

/-- A region may start, or start again after a pre-emption: every node that has not finished is mapped. -/
def mayStart (s : State) (l : Launch) (r : Region) : Bool :=
  !l.ended && launchGoes s l &&
  (match r.st with
    | .waiting => predecessorsDone l r
    | .preempted => true
    | .started | .finished => false) &&
  r.unfinished.all (nodeMapped s l r)

/-- Start a region: the next entry of each of its tiles becomes RUNNING, and its barriers count its nodes, a locked pair as one tile
(R85, log 99). -/
def startRegion (s : State) (l : Launch) (r : Region) : State :=
  let s := r.unfinished.foldl (fun s p => match (r.seq p.2).head? with
    | some i => makeRunning s p.2 i
    | none => s) s
  s.modRegion l.id r.region (fun x => { x with
    st := .started
    bars := if r.st = .waiting then Vector.replicate 4 (Barrier.reset r.nodes.length) else x.bars
    arrived := if r.st = .waiting then [] else x.arrived })

/-- REGION_START (R70, R81, R85). -/
def execRegionStart (launch region : Nat) (s : State) : Out :=
  match launchOf s launch, s.regionOf launch region with
  | some l, some r => .next (if mayStart s l r then startRegion s l r else s)
  | _, _ => .next s

/-! ### The data image (R72) -/

/-- The trap record of an image that could not be copied (R72); the access size of TINFO1 is free (log 23). -/
def imageTrap (s : State) (c : Ctx) (cause addr level : Nat) : TrapRec × State :=
  let (n, s) := s.drawNat
  ({ cause := cause, blk := c.pc, slot := 0x80, tag := 0, info0 := BitVec.ofNat 64 addr,
     info1 := BitVec.ofNat 64 (16 * (n % 8) + 256 * level) }, s)

/-- CONTEXT_IMAGE_LOAD (R72): the share becomes the data image and zeros, every line full and every tag clear, and the entry
block is fetched next; an image that cannot be read ends the node as an unresolved trap. -/
def execContextImageLoad (tile : Nat) (s : State) : Out :=
  match (s.tile tile).ctx with
  | none => .next s
  | some c =>
    match c.phase, (launchOf s c.launch).bind (fun l => l.nodes[c.node]?) with
    | .loading, some r =>
      match (if r.imglen = 0 then (s, .data []) else readG s c.tenant r.image.toNat r.imglen) with
      | (s, .waits) => .next s
      | (s, .fails cause addr level) =>
        let (x, s) := imageTrap s c cause addr level
        .next (endUnresolved s tile x false)
      | (s, .data m) => .next ((putShare s tile m [] []).modCtx tile (fun c => { c with phase := .fetching }))
    | _, _ => .next s

/-! ### Local done and convergence (R73 to R75) -/

/-- A halted context is DONE (R73): it owes no write, neither of a copy or rider nor of a store that its blocks have released, so
that the status words that report its launch cover its stores (R232). -/
def isDrained (s : State) (c : Ctx) : Bool :=
  decide (c.phase = .halted) && c.copyQ.isEmpty && c.vectorQ.isEmpty && c.matrixQ.isEmpty && c.riderQ.isEmpty &&
  c.pass.isNone && c.stopping.isNone && c.flights.isEmpty && c.pendingTraps.isEmpty && !c.inh && !owes s c.id && !storing s c.id

/-- LOCAL_DONE (R73): a halted context whose commands, copies and riders are complete becomes DONE. -/
def execLocalDone (tile : Nat) (s : State) : Out :=
  match (s.tile tile).ctx, (s.tile tile).running with
  | some c, some i =>
    if isDrained s c then
      let s := setEntry (s.modCtx tile (fun c => { c with phase := .done })) tile i { entryOf s tile i with st := .done }
      .next (s.modRegion c.launch c.region (fun r => { r with done := r.done ++ [c.node] }))
    else .next s
  | _, _ => .next s

/-- Every tile of a region has raised local done (R75). -/
def converged (r : Region) : Bool := decide (r.st = .started) && r.unfinished.isEmpty

/-- The tile of a region steps to its next entry (R75): the DONE one becomes FREE, the next READY one RUNNING. -/
def stepTile (s : State) (l : Nat) (r : Nat) (t : Nat) : State :=
  match (s.tile t).running with
  | none => s
  | some i =>
    if (entryOf s t i).st = .done ∧ (entryOf s t i).launch = l ∧ (entryOf s t i).region = r then
      let s := (dropEntry s t i).modTile t (fun x => { x with ctx := none, running := none, fabric := Fabric.reset })
      match (s.regionOf l r).bind (fun x => (x.seq t).head?) with
      | none => s
      | some k =>
        let n := match (entryOf s t k).source.bind (sourceOf s) with
          | some (_, _, n) => [n]
          | none => []
        (makeRunning s t k).modRegion l r (fun x => { x with done := x.done.filter (fun y => !n.contains y) })
    else s

/-- A region converges (R75): each of its tiles steps to its next entry; where none has one the region has finished (R70). -/
def converge (s : State) (l : Nat) (r : Region) : State :=
  let s := (r.nodes.map (·.2)).foldl (fun s t => stepTile s l r.region t) s
  s.modRegion l r.region (fun x => if x.unfinished.isEmpty then { x with st := .finished } else x)

/-- REGION_CONVERGE (R75). -/
def execRegionConverge (launch region : Nat) (s : State) : Out :=
  match s.regionOf launch region with
  | some r => .next (if converged r then converge s launch r else s)
  | none => .next s

/-! ### Barriers (R85) -/

/-- A BWAIT of a block waits for a phase of a barrier. -/
def awaits (b phase : Nat) (w : Waiting) : Bool :=
  match w.on with
  | .barrier x p => x == b && p == phase
  | _ => false

/-- An arrival of the present phase contains a FENCE that is not over yet (R227, R372): a store of its context is still under way
to a far member. -/
def arrivalPending (s : State) (launch : Nat) (r : Region) (barrier phase : Nat) : Bool :=
  r.nodes.any (fun p => match (s.tile p.2).ctx with
    | some c => c.launch == launch && c.region == r.region && decide (c.arrival[barrier]?.getD none = some phase) && fencePending s c
    | none => false)

/-- BARRIER_RELEASE (R85): a phase whose arrivals have reached the count is released, once the FENCE of every arrival is over
(R372); not while the region is pre-empted. -/
def execBarrierRelease (launch region barrier : Nat) (s : State) : Out :=
  match s.regionOf launch region with
  | none => .next s
  | some r =>
    match r.bars[barrier]? with
    | none => .next s
    | some b =>
      if r.st = .started ∧ 0 < b.count ∧ b.count ≤ b.arrivals ∧ !arrivalPending s launch r barrier b.phase then
        let s := s.modRegion launch region (fun x => { x with
          bars := x.bars.setIfInBounds barrier { b with phase := b.phase + 1, arrivals := 0 } })
        .next ((r.unfinished.map (·.2)).foldl (fun s t =>
          match (s.tile t).ctx with
          | some c =>
            if c.launch = launch ∧ c.region = region then
              setEv (s.modFabric t (fun x => { x with waits := x.waits.filter (fun w => !awaits barrier b.phase w) })) t
            else s
          | none => s) s)
      else .next s

end Sys2Proof.Machine
end

