-- ==== Sys2Proof/Machine/Crypto.lean ====
section
/-! DEFINITION. SHA-384 and ECDSA over P-384 (R45, R47, R51), which the spec names and public standards define: FIPS 180-4,
FIPS 186-4, and SEC 1 for the byte form of points and integers (log 87). A digest is held with its first byte in the low bits. -/

namespace Sys2Proof.Machine

/-! ### SHA-384 (FIPS 180-4) -/

/-- The round constants. -/
def shaK : List Word :=
  [0x428A2F98D728AE22, 0x7137449123EF65CD, 0xB5C0FBCFEC4D3B2F, 0xE9B5DBA58189DBBC,
   0x3956C25BF348B538, 0x59F111F1B605D019, 0x923F82A4AF194F9B, 0xAB1C5ED5DA6D8118,
   0xD807AA98A3030242, 0x12835B0145706FBE, 0x243185BE4EE4B28C, 0x550C7DC3D5FFB4E2,
   0x72BE5D74F27B896F, 0x80DEB1FE3B1696B1, 0x9BDC06A725C71235, 0xC19BF174CF692694] ++
  [0xE49B69C19EF14AD2, 0xEFBE4786384F25E3, 0x0FC19DC68B8CD5B5, 0x240CA1CC77AC9C65,
   0x2DE92C6F592B0275, 0x4A7484AA6EA6E483, 0x5CB0A9DCBD41FBD4, 0x76F988DA831153B5,
   0x983E5152EE66DFAB, 0xA831C66D2DB43210, 0xB00327C898FB213F, 0xBF597FC7BEEF0EE4,
   0xC6E00BF33DA88FC2, 0xD5A79147930AA725, 0x06CA6351E003826F, 0x142929670A0E6E70] ++
  [0x27B70A8546D22FFC, 0x2E1B21385C26C926, 0x4D2C6DFC5AC42AED, 0x53380D139D95B3DF,
   0x650A73548BAF63DE, 0x766A0ABB3C77B2A8, 0x81C2C92E47EDAEE6, 0x92722C851482353B,
   0xA2BFE8A14CF10364, 0xA81A664BBC423001, 0xC24B8B70D0F89791, 0xC76C51A30654BE30,
   0xD192E819D6EF5218, 0xD69906245565A910, 0xF40E35855771202A, 0x106AA07032BBD1B8] ++
  [0x19A4C116B8D2D0C8, 0x1E376C085141AB53, 0x2748774CDF8EEB99, 0x34B0BCB5E19B48A8,
   0x391C0CB3C5C95A63, 0x4ED8AA4AE3418ACB, 0x5B9CCA4F7763E373, 0x682E6FF3D6B2B8A3,
   0x748F82EE5DEFB2FC, 0x78A5636F43172F60, 0x84C87814A1F0AB72, 0x8CC702081A6439EC,
   0x90BEFFFA23631E28, 0xA4506CEBDE82BDE9, 0xBEF9A3F7B2C67915, 0xC67178F2E372532B] ++
  [0xCA273ECEEA26619C, 0xD186B8C721C0C207, 0xEADA7DD6CDE0EB1E, 0xF57D4F7FEE6ED178,
   0x06F067AA72176FBA, 0x0A637DC5A2C898A6, 0x113F9804BEF90DAE, 0x1B710B35131C471B,
   0x28DB77F523047D84, 0x32CAAB7B40C72493, 0x3C9EBE0A15C9BEBC, 0x431D67C49C100D4C,
   0x4CC5D4BECB3E42B6, 0x597F299CFC657E2A, 0x5FCB6FAB3AD6FAEC, 0x6C44198C4A475817]

/-- The initial hash value. -/
def shaInit : List Word :=
  [0xCBBB9D5DC1059ED8, 0x629A292A367CD507, 0x9159015A3070DD17, 0x152FECD8F70E5939,
   0x67332667FFC00B31, 0x8EB44A8768581511, 0xDB0C2E0D64F98FA7, 0x47B5481DBEFA4FA4]

/-- Bytes as a big-endian number. -/
def bigEndian (bs : List Byte) : Nat := bs.foldl (fun n b => 256 * n + b.toNat) 0

/-- The `n` big-endian bytes of a number. -/
def bigBytes : Nat → Nat → List Byte
  | 0, _ => []
  | n + 1, x => bigBytes n (x / 256) ++ [BitVec.ofNat 8 x]

/-- Bytes as a number, the first byte lowest. -/
def digestOf (bs : List Byte) : BitVec 384 := BitVec.ofNat 384 (bs.foldr (fun b n => b.toNat + 256 * n) 0)

/-- The padded message: a one bit, zeros, and the length in bits in 128 bits. -/
def shaPad (m : List Byte) : List Byte :=
  m ++ [0x80] ++ List.replicate ((239 - m.length % 128) % 128) 0 ++ bigBytes 16 (8 * m.length)

/-- The sixteen words of a block of 128 bytes. -/
def shaWords (blk : List Byte) : List Word :=
  (List.range 16).map (fun i => BitVec.ofNat 64 (bigEndian ((blk.drop (8 * i)).take 8)))

/-- The next word of the message schedule from the sixteen before it. -/
def shaNext (w : List Word) : Word :=
  let at_ (i : Nat) : Word := w[i]?.getD 0
  let a := at_ 1
  let b := at_ 14
  (b.rotateRight 19 ^^^ b.rotateRight 61 ^^^ (b >>> 6)) + at_ 9 + (a.rotateRight 1 ^^^ a.rotateRight 8 ^^^ (a >>> 7)) + at_ 0

/-- One round on the eight working variables, with a round constant and a word of the schedule. -/
def shaRound (v : List Word) (k w : Word) : List Word :=
  match v with
  | [a, b, c, d, e, f, g, h] =>
    let t1 := h + (e.rotateRight 14 ^^^ e.rotateRight 18 ^^^ e.rotateRight 41) + ((e &&& f) ^^^ (~~~e &&& g)) + k + w
    let t2 := (a.rotateRight 28 ^^^ a.rotateRight 34 ^^^ a.rotateRight 39) + ((a &&& b) ^^^ (a &&& c) ^^^ (b &&& c))
    [t1 + t2, a, b, c, d + t1, e, f, g]
  | _ => v

/-- The rounds of a block: the constants left, the sixteen words of the schedule that come next, and the working variables. -/
def shaRounds : List Word → List Word → List Word → List Word
  | [], _, v => v
  | k :: ks, w, v => shaRounds ks (w.tail ++ [shaNext w]) (shaRound v k (w.head?.getD 0))

/-- The hash value after a block. -/
def shaBlock (h : List Word) (blk : List Byte) : List Word := (h.zip (shaRounds shaK (shaWords blk) h)).map (fun x => x.1 + x.2)

/-- The hash value after `n` blocks of a padded message. -/
def shaBlocks : Nat → List Word → List Byte → List Word
  | 0, h, _ => h
  | n + 1, h, m => shaBlocks n (shaBlock h (m.take 128)) (m.drop 128)

/-- SHA-384 of some bytes. -/
def sha384 (m : List Byte) : BitVec 384 :=
  let p := shaPad m
  digestOf (((shaBlocks (p.length / 128) shaInit p).take 6).flatMap (fun w => bigBytes 8 w.toNat))

/-! ### P-384 (FIPS 186-4) -/

/-- The prime of the field. -/
def p384 : Nat := 2 ^ 384 - 2 ^ 128 - 2 ^ 96 + 2 ^ 32 - 1

/-- The order of the base point. -/
def p384Order : Nat := 0xFFFFFFFFFFFFFFFFFFFFFFFFFFFFFFFFFFFFFFFFFFFFFFFFC7634D81F4372DDF581A0DB248B0A77AECEC196ACCC52973

/-- The coefficient b of y² = x³ − 3x + b. -/
def p384B : Nat := 0xB3312FA7E23EE7E4988E056BE3F82D19181D9C6EFE8141120314088F5013875AC656398D8A2ED19D2A85C8EDD3EC2AEF

/-- The base point. -/
def p384Base : Nat × Nat :=
  (0xAA87CA22BE8B05378EB1C71EF320AD746E1D3B628BA79B9859F741E082542A385502F25DBF55296C3A545E3872760AB7,
   0x3617DE4A96262C6F5D9E98BF9292DC29F8F41DBD289A147CE9DA3113B5F0B8C00A60B1CE1D7E819D7A431D7C90EA0E5F)

/-- The bits of a number below 2^384, highest first. -/
def bits384 (n : Nat) : List Bool := ((List.range 384).map (fun i => n.testBit i)).reverse

/-- A power modulo m. -/
def powMod (m a e : Nat) : Nat := (bits384 e).foldl (fun x b => if b then x * x % m * a % m else x * x % m) 1

/-- The inverse modulo a prime. -/
def invMod (m a : Nat) : Nat := powMod m (a % m) (m - 2)

/-- The difference modulo m of two numbers below it. -/
def subMod (m a b : Nat) : Nat := (a + m - b) % m

/-- A point of the curve: none is the point at infinity. -/
abbrev CurvePoint := Option (Nat × Nat)

/-- A pair of coordinates lies on the curve. -/
def onCurve (q : Nat × Nat) : Bool :=
  decide (q.1 < p384) && decide (q.2 < p384) && decide ((q.2 * q.2 + 3 * q.1) % p384 = (q.1 * q.1 * q.1 + p384B) % p384)

/-- The sum of two points. -/
def addPoints (a b : CurvePoint) : CurvePoint :=
  match a, b with
  | none, q => q
  | q, none => q
  | some (x, y), some (u, v) =>
    if x = u ∧ (y + v) % p384 = 0 then none
    else
      let l := if x = u then (3 * x * x + p384 - 3) * invMod p384 (2 * y) % p384 else subMod p384 v y * invMod p384 (subMod p384 u x) % p384
      let w := subMod p384 (l * l % p384) ((x + u) % p384)
      some (w, subMod p384 (l * subMod p384 x w % p384) y)

/-- A multiple of a point. -/
def timesPoint (n : Nat) (q : CurvePoint) : CurvePoint :=
  (bits384 n).foldl (fun r b => if b then addPoints (addPoints r r) q else addPoints r r) none

/-- The integer that a digest stands for in ECDSA. -/
def digestNat (d : BitVec 384) : Nat := bigEndian ((List.range 48).map (fun i => d.extractLsb' (8 * i) 8))

/-- Verify a signature r then s over a digest, under an uncompressed public key. -/
def ecdsaVerify (key : List Byte) (d : BitVec 384) (sig : List Byte) : Bool :=
  let q := (bigEndian ((key.drop 1).take 48), bigEndian ((key.drop 49).take 48))
  let r := bigEndian (sig.take 48)
  let t := bigEndian ((sig.drop 48).take 48)
  let w := invMod p384Order t
  decide (key.head? = some 0x04) && onCurve q && decide (0 < r ∧ r < p384Order) && decide (0 < t ∧ t < p384Order) &&
  (match addPoints (timesPoint (digestNat d * w % p384Order) (some p384Base)) (timesPoint (r * w % p384Order) (some q)) with
    | some (x, _) => decide (x % p384Order = r)
    | none => false)

/-- Sign a digest with a private key and the number k that a signature takes once: 96 bytes. -/
def ecdsaSign (key k : Nat) (d : BitVec 384) : List Byte :=
  let r := match timesPoint k (some p384Base) with
    | some (x, _) => x % p384Order
    | none => 0
  bigBytes 48 r ++ bigBytes 48 (invMod p384Order k * (digestNat d + r * key) % p384Order)

end Sys2Proof.Machine
end

