-- ==== Sys2Proof/Machine/Checks.lean ====
section
/-! DEFINITION. The checks on tokens (R305): the residue that an integer operator predicts, the comparison with the residue of its
result, and the parity and the path that a mesh switch checks. -/

namespace Sys2Proof.Machine

/-- How an operator's result is checked (R305): its residue is predicted, the result is formed twice, or the operator is no
integer one. -/
inductive ResultCheck where
  | predicted
  | twice
  | unchecked
  deriving DecidableEq, Repr

/-- The check of an opcode (R305, R324): the bitwise operators, the shifts, CLZ, CTZ, POPC, BFX, BFXU and BFI form their result
twice, the other integer operators predict its residue. -/
def resultCheck (op : Nat) : ResultCheck :=
  if (decide (0x19 ≤ op) && decide (op ≤ 0x23)) || (decide (0x28 ≤ op) && decide (op ≤ 0x2A)) || op == 0x2D || op == 0x2E then .twice
  else if decide (0x10 ≤ op) && decide (op ≤ 0x2C) then .predicted
  else .unchecked

/-- The residue predicted for a sum, from its carry: 2^64 mod 15 is 1 (R305). -/
def predictAdd (a b : Word) : BitVec 4 :=
  BitVec.ofNat 4 (((residue a).toNat + (residue b).toNat + 15 - (a.toNat + b.toNat) / 2 ^ 64) % 15)

/-- The residue predicted for a difference, from its borrow (R305). -/
def predictSub (a b : Word) : BitVec 4 :=
  BitVec.ofNat 4 (((residue a).toNat + 15 - (residue b).toNat + (if a.toNat < b.toNat then 1 else 0)) % 15)

/-- The residue predicted for a product, from its high part (R305). -/
def predictMul (a b : Word) : BitVec 4 :=
  let high := a.toNat * b.toNat / 2 ^ 64
  BitVec.ofNat 4 (((residue a).toNat * (residue b).toNat + 15 - high % 15) % 15)

/-- A residue mismatch (R305): the code 15, or a disagreement. -/
def residueMismatch (predicted formed : BitVec 4) : Bool := decide (formed = 15) || decide (predicted ≠ formed)

/-- A cluster lies on the row-then-column path between two clusters of the 4 by 4 mesh (R100). -/
def onPath (src dst c : Nat) : Bool :=
  let between (a b x : Nat) : Bool := decide (min a b ≤ x) && decide (x ≤ max a b)
  (decide (c / 4 = src / 4) && between (src % 4) (dst % 4) (c % 4)) ||
  (decide (c % 4 = dst % 4) && between (src / 4) (dst / 4) (c / 4))

/-- A route mismatch at a switch (R305): the parity of the route ID is not even, or the switch does not lie on the path from the
cluster where the token was sent to the one that the ID names. -/
def routeMismatch (id : BitVec 8) (src switch : Nat) : Bool :=
  ((List.range 8).foldl (fun p i => xor p (id.getLsbD i)) false) || !onPath src (id.extractLsb' 0 4).toNat switch

/-- A slot's result is one that an integer operator of its cluster checks (R305). -/
def residueChecked (b : Block) (cluster slot : Nat) : Bool :=
  match b.words[slot]? with
  | some w => decide (slot / 8 = cluster) && decide (resultCheck (opOf w) ≠ .unchecked)
  | none => false

/-- A slot of a block to which some token is sent across the mesh, whose switches check its route (R305). -/
def routeChecked (b : Block) (cluster slot : Nat) : Bool :=
  decide (cluster < 16) && b.words.zipIdx.any (fun e => (targetsOf e.1 e.2).any (fun t => t.1 == slot))

end Sys2Proof.Machine
end

