-- ==== Sys2Proof/Machine/Saves.lean ====
section
/-! DEFINITION. Pre-emption (R76 to R83): SWITCH, the save image and its bank, resuming, and the end of a launch. An image is
kept as data, with the context and its share; SWITCH takes all of its steps at once. -/

namespace Sys2Proof.Machine

/-! ### Saving a context (R76 to R79, R242, R243) -/

/-- A tile's save bank holds an image (R80). -/
def bankUsed (s : State) (t : Nat) : Bool := s.images.any (fun i => i.bank == some t)

/-- A pass under way goes on to the end of its present 32-row step, or to a row that waits on an empty line (R78, R242). -/
def finishStep (t : Nat) : Nat → State → State
  | 0, s => s
  | n + 1, s =>
    match (s.tile t).ctx with
    | none => s
    | some c =>
      match c.pass with
      | none => s
      | some p =>
        if !p.granted ∨ (p.next - p.first) % 32 = 0 then s
        else if p.entry.pass.kind ≠ 2 &&
            !rangesReadable (engineView s t c.id 2) t c.id (rowRanges p.entry c.front.fmt p.next) then s
        else finishStep t n (tryRow s t c p)

/-- Every row in flight lands (R242). -/
def landFlights (c : Ctx) : Ctx := { c.flights.foldl landRow c with flights := [] }

/-- The rest of a pass asks for its grant afresh, and the part that has entered asks for its stop (R86, R242). -/
def stopPass (s : State) (t : Nat) : State :=
  let s := finishStep t 32 s
  match (s.tile t).ctx with
  | none => s
  | some c =>
    let s := match c.pass with
      | some p => if p.granted then s.endDraw t (p.start + (p.next - p.first) + 256) else s.dropRequests t true false
      | none => s
    s.modCtx t (fun c => landFlights { c with
      stopping := none
      pass := c.pass.map (fun p => { p with first := p.next, granted := false, start := 0, lists := none, bad := [] }) })

/-- A copy belongs to a context. -/
def copyOwned (s : State) (id ctx : Nat) : Bool := s.copies.any (fun k => k.id == id && copyOfCtx ctx k)

/-- A place lies in the share of the context on a tile. -/
def inShare (t : Nat) (p : Place) : Bool :=
  match p with
  | .scratch u off => u == t && decide (off < shareSize)
  | _ => false

/-- Stores of a context's committed blocks, and writes of its copies, that still wait at its own share are performed before
the share is saved (R77, R79); one that has to follow another write of the context that is still under way, at a far member say
(R226), goes to the image when that one is done. -/
def landReleased (s : State) (t ctx : Nat) : State :=
  let mine (e : Pend) : Bool := (match e.who with
    | .released u c => u == t && c == ctx
    | .landing id => copyOwned s id ctx
    | _ => false) && inShare t e.place
  let s := (s.pend.filter mine).foldl (fun s e =>
    if behindWrite s e then s
    else performWrite { s with pend := s.pend.filter (fun x => !(x.id == e.id)) } (some t) e.op e.place e.data e.dtag) s
  { s with reserved := s.reserved.filter (fun r => !(r.tile == t && r.ctx == ctx && inShare t r.place)) }

/-- Reads of a context's engine commands that wait on lines are made afresh after the resume (R78), and those of its copies at
its own share go on in the image. -/
def dropReads (s : State) (t ctx : Nat) : State :=
  { s with pend := s.pend.filter (fun e => match e.who, e.place with
      | .engine u c _, _ => !(u == t && c == ctx)
      | .copy id, .scratch u off => !(u == t && decide (off < shareSize) && copyOwned s id ctx)
      | _, _ => true) }

/-- What a context holds once it is saved (R77, R82, R376, R379). -/
def savedContext (c : Ctx) (blk : Word) : Ctx :=
  let c := { c with ev := false, rbSlot := 0, rbTag := 0 }
  match c.phase with
  | .running => { c with phase := .fetching, pc := blk, via := .any }
  | .loading | .fetching | .halted | .done | .ended => c

/-- Save the context of a tile in the tile's bank (R76 to R80): an event that its block has met counts as transient (R306). -/
def saveContext (s : State) (t : Nat) (bars : Vector Barrier 4) (discard : Bool) : State :=
  let blk := blockAddr s t
  let s := (abandon (stopPass s t) t).forgetFaults t
  match (s.tile t).ctx with
  | none => s
  | some c =>
    let s := dropReads (landReleased s t c.id) t c.id
    let (id, s) := s.fresh
    let x := s.tile t
    let im : Image := {
      id := id, ctx := savedContext c blk, mem := tslice x.mem 0 shareSize, lines := tslice x.lines 0 31744,
      gtags := tslice x.gtags 0 253952, tile := t, bank := some t, bars := bars, complete := false, discard := discard,
      valid := true, cause := 0, info0 := 0, info1 := 0, spot := none, reading := false, restored := false, kept := false }
    { s.modTile t (fun x => { x with ctx := none, fabric := Fabric.reset }) with images := s.images ++ [im] }

/-! ### SWITCH (R71, R75, R76) -/

/-- A tile runs a live context of a region. -/
def runsRegion (s : State) (l r t : Nat) : Bool :=
  match (s.tile t).ctx with
  | some c => c.launch == l && c.region == r && c.phase.live
  | none => false

/-- UNMAP the entries of a region on a tile that are READY or DONE. -/
def dropIdleEntries (s : State) (l r t : Nat) : State :=
  (List.range 8).foldl (fun s i =>
    let e := entryOf s t i
    if e.launch = l ∧ e.region = r then
      match e.st with
      | .ready => dropEntry s t i
      | .done =>
        (dropEntry s t i).modTile t (fun x => if x.running = some i then { x with ctx := none, running := none } else x)
      | .free | .running => s
    else s) s

/-- Pre-empt a region whose banks are free: its running contexts are saved; READY and DONE entries stay (R71). -/
def preemptRegion (s : State) (l : Nat) (r : Region) (discard : Bool) : State :=
  let tiles := r.nodes.map (·.2)
  let s := (tiles.filter (fun t => runsRegion s l r.region t)).foldl (fun s t => saveContext s t r.bars discard) s
  s.modRegion l r.region (fun x => { x with st := .preempted })

/-- The puppeteer pre-empts a region whose queue loses its slot or whose launch ends: SWITCH, and UNMAP for the entries that it
will not come back to (log 35). -/
def withdrawRegion (s : State) (l : Nat) (r : Region) (discard : Bool) : State :=
  (r.nodes.map (·.2)).foldl (fun s t => dropIdleEntries s l r.region t) (preemptRegion s l r discard)

/-- A bank of a tile of a region is occupied. -/
def banksBusy (s : State) (r : Region) : Bool := r.nodes.any (fun p => bankUsed s p.2)

/-- SWITCH (R71, R75, R76): a region that has converged steps on instead; a region with an occupied bank refuses. The region
operand is the launch's number times 64 plus the region's. -/
def execSwitch (stack region : Nat) (s : State) : Out :=
  let l := region / 64
  match s.regionOf l (region % 64) with
  | none => .next s
  | some r =>
    if r.st ≠ .started ∨ r.stack ≠ stack then .next s
    else if converged r then .next (converge s l r)
    else if banksBusy s r then .next (s.emit (.switchRefused stack region))
    else .next (preemptRegion s l r false)

/-! ### The image is complete, and drains (R80) -/

/-- The image in a tile's bank. -/
def bankImage (s : State) (t : Nat) : Option Image := s.images.find? (fun i => i.bank == some t)

/-- Change an image by its own number. -/
def State.modImageId (s : State) (id : Nat) (g : Image → Image) : State :=
  { s with images := s.images.map (fun i => if i.id == id then g i else i) }

/-- Writes that the context had released before it was saved are still to reach its image (R77). -/
def writesImage (s : State) (i : Image) : Bool :=
  s.pend.any (fun e => e.writing && (match imageOfWrite s e with
    | some k => k.1.id == i.id
    | none => false))

/-- SAVE_IMAGE_COMPLETE (R71, R80): once everything the image owes writes to has completed, the entry becomes FREE and the
image drains to a free place of the save pool; a discarded image leaves its bank at once. -/
def execSaveImageComplete (tile : Nat) (s : State) : Out :=
  match bankImage s tile with
  | none => .next s
  | some i =>
    if i.complete || owes s i.ctx.id || writesImage s i then .next s
    else
      let s := match (s.tile tile).running with
        | some e =>
          if (s.tile tile).ctx.isNone then (dropEntry s tile e).modTile tile (fun x => { x with running := none }) else s
        | none => s
      if i.discard then .next { s with images := s.images.filter (fun k => !(k.id == i.id)) }
      else
        match freeSpot s with
        | none => .next s
        | some n =>
          .next (sendService (s.modImageId i.id (fun k => { k with complete := true, spot := some n })) none i.ctx.id 0 0 [] (List.range 32))

/-- Every service leg of an image has alighted. -/
def serviceDone (s : State) (i : Image) : Bool := s.services.all (fun v => !(v.fill.isNone && v.image == i.ctx.id) || v.alighted)

/-- The service legs of an image are gone. -/
def dropService (s : State) (i : Image) : State :=
  { s with services := s.services.filter (fun v => !(v.fill.isNone && v.image == i.ctx.id)) }

/-- The puppeteer writes the save set of a pre-empted launch (R81, R181, R184): service legs carry it, as it stands, to the rings of its
rows. -/
def writeSaveSet (s : State) (l : Launch) : State :=
  let base := saveSetAddr l.tenant l.queue
  let rows := (base + 64 + 16 * l.nodes.length - 1) / 8192 - base / 8192 + 1
  sendService s none 0 l.id base (saveSetBytes s l) ((List.range (min 32 rows)).map (fun i => (base / 8192 + i) % 32))

/-- SAVE_BANK_FREE (R80): every leg of the drain has alighted; the save set names the image, where its launch goes on. An image that
was given up is gone. -/
def execSaveBankFree (tile : Nat) (s : State) : Out :=
  match bankImage s tile with
  | none => .next s
  | some i =>
    if i.discard && i.complete && serviceDone s i then
      .next (dropService { s with images := s.images.filter (fun k => !(k.id == i.id)) } i)
    else if i.complete && !i.reading && serviceDone s i then
      let s := dropService (s.modImageId i.id (fun k => { k with bank := none })) i
      .next (match launchOf s i.ctx.launch with
        | some l => writeSaveSet s l
        | none => s)
    else .next s

/-! ### The end of a launch (R48, R56, R83, R302) -/

/-- Give up the images of a launch, but for those that are kept: one that lies in the pool alone is gone at once, one in a bank once
it is complete and its service legs have ridden out their turn, in which they act (R166, R181, R188). -/
def discardImages (s : State) (l : Nat) : State :=
  let mine (i : Image) : Bool := i.ctx.launch == l && !i.kept
  let mark (i : Image) : Image := if mine i then { i with discard := true } else i
  { s with images := (s.images.filter (fun i => !(mine i && i.complete && serviceDone s i))).map mark }

/-- A context of a launch that ended unresolved leaves its tile (R302). -/
def clearEnded (s : State) (l t : Nat) : State :=
  match (s.tile t).ctx, (s.tile t).running with
  | some c, some i =>
    if c.launch = l ∧ c.phase = .ended then
      (dropEntry s t i).modTile t (fun x => { x with ctx := none, running := none, fabric := Fabric.reset })
    else s
  | _, _ => s

/-- End a region of a launch as far as its banks let it: its contexts are pre-empted and their images discarded, also while the
firmware is being changed (R48, R50, R56, log 33). -/
def endRegion (s : State) (l : Nat) (r : Region) : State :=
  let s := (r.nodes.map (·.2)).foldl (fun s t => clearEnded s l t) s
  match r.st with
  | .finished | .preempted => s
  | .waiting => (r.nodes.map (·.2)).foldl (fun s t => dropIdleEntries s l r.region t) s
  | .started => if banksBusy s r then s else withdrawRegion s l r true

/-- End a launch: it is gone once none of its regions runs (R56, R302), but for one with images that are kept (R83). A region
whose banks are occupied runs on till the puppeteer's next decision. -/
def endLaunch (s : State) (l : Nat) : State :=
  let s := s.modLaunch l (fun x => { x with ended := true })
  match launchOf s l with
  | none => s
  | some x =>
    let s := x.regions.foldl (fun s r => endRegion s l r) s
    match launchOf s l with
    | none => s
    | some x =>
      if x.regions.any (fun r => decide (r.st = .started)) then s
      else
        let s := discardImages s l
        if s.images.any (fun i => i.ctx.launch == l && i.kept) then s
        else { s with launches := s.launches.filter (fun y => !(y.id == l)) }

/-- The images of a launch that are kept are kept no longer (R55, R83). -/
def releaseKept (s : State) (l : Nat) : State :=
  { s with images := s.images.map (fun i => if i.ctx.launch = l then { i with kept := false } else i) }

/-! ### Resuming (R81, R83) -/

/-- A tile may hold a node of a region that resumes (R69, R81): unfenced, as its pair where locked, in the stack of the nodes
mapped from images already and used by none of them. -/
def mayPlace (s : State) (l : Launch) (r : Region) (t : Nat) : Bool :=
  let back (p : Nat × List Nat) : Bool := p.2.any (fun e => match (entryOf s p.1 e).source with
    | some (.image _) => decide ((entryOf s p.1 e).st = .ready)
    | _ => false)
  (openTiles s l.lock (t / 48)).contains t &&
  (r.seqs.filter back).all (fun p => decide (p.1 / 48 = t / 48) && decide (p.1 ≠ t))

/-- An invalid image is found at a resume (R83, R307): the launch ends as an unresolved trap with the fault's cause, and the other
images of the region are kept. -/
def refuseImage (s : State) (tile : Nat) (l : Launch) (i : Image) : State :=
  let s := s.modLaunch l.id (fun x => { x with ended := true })
  let keep (k : Image) : Image :=
    if k.ctx.launch = l.id ∧ k.ctx.region = i.ctx.region ∧ k.id ≠ i.id then { k with kept := true } else k
  { s with images := s.images.map keep }.emit (.unresolved tile i.cause i.info0 i.info1)

/-- CONTEXT_RESUME (R81, R83, R181): for a pre-empted region whose queue has a slot again, a read rider brings an image back
into the bank of the tile that the puppeteer chooses; once its legs have alighted the state is restored into the entry and MAP
is issued. An invalid image ends its launch. -/
def execContextResume (tile entry ctxId : Nat) (s : State) : Out :=
  match imageOf s ctxId with
  | none => .next s
  | some i =>
    match launchOf s i.ctx.launch, s.regionOf i.ctx.launch i.ctx.region with
    | some l, some r =>
      if !i.complete || i.restored || decide (r.st ≠ .preempted) || l.ended || !launchGoes s l then .next s
      else
        match i.bank with
        | none =>
          if i.reading || bankUsed s tile || !mayPlace s l r tile then .next s
          else .next (sendService (s.modImageId i.id (fun k => { k with reading := true, bank := some tile })) none ctxId 0 0 [] (List.range 32))
        | some t =>
          if t ≠ tile ∨ !i.reading ∨ !serviceDone s i then .next s
          else if !i.valid then .next (refuseImage (dropService s i) tile l i)
          else if mayPlace s l r tile then
            let s := dropService (s.modImageId i.id (fun k => { k with reading := false, bank := none })) i
            let s := (mapEntry s tile entry (.image ctxId)).modRegion l.id r.region (fun x =>
              if (x.seq tile).isEmpty then x
              else { x with
                stack := tile / 48, nodes := x.nodes.map (fun p => if p.1 = i.ctx.node then (p.1, tile) else p) })
            .next (s.modImageId i.id (fun k => { k with restored := (entryOf s tile entry).source == some (.image ctxId) }))
          else .next s
    | _, _ => .next s

end Sys2Proof.Machine
end

