-- ==== Sys2Proof/Machine/Queues.lean ====
section
/-! DEFINITION. Queues (R52 to R65): doorbells, status words, packets and their completion, priorities and the scheduling
decision. -/

namespace Sys2Proof.Machine

/-! ### Queues and their status words (R55, R65) -/

/-- An owned queue (R52). -/
def queueAt (s : State) (f q : Nat) : Option Queue := (queuesOf s f).find? (fun x => x.index == q)

/-- The code of a STATE (R55). -/
def stateCode (st : QState) : Nat :=
  match st with
  | .idle => 0
  | .waiting => 1
  | .mapped => 2
  | .blocked => 3
  | .preempted => 4
  | .error => 5
  | .refused => 6
  | .destroyed => 7

/-- The status word (R55). -/
def statusWord (q : Queue) : Word := BitVec.ofNat 64 (q.err * 2 ^ 40 + stateCode q.st * 2 ^ 32 + q.ridx.toNat)

/-- The device's own aligned 8-byte store of queue q's status word to a tenant's G address (R55): one that faults is dropped. A
store behind a reservation, or behind an earlier one that waits, waits, and one at a far member goes there. At an address that is not
8-byte aligned, as the STATADDR of a refused descriptor may be, nothing is written (R52, log 108). -/
def storeG (s : State) (f q : Nat) (addr v : Word) : State :=
  let put (s : State) (p : Place) : State :=
    let far := match p with
      | .league _ => true
      | _ => false
    let (id, s1) := s.fresh
    let e : Pend := { Pend.start s id (.status f q) (.store 8) p addr f 0 with data := v.setWidth 128 }
    if far || !canGo s e then submit s1 e else performWrite s none (.store 8) p (v.setWidth 128) false
  let here (s : State) (a : Nat) : State :=
    match translateAccess s f a .write with
    | (s, .error _) => s
    | (s, .ok p) => put s p
  if addr.toNat % 8 ≠ 0 ∨ 2 ^ 57 ≤ addr.toNat then s
  else if addr.toNat < 2 ^ 56 then here s addr.toNat
  else
    match leagueRoute s addr with
    | .outOfRange | .unreachable => s
    | .far _ _ => put s (.league addr)
    | .here => here s (addr.toNat % 2 ^ 45)

/-! ### The queue control block (R65) -/

/-- What a copy in the control block holds of a queue. -/
def controlCopy (q : Queue) : ControlCopy :=
  { st := q.st, slot := q.slot, effpri := q.effpri, err := q.err, ridx := q.ridx, wsince := q.wsince, savePtr := q.savePtr,
    layout := q.layout }

/-- The copy that SEL names. -/
def currentCopy (q : Queue) : ControlCopy := if q.sel then q.copyB else q.copyA

/-- Change a queue's state in the two steps of R65: the copy that SEL does not name is written, then SEL is stored, flipped,
with SEQ one greater. -/
def flipControl (q : Queue) : Queue :=
  let q := if q.sel then { q with copyA := controlCopy q } else { q with copyB := controlCopy q }
  { q with sel := !q.sel, seq := q.seq + 1 }

/-- The 64 bytes of a copy. -/
def copyBytes (q : Queue) (c : ControlCopy) : List Byte :=
  bytesOf 8 (stateCode c.st + 2 ^ 8 * c.slot.getD 0xFF + 2 ^ 16 * c.effpri + 2 ^ 24 * c.err) ++ bytesOf 8 c.ridx.toNat ++
  bytesOf 8 c.wsince ++ bytesOf 8 c.savePtr ++ bytesOf 8 c.layout ++ bytesOf 8 (q.index + 2 ^ 16 * q.tenant) ++
  List.replicate 16 0

/-- The 256 bytes of a queue's control block. -/
def controlBytes (q : Queue) : List Byte :=
  bytesOf 8 ((if q.sel then 1 else 0) + 2 * q.seq) ++ List.replicate 56 0 ++ copyBytes q q.copyA ++ copyBytes q q.copyB ++
  mbytes q.desc 0 64

/-- A queue's state after a watchdog reset (R65): that of the copy SEL names, but for the slot, where the hardware slot table wins
and the copy is rewritten. -/
def recoverQueue (q : Queue) : Queue :=
  let c := currentCopy q
  let x := { q with st := c.st, effpri := c.effpri, err := c.err, ridx := c.ridx, wsince := c.wsince, savePtr := c.savePtr,
                    layout := c.layout }
  if c.slot = q.slot then x else flipControl x

/-- Change a queue as the firmware does: a change of its state flips the copies of its control block (R65), and a change of
STATE, ERR or RIDX writes the status word (R55). -/
def updateQueue (s : State) (f q : Nat) (g : Queue → Queue) : State :=
  match queueAt s f q with
  | none => s
  | some old =>
    let new := g old
    let new := if controlCopy new = currentCopy old then new else flipControl new
    let s := s.modQueue f q (fun _ => new)
    if statusWord new = statusWord old then s else storeG s f q new.stat (statusWord new)

/-- The status word's code of a launch's layout (R39, R82). -/
def layoutVersion : Nat := 3

/-- A queue's launches that have not been given up. -/
def launchesOf (s : State) (q : Queue) : List Launch :=
  s.launches.filter (fun l => l.tenant == q.tenant && l.queue == q.index && !l.ended)

/-- A launch of a queue was pre-empted and has not completed (R56): a region of it, or, once its queue has lost its slot, whatever
of it has not finished (R64). -/
def isPreempted (q : Queue) (l : Launch) : Bool :=
  hasPreempted l || (q.slot.isNone && l.regions.any (fun r => decide (r.st ≠ .finished)))

/-- A launch runs on tiles. -/
def launchRuns (l : Launch) : Bool := l.regions.any (fun r => decide (r.st = .started))

/-- A packet's access to a mailbox word. -/
def accessOf (p : PacketRec) : Option Nat :=
  match p.work with
  | .wait id | .signal id => some id
  | .launch _ | .copy _ | .hint _ _ => none

/-- A started packet's access has been performed. -/
def packetPerformed (s : State) (p : PacketRec) : Bool :=
  match accessOf p with
  | some id => s.pend.any (fun e => e.id == id && e.got.isSome)
  | none => false

/-- A started packet blocks at its mailbox word (R61): a wait while the word is empty, a signal while it is full. A signal that only
a reservation of the empty word holds back does not count as blocked (R62, R363; log 110). -/
def packetBlocked (s : State) (p : PacketRec) : Bool :=
  match p.work with
  | .wait id => s.pend.any (fun e => e.id == id && e.got.isNone && !targetFull s e.place)
  | .signal id => s.pend.any (fun e => e.id == id && e.got.isNone && targetFull s e.place)
  | .launch _ | .copy _ | .hint _ _ => false

/-- The head packet of a queue blocks on a mailbox word (R62). -/
def headBlocked (s : State) (q : Queue) : Bool := q.started.any (fun p => decide (p.index = q.ridx) && packetBlocked s p)

/-- A queue is waiting (R56). -/
def isWaiting (s : State) (q : Queue) : Bool :=
  q.slot.isNone && decide (q.st ≠ .error) && decide (q.st ≠ .destroyed) &&
  ((decide (q.ridx ≠ q.last) && !headBlocked s q) || (launchesOf s q).any (isPreempted q))

/-- The STATE of a queue that is not in ERROR (R55, R62, R65). A blocked head comes first (R62); of a pre-empted launch and
unconsumed packets the launch decides, 4 before 1, for which the spec gives no order (log 82). -/
def queueState (s : State) (q : Queue) : QState :=
  if q.slot.isSome then (if headBlocked s q then .blocked else .mapped)
  else if headBlocked s q then .blocked
  else if (launchesOf s q).any (isPreempted q) then .preempted
  else if q.ridx = q.last then .idle
  else .waiting

/-- The pre-empted launch of a queue that has a save set (R65, R81): the first, where two of its launches are pre-empted (log 97). -/
def savedLaunch (s : State) (q : Queue) : Option Launch := (launchesOf s q).find? hasPreempted

/-- The pre-empted launch's save set of a queue (R65, R81). -/
def saveSet (s : State) (q : Queue) : Nat := if (savedLaunch s q).isSome then saveSetAddr q.tenant q.index else 0

/-- Bring a queue's STATE, SAVEPTR, LAYOUT and w up to date (R63, R65, R81): of a queue in ERROR, whose launches run on and may be
pre-empted (R55), all but STATE. -/
def refreshQueue (s : State) (f q : Nat) : State :=
  match queueAt s f q with
  | none => s
  | some x =>
    let waits := isWaiting s x
    let ptr := saveSet s x
    let s := match savedLaunch s x with
      | some l => if x.savePtr = 0 then writeSaveSet s l else s
      | none => s
    updateQueue s f q (fun x => { x with
        st := if x.st = .error then x.st else queueState s x, wsince := if waits && !x.waits then s.now else x.wsince, waits := waits
        savePtr := ptr, layout := if ptr = 0 then 0 else layoutVersion })

/-- Forget the accesses of packets that wait at their words (R55, R56). -/
def dropAccesses (s : State) (ps : List PacketRec) : State :=
  { s with pend := s.pend.filter (fun e => !(ps.filterMap accessOf).contains e.id) }

/-- Signal a queue's vector (R60), after its status word (R232). -/
def signalQueue (s : State) (q : Queue) : State :=
  if q.msiv = 0 then s
  else if s.pend.any (fun e => e.who == .status q.tenant q.index) then
    { s with signals := s.signals ++ [(q.tenant, q.index, q.msiv)] }
  else signalMsix s q.tenant q.msiv

/-- A packet completes (R60): its interrupt, and a decision (R64). -/
def packetDone (s : State) (q : Queue) (irq : Bool) : State := demandDecision (if irq then signalQueue s q else s)

/-- A queue enters ERROR (R55, R60): its blocked access is dropped, a head packet whose access has been performed completes,
and RIDX names the packet at fault where one is. The status word comes before the interrupts (R232). -/
def queueError (s : State) (f q code : Nat) (index : Option (BitVec 32)) : State :=
  match queueAt s f q with
  | none => s
  | some x =>
    if x.st = .error then s
    else
      let head (p : PacketRec) : Bool := (accessOf p).isSome && decide (p.index = x.ridx)
      let heads := x.started.filter head
      let performed := heads.filter (packetPerformed s)
      let next := if performed.isEmpty then x.ridx else x.ridx + 1
      let s := updateQueue (dropAccesses s heads) f q (fun x => { x with
        st := .error, err := code, ridx := index.getD next, started := x.started.filter (fun p => !head p), pending := false
        waits := false })
      signalQueue (performed.foldl (fun s p => packetDone s x p.irq) s) x

/-! ### Doorbells (R52 to R56) -/

/-- The device takes work from its functions (R34, R49): firmware runs, or is being changed. -/
def takesWork (s : State) : Bool := decide (s.ctl.pup = .running) || decide (s.ctl.pup = .activating)

/-- The hardware slots fetch and perform packets: as long as work is taken, and after a failed re-check too, which stops new
launches alone (R45). -/
def slotsRun (s : State) : Bool := takesWork s || (s.ctl.barred && decide (s.ctl.pup = .failed))

/-- Tenant regions are mapped (R49): from RUNNING on, and not in FAILED. -/
def regionsMapped (s : State) : Bool :=
  s.ctl.served &&
  (match s.ctl.pup with
    | .running | .tripped | .activating => true
    | .reset | .bootrom | .bringup | .failed => false)

/-- The offset in BAR0 of a function's tenant region (R38). -/
def regionBase (f : Nat) : Nat := if f = 0 then 0x400000 else 0

/-- A doorbell write to an index that its tenant does not own is a violation (R42, R52), but for one made while the function is
being reset, which is discarded (R48). -/
def ownedDoorbell (s : State) (f q : Nat) (k : Queue → State) : State :=
  if !regionsMapped s ∨ 16 ≤ f ∨ 4096 ≤ q ∨ (s.tenant f).resetting then s
  else
    match queueAt s f q with
    | none => logViolation s f 4 (BitVec.ofNat 64 (regionBase f + 0x10000 + 8 * q)) 0
    | some x => if takesWork s then k x else s

/-- A kick (R54, R56): in ERROR too it moves L, and tells the matcher where the queue has no slot. -/
def kick (s : State) (f q : Nat) (w : BitVec 32) : State :=
  ownedDoorbell s f q (fun x =>
    if 2 ^ x.log2n < (w - x.ridx).toNat ∨ 2 ^ x.log2n < (w - x.last).toNat then queueError s f q 2 none
    else if w = x.last then s
    else
      let s := s.modQueue f q (fun x => { x with last := w })
      if x.slot.isSome then s
      else
        let s := s.modQueue f q (fun x => { x with pending := true })
        refreshQueue (demandDecision (raise s .kick (kickKey f q))) f q)

/-- DOORBELL_KICK (R54, R56). -/
def execDoorbellKick (f q : Nat) (w : BitVec 32) (s : State) : Out := .next (kick s f q w)

/-- The copy of a queue that has just been created. -/
def newCopy (effpri : Nat) : ControlCopy :=
  { st := .idle, slot := none, effpri := effpri, err := 0, ridx := 0, wsince := 0, savePtr := 0, layout := 0 }

/-- A queue of a descriptor (R53); none where the descriptor breaks a rule. -/
def queueOfDesc (f q : Nat) (m : Memory) : Option Queue :=
  let ring := memWord m 0
  let w := memWord m 8
  let stat := memWord m 16
  let log2n := (w.extractLsb' 0 5).toNat
  if ring.toNat % 64 = 0 ∧ stat.toNat % 8 = 0 ∧ w &&& ~~~0x013F071F#64 = 0 ∧ 4 ≤ log2n ∧ log2n ≤ 16 ∧ tslice m 24 64 = [] then
    some {
      tenant := f, index := q, ring := ring, log2n := log2n, pri := (w.extractLsb' 8 3).toNat
      msiv := (w.extractLsb' 16 6).toNat, lock := w.getLsbD 24, stat := stat, last := 0, pending := false, ridx := 0
      st := .idle, err := 0, slot := none, wsince := 0, mappedAt := 0, started := [], seq := 0
      effpri := (w.extractLsb' 8 3).toNat, savePtr := 0, layout := 0, waits := false, desc := m, sel := false
      copyA := newCopy (w.extractLsb' 8 3).toNat, copyB := newCopy 0 }
  else none

/-- DOORBELL_CREATE (R52, R53): the descriptor is read, and the index is owned or the creation is refused; a descriptor that
cannot be read leaves nothing, and one that has to wait for a line or a far member is taken up again at the puppeteer's next
decision. -/
def createQueue (s : State) (f q desc : Nat) : State :=
  if !takesWork s ∨ 16 ≤ f ∨ 4096 ≤ q ∨ (s.tenant f).resetting then s
  else
    match readG s f desc 64 with
    | (s, .waits) => { s with creating := s.creating ++ [(f, q, desc)] }
    | (s, .fails _ _ _) => s
    | (s, .data m) =>
      let full := decide ((s.tenant f).qmax.toNat ≤ (queuesOf s f).length) ||
        decide (4096 ≤ (s.queues.filter (fun x => decide (x.st ≠ .destroyed))).length)
      match queueOfDesc f q m with
      | some x =>
        if (queueAt s f q).isSome || full then storeG s f q x.stat (BitVec.ofNat 64 (6 * 2 ^ 32))
        else storeG { s with queues := s.queues ++ [x] } f q x.stat (statusWord x)
      | none => storeG s f q (memWord m 16) (BitVec.ofNat 64 (6 * 2 ^ 32))

/-- Creations that have been waiting are taken up again. -/
def retryCreates (s : State) : State :=
  s.creating.foldl (fun s c => createQueue s c.1 c.2.1 c.2.2) { s with creating := [] }

/-- DOORBELL_CREATE (R52, R53). -/
def execDoorbellCreate (f q : Nat) (desc : Nat) (s : State) : Out := .next (createQueue s f q desc)

/-- A packet runs on after its queue is destroyed (R56): a copy or a hint. -/
def outlives (p : PacketRec) : Bool :=
  match p.work with
  | .copy _ | .hint _ _ => true
  | .launch _ | .wait _ | .signal _ => false

/-- A started launch is done (R57, R70): every region has converged and no signal is left to make. -/
def launchDone (s : State) (p : PacketRec) : Bool :=
  match p.work with
  | .launch id =>
    (match launchOf s id with
      | some l => !l.ended && l.signal.isNone && l.regions.all (fun r => decide (r.st = .finished))
      | none => false)
  | .copy _ | .hint _ _ | .wait _ | .signal _ => false

/-- The launch of a queue that a packet made. -/
def packetLaunch (s : State) (q : Queue) (p : PacketRec) : Option Launch :=
  (launchesOf s q).find? (fun l => decide (l.index = p.index))

/-- Destroy a queue (R56): its slot is free, its launches are ended, blocked and unconsumed packets are discarded, STATE 7 is
written, and the index is free. Copies and hints that have started complete, and so does a launch that is done, and a wait or
signal whose access has been performed, which the status word counts where it is the head (R55, R57, R60); a launch's completion
goes to the matcher (R46), and the interrupts follow the status word (R232). The status word's ERR is 0, for a queue in ERROR
too, of which the spec says nothing (log 83). -/
def destroyQueue (s : State) (x : Queue) : State :=
  let done := x.started.filter (fun p => packetPerformed s p || launchDone s p)
  let graphs := done.filterMap (packetLaunch s x)
  let consumed := done.any (fun p => (accessOf p).isSome && decide (p.index = x.ridx))
  let s := dropAccesses s x.started
  let mine := s.launches.filter (fun l => l.tenant == x.tenant && l.queue == x.index)
  let s := mine.foldl (fun s l => endLaunch (releaseKept s l.id) l.id) s
  let s := s.modQueue x.tenant x.index (fun y => { y with slot := none, started := y.started.filter outlives })
  let s := updateQueue s x.tenant x.index (fun y => { y with
    st := .destroyed, err := 0, ridx := if consumed then y.ridx + 1 else y.ridx })
  let s := graphs.foldl (fun s l => raise s .graphDone l.id) s
  let s := done.foldl (fun s p => packetDone s x p.irq) s
  { s with queues := s.queues.filter (fun y => !(decide (y.st = .destroyed) && y.started.isEmpty)) }

/-- DOORBELL_DESTROY (R56). -/
def execDoorbellDestroy (f q : Nat) (s : State) : Out := .next (ownedDoorbell s f q (destroyQueue s))

/-- DOORBELL_RESERVED (R52): the queue enters ERROR with code 0x05. -/
def execDoorbellReserved (f q : Nat) (s : State) : Out := .next (ownedDoorbell s f q (fun _ => queueError s f q 5 none))

/-- A doorbell's 8-byte write (R52): its zero fields must be zero, or it counts as a reserved OP. -/
def doorbellWrite (s : State) (f q : Nat) (v : Word) : State :=
  let reserved := ownedDoorbell s f q (fun _ => queueError s f q 5 none)
  match (v.extractLsb' 62 2).toNat with
  | 0 => if v.extractLsb' 32 30 = 0 then kick s f q (v.extractLsb' 0 32) else reserved
  | 1 => if v.extractLsb' 57 5 = 0 ∧ v.extractLsb' 0 6 = 0 then createQueue s f q (v.toNat % 2 ^ 57) else reserved
  | 2 => if v.extractLsb' 0 62 = 0 then ownedDoorbell s f q (destroyQueue s) else reserved
  | _ => reserved

/-! ### Packets (R57, R58) -/

/-- A packet's TYPE with its words. -/
inductive PacketKind where
  | launch (desc : Word) (signal : Option (Nat × Word))
  | copy (src dst : Word) (len : Nat) (zstd : Bool)
  | hint (va len : Nat) (rel : Bool)
  | signal (m : Nat) (v : Word)
  | wait (m : Nat)
  | fence
  | malformed
  deriving DecidableEq, Repr

/-- The packet of 64 bytes (R57, R58). -/
def packetKind (m : Memory) : PacketKind :=
  let w (i : Nat) : Word := memWord m (8 * i)
  let rest (i : Nat) : Bool := decide (tslice m (8 * i) 64 = [])
  let mbox (i : Nat) : Nat := ((w i).extractLsb' 0 10).toNat
  if (w 0).extractLsb' 9 55 ≠ 0 then .malformed
  else
    match ((w 0).extractLsb' 0 8).toNat with
    | 1 =>
      if (w 1).toNat % 64 = 0 ∧ w 2 &&& ~~~0x83FF#64 = 0 ∧ rest 4 then
        .launch (w 1) (if (w 2).getLsbD 15 then some (mbox 2, w 3) else none)
      else .malformed
    | 2 =>
      if (w 3).extractLsb' 41 23 = 0 ∧ rest 4 then .copy (w 1) (w 2) ((w 3).extractLsb' 0 40).toNat ((w 3).getLsbD 40)
      else .malformed
    | 3 =>
      if (w 1).toNat % 65536 = 0 ∧ (w 2).extractLsb' 41 23 = 0 ∧ (w 2).toNat % 65536 = 0 ∧ rest 3 then
        .hint (w 1).toNat ((w 2).extractLsb' 0 40).toNat ((w 2).getLsbD 40)
      else .malformed
    | 4 => if (w 1).extractLsb' 10 54 = 0 ∧ rest 3 then .signal (mbox 1) (w 2) else .malformed
    | 5 => if (w 1).extractLsb' 10 54 = 0 ∧ rest 2 then .wait (mbox 1) else .malformed
    | 6 => if rest 1 then .fence else .malformed
    | _ => .malformed

/-- IRQ of a packet. -/
def packetIrq (m : Memory) : Bool := (memWord m 0).getLsbD 8

/-- Work on the head packet of the queue in a slot (R54, R57, R59), where no wait or signal there is under way: it is fetched, and one that cannot be fetched puts the queue
in ERROR. -/
def withPacket (s : State) (slot : Nat) (k : Queue → Memory → State → State) : State :=
  match s.queues.find? (fun q => q.slot == some slot && decide (q.st ≠ .destroyed)) with
  | none => s
  | some q =>
    if !slotsRun s || decide (q.st = .error) || decide (q.ridx = q.last) ||
        q.started.any (fun p => (accessOf p).isSome && decide (p.index = q.ridx)) then s
    else
      match readG s q.tenant ((q.ring.toNat + 64 * (q.ridx.toNat % 2 ^ q.log2n)) % 2 ^ 64) 64 with
      | (s, .waits) => s
      | (s, .fails _ _ _) => queueError s q.tenant q.index 3 (some q.ridx)
      | (s, .data m) => k q m s

/-- The head packet starts, or is performed, and is consumed (R55, R59): `started` is what runs on. -/
def consume (s : State) (q : Queue) (work : Option PacketRec) : State :=
  refreshQueue (updateQueue s q.tenant q.index (fun x => { x with
    ridx := x.ridx + 1, started := x.started ++ work.toList })) q.tenant q.index

/-- PACKET_LAUNCH (R57, R66 to R69): no new launch is made after a failed re-check (R45). -/
def execPacketLaunch (slot : Nat) (s : State) : Out :=
  .next (withPacket s slot (fun q m s =>
    match packetKind m with
    | .launch desc signal =>
      if s.ctl.barred then s
      else
      match beginLaunch s q q.ridx desc signal with
      | (s, .waits) => s
      | (s, .error code) => queueError s q.tenant q.index code (some q.ridx)
      | (s, .begun id) => consume s q (some { index := q.ridx, irq := packetIrq m, work := .launch id })
    | _ => s))

/-- The copy of a copy packet (R57, R212): G to G under the tenant's ASID. -/
def packetCopyOf (id : Nat) (q : Queue) (src dst : Word) (len : Nat) (zstd : Bool) : Copy :=
  { id := id, inst := 0, owner := .packet q.tenant q.index q.ridx, tenant := q.tenant, kind := if zstd then .cpyz else .cpy
    src := { global := true, base := src.toNat, rlen := if zstd then 2 ^ 57 else len, stride := 0 }
    dst := { global := true, base := dst.toNat, rlen := len, stride := 0 }
    total := len, pattern := 0, cmpl := 0, cmplOff := 0, trap := false, follow := none, blk := 0, slot := 0, tag := 0
    landed := 0, pages := [], input := [], output := none, stop := none, foin := false }

/-- PACKET_COPY (R57, R145, R214): the copy starts and sets its destination lines empty; one of no bytes completes at once. -/
def execPacketCopy (slot : Nat) (s : State) : Out :=
  .next (withPacket s slot (fun q m s =>
    match packetKind m with
    | .copy src dst len zstd =>
      if len = 0 then packetDone (consume s q none) q (packetIrq m)
      else
        let (id, s) := s.fresh
        consume (openPages { s with copies := s.copies ++ [packetCopyOf id q src dst len zstd] } id) q
          (some { index := q.ridx, irq := packetIrq m, work := .copy id })
    | _ => s))

/-- PACKET_HINT (R57, R182): REL = 0 asks for every page of the range that is not resident, REL = 1 marks the resident ones
releasable. A 64 KiB sweep leaf whose frame a leg could not use (R199) is a faulting address (R58, log 109). -/
def execPacketHint (slot : Nat) (s : State) : Out :=
  .next (withPacket s slot (fun q m s =>
    match packetKind m with
    | .hint va len rel =>
      let rows := (List.range (len / 65536)).map (fun i => va + 65536 * i)
      let leaves := rows.map (fun a => sweepLeaf s q.tenant (a % 2 ^ 64))
      let bad := leaves.any (fun l => match l with
        | .bad => true
        | .resident _ | .absent _ => false)
      let held := leaves.filterMap (fun l => match l with
        | .resident f => some f
        | .bad | .absent _ => none)
      let wants := (leaves.filterMap (fun l => match l with
        | .absent w => some w
        | .bad | .resident _ => none)).eraseDups
      if bad || decide (2 ^ 57 < va + len) then queueError s q.tenant q.index 3 (some q.ridx)
      else
        let s := markFrames s held rel
        if rel || wants.isEmpty then packetDone (consume s q none) q (packetIrq m)
        else consume s q (some { index := q.ridx, irq := packetIrq m, work := .hint wants false })
    | _ => s))

/-- A queue's access to one of its tenant's mailbox words (R59, R61, R62): a signal is a release at system scope, a wait an
acquire. -/
def mailboxAccess (s : State) (q : Queue) (m : Nat) (op : MemOp) (v : Word) : Nat × State :=
  let (id, s) := s.fresh
  (id, submit s { Pend.start s id (.packet (kickKey q.tenant q.index)) op (.mailbox q.tenant m) 0 q.tenant id with
                  data := v.setWidth 128, rel := opReleases op, scope := 3 })

/-- Start the head packet without consuming it. -/
def startHead (s : State) (q : Queue) (irq : Bool) (work : PacketWork) : State :=
  refreshQueue (s.modQueue q.tenant q.index (fun x => { x with
    started := x.started ++ [{ index := q.ridx, irq := irq, work := work }] })) q.tenant q.index

/-- PACKET_SIGNAL (R59, R61): once every earlier packet has completed, its store goes to the word. -/
def execPacketSignal (slot : Nat) (s : State) : Out :=
  .next (withPacket s slot (fun q m s =>
    match packetKind m with
    | .signal n v =>
      if !q.started.isEmpty then s
      else
        let (id, s) := mailboxAccess s q n (.stfw 8) v
        startHead s q (packetIrq m) (.signal id)
    | _ => s))

/-- PACKET_WAIT (R59, R61): its take goes to the word. -/
def execPacketWait (slot : Nat) (s : State) : Out :=
  .next (withPacket s slot (fun q m s =>
    match packetKind m with
    | .wait n =>
      let (id, s) := mailboxAccess s q n (.lde 8) 0
      startHead s q (packetIrq m) (.wait id)
    | _ => s))

/-- PACKET_QUEUE_FENCE (R59): it completes once every earlier packet has. -/
def execPacketQueueFence (slot : Nat) (s : State) : Out :=
  .next (withPacket s slot (fun q m s =>
    match packetKind m with
    | .fence => if q.started.isEmpty then packetDone (consume s q none) q (packetIrq m) else s
    | _ => s))

/-- PACKET_MALFORMED (R58). -/
def execPacketMalformed (slot : Nat) (s : State) : Out :=
  .next (withPacket s slot (fun q m s =>
    match packetKind m with
    | .malformed => queueError s q.tenant q.index 1 (some q.ridx)
    | _ => s))

/-! ### Completion (R57, R59, R60) -/

/-- The queue that has a packet started, destroyed ones last. -/
def startedQueue (s : State) (f q : Nat) (i : BitVec 32) : Option (Queue × PacketRec) :=
  let hits := (s.queues.filter (fun x => x.tenant == f && x.index == q)).filterMap (fun x =>
    (x.started.find? (fun p => decide (p.index = i))).map (fun p => (x, p)))
  match hits.find? (fun h => decide (h.1.st ≠ .destroyed)) with
  | some h => some h
  | none => hits.head?

/-- Take a packet out of those its queue has started. A destroyed queue goes with its last one. -/
def unstart (s : State) (q : Queue) (i : BitVec 32) : State :=
  let drop (x : Queue) : Queue := { x with started := x.started.filter (fun p => decide (p.index ≠ i)) }
  let dead (x : Queue) : Bool := decide (x.st = .destroyed)
  { s with queues := (s.queues.map (fun x =>
      if x.tenant = q.tenant ∧ x.index = q.index ∧ dead x = dead q then drop x else x)).filter (fun x => !(dead x && x.started.isEmpty)) }

/-- A packet that has started completes (R60), its interrupt after the status word of the change it brings (R232); of a queue that is destroyed only its interrupt is left (R56). -/
def endPacket (s : State) (q : Queue) (p : PacketRec) (failed : Bool) : State :=
  let s := unstart s q p.index
  if q.st = .destroyed then (if failed then s else packetDone s q p.irq)
  else if failed then queueError s q.tenant q.index 3 (some p.index)
  else packetDone (refreshQueue s q.tenant q.index) q p.irq

/-- A launch's packet completes (R57, R70): after its signal, which waits for every earlier packet of the queue; the completion
event goes to the matcher (R46). -/
def endLaunchPacket (s : State) (q : Queue) (p : PacketRec) (l : Launch) : State :=
  if !l.regions.all (fun r => decide (r.st = .finished)) || l.ended then s
  else
    match l.signal with
    | some (m, v) =>
      if (q.started.head?.map (fun x => x.index)) ≠ some p.index then s
      else
        let (id, s) := mailboxAccess s q m (.stfw 8) v
        let s := s.modLaunch l.id (fun x => { x with signal := none })
        s.modQueue q.tenant q.index (fun x => { x with
          started := { p with work := .signal id } :: x.started.tail })
    | none => endPacket (raise { s with launches := s.launches.filter (fun y => !(y.id == l.id)) } .graphDone l.id) q p false

/-- A wait or signal whose access has been performed completes; the head packet is consumed (R55). A launch's own signal ends
its launch. -/
def endAccess (s : State) (q : Queue) (p : PacketRec) (id : Nat) : State :=
  let forget (s : State) : State := { s with pend := s.pend.filter (fun e => !(e.id == id)) }
  if !s.pend.any (fun e => e.id == id && e.got.isSome) then s
  else if p.index = q.ridx then
    let s := updateQueue (unstart (forget s) q p.index) q.tenant q.index (fun x => { x with ridx := x.ridx + 1 })
    packetDone (refreshQueue s q.tenant q.index) q p.irq
  else
    match packetLaunch s q p with
    | none => endPacket (forget s) q p false
    | some l =>
      endPacket (raise { forget s with launches := s.launches.filter (fun y => !(y.id == l.id)) } .graphDone l.id) q p false

/-- PACKET_COMPLETE (R57 to R60, R217, R219): a started packet whose work is done. -/
def execPacketComplete (f q index : Nat) (s : State) : Out :=
  match startedQueue s f q (BitVec.ofNat 32 index) with
  | none => .next s
  | some (x, p) =>
    match p.work with
    | .launch id =>
      match launchOf s id with
      | none => .next s
      | some l => .next (endLaunchPacket s x p l)
    | .copy id =>
      match s.copies.find? (fun c => c.id == id) with
      | none => .next s
      | some c =>
        let s1 := { dropFar s id with copies := s.copies.filter (fun k => !(k.id == id)) }
        if landingYet s c then .next s
        else if c.stop.isSome then .next (endPacket s1 x p true)
        else if copyLanded s c then .next (endPacket s1 x p false)
        else .next s
    | .hint pages failed => if pages.isEmpty then .next (endPacket s x p failed) else .next s
    | .wait id | .signal id => .next (endAccess s x p id)

/-! ### The scheduling decision (R55, R56, R63, R64, R302) -/

/-- 2 ms, in ns. -/
def twoMs : Nat := 2000000

/-- Effective priority (R63): a waiting queue ages up to its tenant's ceiling; one whose head is blocked does not. -/
def effectivePriority (s : State) (q : Queue) : Nat :=
  if isWaiting s q && !headBlocked s q then
    max q.pri (min (s.tenant q.tenant).ceil.toNat (q.pri + (s.now - q.wsince) / twoMs))
  else q.pri

/-- A started packet of a queue runs (R55, R64): a pre-empted launch does not. -/
def packetRuns (s : State) (p : PacketRec) : Bool :=
  match p.work with
  | .launch id =>
    match launchOf s id with
    | some l => !l.ended && (launchRuns l || !hasPreempted l)
    | none => false
  | .copy _ | .hint _ _ | .wait _ | .signal _ => true

/-- A started packet of a mapped queue runs, a pre-empted launch that is to resume among them: a queue that has just been
mapped again for one is not displaced at once (R64 and its worked example). -/
def packetWorks (s : State) (q : Queue) (p : PacketRec) : Bool :=
  packetRuns s p || (decide (q.st ≠ .error) && (match p.work with
    | .launch id => match launchOf s id with
      | some l => !l.ended
      | none => false
    | .copy _ | .hint _ _ | .wait _ | .signal _ => true))

/-- A mapped queue may be displaced (R64). -/
def displaceable (s : State) (q : Queue) : Bool :=
  decide (twoMs ≤ s.now - q.mappedAt) || headBlocked s q ||
  (!(decide (q.ridx ≠ q.last) && decide (q.st ≠ .error)) && !q.started.any (packetWorks s q))

/-- Give a queue a slot (R56, R64). -/
def mapQueue (s : State) (q : Queue) (slot : Nat) : State :=
  refreshQueue (updateQueue s q.tenant q.index (fun x => { x with
    slot := some slot, pending := false, mappedAt := s.now })) q.tenant q.index

/-- New pre-emptions are made: not while the firmware is being changed (R50). Those of a destroy and of a function-level reset do not
ask (log 33). -/
def mayPreempt (s : State) : Bool := decide (s.ctl.pup ≠ .activating)

/-- Pre-empt the running regions of a launch whose banks are free (R64, R75, R80). -/
def preemptLaunch (s : State) (l : Launch) : State :=
  l.regions.foldl (fun s r =>
    if r.st ≠ .started then s
    else if converged r then converge s l.id r
    else if banksBusy s r then s
    else withdrawRegion s l.id r false) s

/-- Take a queue's slot (R64): its running launches are pre-empted. -/
def displaceQueue (s : State) (q : Queue) : State :=
  let s := (launchesOf s q).foldl preemptLaunch s
  refreshQueue (updateQueue s q.tenant q.index (fun x => { x with slot := none })) q.tenant q.index

/-- The free slot that a waiting queue takes (R64): of several the lowest-numbered, for which the spec gives no order (log 84). -/
def freeSlot (s : State) : Option Nat := (List.range 64).find? (fun i => !s.queues.any (fun q => q.slot == some i))

/-- The mapped queue that gives up its slot first (R64): the lowest priority, then the greatest tenant and index. -/
def victim (s : State) : Option Queue :=
  let ms := s.queues.filter (fun q => q.slot.isSome && displaceable s q && (mayPreempt s || !(launchesOf s q).any launchRuns))
  (sortBy (fun q => q.pri * 65536 + (65535 - kickKeyOrder q)) ms).head?
where
  /-- Tenant and index as one number below 65,536. -/
  kickKeyOrder (q : Queue) : Nat := 4096 * q.tenant + q.index

/-- A waiting queue takes a slot where it can (R64). -/
def schedule (s : State) (q : Queue) : State :=
  match freeSlot s with
  | some i => mapQueue s q i
  | none =>
    match victim s with
    | none => s
    | some v =>
      match v.slot with
      | none => s
      | some i => if v.pri < effectivePriority s q then mapQueue (displaceQueue s v) q i else s

/-- Waiting queues in the order in which a decision takes them (R64). -/
def waitingOrder (s : State) : List Queue :=
  let ws := s.queues.filter (isWaiting s)
  sortBy (fun q => 7 - effectivePriority s q) (sortBy (fun q => q.wsince) (sortBy (fun q => 4096 * q.tenant + q.index) ws))

/-- End the launches of which a context ended unresolved (R70, R302): the queue enters ERROR at the launch packet. -/
def endUnresolvedLaunches (s : State) : State :=
  (s.launches.filter (fun l => l.ended)).foldl (fun s l =>
    let s := match queueAt s l.tenant l.queue with
      | some q =>
        if q.started.any (fun p => decide (p.work = .launch l.id)) then
          queueError (s.modQueue l.tenant l.queue (fun x => { x with
            started := x.started.filter (fun p => decide (p.work ≠ .launch l.id)) })) l.tenant l.queue 4 (some l.index)
        else s
      | none => s
    endLaunch s l.id) s

/-- Take the slots of ERROR queues of which nothing runs (R55), and pre-empt what runs on of queues without a slot. -/
def settleQueues (s : State) : State :=
  let s := s.queues.foldl (fun s q =>
    if q.st = .error ∧ q.slot.isSome ∧ !q.started.any (packetRuns s) then
      updateQueue s q.tenant q.index (fun x => { x with slot := none })
    else refreshQueue s q.tenant q.index) s
  s.launches.foldl (fun s l =>
    let mapped := match queueAt s l.tenant l.queue with
      | some q => q.slot.isSome
      | none => false
    if l.ended || mapped || !mayPreempt s then s else preemptLaunch s l) s

/-- Something of a function is left that its function-level reset waits for (R48): a context, an image to discard, or a launch. -/
def resetWaits (s : State) (f : Nat) : Bool :=
  tenantHasEntry s f || s.images.any (fun i => i.ctx.tenant == f && i.discard) || s.launches.any (fun l => l.tenant == f)

/-- A function-level reset is over once nothing is left that it waits for (R48): what a context that ran on in the meantime has put
into the function's mailbox words is gone with it (R61), and accesses that wait at them may act. -/
def settleResets (s : State) : State :=
  let done (f : Nat) : Bool := (s.tenant f).resetting && !resetWaits s f
  if (List.range 16).any done then
    wake { s with tenants := Vector.ofFn (fun f : Fin 16 =>
      let x := s.tenant f.val
      if done f.val then { x with resetting := false, mbox := [], mfull := [] } else x) }
  else s

/-- The puppeteer's decision (R64). While the firmware is being changed no context is pre-empted anew (R50). -/
def decideQueues (s : State) : State :=
  let s := retryCreates s
  let s := settleQueues (if mayPreempt s then endUnresolvedLaunches s else s)
  let s := (waitingOrder s).foldl (fun s q => match queueAt s q.tenant q.index with
    | some x => if isWaiting s x then schedule s x else s
    | none => s) s
  let s := s.queues.foldl (fun s q => updateQueue s q.tenant q.index (fun x => { x with effpri := effectivePriority s x })) s
  settleResets s

/-- SCHEDULING_DECISION (R64). -/
def execSchedulingDecision (s : State) : Out := .next (if takesWork s then decideQueues s else s)

/-- PUPPETEER_TIMER_TICK (R39, R64): the heartbeat and a decision, every 1 ms while firmware runs. -/
def execPuppeteerTimerTick (s : State) : Out :=
  let beats := takesWork s || decide (s.ctl.pup = .bringup)
  let s := if beats then s.modCtl (fun c => { c with hbeat := c.hbeat + 1 }) else s
  .next (if takesWork s then decideQueues s else s)

end Sys2Proof.Machine
end

