-- ==== Sys2Proof/Machine/Faults.lean ====
section
/-! DEFINITION. Internal faults of a tile (R83, R305 to R309): rollback, the lasting fault that ends a context and fences its
tile, and where the nodes of a fenced tile go (R69); and mapping, which a block-cache failure makes a fault (R96). -/

namespace Sys2Proof.Machine

/-- Take a tile out of service (R39, R306). -/
def fenceTile (s : State) (tile : Nat) : State :=
  if fenced s tile then s
  else s.modCtl (fun k => { k with tfence := k.tfence ||| (1#192 <<< tile), tserv := k.tserv - 1 })

/-- The tile whose context's image is still being written, where that is this tile or, of a locked pair, the leading one of it (R83:
steps 1 to 5 of SWITCH, log 25). -/
def savingTile (s : State) (tile : Nat) : Option Nat :=
  let saves (t : Nat) (pair : Bool) : Bool := (s.tile t).ctx.isNone &&
    (match bankImage s t with
      | some i => !i.complete && (!pair || i.ctx.lock)
      | none => false)
  if saves tile false then some tile
  else if tile % 2 = 1 ∧ (s.tile tile).ctx.isNone ∧ saves (tile - 1) true then some (tile - 1) else none

/-- A tile's image is invalid (R83, R307), one still being written or any in its bank, for a fault with this cause and these
information registers. -/
def spoilImage (s : State) (tile cause : Nat) (i0 i1 : Word) (all : Bool) : State :=
  { s with images := s.images.map (fun i =>
      if i.bank = some tile ∧ (all ∨ !i.complete) then { i with valid := false, cause := cause, info0 := i0, info1 := i1 } else i) }

/-- The information registers of a lasting fault: while the data image is being copied an uncorrectable error names the first
byte not copied, which is free within the image, as is the access size of TINFO1 (R72, log 23). -/
def faultInfo (s : State) (tile : Nat) (k : FaultKind) : State × Word × Word :=
  let (_, _, i0, i1) := faultRecord tile k
  let loading : Option NodeRec := match (s.tile tile).ctx with
    | some c => if c.phase = .loading then (s.launches.find? (fun l => l.id == c.launch)).bind (fun l => l.nodes[c.node]?) else none
    | none => none
  match k, loading with
  | .uncorrectable _ _, some r =>
    let (n, s) := s.drawNat
    let (m, s) := s.drawNat
    (s, r.image + BitVec.ofNat 64 (n % max 1 r.imglen), BitVec.ofNat 64 (16 * (m % 8)))
  | _, _ => (s, i0, i1)

/-- The block of a lasting fault's record (R72, R298): the one mapped, the one being fetched, or the last one. -/
def faultBlock (s : State) (tile : Nat) : Word :=
  match (s.tile tile).ctx with
  | none => 0
  | some c =>
    match c.phase with
    | .loading | .fetching => c.pc
    | .running => blockAddr s tile
    | .halted | .done | .ended => c.lastBlk

/-- End the context of a tile with a fault's record (R72, R298, R302, R306, R307). While a handler runs it is a trap within the
handler, and the first record is kept (R301). Where the tile holds no context and its image is being written, the image is invalid
(R83). -/
def endWithFault (s : State) (tile : Nat) (k : FaultKind) : State :=
  let (cause, slot, _, _) := faultRecord tile k
  let (s, i0, i1) := faultInfo s tile k
  let r : TrapRec := { cause := cause, blk := faultBlock s tile, slot := slot,
                       tag := faultTag s tile k, info0 := i0, info1 := i1 }
  if (s.tile tile).ctx.isNone then spoilImage s ((savingTile s tile).getD tile) cause i0 i1 false
  else if handling s tile then
    endUnresolved s tile { r with cause := 0x74, info0 := BitVec.ofNat 64 cause, info1 := BitVec.ofNat 64 slot } true
  else endUnresolved s tile r false

/-! ### Placing nodes anew (R69, R306) -/

/-- A tile is that of a node, or of its pair. -/
def usesTile (lock : Bool) (t u : Nat) : Bool := decide (u = t) || (lock && decide (u = t + 1))

/-- Place the nodes of a waiting region anew whose tile is fenced (R69): in the region's stack where it has a tile to spare, or
else the whole region. None where no stack has room. -/
def replaceRegion (s : State) (l : Launch) (r : Region) : State × Option (List (Nat × Nat)) :=
  let wants := r.nodes.map (fun p => (p.1, if (openTiles s l.lock r.stack).contains p.2 then some p.2 else none))
  if r.nodes.length ≤ (openTiles s l.lock r.stack).length then placeIn s l.lock r.stack wants
  else placeRegion s l.lock ((nodesOf l.nodes r.region).map (fun p => (p.1, namedTile l.lock p.2)))

/-- Move a waiting region off a fenced tile: READY entries on tiles it leaves are unmapped. -/
def moveRegion (s : State) (l : Launch) (r : Region) : State :=
  match replaceRegion s l r with
  | (s, none) =>
    let s := queueError s l.tenant l.queue 1 (some l.index)
    let s := s.modQueue l.tenant l.queue (fun x => { x with
      started := x.started.filter (fun p => decide (p.work ≠ .launch l.id)) })
    s.modLaunch l.id (fun x => { x with ended := true })
  | (s, some ps) =>
    let left := r.nodes.filter (fun p => !ps.contains p)
    let s := left.foldl (fun s p => dropIdleEntries s l.id r.region p.2) s
    s.modRegion l.id r.region (fun x => { x with nodes := ps, stack := match ps.head? with
      | some p => p.2 / 48
      | none => x.stack })

/-- Move every waiting region off a fenced tile. -/
def leaveTile (s : State) (t : Nat) : State :=
  s.launches.foldl (fun s l =>
    if l.ended then s
    else l.regions.foldl (fun s r =>
      if r.st = .waiting ∧ r.nodes.any (fun p => usesTile l.lock p.2 t) then moveRegion s l r else s) s) s

/-- A lasting fault (R306 to R309): it is recorded, ends the context without a handler, which on a locked pair is the leading tile's,
and fences the tile, or both of a pair. -/
def lastingFault (s : State) (tile : Nat) (k : FaultKind) : State :=
  let tiles := faultTiles tile k
  tiles.foldl leaveTile
    (tiles.foldl (fun s t => fenceTile (endWithFault s (leadTile s t) k) t) (countLasting s tile (faultRecord tile k).1))

/-! ### Block-cache failures (R96) -/

/-- Count a transient event (R309). -/
def countTransient (s : State) : State :=
  s.modCtl (fun k => { k with trans := if k.trans = BitVec.allOnes 32 then k.trans else k.trans + 1 })

/-- An event counts against a tile (R306). -/
def State.markFaulted (s : State) (t : Nat) : State :=
  s.modTile t (fun x => { x with faulted := true, faultInh := handling s (leadTile s t) })

/-- Discard the mapping of the block that the tile wants, drop its lines, and fetch it again bypassing the cache (R96): one
transient event of tile `at_`, which is `t` or the other one of its pair. -/
def fetchAfresh (s : State) (t at_ : Nat) (c : Ctx) : State :=
  let asid := asidOf s c.tenant
  let n := match cachedLine s t asid c.pc.toNat with
    | some l => imageLines (wordAt l.bytes 0)
    | none => 1
  let first := c.pc.toNat / 64
  let s := s.modTile t (fun x => { x with
    bcache := x.bcache.filter (fun l => !(l.asid == asid && decide (first ≤ l.vline) && decide (l.vline < first + n))) })
  let s := (countTransient s).markFaulted at_
  match fetchBlock s t c.tenant c.pc.toNat true with
  | (s, .error (va, cause, level)) => fetchTrap s t c.pc cause 0x80 (BitVec.ofNat 64 va) (memInfo1 0 64 false level)
  | (s, .ok _) => s.modTile t (fun x => { x with fresh := true })

/-- A block-cache failure (R96): the block is fetched afresh, or, where it is the second event within its limit, the fault is
lasting (R306). -/
def refetch (s : State) (t : Nat) (c : Ctx) : State :=
  if (s.tile t).faulted then
    let (n, s) := s.drawNat
    lastingFault s t (.uncorrectable 4 (n % 1024))
  else fetchAfresh s t t c

/-! ### FAULT_ROLLBACK (R306 to R308) -/

/-- A tag of the block is in flight; what is block-wide, or in a block without LOOP, has none. -/
def tagInFlight (x : Fabric) (b : Block) (tag : Option Tag) : Bool :=
  match tag with
  | none => true
  | some t => b.loop && x.tags.any (fun r => r.tag == t)

/-- An uncorrectable error in the save bank of a tile, or in a register that is being saved (R307): the saved context ends as an
unresolved trap (R302). -/
def endSaved (s : State) (tile structure_ index : Nat) : State :=
  let i0 : Word := BitVec.ofNat 64 index
  let i1 : Word := BitVec.ofNat 64 structure_
  let s1 := spoilImage s tile 0x73 i0 i1 true
  match bankImage s tile with
  | none => s1
  | some i => (s1.modLaunch i.ctx.launch (fun l => { l with ended := true })).emit (.unresolved tile 0x73 i0 i1)

/-- The structures in which a tile can meet an uncorrectable error that a retry reads afresh (R306), by the codes of R303: all of
them while a data image is copied or a save image is written (log 25), the block cache when a block that it holds is to be mapped
(R96), and the others where a block is mapped. -/
def retryable (s : State) (tile : Nat) : List Nat :=
  if (savingTile s tile).isSome then [2, 3, 4, 7]
  else
    let x := leadTile s tile
    match (s.tile x).ctx with
    | none => []
    | some c =>
      match c.phase with
      | .loading => [2, 3, 4, 7]
      | .fetching =>
        if (targetFault c.pc).isNone && !fetchBlocked s x c && (cachedBlock s x (asidOf s c.tenant) c.pc.toNat).isSome then [4]
        else []
      | .running => if (s.fabric x).blk.isSome then [2, 3, 7] else []
      | .halted | .done | .ended => []

/-- A node's context that a tile's error ends, or the saved one of a tile in place of it (R307). -/
def architecturalFault (s : State) (tile structure_ index : Nat) : State :=
  if structure_ = 8 then endSaved s tile 8 index
  else
    match savingTile s tile with
    | some t => endSaved s t structure_ index
    | none => endWithFault s (leadTile s tile) (.architectural structure_ index)

/-- The first event of a tile within its limit (R96, R306): a block that cannot be mapped is fetched afresh; any other is rolled
back and counted. -/
def firstEvent (s : State) (tile : Nat) (k : FaultKind) : State :=
  let x := leadTile s tile
  let fetching : Option Ctx := match k, (s.tile x).ctx with
    | .uncorrectable 4 _, some c => if c.phase = .fetching then some c else none
    | _, _ => none
  match fetching with
  | some c => fetchAfresh s x tile c
  | none =>
    (faultTiles tile k).foldl (fun s t => (rollback s (leadTile s t) k).markFaulted t) (countTransient s)

/-- A fault of a kind can be met on a tile: a divergence only by a lockstep pair that runs or is being saved; a residue mismatch by an integer operator of the
block that the tile holds, a route mismatch by a token of one (R305); an uncorrectable error in a structure that a retry reads
afresh (R306) or would read again (R307), by the codes of R303, where a context, or one being saved, or an image in the save bank, reads it. -/
def faultPossible (s : State) (tile : Nat) (k : FaultKind) : Bool :=
  let x := leadTile s tile
  let runs : Bool := match (s.tile x).ctx with
    | some c => c.phase.live
    | none => false
  decide (tile < 192) &&
  (match k with
    | .lockstep => match (s.tile (tile - tile % 2)).ctx with
      | some c => c.lock
      | none => (savingTile s (tile - tile % 2 + 1)) == some (tile - tile % 2)
    | .residue cluster slot tag => match (s.fabric x).blk with
      | some b => residueChecked b cluster slot && tagInFlight (s.fabric x) b tag
      | none => false
    | .route cluster slot tag => match (s.fabric x).blk with
      | some b => routeChecked b cluster slot && tagInFlight (s.fabric x) b tag
      | none => false
    | .uncorrectable structure_ _ => (retryable s tile).contains structure_
    | .architectural structure_ _ =>
      ([1, 5, 6].contains structure_ && (runs || (savingTile s tile).isSome)) || (structure_ == 8 && (bankImage s tile).isSome))

/-- FAULT_ROLLBACK (R83, R306 to R309): a first event rolls back and is counted as transient; a second within its limit is
lasting, ends the context without a handler and fences the tile; an error in architectural storage ends the context, running or
saved. -/
def execFaultRollback (tile : Nat) (kind : FaultKind) (s : State) : Out :=
  if !faultPossible s tile kind then .next s
  else
    match kind with
    | .architectural structure_ index => .next (architecturalFault s tile structure_ index)
    | .residue _ _ _ | .route _ _ _ | .uncorrectable _ _ | .lockstep =>
      if (faultTiles tile kind).any (fun t => (s.tile t).faulted) then .next (lastingFault s tile kind)
      else .next (firstEvent s tile kind)

/-! ### Mapping (R92, R94, R96, R98) -/

/-- BLOCK_CACHE_REFETCH (R96): the mapping of the block that the tile wants is discarded, its lines are dropped, and it is
fetched again bypassing the cache. -/
def execBlockCacheRefetch (tile : Nat) (s : State) : Out :=
  match (s.tile tile).ctx with
  | none => .next s
  | some c =>
    match c.phase with
    | .fetching => if (targetFault c.pc).isSome || fetchBlocked s tile c then .next s else .next (refetch s tile c)
    | .running | .loading | .halted | .done | .ended => .next s

/-- Map the block that the cache holds whole (R92, R94, R96, R98). -/
def mapBlock (s : State) (t : Nat) (c : Ctx) (bs : List Byte) (sig : BitVec 16) : State :=
  let w0 := wordAt bs 0
  let w1 := wordAt bs 1
  let n := if hdrN w0 > 128 then 0 else hdrN w0
  let words := bodyWords bs n
  let body := (bs.drop 16).take (8 * n)
  if !(s.tile t).fresh && decide (sig ≠ crc16 body) then refetch s t c
  else
    match mapFault c.via c.pc w0 w1 words body with
    | some (cause, slot, i0, i1) => fetchTrap s t c.pc cause slot i0 i1
    | none =>
      enterBlock s t c { addr := c.pc, words := words, loop := hdrLoop w0, supervisor := hdrSupervisor w0,
                         noPrefetch := hdrNoPrefetch w0, twh := hdrTwh w0 }

/-- BLOCK_MAP (R92, R94, R96, R98): a tile whose block is whole in the cache maps it, rejects it, or finds its signature
wrong and fetches it again. -/
def execBlockMap (tile : Nat) (s : State) : Out :=
  match (s.tile tile).ctx with
  | none => .next s
  | some c =>
    match c.phase with
    | .fetching =>
      if (targetFault c.pc).isSome || fetchBlocked s tile c then .next s
      else
        match cachedBlock s tile (asidOf s c.tenant) c.pc.toNat with
        | none => .next s
        | some (bs, sig) => .next (mapBlock s tile c bs sig)
    | .running | .loading | .halted | .done | .ended => .next s

end Sys2Proof.Machine
end

