-- ==== Sys2Proof/Machine/Device.lean ====
section
/-! DEFINITION. The device around the tiles: BAR0 accesses (R38, R41, R42), resets and bring-up (R45, R48, R49), firmware
activation (R47, R50), attestation (R51), temperature (R34, R35), Volong ports (R21, R25), configuration requests and
scale-out traffic (R31, R49). -/

namespace Sys2Proof.Machine

/-! ### Named writes of registers (R24, R25, R39 to R43, R50, R51, R89, R309) -/

/-- LGCTL_WRITE (R24). -/
def execLgctlWrite (v : Word) (s : State) : Out := .next (writeLgctl s v 0x0100)

/-- TENCFG_WRITE (R40). -/
def execTencfgWrite (f : Nat) (v : Word) (s : State) : Out :=
  .next (if f < 16 then writeTencfg s f v (0x0400 + 16 * f) else s)

/-- TENPT_WRITE (R40). -/
def execTenptWrite (f : Nat) (v : Word) (s : State) : Out :=
  .next (if f < 16 then writeTenpt s f v (0x0408 + 16 * f) else s)

/-- FWACT_GO (R50). -/
def execFwactGo (v : Word) (s : State) : Out := .next (writeFwact s (v ||| 1))

/-- FWACT_DUPGO_CLEAR (R50). -/
def execFwactDupgoClear (s : State) : Out := .next (s.modCtl (fun c => { c with dupgo := false }))

/-- ATTCMD_GO (R51). -/
def execAttcmdGo (s : State) : Out := .next (writeAttcmd s 1)

/-- RELLAST_VALID_CLEAR (R309). -/
def execRellastValidClear (s : State) : Out := .next (clearRellast s)

/-- VLOGCTL_HEAD_WRITE (R43). -/
def execVlogctlHeadWrite (f : Nat) (v : BitVec 4) (s : State) : Out := .next (writeHead s f v)

/-- A write of TNSTAT (R41, R42): a VF's write of 1 to a bit that only the PF has is a violation of kind 2, and is discarded (log 26). -/
def writeTnstat (s : State) (f : Nat) (set : Word) (off : Nat) : State :=
  if f ≠ 0 ∧ set &&& 6 ≠ 0 then logViolation s f 2 (BitVec.ofNat 64 (regionBase f + off)) 0 else tnstatClearBits s f set

/-- TNSTAT_CLEAR (R41, R42). -/
def execTnstatClear (f : Nat) (v : Word) (s : State) : Out := .next (if f < 16 then writeTnstat s f v 0 else s)

/-- VLSTAT_DOWNEV_CLEAR (R25). -/
def execVlstatDownevClear (port : Nat) (s : State) : Out := .next (clearDownev s port)

/-- SLEWTAB_WRITE (R89). -/
def execSlewtabWrite (stack : Nat) (v : Word) (s : State) : Out := .next (writeSlewtab s stack v)

/-! ### Tenant regions (R41, R44) -/

/-- VLOGCTL. -/
def vlogctl (x : Tenant) : Word := x.lost ++ 0#11 ++ BitVec.ofNat 5 x.count ++ 0#12 ++ x.head

/-- The 64-bit register at an 8-byte offset of a tenant region; none for an offset that R41 does not map. Doorbells read as
zero. -/
def tenantRegister (s : State) (f off : Nat) : Option Word :=
  let x := s.tenant f
  match off with
  | 0x0000 => some (tnstat s f)
  | 0x0008 => some (vlogctl x)
  | 0x0010 => some x.wingb
  | 0x0018 => some (x.wingl.setWidth 64)
  | 0x0020 => some x.winsb
  | 0x0028 => some (x.winsl.setWidth 64)
  | 0x21000 => some x.pba
  | _ =>
    if 0x0100 ≤ off ∧ off < 0x0200 then
      let e := x.vlog[(off - 0x0100) / 16]?.getD 0
      some (if off % 16 = 0 then e.extractLsb' 0 64 else e.extractLsb' 64 64)
    else if 0x10000 ≤ off ∧ off < 0x18000 then some 0
    else if 0x20000 ≤ off ∧ off < 0x20400 then
      let m := x.msix[(off - 0x20000) / 16]?.getD MsixEntry.reset
      some (if off % 16 = 0 then m.addr else 0#31 ++ BitVec.ofBool m.mask ++ m.data)
    else none

/-- A vector whose mask falls and that is pending is signalled (R44). -/
def unmaskVector (s : State) (f vec : Nat) : State :=
  let x := s.tenant f
  let m := x.msix[vec]?.getD MsixEntry.reset
  if !m.mask && x.pba.getLsbD vec then
    signalMsix (s.modTenant f (fun x => { x with pba := x.pba &&& ~~~(1#64 <<< vec) })) f vec
  else s

/-- Write a word of the MSI-X table. -/
def writeMsix (s : State) (f off : Nat) (v : Word) : State :=
  let vec := (off - 0x20000) / 16
  let set (m : MsixEntry) : MsixEntry :=
    if off % 16 = 0 then { m with addr := v } else { m with data := v.extractLsb' 0 32, mask := v.getLsbD 32 }
  unmaskVector (s.modTenant f (fun x => { x with
    msix := x.msix.setIfInBounds vec (set (x.msix[vec]?.getD MsixEntry.reset)) })) f vec

/-- A write of 4 or 8 bytes at an offset of a tenant region that it maps (R38, R41, R42): a register whose every field is RO, a
VF's write of 1 to a bit of TNSTAT that only the PF has, and a doorbell write of 4 bytes are violations. -/
def tenantWrite (s : State) (f off size : Nat) (v : Word) : State :=
  let reg := off - off % 8
  let old := (tenantRegister s f reg).getD 0
  let new := merged old off size v
  let set := merged 0 off size v
  let violation (kind : Nat) : State := logViolation s f kind (BitVec.ofNat 64 (regionBase f + off)) 0
  match reg with
  | 0x0000 => writeTnstat s f set off
  | 0x0008 => if off % 8 = 0 then writeHead s f (new.extractLsb' 0 4) else s
  | 0x0010 => s.modTenant f (fun x => { x with wingb := new })
  | 0x0018 => s.modTenant f (fun x => { x with wingl := new.extractLsb' 0 40 })
  | 0x0020 => s.modTenant f (fun x => { x with winsb := new })
  | 0x0028 => s.modTenant f (fun x => { x with winsl := new.extractLsb' 0 40 })
  | _ =>
    if 0x10000 ≤ reg ∧ reg < 0x18000 then
      if size = 8 then doorbellWrite s f ((reg - 0x10000) / 8) v else violation 3
    else if 0x20000 ≤ reg ∧ reg < 0x20400 then writeMsix s f reg new
    else violation 2

/-! ### BAR0 (R38, R42, R49) -/

/-- Configuration requests are completed normally (R49): from RUNNING on, and once bring-up has stopped in FAILED. -/
def configNormal (s : State) : Bool := s.ctl.enumerated

/-- Where an offset of a function's BAR0 leads. -/
inductive BarSpot where
  | control (off : Nat)
  | region (off : Nat)
  | unmapped
  deriving DecidableEq, Repr

/-- The offset of an access in a function's BAR0 (R38, R39, R41, R49). -/
def barSpot (s : State) (f off : Nat) : BarSpot :=
  if f = 0 ∧ off < 0x2000 then (if (ctlRegister s (off - off % 8)).isSome then .control off else .unmapped)
  else
    let t := off - regionBase f
    if regionBase f ≤ off ∧ regionsMapped s ∧ (tenantRegister s f (t - t % 8)).isSome then .region t else .unmapped

/-- A function answers in BAR0: a VF only once VF Enable is set (R49). -/
def functionAnswers (s : State) (f off : Nat) : Bool :=
  configNormal s && decide (off < if f = 0 then 0x800000 else 0x400000) && (f == 0 || (decide (f < 16) && s.ctl.vfEnable))

/-- An access is an aligned one of 4 or 8 bytes (R38). -/
def alignedAccess (off size : Nat) : Bool := (size == 4 || size == 8) && decide (off % size = 0)

/-- REGISTER_WRITE (R38, R42). -/
def execRegisterWrite (f off size : Nat) (v : Word) (s : State) : Out :=
  let violation (kind : Nat) : State := logViolation s f kind (BitVec.ofNat 64 off) 0
  if !functionAnswers s f off then .next s
  else
    match barSpot s f off with
    | .unmapped => .next (violation 1)
    | .control o => .next (if alignedAccess off size then (ctlWrite s o size v).getD s else violation 3)
    | .region o => .next (if alignedAccess off size then tenantWrite s f o size v else violation 3)

/-- REGISTER_READ (R38, R42): the value, or Unsupported Request. -/
def execRegisterRead (f off size : Nat) (s : State) : Out :=
  let violation (kind : Nat) : State := (logViolation s f kind (BitVec.ofNat 64 off) 0).emit (.unsupported f)
  if !functionAnswers s f off then .next s
  else
    match barSpot s f off with
    | .unmapped => .next (violation 1)
    | .control o =>
      .next (if alignedAccess off size then s.emit (.readData f (partOf ((ctlRegister s (o - o % 8)).getD 0) o size))
             else violation 3)
    | .region o =>
      .next (if alignedAccess off size then s.emit (.readData f (partOf ((tenantRegister s f (o - o % 8)).getD 0) o size))
             else violation 3)

/-- The configuration space of a function (R37): the PF offers 15 VFs, with First VF Offset 1 and VF Stride 1, so that the
requester ID of function f lies f above the PF's. -/
def configOf (s : State) (f : Nat) : ConfigSpace :=
  { vendor := Config.vendorId, device := if f = 0 then 0x9400 else 0x9401, requester := f
    totalVfs := if f = 0 then 15 else 0, firstVf := if f = 0 then 1 else 0, vfStride := if f = 0 then 1 else 0
    vfDevice := if f = 0 then 0x9401 else 0, vfEnable := s.ctl.vfEnable && f == 0 }

/-- CONFIGURATION_REQUEST (R37, R49): retried before RUNNING, unless bring-up has stopped; the PF's SR-IOV capability takes VF
Enable. A function that does not answer in BAR0, a VF without VF Enable, is answered like the others (log 95). -/
def execConfigurationRequest (f : Nat) (vfEnable : Option Bool) (s : State) : Out :=
  if configNormal s then
    let s := match vfEnable with
      | some b => if f = 0 then s.modCtl (fun c => { c with vfEnable := b }) else s
      | none => s
    .next (s.emit (.config f (configOf s f)))
  else .next (s.emit (.retry f))

/-! ### Resets (R45, R48) -/

/-- A function-level reset begins (R48, R56, R61): it is in progress until no context, save image or launch of the function is
left. -/
def resetFunction (s : State) (f : Nat) : State :=
  let s := { s with creating := s.creating.filter (fun c => !(c.1 == f)) }
  let s := (queuesOf s f).foldl destroyQueue s
  let s := (s.launches.filter (fun l => l.tenant == f)).foldl (fun s l => endLaunch s l.id) s
  let leave (r : Rider) : Rider := if r.tenant = f then { r with orphan := true } else r
  let s := { s with riders := s.riders.map leave }
  wake (s.modTenant f (fun x => { x with
    linkev := false, fwev := false, viol := false, lost := 0, count := 0, head := 0, seq := 0
    vlog := Vector.replicate 16 0, wingb := 0, wingl := 0, winsb := 0, winsl := 0
    msix := Vector.replicate 64 .reset, pba := 0, mbox := [], mfull := [], resetting := true }))

/-- FUNCTION_LEVEL_RESET (R48). -/
def execFunctionLevelReset (f : Nat) (s : State) : Out := .next (if f < 16 then settleResets (resetFunction s f) else s)

/-- HOT_RESET (R48): a function-level reset of every function. -/
def execHotReset (s : State) : Out := .next (settleResets ((List.range 16).foldl resetFunction s))

/-- COLD_RESET (R48): everything but what lies outside the module returns to its reset value. -/
def execColdReset (s : State) : Out :=
  .next { State.reset with
    host := s.host, hostBad := s.hostBad, freeCtr := s.freeCtr, agenda := s.agenda, outbox := s.outbox }

/-- The bytes of a bank. -/
def bankBytes (c : Control) : List Byte := if c.activeBank then c.bank1 else c.bank0

/-- FWEV is set and the PF's event vector signalled, whether or not FWEV was set before (R45, R50). -/
def firmwareEvent (s : State) : State := signalMsix (s.modTenant 0 (fun x => { x with fwev := true })) 0 0

/-- An activation ends with a status; FWEV stays as it is: that an activation finished is taken to mean that it succeeded
(log 85). -/
def activationFails (s : State) (status : BitVec 8) : State := s.modCtl (fun c => { c with activation := .none, fwstatus := status })

/-- The puppeteer's core starts again (R45): the event matcher is empty, sources that it held back send, and the firmware recovers
its queue control blocks (R65). -/
def restartFirmware (s : State) : State :=
  letIn { s with
    matcher := { Matcher.reset with waiting := s.matcher.waiting }
    queues := s.queues.map recoverQueue }

/-- A status that a free number gives an activation that has ended (R50): one of those the FWACT table gives an ended activation,
so neither 0x01 (in progress) nor 0x18 (never written). Which one is open (log 86). -/
def endedStatus (n : Nat) : BitVec 8 := if n % 9 = 0 then 0x00 else BitVec.ofNat 8 (0x0F + n % 9)

/-- The re-check of the active bank has failed (R45): STATE is FAILED, where no tenant region is mapped (R49), and no new launch is
made. An activation past its flip ends, with a status that the spec does not give (log 86). -/
def barLaunches (s : State) : State :=
  let (n, s) := s.drawNat
  let s := if s.ctl.activation = .none then s else activationFails s (endedStatus n)
  s.modCtl (fun c => { c with pup := .failed, barred := true, served := false })

/-- WATCHDOG_RESET (R45, R50, R65): the core and the event matcher are reset, and the active bank is checked again; an activation
before its flip is aborted. -/
def execWatchdogReset (s : State) : Out :=
  if !(takesWork s || decide (s.ctl.pup = .bringup)) then .next s
  else
    let good := decide (sha384 (bankBytes s.ctl) = s.ctl.bankDigest)
    let s := restartFirmware s
    let s := s.modCtl (fun c => { c with wdcnt := if c.wdcnt = BitVec.allOnes 16 then c.wdcnt else c.wdcnt + 1 })
    let s := if s.ctl.activation = .loading then activationFails s 0x17 else s
    .next (firmwareEvent (if good then s else barLaunches s))

/-! ### Firmware images (R47, R49, R50) -/

/-- A field of an image: `n` bytes at an offset, as a number. -/
def imageField (img : List Byte) (off n : Nat) : Nat := bytesValue ((img.drop off).take n)

/-- The accepted layout versions of an image. -/
def imageLayouts (img : List Byte) : List Nat := (List.range (imageField img 6 2)).map (fun i => imageField img (0x10 + 2 * i) 2)

/-- Bytes of an image are zero. -/
def imageZero (img : List Byte) (lo hi : Nat) : Bool := ((img.drop lo).take (hi - lo)).all (fun b => b == 0)

/-- The header of an image is well-formed (R47). -/
def imageHeaderOk (img : List Byte) : Bool :=
  let b := imageField img 0x00C 4
  let l := imageField img 6 2
  decide (512 ≤ img.length) && decide (imageField img 0 4 = 0x53574D55) && decide (imageField img 4 2 = 1) &&
  decide (1 ≤ l ∧ l ≤ 8) && decide (b % 4096 = 0) && decide (b ≤ 524288 - 512) && decide (img.length = 512 + b) &&
  imageZero img (0x10 + 2 * l) 0x20 && imageZero img 0xB1 0xB8 && imageZero img 0x118 0x200

/-- The status of the first check of R47 that an image fails, 0 for a valid one (R50). -/
def imageStatus (img : List Byte) : BitVec 8 :=
  let key := (img.drop 0x50).take 97
  if !imageHeaderOk img then 0x10
  else if sha384 key ≠ Config.fusedKeyDigest ∨
      ecdsaVerify key (sha384 (img.take 0xB8)) ((img.drop 0xB8).take 96) = false then 0x11
  else if (sha384 (img.drop 512)).toNat ≠ imageField img 0x20 48 then 0x12
  else if imageField img 8 4 < Config.fusedMinSvn then 0x13
  else if !(imageLayouts img).contains layoutVersion then 0x14
  else 0

/-- The little-endian bytes of a measurement. -/
def digestBytes (d : BitVec 384) : List Byte := bytesOf 48 d.toNat

/-- An image becomes the active one in a bank (R45, R50, R51). -/
def activateBank (c : Control) (img : List Byte) (bank : Bool) : Control :=
  let d := sha384 img
  { c with
    bank0 := if bank then c.bank0 else img, bank1 := if bank then img else c.bank1, activeBank := bank
    bankDigest := d, m0 := d, svn := BitVec.ofNat 32 (imageField img 8 4) }

/-- BOOT_ROM_CHECK (R49): steps 1 and 2 of bring-up: the flash image goes into bank 0, or bring-up stops in FAILED. -/
def execBootRomCheck (s : State) : Out :=
  if s.ctl.pup ≠ .reset then .next s
  else if imageStatus Config.flashImage = 0 then
    .next (s.modCtl (fun c => { activateBank c Config.flashImage false with pup := .bootrom, bringup := 2 }))
  else .next (s.modCtl (fun c => { c with pup := .failed, bringup := 2, enumerated := true }))

/-- A ring as its sweep starts (R164): its starting point is free; its first turn writes zeros to every row (R49). -/
def startRing (q : Nat) : Ring := { Ring.reset with running := true, zeroing := turn, cursor := Config.ringStart q % turn }

/-- PUPPETEER_START (R49, R164): step 3 of bring-up: the sweeps start, and the visits of their first turn write zeros. -/
def execPuppeteerStart (s : State) : Out :=
  if s.ctl.bringup = 2 ∧ (s.ctl.pup = .bootrom ∨ s.ctl.pup = .activating) then
    let s := s.modCtl (fun c => { c with pup := .bringup, bringup := 3 })
    .next { s with rings := Vector.ofFn (fun q : Fin 32 => startRing q.val) }
  else .next s

/-- The bits set in a mask of tiles. -/
def countTiles (m : BitVec 192) : Nat := ((List.range 192).filter (fun t => m.getLsbD t)).length

/-- TILE_SELF_TEST (R39, R49): step 4 of bring-up: failing tiles are fenced. -/
def execTileSelfTest (failing : BitVec 192) (s : State) : Out :=
  if s.ctl.pup = .bringup ∧ s.ctl.bringup = 3 then
    .next (s.modCtl (fun c => { c with tfence := failing, tserv := BitVec.ofNat 8 (192 - countTiles failing), bringup := 4 }))
  else .next s

/-- An activation has finished: FWEV is set and the PF's event vector signalled (R50). -/
def activationDone (s : State) : State := firmwareEvent (s.modCtl (fun c => { c with activation := .none, fwstatus := 0 }))

/-- STATE becomes RUNNING (R49): configuration requests are completed normally, tenant regions are mapped, and launches are made. -/
def enterRunning (s : State) : State :=
  s.modCtl (fun c => { c with pup := .running, enumerated := true, served := true, barred := false })

/-- BRINGUP_RUNNING (R49): step 5; of an activation out of FAILED it is the end (R50). -/
def execBringupRunning (s : State) : Out :=
  if s.ctl.pup = .bringup ∧ s.ctl.bringup = 4 then
    let s := enterRunning s
    .next (if s.ctl.activation = .flipped then activationDone s else s)
  else .next s

/-- The staged image as it is read from host memory (R50): none where the host read fails. A completion that comes back poisoned
counts as a failed read (log 85). -/
def stagedImage (s : State) : Option (List Byte) :=
  let n := s.ctl.goLen.toNat
  let a := 4096 * s.ctl.goAddr.toNat
  if hostAnswer s a n = .good then some (mbytes s.host a n) else none

/-- Every pre-empted queue's layout is listed by an image (R50). -/
def layoutsListed (s : State) (img : List Byte) : Bool :=
  s.queues.all (fun q => decide (q.layout = 0) || (imageLayouts img).contains q.layout)

/-- FW_IMAGE_LOADED (R50, R51): the staged image is read, checked, checked against the save images held, and the bank flips. A LEN
above 524,288 can be no 512 + B: it fails with status 0x10 before anything is read (log 85). -/
def execFwImageLoaded (s : State) : Out :=
  if s.ctl.activation ≠ .loading then .next s
  else if 524288 < s.ctl.goLen.toNat then .next (activationFails s 0x10)
  else
    match stagedImage s with
    | none => .next (activationFails s 0x16)
    | some img =>
      let x := imageStatus img
      if x ≠ 0 then .next (activationFails s x)
      else if !layoutsListed s img then .next (activationFails s 0x15)
      else
        .next (s.modCtl (fun c =>
          let k := activateBank c img (!c.activeBank)
          { k with m2 := sha384 (digestBytes c.m2 ++ digestBytes k.m0), pup := .activating, activation := .flipped }))

/-- FW_ACTIVATED (R50): the new firmware sets STATE = RUNNING. -/
def execFwActivated (s : State) : Out :=
  if s.ctl.pup = .activating ∧ s.ctl.activation = .flipped ∧ 4 ≤ s.ctl.bringup then
    .next (activationDone (enterRunning s))
  else .next s

/-! ### Attestation (R51) -/

/-- The bytes that M1 measures: DEVID, HWLAYOUT and every TENCFG and TENPT. -/
def measuredConfig (s : State) : List Byte :=
  let reg (off : Nat) : List Byte := bytesOf 8 ((ctlRegister s off).getD 0).toNat
  reg 0x0000 ++ reg 0x0020 ++ (List.range 16).flatMap (fun f => bytesOf 8 (tencfg s f).toNat ++ bytesOf 8 (tenpt s f).toNat)

/-- The report up to its signature, over the nonce as the accepted GO found it. -/
def reportBody (s : State) : List Byte :=
  let c := s.ctl
  bytesOf 2 1 ++ bytesOf 8 ((ctlRegister s 0x0000).getD 0).toNat ++ bytesOf 8 c.accid.toNat ++ bytesOf 4 c.svn.toNat ++
  digestBytes c.m0 ++ digestBytes (sha384 (measuredConfig s)) ++ digestBytes c.m2 ++ digestBytes c.attGo

/-- A number from 1 to one less than the order of P-384's base point. -/
def keyNumber (n : Nat) : Nat := 1 + n % (p384Order - 1)

/-- ATTREP with a report: the signed body, and at 0x400 the certificate chain after its length. A signature takes a number k
that is free (log 8). -/
def reportMemory (s : State) (k : Nat) : Memory :=
  let body := reportBody s
  let signed := body ++ ecdsaSign (keyNumber Config.identityKey) (keyNumber k) (sha384 body)
  let certs := Config.certificates
  mwriteBytes (mwriteBytes [] 0 signed) 0x400 ((bytesOf 4 certs.length ++ certs).take 0xC00)

/-- ATTEST_REPORT_DONE (R51). -/
def execAttestReportDone (s : State) : Out :=
  if s.ctl.attBusy then
    let (k, s) := s.drawNat
    .next (s.modCtl (fun c => { c with attrep := reportMemory s k, attBusy := false, attDone := true }))
  else .next s

/-! ### Temperature (R34, R35) -/

/-- A thermal trip (R34, R46, R48, R50): every tile and sweep stops, the trip is reported to host and puppeteer, and an activation
ends; which status it leaves is not given (log 86). -/
def thermalTrip (s : State) : State :=
  let (n, s) := s.drawNat
  let s := s.modCtl (fun c => { c with
    trip := true, pup := .tripped, activation := .none
    fwstatus := if c.activation = .none then c.fwstatus else endedStatus n })
  let s := raise { s with rings := s.rings.map (fun g => { g with running := false }) } .other Config.thermalSource
  ((List.range 16).foldl (fun s f => signalMsix s f 0) s).emit .tripReport

/-- SENSOR_REPORT (R34): the hottest sensor of a stack, in half degrees. -/
def execSensorReport (dram : Bool) (stack halfDegrees : Nat) (s : State) : Out :=
  let hot := decide (190 ≤ halfDegrees) || (s.dram[stack]?.getD false && decide (184 ≤ halfDegrees))
  let s := if dram then { s with dram := s.dram.setIfInBounds stack hot } else s
  .next (if decide (220 ≤ halfDegrees) && decide (stack < if dram then 8 else 4) && !s.ctl.trip then thermalTrip s else s)

/-- THERMAL_FORECAST (R35): it steers placement, which is a free choice here, and changes no result. -/
def execThermalForecast (s : State) : Out := .next s

/-! ### Volong ports (R21, R22, R25) -/

/-- Port p. -/
def vportOf (s : State) (p : Nat) : VPort := s.ctl.ports[p]?.getD VPort.reset

/-- Change port p. -/
def State.modVPort (s : State) (p : Nat) (g : VPort → VPort) : State :=
  s.modCtl (fun c => { c with ports := c.ports.setIfInBounds p (g (c.ports[p]?.getD VPort.reset)) })

/-- The replays that a port has needed in the last millisecond. -/
def recentReplays (s : State) (x : VPort) : Nat := (x.recent.filter (fun t => decide (s.now < t + 1000000))).length

/-- A port that has needed more than 64 replays in the last millisecond goes down (R21). -/
def mustFall (s : State) (port : Nat) : Bool := (vportOf s port).up && decide (64 < recentReplays s (vportOf s port))

/-- FLIT_REPLAY (R21, R25): one replay more; where it is one too many the port is taken down next. -/
def execFlitReplay (port : Nat) (s : State) : Out :=
  let s := s.modVPort port (fun x => { x with
    replays := if x.replays = BitVec.allOnes 32 then x.replays else x.replays + 1
    recent := s.now :: x.recent.filter (fun t => decide (s.now < t + 1000000)) })
  .next (if mustFall s port then { s with agenda := .portFalls port :: s.agenda } else s)

/-- Send a request that was sent on a port, and has not been answered, again on one that is up (R22); with none up it fails as
one to an unreachable member. -/
def resend (p : Nat) (s : State) (e : Pend) : State :=
  match e.place with
  | .league a => if e.sent && e.port == p && e.got.isNone then sendFar s e a else s
  | _ => s

/-- VOLONG_PORT_DOWN (R21, R22, R25, R41, R46): a port that has needed more than 64 replays in 1 ms is taken down, which the
puppeteer is told, and its requests are sent again on the ports left. -/
def execVolongPortDown (port : Nat) (s : State) : Out :=
  if mustFall s port then
    let s1 := raise (s.modVPort port (fun x => { x with up := false, downev := true })) .other (Config.linkSource port)
    let s2 := raiseEvent s1 0 (fun x => { x with linkev := true })
    .next (s.pend.foldl (resend port) s2)
  else .next s

/-- VOLONG_PORT_UP (R25). -/
def execVolongPortUp (port : Nat) (s : State) : Out := .next (s.modVPort port (fun x => { x with up := true }))

/-! ### Scale-out (R31, R32) -/

/-- SCALE_OUT_RECEIVE (R31, R32): a queue pair places data in host memory or in a scratchpad; a module without an accelerator
ID takes none, and so does one whose firmware does not run (log 94). -/
def execScaleOutReceive (dest : ScaleOutDest) (addr : Nat) (bytes : List Byte) (s : State) : Out :=
  if s.ctl.accid = 0xFFFFF ∨ !takesWork s then .next s
  else
    match dest with
    | .host => .next { s with host := mwriteBytes s.host addr bytes }
    | .scratch t => .next (if addr + bytes.length ≤ shareSize then writeScratch s t addr bytes else s)

/-- A queue pair that the host or the puppeteer has posted to sends data from host memory or a scratchpad (R31, R32): the
accelerator ID is its source, and a module without one, or whose firmware does not run, sends nothing (log 94). -/
def scaleOutSend (source : ScaleOutDest) (addr n : Nat) (s : State) : State :=
  if s.ctl.accid = 0xFFFFF ∨ !takesWork s then s
  else
    s.emit (.scaleOut s.ctl.accid (match source with
      | .host => mbytes s.host addr n
      | .scratch t => mbytes (s.tile t).mem addr n))

end Sys2Proof.Machine
end

