-- ==== Sys2Proof/Machine/Exits.lean ====
section
/-! DEFINITION. The exits (R106, R128, R350, R353, R374). Their targets are checked when they are fetched (R352). -/

namespace Sys2Proof.Machine

/-- An exit that has fired leads to `dest`; predicated off, or with a NULL or EOS token at a port it reads, it counts as
not fired (R350). -/
def exitForm (s : State) (dest : Firing → State → ExitTo) : Out :=
  onFiring s .off (fun f s => if f.eos then settle s f .off else fireExit s f (dest f s))

/-- The target of BR and CALL (R350). -/
def relativeTarget (s : State) (tile : Nat) (off : BitVec 30) : Word :=
  blockAddr s tile + 64 * off.signExtend 64

/-- The return address of a CALL (R351). -/
def returnAddress (s : State) (tile : Nat) : Option Word := (s.fabric tile).blk.map afterBlock

/-- BR (R350). -/
def execBr (_h : Hdr) (off : BitVec 30) (s : State) : Out :=
  exitForm s (fun f s => .block (relativeTarget s f.tile off) none)

/-- BRI (R350). -/
def execBri (_h : Hdr) (s : State) : Out := exitForm s (fun f _ => .block (tokVal f.left) none)

/-- CALL (R350, R351). -/
def execCall (_h : Hdr) (off : BitVec 30) (s : State) : Out :=
  exitForm s (fun f s => .block (relativeTarget s f.tile off) (returnAddress s f.tile))

/-- CALLI (R350, R351). -/
def execCalli (_h : Hdr) (s : State) : Out :=
  exitForm s (fun f s => .block (tokVal f.left) (returnAddress s f.tile))

/-- RET (R350, R351): g55 as it stood when the block was mapped. -/
def execRet (_h : Hdr) (s : State) : Out :=
  exitForm s (fun f s => .block (match (s.tile f.tile).ctx with
    | some c => c.greg 55
    | none => 0) none)

/-- HALT (R353). -/
def execHalt (_h : Hdr) (s : State) : Out := exitForm s (fun _ _ => .halt)

/-- TRET (R300, R374): in a user block, or while INH is clear, it traps with cause 0x0A. -/
def execTret (_h : Hdr) (s : State) : Out :=
  onFiring s .off (fun f => supervisorOnly f (fun s =>
    match (s.tile f.tile).ctx with
    | none => s
    | some c => if c.inh then fireExit s f .tret else trapFiring s f 0x0A 0 0))

end Sys2Proof.Machine
end

