-- ==== Sys2Proof/Machine/MemInstr.lean ====
section
/-! DEFINITION. The instructions of class M (R354 to R365) and the return of their accesses, at this module or from a far
member (R26 to R28). -/

namespace Sys2Proof.Machine

/-- The access size that SZ gives (R320). -/
def msize (m : MField) : Nat := 2 ^ m.sz.toNat

/-- The class M fields of an instruction. -/
def mfieldOf (i : Instr) : Option MField :=
  match i with
  | .ldb _ m | .ldbu _ m | .ldh _ m | .ldhu _ m | .ldw _ m | .ldwu _ m | .ldd _ m | .ldk _ m => some m
  | .stb _ m | .sth _ m | .stw _ m | .std _ m | .stk _ m => some m
  | .lde _ m | .stf _ m | .stfw _ m | .feq _ m | .feclr _ m | .feset _ m => some m
  | .aadd _ _ _ m | .aand _ _ _ m | .aor _ _ _ m | .axor _ _ _ m | .amin _ _ _ m | .amax _ _ _ m => some m
  | .aminu _ _ _ m | .amaxu _ _ _ m | .aswp _ _ _ m | .acas _ _ _ m => some m
  | _ => none

/-- Loads, LDK and FEQ: neither tracked nor held (R357). -/
def opIsRead (op : MemOp) : Bool :=
  match op with
  | .load _ _ => true
  | .ldk => true
  | .feq _ => true
  | .lde _ => false
  | .atomic _ _ => false
  | .store _ => false
  | .stk => false
  | .stf _ => false
  | .stfw _ => false
  | .feclr _ => false
  | .feset _ => false
  | .line _ _ => false
  | .peek _ => false

/-- What the tokens of a class M firing carry: chains run on from its slot (R223). -/
def chained (f : Firing) : Firing := { f with anc := if f.anc.contains f.slot then f.anc else f.slot :: f.anc }

/-- The completion token (R355). -/
def completionToken (f : Firing) (eos : Bool) : Token := resultToken (chained f) 0 eos

/-- Deliver a class M result (R354, R355): to both targets, or with OE to T1 alone beside the completion token to T2. -/
def deliverAccess (s : State) (f : Firing) (h : Hdr) (m : MField) (tok : Token) (eos : Bool) : State :=
  let s := send s f.tile f.slot h.t1 tok
  send s f.tile f.slot h.t2 (if m.oe then completionToken f eos else tok)

/-- Send the completion token of a form without a result that has resolved (R355). -/
def sendCompletion (s : State) (f : Firing) (h : Hdr) (m : MField) : State :=
  if m.oe then send s f.tile f.slot h.t2 (completionToken f false) else s

/-- The effect that a store or full/empty form holds (R104). -/
def heldEffect (op : MemOp) (p : Place) (data : BitVec 128) (tag : Bool) : Option Effect :=
  match op with
  | .store n => some (.store p n data false false)
  | .stk => some (.store p 16 data true tag)
  | .stf n => some (.stf p n (data.extractLsb' 0 64))
  | .stfw n => some (.stfw p n (data.extractLsb' 0 64))
  | .feclr _ => some (.feclr p)
  | .feset _ => some (.feset p)
  | .line _ _ => none
  | .peek _ => none
  | .load _ _ => none
  | .ldk => none
  | .lde _ => none
  | .feq _ => none
  | .atomic _ _ => none

/-- A held form resolves: its effect is held, a full/empty operation's with its scope (R222), and its completion token leaves (R104,
R355). -/
def resolveHeld (s : State) (f : Firing) (h : Hdr) (m : MField) (op : MemOp) (p : Place) (data : BitVec 128)
    (tag : Bool) : State :=
  match heldEffect op p data tag with
  | none => s
  | some e => sendCompletion (holdAt s f h.w e (if opFullEmpty op then m.scope else 0)) f h m

/-- The data operand of an access: the right token; for STK as a capability (R354, R360). -/
def accessData (op : MemOp) (f : Firing) : BitVec 128 × Bool :=
  match op with
  | .stk =>
    match f.right with
    | some t => (t.toCap.bits, t.toCap.tag)
    | none => (0, false)
  | _ => ((tokVal f.right).setWidth 128, false)

/-- Each tile of a locked pair forms the packet of an access that takes effect as it fires (R84, R105, log 40), and the access stands in
its block's packet too. -/
def packetAccess (s : State) (f : Firing) (op : MemOp) (c : Ctx) (p : Place) (addr : Word) (data : BitVec 128) : State :=
  if opIrrevocable op && c.lock then
    let a : PacketAtomic := { slot := f.slot, key := f.key, inh := c.inh, op := op, place := p, addr := addr, data := data,
                              expect := tokVal f.third }
    let s := s.modCtx f.tile (fun c => { c with
      atomics := c.atomics.filter (fun b => !(b.slot == a.slot && b.key == a.key && b.inh == a.inh)) ++ [a] })
    s.formPacket f.tile c
      { blk := ((s.fabric f.tile).blk.map (fun b => b.addr)).getD 0, wrs := [], held := [], atomics := [a], exit := none }
  else s

/-- A checked access at its place (R104, R105, R357): held stores and full/empty operations resolve at once, everything
else goes to its line, word or far member. An atomic of a locked pair leaves once the pair's packets match (R84). -/
def startAccess (s : State) (f : Firing) (h : Hdr) (m : MField) (op : MemOp) (acq rel : Bool) (c : Ctx) (p : Place)
    (addr : Word) : State :=
  let d := accessData op f
  let far := match p with
    | .league _ => true
    | _ => false
  let waits := match op with
    | .stfw _ => true
    | _ => far || opReturns op
  let s := settle s f .fired
  if waits then
    let s := packetAccess s f op c p addr d.1
    let (id, s) := s.fresh
    if !packetsMatch s f.tile c && opIrrevocable op then s
    else submit s { Pend.start s id (.firing f.tile c.id f.slot f.key) op p addr c.tenant c.id with
      info1 := memInfo1 m.k.toNat (opSize op) (opWrites op) 0, data := d.1, dtag := d.2, expect := tokVal f.third
      acq := acq || (match op with
        | .lde _ => true
        | _ => false)
      rel := rel, scope := m.scope, anc := f.anc }
  else resolveHeld s f h m op p d.1 d.2

/-- The answer that an irrevocable access of an abandoned block of a context still waits for (R105). -/
def lostPend (s : State) (c : Ctx) (slot : Nat) (key : Key) : Option Pend :=
  if c.inh then none else s.pend.find? (fun e => e.who == .lost c.id slot key)

/-- Resolve a form from its replay entry (R105, R160): the kept value is its result, and a form without one only resolves. -/
def resolveReplay (s : State) (f : Firing) (h : Hdr) (m : MField) (op : MemOp) (v : Word) : State :=
  let s := settle s f .fired
  if opReturns op then deliverAccess s f h m (resultToken (chained f) v false) false else sendCompletion s f h m

/-- A class M form (R354 to R357): one with a replay entry, of a performed irrevocable access or of an emulated one, resolves
from it (R105, R160), and one whose first performance at a far member has still to be answered waits for that answer; EOS
(R356); the checks of R139; then the access. -/
def accessForm (h : Hdr) (m : MField) (op : MemOp) (acq rel : Bool) (s : State) : Out :=
  onFiring s (if opIsRead op then .off else .nullified) (fun f s =>
    match (s.tile f.tile).ctx with
    | none => s
    | some c =>
      match replayEntry c f.slot f.key, lostPend s c f.slot f.key with
      | some r, _ => resolveReplay s f h m op r.val
      | none, some e =>
        { settle s f .fired with pend := (settle s f .fired).pend.map (fun x =>
            if x.id == e.id then { x with who := .firing f.tile c.id f.slot f.key } else x) }
      | none, none =>
        if f.eos then
          if opIsRead op then deliverAccess (settle s f .fired) f h m (resultToken (chained f) 0 true) true
          else settle s f .nullified
        else
          let stored : CapReg := { bits := (accessData op f).1, tag := (accessData op f).2 }
          match resolve s f.tile m.k.toNat (c.kreg m.k.toNat) (tokVal f.left + m.off.signExtend 64) op
              (isSupervisor s f.tile) stored with
          | (s, .error e) => trapFiring s f e.cause e.info0 e.info1
          | (s, .ok (p, addr)) => startAccess s f h m op acq rel c p addr)

/-- LDB (R358). -/
def execLdb (h : Hdr) (m : MField) (s : State) : Out := accessForm h m (.load 1 true) false false s

/-- LDBU (R358). -/
def execLdbu (h : Hdr) (m : MField) (s : State) : Out := accessForm h m (.load 1 false) false false s

/-- LDH (R358). -/
def execLdh (h : Hdr) (m : MField) (s : State) : Out := accessForm h m (.load 2 true) false false s

/-- LDHU (R358). -/
def execLdhu (h : Hdr) (m : MField) (s : State) : Out := accessForm h m (.load 2 false) false false s

/-- LDW (R358). -/
def execLdw (h : Hdr) (m : MField) (s : State) : Out := accessForm h m (.load 4 true) false false s

/-- LDWU (R358). -/
def execLdwu (h : Hdr) (m : MField) (s : State) : Out := accessForm h m (.load 4 false) false false s

/-- LDD (R358). -/
def execLdd (h : Hdr) (m : MField) (s : State) : Out := accessForm h m (.load 8 true) false false s

/-- LDK (R360). -/
def execLdk (h : Hdr) (m : MField) (s : State) : Out := accessForm h m .ldk false false s

/-- STB (R359). -/
def execStb (h : Hdr) (m : MField) (s : State) : Out := accessForm h m (.store 1) false false s

/-- STH (R359). -/
def execSth (h : Hdr) (m : MField) (s : State) : Out := accessForm h m (.store 2) false false s

/-- STW (R359). -/
def execStw (h : Hdr) (m : MField) (s : State) : Out := accessForm h m (.store 4) false false s

/-- STD (R359). -/
def execStd (h : Hdr) (m : MField) (s : State) : Out := accessForm h m (.store 8) false false s

/-- STK (R360). -/
def execStk (h : Hdr) (m : MField) (s : State) : Out := accessForm h m .stk false false s

/-- LDE (R362). -/
def execLde (h : Hdr) (m : MField) (s : State) : Out := accessForm h m (.lde (msize m)) false false s

/-- STF (R362). -/
def execStf (h : Hdr) (m : MField) (s : State) : Out := accessForm h m (.stf (msize m)) false false s

/-- STFW (R363). -/
def execStfw (h : Hdr) (m : MField) (s : State) : Out := accessForm h m (.stfw (msize m)) false false s

/-- FEQ (R362). -/
def execFeq (h : Hdr) (m : MField) (s : State) : Out := accessForm h m (.feq (msize m)) false false s

/-- FECLR (R362). -/
def execFeclr (h : Hdr) (m : MField) (s : State) : Out := accessForm h m (.feclr (msize m)) false false s

/-- FESET (R362). -/
def execFeset (h : Hdr) (m : MField) (s : State) : Out := accessForm h m (.feset (msize m)) false false s

/-- AADD (R364). -/
def execAadd (h : Hdr) (acq rel : Bool) (m : MField) (s : State) : Out :=
  accessForm h m (.atomic 0 (msize m)) acq rel s

/-- AAND (R364). -/
def execAand (h : Hdr) (acq rel : Bool) (m : MField) (s : State) : Out :=
  accessForm h m (.atomic 1 (msize m)) acq rel s

/-- AOR (R364). -/
def execAor (h : Hdr) (acq rel : Bool) (m : MField) (s : State) : Out :=
  accessForm h m (.atomic 2 (msize m)) acq rel s

/-- AXOR (R364). -/
def execAxor (h : Hdr) (acq rel : Bool) (m : MField) (s : State) : Out :=
  accessForm h m (.atomic 3 (msize m)) acq rel s

/-- AMIN (R364). -/
def execAmin (h : Hdr) (acq rel : Bool) (m : MField) (s : State) : Out :=
  accessForm h m (.atomic 4 (msize m)) acq rel s

/-- AMAX (R364). -/
def execAmax (h : Hdr) (acq rel : Bool) (m : MField) (s : State) : Out :=
  accessForm h m (.atomic 5 (msize m)) acq rel s

/-- AMINU (R364). -/
def execAminu (h : Hdr) (acq rel : Bool) (m : MField) (s : State) : Out :=
  accessForm h m (.atomic 6 (msize m)) acq rel s

/-- AMAXU (R364). -/
def execAmaxu (h : Hdr) (acq rel : Bool) (m : MField) (s : State) : Out :=
  accessForm h m (.atomic 7 (msize m)) acq rel s

/-- ASWP (R364). -/
def execAswp (h : Hdr) (acq rel : Bool) (m : MField) (s : State) : Out :=
  accessForm h m (.atomic 8 (msize m)) acq rel s

/-- ACAS (R364). -/
def execAcas (h : Hdr) (acq rel : Bool) (m : MField) (s : State) : Out :=
  accessForm h m (.atomic 9 (msize m)) acq rel s

/-! ### Serving far members (R26 to R29) -/

/-- The enabled tenant that a league ASID names, one that accepts league requests before any other. -/
def leagueTenant (s : State) (lasid : BitVec 16) : Option Nat :=
  let named := (List.range 16).filter (fun f => (s.tenant f).en && decide ((s.tenant f).lasid = lasid))
  match named.find? (fun f => (s.tenant f).lgon) with
  | some f => some f
  | none => named.head?

/-- The place that a far member's request reaches for a tenant, under the league ASID it carries (log 104), or the status
that refuses it (R26, R27, R29): 1 not
present, 2 denied. R27's outcomes name only a translation that is not present, a permission that is denied and a sweep window;
every other refusal here, of a malformed entry, a table read that failed, or an access that its place does not take, is
answered as denied, and with that logged as kind 6 (log 79). -/
def servePlace (s : State) (f : Nat) (r : LeagueRequest) : State × Except Nat Place :=
  match translateAccessAs s f r.lasid.toNat (r.addr.toNat % 2 ^ 45) (opAccess r.op) with
  | (s, .error (cause, _)) => (s, .error (if cause = 0x21 then 1 else 2))
  | (s, .ok p) =>
    match placeFault 192 r.op .zero false p with
    | some _ => (s, .error 2)
    | none => (s, .ok p)

/-- The check of an STFW, which reserves its target (R363). -/
def reservesTarget (r : LeagueRequest) : Bool :=
  r.check && (match r.op with
    | .stfw _ => true
    | _ => false)

/-- A far member's request at its place (R26, R28): an access is answered when it has been performed, and a check at once, but that
of an STFW when it has reserved its target (R363, log 106). -/
def serveAt (s : State) (r : LeagueRequest) (p : Place) : State :=
  let m := r.member.toNat
  if r.check && !reservesTarget r then s.emit (.leagueAnswer m 0 0)
  else
    let (id, s) := s.fresh
    submit s { Pend.start s id (if r.check then .farReserve m r.party else .far m r.party) r.op p r.addr 0 0 with
      data := r.data, expect := r.expect, rel := r.rel, scope := r.scope }

/-- A far member takes back an STFW's check or reservation (R363, log 106): the waiters of its target are released. -/
def serveCancel (s : State) (r : LeagueRequest) : State :=
  let m := r.member.toNat
  wake { s with
    pend := s.pend.filter (fun e => !(e.who == .farReserve m r.party && e.addr == r.addr))
    reserved := s.reserved.filter (fun x => !(x.tile == 256 + m && x.ctx == r.party && x.addr == r.addr)) }

/-- LEAGUE_REQUEST_SERVE (R26 to R29): a request of a far member is translated under its league ASID and performed, or
refused; a refusal with status 2 or 3 is logged as a violation of kind 6 or 7 (R42). While LGCTL.EN is 0 every request is
refused with status 3 (R24). -/
def execLeagueRequestServe (r : LeagueRequest) (s : State) : Out :=
  let refuse (s : State) (status : Nat) : Out := .next (s.emit (.leagueAnswer r.member.toNat status 0))
  let holder := leagueTenant s r.lasid
  if r.cancel then .next (serveCancel s r) else
  match holder with
  | some f =>
    if s.ctl.lgen && (s.tenant f).lgon then
      match servePlace s f r with
      | (s, .error status) =>
        if status = 2 then refuse (logViolation s f 6 r.addr r.member.toNat) 2 else refuse s 1
      | (s, .ok p) => .next (serveAt s r p)
    else refuse (logViolation s f 7 r.addr r.member.toNat) 3
  | none => refuse (logViolation s 0 7 r.addr r.member.toNat) 3

end Sys2Proof.Machine
end

