-- ==== Sys2Proof/Machine/Returns.lean ====
section
/-! DEFINITION. The return of accesses, at this module or from a far member (R26 to R28, R146, R355, R363): their values,
their traps, and the records of SPARM, copies and riders that had to be waited for. -/

namespace Sys2Proof.Machine

/-! ### Returns (R27, R146, R355, R363) -/

/-- The firing of an access that has returned: a tag keeps its colour and level. -/
def pendFiring (s : State) (e : Pend) (tile slot : Nat) (key : Key) : Firing :=
  let r : Option TagRec := match key with
    | some k => (s.fabric tile).tags.find? (fun x => x.tag == k)
    | none => none
  { tile := tile, slot := slot, key := key
    outer := match r with
      | some x => x.outer
      | none => false
    col := match r with
      | some x => x.col
      | none => 0
    left := none, right := none, third := none, off := false, anc := e.anc, taken := [] }

/-- The instruction at a slot of the block on a tile. -/
def slotInstr (s : State) (tile slot : Nat) : Option Instr :=
  match (s.fabric tile).blk with
  | some b => instrAt b slot
  | none => none

/-- The class M, X or E form whose 64-byte record has come goes on with it (R192, R283, R399), with the tokens that the read
has kept. -/
def returnRecord (s : State) (e : Pend) (tile slot : Nat) (key : Key) (bs : List Byte) : State :=
  let f0 := pendFiring s e tile slot key
  let f := { f0 with
    left := some (resultToken f0 e.expect false)
    right := if e.dtag then some (resultToken f0 (e.data.extractLsb' 0 64) false) else none }
  match slotInstr s tile slot, (s.tile tile).ctx with
  | some i, some c =>
    match i with
    | .sparm _ _ p => sparmRecord s f c p (BitVec.ofNat 512 (wordOfBytes bs))
    | .cpy h k ks kd => copyRecord s f h i .cpy k.toNat ks.toNat kd.toNat bs
    | .cpym h k ks kd => copyRecord s f h i .cpym k.toNat ks.toNat kd.toNat bs
    | .cpy2d h k ks kd => copyRecord s f h i .cpy2d k.toNat ks.toNat kd.toNat bs
    | .cpyfill h k kd => copyRecord s f h i .cpyfill k.toNat 0 kd.toNat bs
    | .cpyz h k ks kd => copyRecord s f h i .cpyz k.toNat ks.toNat kd.toNat bs
    | .riread h kr kc => riderRecord s f h i 1 kr.toNat kc.toNat bs
    | .rifilt h kr kc => riderRecord s f h i 2 kr.toNat kc.toNat bs
    | .rimatv h kr kc => riderRecord s f h i 3 kr.toNat kc.toNat bs
    | .riupd h kr kc => riderRecord s f h i 4 kr.toNat kc.toNat bs
    | .rired h kr kc => riderRecord s f h i 5 kr.toNat kc.toNat bs
    | .ricxg h kr kc => riderRecord s f h i 6 kr.toNat kc.toNat bs
    | .riwrite h kr kc => riderRecord s f h i 7 kr.toNat kc.toNat bs
    | .rifill h kr kc => riderRecord s f h i 8 kr.toNat kc.toNat bs
    | .ripref h kr kc => riderRecord s f h i 9 kr.toNat kc.toNat bs
    | _ => s
  | _, _ => s

/-- TINFO1 of a push whose check at a far member has failed (R293): the underlying cause joins the port and position that the
check carries. -/
def pushInfo1 (e : Pend) (cause : Nat) : Word := e.info1 ||| BitVec.ofNat 64 (256 * cause)

/-- A far member has answered the check of a push (R289, R293): in an iterating block the answer is kept until every check of the
tag is answered; otherwise a failure is the WR's trap. -/
def returnPush (s : State) (e : Pend) (tile slot : Nat) (key : Key) (g : Loaded) : State :=
  let pos := e.info1.toNat / 65536
  match g with
  | .failed cause i0 _ =>
    if isLoop s tile then notePush s tile slot key { pos := pos, cause := some cause }
    else trapSlot s tile slot key 0x41 i0 (pushInfo1 e cause)
  | .value _ | .run _ => if isLoop s tile then notePush s tile slot key { pos := pos, cause := none } else s

/-- An access of a firing returns (R355, R359, R363): a fault traps at its block or tag; a value leaves as tokens; a held
form resolves. -/
def returnToFiring (s : State) (e : Pend) (tile slot : Nat) (key : Key) (g : Loaded) : State :=
  match slotInstr s tile slot with
  | none => s
  | some i =>
    let f := pendFiring s e tile slot key
    match i, g with
    | .wr _ _ _, g => returnPush s e tile slot key g
    | _, .failed cause i0 i1 => trapSlot s tile slot key cause i0 i1
    | _, .run bs => returnRecord s e tile slot key bs
    | _, .value v =>
      match mfieldOf i, hdrOf i with
      | some m, some h =>
        if opReturns e.op then
          let tok : Token := match e.op with
            | .ldk =>
              { resultToken (chained f) v.val false with hi := v.hi, cap := true, ctag := v.ctag }
            | _ => resultToken (chained f) v.val false
          deliverAccess s f h m tok false
        else resolveHeld s f h m e.op e.place e.data e.dtag
      | _, _ => s

/-- An element that was asked for returns to its port's engine (R292, R293). -/
def returnToPort (s : State) (e : Pend) (tile ctx port pos : Nat) (g : Loaded) : State :=
  let got : Fetched := match g with
    | .value v => .value v.val
    | .run _ => .value 0
    | .failed 0x31 _ _ => .poison
    | .failed cause _ _ => .failed cause
  match (s.tile tile).ctx with
  | none => s
  | some c =>
    if c.id = ctx ∧ (c.port port).armed ∧ (c.port port).work.pos ≤ pos then
      { s with ahead := s.ahead ++ [{ tile := tile, port := port, pos := pos, place := some e.place,
                                      size := opSize e.op, got := got, since := e.id, upto := s.nextId }] }
    else s

/-- An access that has been performed or refused returns and leaves the list; what a copy, an engine command, a packet or the
device asked for stays until they take it. A store that its block has released, a landing or a status word is done, and what
stood behind it may go; where its far member has not answered within 100 µs, or refuses it after all, nothing is reported
(log 80): the trap of R27 is precise at the block, which has committed. -/
def returnPend (s : State) (e : Pend) (g : Loaded) : State :=
  let s0 := s
  let s := { s with pend := s.pend.filter (fun x => !(x.id == e.id)) }
  match e.who with
  | .firing t c j key => if s.ctxId t = c then returnToFiring s e t j key g else s
  | .prefetch t c p pos => returnToPort s e t c p pos g
  | .released _ c =>
    match e.op, e.place, g with
    | .stfw _, .league a, .failed _ _ _ => wake (cancelFar (endReserve s e) e.tenant c a)
    | _, _, _ => wake (endReserve s e)
  | .landing _ => wake s
  | .status f q => wake (releaseSignals s f q)
  | .lost c j key =>
    match g with
    | .value v => keepLost s c j key v.val
    | .run _ | .failed _ _ _ => s
  | .far _ _ | .farReserve _ _ => s
  | .device _ => demandDecision (bring s0 e g)
  | .packet _ | .copy _ | .engine _ _ _ => bring s0 e g

/-- An STFW of a firing. -/
def isStfw (e : Pend) : Bool :=
  match e.who, e.op with
  | .firing _ _ _ _, .stfw _ => true
  | _, _ => false

/-- An access whose result its packet, copy, command or the device takes itself. -/
def keepsResult (e : Pend) : Bool :=
  match e.who with
  | .packet _ | .copy _ | .device _ | .engine _ _ _ => true
  | _ => false

/-- LOAD_RETURN (R359): the value or fault of a performed access returns to its tile. -/
def execLoadReturn (id : Nat) (s : State) : Out :=
  match s.pend.find? (fun e => e.id == id) with
  | none => .next s
  | some e =>
    match e.got with
    | none => .next s
    | some g => if isStfw e || keepsResult e then .next s else .next (returnPend s e g)

/-- STFW_RESERVATION (R363): an STFW that has its reservation resolves. -/
def execStfwReservation (tile id : Nat) (s : State) : Out :=
  match s.pend.find? (fun e => e.id == id) with
  | none => .next s
  | some e =>
    match e.got with
    | none => .next s
    | some g => if isStfw e && e.who.party.1 == tile then .next (returnPend s e g) else .next s

/-! ### Far members (R26 to R28) -/

/-- The value of an access that a far member answers with raw bytes (R358, R360, R362, R364), under the stores of its block
that a chain links before it (R225). The answer carries no tag: whether LDK brings the far granule's tag is not said, and
its CTAG is clear (log 90). -/
def farValue (hs : List Held) (p : Place) (op : MemOp) (value : Nat) : MemValue :=
  let w : Word := BitVec.ofNat 64 value
  match op with
  | .load n signed => .word (loadExtend n signed (BitVec.ofNat 64 (linkedValue hs p n value)))
  | .ldk =>
    let v := linkedValue hs p 16 value
    { val := BitVec.ofNat 64 v, hi := BitVec.ofNat 64 (v / 2 ^ 64), ctag := false }
  | .lde n => .word (loadExtend n true w)
  | .feq _ => .word (if linkedFill hs p then 1 else w)
  | .atomic fn n => .word (atomicResult fn n w)
  | .store _ => .word 0
  | .stk => .word 0
  | .stf _ => .word 0
  | .stfw _ => .word 0
  | .feclr _ => .word 0
  | .feset _ => .word 0
  | .line _ _ => .word 0
  | .peek n => .word (zext (8 * n) w)

/-- What a far member's answer brings: a value, or the bytes of a longer read. -/
def farLoaded (s : State) (e : Pend) (value : Nat) : Loaded :=
  let hs := linkedStores s e
  let long : Option Nat := match e.op with
    | .load n _ | .peek n => if 8 < n then some n else none
    | _ => none
  match long with
  | some n => .run ((bytesOf n value).zipIdx.map (fun b => linkedByte hs e.place b.2 b.1))
  | none => .value (farValue hs e.place e.op value)

/-- The end of the 100 µs that an answer may take (R27), in nanoseconds. -/
def leagueLimit : Nat := 100000

/-- A far access that has been sent and not answered. -/
def farPend (s : State) (id : Nat) : Option Pend :=
  s.pend.find? (fun e => e.id == id && e.got.isNone && e.sent && (match e.place with
    | .league _ => true
    | _ => false))

/-- An answered access acts as an acquire (R226, R292): one whose far place may be a line that it found full or waited for, and
FEQ = 1. The elements read ahead that an atomic has written go with the others, for an abandoned block's atomic too. -/
def farAcquires (e : Pend) (g : Loaded) : Bool :=
  e.acq || (match e.op, g with
    | .load _ _, _ | .ldk, _ | .lde _, _ | .atomic _ _, _ => true
    | .feq _, .value v => decide (v.val = 1)
    | _, _ => false)

/-- The far member has reserved the target of an STFW (R363). -/
def farReserved (s : State) (e : Pend) : State :=
  match e.who, e.op with
  | .firing t c j key, .stfw _ =>
    { s with reserved := s.reserved ++ [{ tile := t, ctx := c, slot := j, key := key, place := e.place }] }
  | _, _ => s

/-- LEAGUE_RESPONSE (R27): status 0 answers, 1 to 3 refuse with cause 0x2F, and any other is an uncorrectable error on
the data. -/
def execLeagueResponse (id status value : Nat) (s : State) : Out :=
  match farPend s id with
  | none => .next s
  | some e =>
    if s.now > e.since + leagueLimit then .next s
    else if status = 0 then
      let g := farLoaded s e value
      let s := match e.op, g with
        | .lde _, .value v => keepReplay s e v.val
        | .atomic _ _, .value v => keepReplay s e v.val
        | _, _ => s
      let s := match e.who with
        | .firing t _ _ _ => if farAcquires e g then acquire s t else s
        | .lost ctx _ _ => (List.range 192).foldl (fun s t => if s.ctxId t = ctx then acquire s t else s) s
        | _ => s
      .next (returnPend (farReserved s e) e g)
    else if status ≤ 3 then .next (returnPend s e (.failed 0x2F e.addr (leagueInfo1 e.addr status)))
    else .next (returnPend s e (.failed 0x31 e.addr e.info1))

/-- LEAGUE_TIMEOUT (R27): an access that has had no answer within 100 µs of sending traps with cause 0x2E. -/
def execLeagueTimeout (id : Nat) (s : State) : Out :=
  match farPend s id with
  | none => .next s
  | some e =>
    if s.now > e.since + leagueLimit then
      let s := match e.asksReserve with
        | some a => cancelFar s e.tenant e.who.party.2 a
        | none => s
      .next (returnPend s e (.failed 0x2E e.addr (leagueInfo1 e.addr 0)))
    else .next s

end Sys2Proof.Machine
end

