-- ==== Sys2Proof/Machine/Dispatch.lean ====
section
/-! DEFINITION. The dispatch from an instruction or device step to its meaning. -/

namespace Sys2Proof.Machine

/-- One instruction or device step. -/
def exec (i : Instr) (s : State) : Host.Outcome State Fault Refusal :=
  match i with
  | .rd h keep kr n => Sys2Proof.Machine.execRd h keep kr n s
  | .wr h kr n => Sys2Proof.Machine.execWr h kr n s
  | .mov h => Sys2Proof.Machine.execMov h s
  | .movi h imm => Sys2Proof.Machine.execMovi h imm s
  | .movhi h imm => Sys2Proof.Machine.execMovhi h imm s
  | .nul h => Sys2Proof.Machine.execNul h s
  | .sel h => Sys2Proof.Machine.execSel h s
  | .tagof h => Sys2Proof.Machine.execTagof h s
  | .lgen h => Sys2Proof.Machine.execLgen h s
  | .lgen2 h => Sys2Proof.Machine.execLgen2 h s
  | .teos h => Sys2Proof.Machine.execTeos h s
  | .add h => Sys2Proof.Machine.execAdd h s
  | .sub h => Sys2Proof.Machine.execSub h s
  | .mul h => Sys2Proof.Machine.execMul h s
  | .mulh h => Sys2Proof.Machine.execMulh h s
  | .mulhu h => Sys2Proof.Machine.execMulhu h s
  | .div h => Sys2Proof.Machine.execDiv h s
  | .divu h => Sys2Proof.Machine.execDivu h s
  | .rem h => Sys2Proof.Machine.execRem h s
  | .remu h => Sys2Proof.Machine.execRemu h s
  | .and h => Sys2Proof.Machine.execAnd h s
  | .or h => Sys2Proof.Machine.execOr h s
  | .xor h => Sys2Proof.Machine.execXor h s
  | .andn h => Sys2Proof.Machine.execAndn h s
  | .shl h => Sys2Proof.Machine.execShl h s
  | .shr h => Sys2Proof.Machine.execShr h s
  | .sar h => Sys2Proof.Machine.execSar h s
  | .rol h => Sys2Proof.Machine.execRol h s
  | .clz h => Sys2Proof.Machine.execClz h s
  | .ctz h => Sys2Proof.Machine.execCtz h s
  | .popc h => Sys2Proof.Machine.execPopc h s
  | .min h => Sys2Proof.Machine.execMin h s
  | .max h => Sys2Proof.Machine.execMax h s
  | .minu h => Sys2Proof.Machine.execMinu h s
  | .maxu h => Sys2Proof.Machine.execMaxu h s
  | .bfx h lsb len1 => Sys2Proof.Machine.execBfx h lsb len1 s
  | .bfxu h lsb len1 => Sys2Proof.Machine.execBfxu h lsb len1 s
  | .bfi h lsb len1 => Sys2Proof.Machine.execBfi h lsb len1 s
  | .shadd h s1 => Sys2Proof.Machine.execShadd h s1 s
  | .addi h imm => Sys2Proof.Machine.execAddi h imm s
  | .muli h imm => Sys2Proof.Machine.execMuli h imm s
  | .andi h imm => Sys2Proof.Machine.execAndi h imm s
  | .ori h imm => Sys2Proof.Machine.execOri h imm s
  | .xori h imm => Sys2Proof.Machine.execXori h imm s
  | .shli h imm => Sys2Proof.Machine.execShli h imm s
  | .shri h imm => Sys2Proof.Machine.execShri h imm s
  | .sari h imm => Sys2Proof.Machine.execSari h imm s
  | .teq h => Sys2Proof.Machine.execTeq h s
  | .tne h => Sys2Proof.Machine.execTne h s
  | .tlt h => Sys2Proof.Machine.execTlt h s
  | .tle h => Sys2Proof.Machine.execTle h s
  | .tltu h => Sys2Proof.Machine.execTltu h s
  | .tleu h => Sys2Proof.Machine.execTleu h s
  | .teqi h imm => Sys2Proof.Machine.execTeqi h imm s
  | .tnei h imm => Sys2Proof.Machine.execTnei h imm s
  | .tlti h imm => Sys2Proof.Machine.execTlti h imm s
  | .tlei h imm => Sys2Proof.Machine.execTlei h imm s
  | .tltui h imm => Sys2Proof.Machine.execTltui h imm s
  | .tleui h imm => Sys2Proof.Machine.execTleui h imm s
  | .pand h => Sys2Proof.Machine.execPand h s
  | .por h => Sys2Proof.Machine.execPor h s
  | .pnot h => Sys2Proof.Machine.execPnot h s
  | .fadd h rm sat => Sys2Proof.Machine.execFadd h rm sat s
  | .fsub h rm sat => Sys2Proof.Machine.execFsub h rm sat s
  | .fmul h rm sat => Sys2Proof.Machine.execFmul h rm sat s
  | .ffma h rm sat => Sys2Proof.Machine.execFfma h rm sat s
  | .fdiv h rm sat => Sys2Proof.Machine.execFdiv h rm sat s
  | .fmin h => Sys2Proof.Machine.execFmin h s
  | .fmax h => Sys2Proof.Machine.execFmax h s
  | .fcvt h fn rm sat => Sys2Proof.Machine.execFcvt h fn rm sat s
  | .fteq h => Sys2Proof.Machine.execFteq h s
  | .ftlt h => Sys2Proof.Machine.execFtlt h s
  | .ftle h => Sys2Proof.Machine.execFtle h s
  | .br h off => Sys2Proof.Machine.execBr h off s
  | .bri h => Sys2Proof.Machine.execBri h s
  | .call h off => Sys2Proof.Machine.execCall h off s
  | .calli h => Sys2Proof.Machine.execCalli h s
  | .ret h => Sys2Proof.Machine.execRet h s
  | .halt h => Sys2Proof.Machine.execHalt h s
  | .ldb h m => Sys2Proof.Machine.execLdb h m s
  | .ldbu h m => Sys2Proof.Machine.execLdbu h m s
  | .ldh h m => Sys2Proof.Machine.execLdh h m s
  | .ldhu h m => Sys2Proof.Machine.execLdhu h m s
  | .ldw h m => Sys2Proof.Machine.execLdw h m s
  | .ldwu h m => Sys2Proof.Machine.execLdwu h m s
  | .ldd h m => Sys2Proof.Machine.execLdd h m s
  | .ldk h m => Sys2Proof.Machine.execLdk h m s
  | .stb h m => Sys2Proof.Machine.execStb h m s
  | .sth h m => Sys2Proof.Machine.execSth h m s
  | .stw h m => Sys2Proof.Machine.execStw h m s
  | .std h m => Sys2Proof.Machine.execStd h m s
  | .stk h m => Sys2Proof.Machine.execStk h m s
  | .lde h m => Sys2Proof.Machine.execLde h m s
  | .stf h m => Sys2Proof.Machine.execStf h m s
  | .stfw h m => Sys2Proof.Machine.execStfw h m s
  | .feq h m => Sys2Proof.Machine.execFeq h m s
  | .feclr h m => Sys2Proof.Machine.execFeclr h m s
  | .feset h m => Sys2Proof.Machine.execFeset h m s
  | .aadd h acq rel m => Sys2Proof.Machine.execAadd h acq rel m s
  | .aand h acq rel m => Sys2Proof.Machine.execAand h acq rel m s
  | .aor h acq rel m => Sys2Proof.Machine.execAor h acq rel m s
  | .axor h acq rel m => Sys2Proof.Machine.execAxor h acq rel m s
  | .amin h acq rel m => Sys2Proof.Machine.execAmin h acq rel m s
  | .amax h acq rel m => Sys2Proof.Machine.execAmax h acq rel m s
  | .aminu h acq rel m => Sys2Proof.Machine.execAminu h acq rel m s
  | .amaxu h acq rel m => Sys2Proof.Machine.execAmaxu h acq rel m s
  | .aswp h acq rel m => Sys2Proof.Machine.execAswp h acq rel m s
  | .acas h acq rel m => Sys2Proof.Machine.execAcas h acq rel m s
  | .kadv h => Sys2Proof.Machine.execKadv h s
  | .ktrim h => Sys2Proof.Machine.execKtrim h s
  | .kmask h => Sys2Proof.Machine.execKmask h s
  | .kbase h => Sys2Proof.Machine.execKbase h s
  | .klen h => Sys2Proof.Machine.execKlen h s
  | .kattr h => Sys2Proof.Machine.execKattr h s
  | .klock h => Sys2Proof.Machine.execKlock h s
  | .kopen h => Sys2Proof.Machine.execKopen h s
  | .sparm h k p => Sys2Proof.Machine.execSparm h k p s
  | .spdis h p => Sys2Proof.Machine.execSpdis h p s
  | .sppos h p => Sys2Proof.Machine.execSppos h p s
  | .spskip h p => Sys2Proof.Machine.execSpskip h p s
  | .fence h kinds scope => Sys2Proof.Machine.execFence h kinds scope s
  | .qfence h q => Sys2Proof.Machine.execQfence h q s
  | .binit h b => Sys2Proof.Machine.execBinit h b s
  | .barr h b => Sys2Proof.Machine.execBarr h b s
  | .bwait h b => Sys2Proof.Machine.execBwait h b s
  | .waitq h q => Sys2Proof.Machine.execWaitq h q s
  | .syscall h => Sys2Proof.Machine.execSyscall h s
  | .brk h => Sys2Proof.Machine.execBrk h s
  | .tret h => Sys2Proof.Machine.execTret h s
  | .csrr h n => Sys2Proof.Machine.execCsrr h n s
  | .csrw h n => Sys2Proof.Machine.execCsrw h n s
  | .tlbiVa h => Sys2Proof.Machine.execTlbiVa h s
  | .tlbiCtx h => Sys2Proof.Machine.execTlbiCtx h s
  | .tlbiAsid h => Sys2Proof.Machine.execTlbiAsid h s
  | .tlbiAll h => Sys2Proof.Machine.execTlbiAll h s
  | .asidrt h => Sys2Proof.Machine.execAsidrt h s
  | .wfe h => Sys2Proof.Machine.execWfe h s
  | .vld h v => Sys2Proof.Machine.execVld h v s
  | .vst h v => Sys2Proof.Machine.execVst h v s
  | .vlds h v => Sys2Proof.Machine.execVlds h v s
  | .vsts h v => Sys2Proof.Machine.execVsts h v s
  | .vgth h v => Sys2Proof.Machine.execVgth h v s
  | .vsct h v => Sys2Proof.Machine.execVsct h v s
  | .vscta h v => Sys2Proof.Machine.execVscta h v s
  | .vbcst h v => Sys2Proof.Machine.execVbcst h v s
  | .vadd h v => Sys2Proof.Machine.execVadd h v s
  | .vsub h v => Sys2Proof.Machine.execVsub h v s
  | .vmul h v => Sys2Proof.Machine.execVmul h v s
  | .vfma h v => Sys2Proof.Machine.execVfma h v s
  | .vmin h v => Sys2Proof.Machine.execVmin h v s
  | .vmax h v => Sys2Proof.Machine.execVmax h v s
  | .vabs h v => Sys2Proof.Machine.execVabs h v s
  | .vneg h v => Sys2Proof.Machine.execVneg h v s
  | .vand h v => Sys2Proof.Machine.execVand h v s
  | .vor h v => Sys2Proof.Machine.execVor h v s
  | .vxor h v => Sys2Proof.Machine.execVxor h v s
  | .vshl h v => Sys2Proof.Machine.execVshl h v s
  | .vshr h v => Sys2Proof.Machine.execVshr h v s
  | .vcvt h v => Sys2Proof.Machine.execVcvt h v s
  | .vexp2 h v => Sys2Proof.Machine.execVexp2 h v s
  | .vrcp h v => Sys2Proof.Machine.execVrcp h v s
  | .vrsq h v => Sys2Proof.Machine.execVrsq h v s
  | .vredadd h v => Sys2Proof.Machine.execVredadd h v s
  | .vredmax h v => Sys2Proof.Machine.execVredmax h v s
  | .vredmin h v => Sys2Proof.Machine.execVredmin h v s
  | .vcmp h cond v => Sys2Proof.Machine.execVcmp h cond v s
  | .vsel h v => Sys2Proof.Machine.execVsel h v s
  | .vperm h v => Sys2Proof.Machine.execVperm h v s
  | .vcmpr h v => Sys2Proof.Machine.execVcmpr h v s
  | .viota h v => Sys2Proof.Machine.execViota h v s
  | .mand h v => Sys2Proof.Machine.execMand h v s
  | .mor h v => Sys2Proof.Machine.execMor h v s
  | .mnot h v => Sys2Proof.Machine.execMnot h v s
  | .mpopc h v => Sys2Proof.Machine.execMpopc h v s
  | .vins h v => Sys2Proof.Machine.execVins h v s
  | .mlws h k fmt => Sys2Proof.Machine.execMlws h k fmt s
  | .mswap h => Sys2Proof.Machine.execMswap h s
  | .mpass h k m1 row0 => Sys2Proof.Machine.execMpass h k m1 row0 s
  | .mpasss h k m1 row0 => Sys2Proof.Machine.execMpasss h k m1 row0 s
  | .mzero h m1 row0 => Sys2Proof.Machine.execMzero h m1 row0 s
  | .mrd h k m1 row0 dt rm sat => Sys2Proof.Machine.execMrd h k m1 row0 dt rm sat s
  | .mcbl h k => Sys2Proof.Machine.execMcbl h k s
  | .rank h vd va mg me kt mc => Sys2Proof.Machine.execRank h vd va mg me kt mc s
  | .rkmerge h vd va vb kt mc => Sys2Proof.Machine.execRkmerge h vd va vb kt mc s
  | .rkatl h k => Sys2Proof.Machine.execRkatl h k s
  | .rkpass h k m1 row0 => Sys2Proof.Machine.execRkpass h k m1 row0 s
  | .rkrecon h vd va vb mg me => Sys2Proof.Machine.execRkrecon h vd va vb mg me s
  | .cpy h rec src dst => Sys2Proof.Machine.execCpy h rec src dst s
  | .cpym h rec src dst => Sys2Proof.Machine.execCpym h rec src dst s
  | .cpy2d h rec src dst => Sys2Proof.Machine.execCpy2d h rec src dst s
  | .cpyfill h rec dst => Sys2Proof.Machine.execCpyfill h rec dst s
  | .cpyz h rec src dst => Sys2Proof.Machine.execCpyz h rec src dst s
  | .riread h region rec => Sys2Proof.Machine.execRiread h region rec s
  | .rifilt h region rec => Sys2Proof.Machine.execRifilt h region rec s
  | .rimatv h region rec => Sys2Proof.Machine.execRimatv h region rec s
  | .riupd h region rec => Sys2Proof.Machine.execRiupd h region rec s
  | .rired h region rec => Sys2Proof.Machine.execRired h region rec s
  | .ricxg h region rec => Sys2Proof.Machine.execRicxg h region rec s
  | .riwrite h region rec => Sys2Proof.Machine.execRiwrite h region rec s
  | .rifill h region rec => Sys2Proof.Machine.execRifill h region rec s
  | .ripref h region rec => Sys2Proof.Machine.execRipref h region rec s
  | .packetLaunch slot => Sys2Proof.Machine.execPacketLaunch slot s
  | .packetCopy slot => Sys2Proof.Machine.execPacketCopy slot s
  | .packetHint slot => Sys2Proof.Machine.execPacketHint slot s
  | .packetSignal slot => Sys2Proof.Machine.execPacketSignal slot s
  | .packetWait slot => Sys2Proof.Machine.execPacketWait slot s
  | .packetQueueFence slot => Sys2Proof.Machine.execPacketQueueFence slot s
  | .packetMalformed slot => Sys2Proof.Machine.execPacketMalformed slot s
  | .packetComplete f q index => Sys2Proof.Machine.execPacketComplete f q index s
  | .contextImageLoad tile => Sys2Proof.Machine.execContextImageLoad tile s
  | .localDone tile => Sys2Proof.Machine.execLocalDone tile s
  | .regionConverge launch region => Sys2Proof.Machine.execRegionConverge launch region s
  | .regionStart launch region => Sys2Proof.Machine.execRegionStart launch region s
  | .saveImageComplete tile => Sys2Proof.Machine.execSaveImageComplete tile s
  | .saveBankFree tile => Sys2Proof.Machine.execSaveBankFree tile s
  | .grantStep stack => Sys2Proof.Machine.execGrantStep stack s
  | .barrierRelease launch region barrier => Sys2Proof.Machine.execBarrierRelease launch region barrier s
  | .blockFetch tile => Sys2Proof.Machine.execBlockFetch tile s
  | .blockMap tile => Sys2Proof.Machine.execBlockMap tile s
  | .tokenArrival tile index => Sys2Proof.Machine.execTokenArrival tile index s
  | .toyboxReturn tile cluster set => Sys2Proof.Machine.execToyboxReturn tile cluster set s
  | .tagEmit tile => Sys2Proof.Machine.execTagEmit tile s
  | .tagComplete tile tag => Sys2Proof.Machine.execTagComplete tile tag s
  | .tagRetire tile => Sys2Proof.Machine.execTagRetire tile s
  | .blockCommit tile => Sys2Proof.Machine.execBlockCommit tile s
  | .quiescenceTrap tile => Sys2Proof.Machine.execQuiescenceTrap tile s
  | .trapEntry tile => Sys2Proof.Machine.execTrapEntry tile s
  | .engineTrapTaken tile => Sys2Proof.Machine.execEngineTrapTaken tile s
  | .loadReturn id => Sys2Proof.Machine.execLoadReturn id s
  | .stfwReservation tile id => Sys2Proof.Machine.execStfwReservation tile id s
  | .wfeTimeout tile => Sys2Proof.Machine.execWfeTimeout tile s
  | .streamPrefetch tile port => Sys2Proof.Machine.execStreamPrefetch tile port s
  | .vectorCommandPerform tile => Sys2Proof.Machine.execVectorCommandPerform tile s
  | .matrixCommandPerform tile => Sys2Proof.Machine.execMatrixCommandPerform tile s
  | .accumulatorRowLand tile => Sys2Proof.Machine.execAccumulatorRowLand tile s
  | .queueFenceRelease tile fence => Sys2Proof.Machine.execQueueFenceRelease tile fence s
  | .copyStart tile => Sys2Proof.Machine.execCopyStart tile s
  | .copyChunk id => Sys2Proof.Machine.execCopyChunk id s
  | .followOnEntry id => Sys2Proof.Machine.execFollowOnEntry id s
  | .copyComplete id => Sys2Proof.Machine.execCopyComplete id s
  | .riderLeaveQueue tile => Sys2Proof.Machine.execRiderLeaveQueue tile s
  | .legArrival rider ring => Sys2Proof.Machine.execLegArrival rider ring s
  | .riderComplete rider => Sys2Proof.Machine.execRiderComplete rider s
  | .functionLevelReset f => Sys2Proof.Machine.execFunctionLevelReset f s
  | .coldReset => Sys2Proof.Machine.execColdReset s
  | .hotReset => Sys2Proof.Machine.execHotReset s
  | .watchdogReset => Sys2Proof.Machine.execWatchdogReset s
  | .bootRomCheck => Sys2Proof.Machine.execBootRomCheck s
  | .puppeteerStart => Sys2Proof.Machine.execPuppeteerStart s
  | .bringupRunning => Sys2Proof.Machine.execBringupRunning s
  | .thermalForecast => Sys2Proof.Machine.execThermalForecast s
  | .fwactDupgoClear => Sys2Proof.Machine.execFwactDupgoClear s
  | .fwImageLoaded => Sys2Proof.Machine.execFwImageLoaded s
  | .fwActivated => Sys2Proof.Machine.execFwActivated s
  | .attcmdGo => Sys2Proof.Machine.execAttcmdGo s
  | .attestReportDone => Sys2Proof.Machine.execAttestReportDone s
  | .rellastValidClear => Sys2Proof.Machine.execRellastValidClear s
  | .puppeteerTimerTick => Sys2Proof.Machine.execPuppeteerTimerTick s
  | .schedulingDecision => Sys2Proof.Machine.execSchedulingDecision s
  | .sweepSlot => Sys2Proof.Machine.execSweepSlot s
  | .tileSelfTest failing => Sys2Proof.Machine.execTileSelfTest failing s
  | .sensorReport dram stack halfDegrees => Sys2Proof.Machine.execSensorReport dram stack halfDegrees s
  | .flitReplay port => Sys2Proof.Machine.execFlitReplay port s
  | .volongPortDown port => Sys2Proof.Machine.execVolongPortDown port s
  | .leagueRequestServe r => Sys2Proof.Machine.execLeagueRequestServe r s
  | .leagueResponse id status value => Sys2Proof.Machine.execLeagueResponse id status value s
  | .leagueTimeout id => Sys2Proof.Machine.execLeagueTimeout id s
  | .lgctlWrite v => Sys2Proof.Machine.execLgctlWrite v s
  | .tencfgWrite f v => Sys2Proof.Machine.execTencfgWrite f v s
  | .tenptWrite f v => Sys2Proof.Machine.execTenptWrite f v s
  | .fwactGo v => Sys2Proof.Machine.execFwactGo v s
  | .vlogctlHeadWrite f v => Sys2Proof.Machine.execVlogctlHeadWrite f v s
  | .tnstatClear f v => Sys2Proof.Machine.execTnstatClear f v s
  | .vlstatDownevClear port => Sys2Proof.Machine.execVlstatDownevClear port s
  | .slewtabWrite stack v => Sys2Proof.Machine.execSlewtabWrite stack v s
  | .registerWrite f off size v => Sys2Proof.Machine.execRegisterWrite f off size v s
  | .doorbellKick f q w => Sys2Proof.Machine.execDoorbellKick f q w s
  | .doorbellCreate f q desc => Sys2Proof.Machine.execDoorbellCreate f q desc s
  | .doorbellDestroy f q => Sys2Proof.Machine.execDoorbellDestroy f q s
  | .doorbellReserved f q => Sys2Proof.Machine.execDoorbellReserved f q s
  | .eventArm kind key cookie => Sys2Proof.Machine.execEventArm kind key cookie s
  | .eventArrival kind key => Sys2Proof.Machine.execEventArrival kind key s
  | .map tile entry source => Sys2Proof.Machine.execMap tile entry source s
  | .unmap tile entry => Sys2Proof.Machine.execUnmap tile entry s
  | .switch stack region => Sys2Proof.Machine.execSwitch stack region s
  | .contextResume tile entry ctxId => Sys2Proof.Machine.execContextResume tile entry ctxId s
  | .blockCacheRefetch tile => Sys2Proof.Machine.execBlockCacheRefetch tile s
  | .faultRollback tile kind => Sys2Proof.Machine.execFaultRollback tile kind s
  | .benchLaneGrant ring => Sys2Proof.Machine.execBenchLaneGrant ring s
  | .legBoard rider ring => Sys2Proof.Machine.execLegBoard rider ring s
  | .legAlight rider ring => Sys2Proof.Machine.execLegAlight rider ring s
  | .pageRequest f leaf => Sys2Proof.Machine.execPageRequest f leaf s
  | .fillStart f leaf => Sys2Proof.Machine.execFillStart f leaf s
  | .fillSourceReady leaf => Sys2Proof.Machine.execFillSourceReady leaf s
  | .fillComplete leaf => Sys2Proof.Machine.execFillComplete leaf s
  | .fillFail leaf status => Sys2Proof.Machine.execFillFail leaf status s
  | .pageEvict leaf => Sys2Proof.Machine.execPageEvict leaf s
  | .volongPortUp port => Sys2Proof.Machine.execVolongPortUp port s
  | .configurationRequest f vfEnable => Sys2Proof.Machine.execConfigurationRequest f vfEnable s
  | .registerRead f off size => Sys2Proof.Machine.execRegisterRead f off size s
  | .scaleOutReceive dest addr bytes => Sys2Proof.Machine.execScaleOutReceive dest addr bytes s

end Sys2Proof.Machine
end

