-- ==== Sys2Proof/Machine/Schedule.lean ====
section
/-! DEFINITION. Which happening comes next (log 1): one that the agenda names, or, with an empty agenda, a free choice among
what the device does of its own accord. After a thermal trip (R34, R48) only what needs neither tile nor sweep happens. -/

namespace Sys2Proof.Machine

/-! ### After a thermal trip (R34, R48) -/

/-- A device step that a thermal trip leaves possible: resets, register accesses, reports and time. -/
def survivesTrip (i : Instr) : Bool :=
  match i with
  | .functionLevelReset _ | .coldReset | .hotReset | .fwactDupgoClear | .attcmdGo | .attestReportDone
  | .rellastValidClear | .sweepSlot | .thermalForecast | .sensorReport _ _ _ | .flitReplay _ | .volongPortDown _
  | .volongPortUp _ | .eventArm _ _ _ | .eventArrival _ _ | .lgctlWrite _ | .tencfgWrite _ _ | .tenptWrite _ _ | .fwactGo _ | .vlogctlHeadWrite _ _
  | .tnstatClear _ _ | .vlstatDownevClear _ | .slewtabWrite _ _ | .registerWrite _ _ _ _ | .registerRead _ _ _
  | .configurationRequest _ _ => true
  | _ => false

/-- A device step happens, unless a thermal trip has stopped what it needs. -/
def deviceStep (i : Instr) (s : State) : Out := if s.ctl.trip && !survivesTrip i then .next s else exec i s

/-- A cluster fires (R101, R119, R131): toybox entries return to the ways that are free, and the instruction of the slot that is
ready and comes first runs on its operands; the others that had theirs have been passed over. -/
def fireCluster (s : State) (t c : Nat) : Out :=
  if s.ctl.trip then .next s
  else
    let s := returnToys s t
    match chooseFiring s t c, (s.fabric t).blk with
    | some a, some b =>
      match instrAt b a.slot with
      | some i => exec i (takeOperands (countWaits s t c a) t b i a)
      | none => .fault .rejectedWord
    | _, _ => .next s

/-- A happening of the agenda. -/
def happen (h : Happening) (s : State) : Out :=
  match h with
  | .fire t c => fireCluster s t c
  | .ev i => deviceStep i s
  | .hostWrite addr bytes => .next { s with host := mwriteBytes s.host addr bytes }
  | .hostPoison lo hi => .next { s with hostBad := (lo, hi, true) :: s.hostBad }
  | .hostFail lo hi => .next { s with hostBad := (lo, hi, false) :: s.hostBad }
  | .hostHeal => .next { s with hostBad := [] }
  | .upset t line => .next (wake (setLine s t line { full := true, poison := true }))
  | .softError chunk bad =>
    .next { s with badChunks := tset 0 s.badChunks chunk (if bad || tget 0 s.badChunks chunk == 2 then 2 else 1) }
  | .scaleOutSend source addr n => .next (scaleOutSend source addr n s)
  | .portFalls port => execVolongPortDown port s

/-! ### Locked pairs (R84) -/

/-- The scratchpad of the trailing tile of every locked pair holds what the leading tile's holds: it executes the same blocks, and
deliveries are written to both tiles (R84). -/
def mirrorPairs (s : State) : State :=
  (List.range 96).foldl (fun s k =>
    match (s.tile (2 * k)).ctx with
    | some c =>
      if c.lock then
        let x := s.tile (2 * k)
        s.modTile (2 * k + 1) (fun y => { y with mem := x.mem, lines := x.lines, gtags := x.gtags })
      else s
    | none => s) s

/-- What happens, and the trailing tiles with it. -/
def mirrored (o : Out) : Out :=
  match o with
  | .next s => .next (mirrorPairs s)
  | .fault e => .fault e
  | .refused r => .refused r

/-! ### What the device does of its own accord -/

/-- What tile t may do. -/
def tileChoices (s : State) (t : Nat) : List (State → Out) :=
  let x := s.fabric t
  (List.range 16).map (fun c => fun s => fireCluster s t c) ++
  (List.range x.mesh.length).map (fun i => execTokenArrival t i) ++
  x.toybox.map (fun o => execToyboxReturn t (o.2.slot / 8) (storeSet o.2.slot o.2.tok.tag)) ++
  x.tags.map (fun r => execTagComplete t r.tag) ++
  (List.range 8).map (fun p => execStreamPrefetch t p) ++
  (match (s.tile t).ctx with
    | some c => [0, 1, 2, 3].flatMap (fun q => (c.queue q).filterMap (fun e =>
        if e.instr.isNone then some (execQueueFenceRelease t e.fence) else none))
    | none => []) ++
  [execBlockFetch t, execBlockMap t, execTagEmit t, execTagRetire t, execBlockCommit t, execQuiescenceTrap t, execTrapEntry t,
   execEngineTrapTaken t, execWfeTimeout t, execVectorCommandPerform t, execMatrixCommandPerform t,
   execAccumulatorRowLand t, execCopyStart t, execRiderLeaveQueue t, execContextImageLoad t, execLocalDone t,
   execSaveImageComplete t, execSaveBankFree t]

/-- What a launch may do: the puppeteer maps its nodes and images into free entries, regions start and converge, barriers
release. -/
def launchChoices (s : State) (l : Launch) : List (State → Out) :=
  l.regions.flatMap (fun r =>
    [execRegionStart l.id r.region, execRegionConverge l.id r.region] ++
    (List.range 4).map (fun b => execBarrierRelease l.id r.region b) ++
    (if r.st = .waiting then r.nodes.flatMap (fun p =>
      if (r.seq p.2).isEmpty then (List.range 8).map (fun e => execMap p.2 e (.node l.id p.1)) else []) else [])) ++
  (s.images.filter (fun i => i.ctx.launch == l.id)).flatMap (fun i =>
    (List.range 192).flatMap (fun t => (List.range 8).map (fun e => execContextResume t e i.ctx.id)))

/-- What a queue may do. -/
def queueChoices (q : Queue) : List (State → Out) :=
  (match q.slot with
    | some n => [execPacketLaunch n, execPacketCopy n, execPacketHint n, execPacketSignal n, execPacketWait n,
        execPacketQueueFence n, execPacketMalformed n]
    | none => []) ++
  q.started.map (fun p => execPacketComplete q.tenant q.index p.index.toNat)

/-- What riders and fills may do beyond the slots of their rings. -/
def sweepChoices (s : State) : List (State → Out) :=
  s.riders.map (fun r => execRiderComplete r.id) ++
  s.riders.flatMap (fun r => r.legs.flatMap (fun l => execLegArrival r.id l.ring ::
    l.deferred.map (fun w => execPageRequest r.tenant w.leaf))) ++
  s.queues.flatMap (fun q => q.started.flatMap (fun p => match p.work with
    | .hint ps _ => ps.map (fun w => execPageRequest q.tenant w.leaf)
    | .launch _ | .copy _ | .wait _ | .signal _ => [])) ++
  s.fills.flatMap (fun f => [execFillStart f.tenant f.page.leaf, execFillSourceReady f.page.leaf,
    execFillComplete f.page.leaf] ++ (match f.st with
      | .failed k => [execFillFail f.page.leaf k]
      | .requested | .waiting | .reading | .ready | .boarding => [])) ++
  s.residents.map (fun r => execPageEvict r.page.leaf)

/-- Time passes: a slot of every ring, and every 1 ms the puppeteer's tick (R39, R64). -/
def passTime (s : State) : Out :=
  match execSweepSlot s with
  | .next s => if s.now % 1000000 = 0 ∧ !s.ctl.trip then execPuppeteerTimerTick s else .next s
  | o => o

/-- The next step of bring-up (R49): which tiles fail their self-test is free. -/
def bringUp (s : State) : Option (State → Out) :=
  match s.ctl.pup, s.ctl.bringup with
  | .reset, _ => some execBootRomCheck
  | .bootrom, _ => some execPuppeteerStart
  | .activating, 2 => some execPuppeteerStart
  | .bringup, 3 => some (fun s => let (n, s) := s.drawNat; execTileSelfTest (BitVec.ofNat 192 n) s)
  | .bringup, _ => some execBringupRunning
  | _, _ => none

/-- Everything that may happen next of the device's own accord; time may always pass. -/
def choices (s : State) : List (State → Out) :=
  passTime ::
  (if s.ctl.trip then []
   else
    [execSchedulingDecision, execFwImageLoaded, execFwActivated, execAttestReportDone] ++
    (List.range 192).flatMap (fun t => if (s.tile t).ctx.isSome || (bankImage s t).isSome then tileChoices s t else []) ++
    s.pend.flatMap (fun e => [execLoadReturn e.id, execStfwReservation e.who.party.1 e.id, execLeagueTimeout e.id]) ++
    s.copies.flatMap (fun c => [execCopyChunk c.id, execFollowOnEntry c.id, execCopyComplete c.id]) ++
    (List.range 4).map (fun k => execGrantStep k) ++
    s.launches.flatMap (launchChoices s) ++ s.queues.flatMap queueChoices ++ sweepChoices s)

/-- A step of the device's own accord: bring-up first, then a free choice (log 1, 2). -/
def autoStep (s : State) : Out :=
  match bringUp s with
  | some k => k s
  | none =>
    let (n, s) := s.drawNat
    let cs := choices s
    match cs[n % cs.length]? with
    | some k => k s
    | none => passTime s

end Sys2Proof.Machine
end

