-- ==== Sys2Proof/Machine/Step.lean ====
section
/-! DEFINITION. One step of the machine: the happening that the agenda names, or, with an empty agenda, one that the
state allows. -/

namespace Sys2Proof.Machine

/-- One step (log 1): what the agenda names, or with an empty agenda what the device does of its own accord; the trailing tiles of
locked pairs follow (R84). -/
def step (s : State) : Host.Outcome State Fault Refusal :=
  mirrored (match s.agenda with
    | [] => autoStep { s with cur := none }
    | h :: rest => happen h { s with agenda := rest, cur := none })

/-- The state with one word as the only word of the block mapped on tile 0, its operands arrived with value 0 (a
predicate that matches), and its cluster next to fire (log 3). -/
def State.withFetchWord (s : State) (nbits w : Nat) : State :=
  let word : Word := BitVec.ofNat 64 (w % 2 ^ nbits)
  match decode word with
  | .error _ => s
  | .ok i =>
    let loop := match i with
      | .lgen _ | .lgen2 _ => true
      | _ => false
    let two := match i with
      | .lgen2 _ => true
      | _ => false
    let sup := match i with
      | .tret _ | .csrr _ _ | .csrw _ _ | .tlbiAsid _ | .tlbiAll _ | .asidrt _ => true
      | _ => false
    let inh := match i with
      | .tret _ => true
      | _ => false
    let b : Block := { addr := 0x10000, words := [word], loop := loop, supervisor := sup, noPrefetch := false, twh := 0 }
    let pv : Word := match hdrOf i with
      | some h => if h.pm = .onTrue then 1 else 0
      | none => 0
    let tok (v : Word) : Token :=
      { val := v, hi := 0, cap := false, ctag := false, tag := if two then outerTag 0 else 0, outer := two,
        bw := loop && !two, eos := false, null := false, col := 0, anc := [] }
    let ops : List Operand := (portNeeds b 0 i).map (fun p =>
      { slot := 0, port := p, tok := tok (match p with
          | .pred => pv
          | _ => 0), stored := false })
    let gen : Gen := if two then { Gen.reset with fired := true, n := 1, two := some 0, nextOuter := 1 } else Gen.reset
    let x : Fabric := { Fabric.reset with
      blk := some b
      operands := if loop && !two then [] else ops
      latches := if loop && !two then ops else []
      gen := gen
      tags := if two then [{ tag := outerTag 0, outer := true, col := 0, complete := false }] else [] }
    let c : Ctx := { blankCtx (s.nextId + 1) 0 0 0 0 0 0x10000 with phase := .running, inh := inh }
    let s := s.modTile 0 (fun t => { t with
      fabric := x, ctx := some c, running := some 0
      entries := t.entries.setIfInBounds 0 { st := .running, tenant := 0, launch := 0, region := 0, source := none } })
    { s with nextId := s.nextId + 1, agenda := [.fire 0 0] }

end Sys2Proof.Machine
end

