-- ==== Sys2Proof/Safety.lean ====
section
/-! DEFINITION. What a safe run is, and the terms in which claims are stated: a firing's turn, the state in which it has
settled, and the canonical form of every memory. -/

namespace Sys2Proof.Machine

/-- The step answers a next state. -/
def Runs (s : State) : Prop := ∃ t, step s = .next t

/-! ### Firings (R99, R330) -/

/-- It is the turn of firing f: its predicate matched, and no NULL token reached a port that it reads. -/
def Turn (s : State) (f : Firing) : Prop := s.cur = some f ∧ f.off = false

/-- The tokens on their way from slot j: one for each target that is not empty (R312, R330). -/
def sent (j : Nat) (h : Hdr) (tok : Token) : List Operand :=
  ([h.t1, h.t2].filter (fun t => decide (t.d ≠ 0))).map (fun t =>
    ({ slot := (j + t.d.toNat) % 128, port := t.port, tok := tok, stored := false } : Operand))

/-- The firing's turn is over: its slot has settled and tokens are on the mesh of its tile. Nothing else differs. -/
def settledWith (s : State) (f : Firing) (how : How) (toks : List Operand) : State :=
  ({ s with cur := none } : State).modFabric f.tile (fun x => { x with
    settled := x.settled ++ [({ slot := f.slot, key := f.key, how := how } : Settled)], mesh := x.mesh ++ toks })

/-- The instruction has fired and delivered one token to its targets. Nothing else differs. -/
def delivered (s : State) (f : Firing) (h : Hdr) (tok : Token) : State := settledWith s f .fired (sent f.slot h tok)

/-- The instruction has fired and its effect is held for its block or tag, with the scope that it carries (R222). Nothing else
differs. -/
def holdingAt (s : State) (f : Firing) (tagged : Bool) (e : Effect) (scope : BitVec 2) (toks : List Operand) : State :=
  ({ s with cur := none } : State).modFabric f.tile (fun x => { x with
    settled := x.settled ++ [({ slot := f.slot, key := f.key, how := .fired } : Settled)], mesh := x.mesh ++ toks
    held := x.held ++
      [({ slot := f.slot, key := f.key, tagged := tagged, eff := e, anc := f.anc, scope := scope } : Held)] })

/-- The instruction has fired and its effect, which carries no scope, is held for its block or tag. Nothing else differs. -/
def holding (s : State) (f : Firing) (tagged : Bool) (e : Effect) (toks : List Operand) : State := holdingAt s f tagged e 0 toks

/-- The state in which one instruction has fired and a write of its register is kept until commit (R334). -/
def keeping (s : State) (f : Firing) (w : HeldWr) : State :=
  ({ s with cur := none } : State).modFabric f.tile (fun x => { x with
    settled := x.settled ++ [({ slot := f.slot, key := f.key, how := .fired } : Settled)], wrs := x.wrs ++ [w] })

/-- One token is on its way to one target of slot j, unless the target is empty (R312). -/
def sentTo (j : Nat) (t : Target) (tok : Token) : List Operand :=
  if t.d = 0 then [] else [({ slot := (j + t.d.toNat) % 128, port := t.port, tok := tok, stored := false } : Operand)]

/-- The state in which an exit has fired (R106, R350). -/
def exiting (s : State) (f : Firing) (dest : ExitTo) : State :=
  ({ s with cur := none } : State).modFabric f.tile (fun x => { x with
    settled := x.settled ++ [({ slot := f.slot, key := f.key, how := .fired } : Settled)]
    exit := some { slot := f.slot, key := f.key, dest := dest } })

/-- The state in which a float instruction has delivered an encoding and its flags wait for commit (R263, R347). -/
def floating (s : State) (f : Firing) (h : Hdr) (v : Word) (fl : BitVec 6) : State :=
  let toks := sent f.slot h (resultToken f v f.eos)
  if fl = 0 then settledWith s f .fired toks else holding s f false (.flags fl) toks

/-- The state in which a tracked instruction has fired and waits (R104). -/
def waiting (s : State) (f : Firing) (on : WaitOn) : State :=
  ({ s with cur := none } : State).modFabric f.tile (fun x => { x with
    settled := x.settled ++ [({ slot := f.slot, key := f.key, how := .fired } : Settled)]
    waits := x.waits ++ [({ slot := f.slot, key := f.key, on := on } : Waiting)] })

/-- The firing is not one of a tag of an iterating block (R127). -/
def BlockWide (s : State) (f : Firing) : Prop := (isLoop s f.tile && f.key.isSome) = false

/-- A class M access as its firing sends it (R354): `got` is what it brings back, once it has been performed. -/
def accessBy (s : State) (f : Firing) (m : MField) (op : MemOp) (c : Ctx) (p : Place) (a : Word) (data : BitVec 128)
    (acq : Bool) (got : Option Loaded) : Pend :=
  { id := s.nextId + 1, who := .firing f.tile c.id f.slot f.key, op := op, place := p, addr := a
    info1 := memInfo1 m.k.toNat (opSize op) (opWrites op) 0, data := data, dtag := false, expect := tokVal f.third
    acq := acq, rel := false, scope := m.scope, anc := f.anc, party := c.id, tenant := c.tenant, sent := false, port := 0
    got := got, since := s.now }

/-- What a read leaves of the elements read ahead: none, where it has found its line or word full, which is an acquire (R226, R292);
elsewhere those that share no byte with it (R230). -/
def acquiring (s : State) (t : Nat) (op : MemOp) (p : Place) : State := if hasState p then acquire s t else dropRead s t op p

/-- The access of a firing is not one that an abandoned run of its block has performed or sent already, nor one that a handler
has performed for it (R105, R160). -/
def Anew (s : State) (f : Firing) (c : Ctx) : Prop :=
  replayEntry c f.slot f.key = none ∧ lostPend s c f.slot f.key = none

/-- The state in which a class M instruction has fired and its access is under way. Nothing else differs. -/
def accessing (s : State) (f : Firing) (e : Pend) : State :=
  let t := settledWith s f .fired []
  { t with nextId := t.nextId + 1, pend := t.pend ++ [e] }

/-- The completion token of a class M form that has OE set (R355): value 0, and what it leads to is chained behind it. -/
def completionOf (f : Firing) (h : Hdr) (m : MField) : List Operand :=
  if m.oe then sentTo f.slot h.t2 { resultToken f 0 false with
    anc := if f.anc.contains f.slot then f.anc else f.slot :: f.anc } else []

/-- The access of a class M firing passes every check of R139: its state after the translation, its place and address. -/
def Reaches (s : State) (f : Firing) (c : Ctx) (m : MField) (op : MemOp) (s1 : State) (p : Place) (a : Word) : Prop :=
  resolve { s with cur := none } f.tile m.k.toNat (c.kreg m.k.toNat) (tokVal f.left + m.off.signExtend 64) op
    (isSupervisor s f.tile) { bits := (accessData op f).1, tag := (accessData op f).2 } = (s1, .ok (p, a))

/-- A trap of a port (R293, R295, R303): its record names the port, and where the port is armed the element at its position, the
direction and the position, beside an underlying cause that is free; two free values have been drawn. -/
def PortTraps (i : Instr) (s s1 : State) (f : Firing) (cause port : Nat) (q : SPort) : Prop :=
  ∃ info0 info1 : Word, exec i s = .next (trapFiring { s1 with freeCtr := s1.freeCtr + 2 } f cause info0 info1) ∧
    info1.toNat % 8 = port ∧
    (q.armed = true → info0 = elementAddr q q.work.pos ∧ info1.getLsbD 3 = patOut q.record ∧
      info1.toNat / 16 % 16 = 0 ∧ info1.toNat / 65536 = q.work.pos % 2 ^ 48)

/-- A place is not at a far member. -/
def Near (p : Place) : Prop := ∀ a, p ≠ .league a

/-- The instruction computes one value from its operands and delivers it, and nothing else differs (R330). -/
def Computes (i : Instr) (s : State) (f : Firing) (h : Hdr) (v : Word) : Prop :=
  exec i s = .next (delivered s f h (resultToken f v f.eos))

/-- The instruction fires without a result, and its effect waits for its block or tag; nothing else differs (R104). -/
def Holds (i : Instr) (s : State) (f : Firing) (tagged : Bool) (e : Effect) : Prop :=
  exec i s = .next (holding s f tagged e [])

/-- The instruction traps at firing: it counts as fired, gives no token, and has none of its effect (R297). -/
def Traps (i : Instr) (s : State) (f : Firing) (cause : Nat) (info0 info1 : Word) : Prop :=
  exec i s = .next (trapFiring { s with cur := none } f cause info0 info1)

/-- The operand width under W (R331). -/
def operandBits (w : Bool) : Nat := if w then 32 else 64

/-- An operand that a signed reader reads (R331). -/
def signedArg (w : Bool) (x : Word) : Int := if w then (x.setWidth 32).toInt else x.toInt

/-- An operand that an unsigned reader reads (R331). -/
def unsignedArg (w : Bool) (x : Word) : Nat := x.toNat % 2 ^ operandBits w

/-- A result delivered modulo 2^64, or with W = 1 as sext(r[31:0], 32) (R331, R342). -/
def signedResult (w : Bool) (r : Int) : Word := if w then (BitVec.ofInt 32 r).signExtend 64 else BitVec.ofInt 64 r

/-- A result delivered modulo 2^64, or with W = 1 as zext(r[31:0], 32) (R331, R342). -/
def unsignedResult (w : Bool) (r : Nat) : Word := BitVec.ofNat 64 (r % 2 ^ operandBits w)

/-! ### Memories -/

/-- Every byte memory of the machine, every tenant's mailbox words and the ASID generations are in canonical form. -/
def MemoriesWf (s : State) : Prop :=
  twf 0 s.asidGen = true ∧ (∀ x ∈ s.tenants, twf 0 x.mbox = true ∧ twf false x.mfull = true) ∧ s.host.wf = true ∧
  s.sweep.wf = true ∧ s.ctl.attrep.wf = true ∧ (∀ x ∈ s.tiles, x.mem.wf = true) ∧ (∀ i ∈ s.images, i.mem.wf = true) ∧
  (∀ x ∈ s.fills, Memory.wf x.content = true) ∧ (∀ q ∈ s.queues, q.desc.wf = true)

end Sys2Proof.Machine
end

