-- ==== Sys2Proof/Certificates/Slice0/Obligations.lean ====
section
/-! DEFINITION. The statements for the provers. Each says which rule of the spec it formalises. -/

open Sys2Proof Sys2Proof.Machine

/-! ### Scalar instructions (R330 to R353) -/

/-- R335 to R340: what the dataflow instructions deliver. NUL sets NULL, TAGOF gives the tag of the firing, TEOS alone reads
the EOS flag. -/
def Obligations.DataflowResults : Prop :=
  ∀ (s : State) (f : Firing) (h : Hdr) (imm : BitVec 30), Turn s f →
    let passed (k : Token) : State := delivered s f h
      { resultToken f k.val f.eos with hi := k.hi, cap := k.cap, ctag := k.ctag }
    (∀ a, f.left = some a → exec (.mov h) s = .next (passed a)) ∧
    exec (.movi h imm) s = .next (delivered s f h (resultToken f (imm.signExtend 64) false)) ∧
    Computes (.movhi h imm) s f h (BitVec.ofNat 64 ((tokVal f.left).toNat * 2 ^ 30 + imm.toNat)) ∧
    exec (.nul h) s = .next (delivered s f h { resultToken f 0 false with null := true }) ∧
    (∀ a, f.left = some a → tokVal f.third ≠ 0 → exec (.sel h) s = .next (passed a)) ∧
    (∀ b, f.right = some b → tokVal f.third = 0 → exec (.sel h) s = .next (passed b)) ∧
    exec (.tagof h) s = .next (delivered s f h (resultToken f (match f.key with
      | some t => t.setWidth 64
      | none => 0xFFFFFFFF) false)) ∧
    exec (.teos h) s = .next (delivered s f h (resultToken f (if tokEos f.left then 1 else 0) false))

/-- R333: RD delivers a g register (g0 gives 0), a k register with CAP and its tag, or pops an armed input port: the
element read ahead, or EOS at the end of the stream (R286, R290). KEEP delivers the last pop again (R288). R286, R288,
R293, R295, R303, R333: KEEP without an armed input port, and an RD of an armed output port, trap with cause 0x42; the
record names the port and its position, and takes free values where there is no port or no element. Where the spec gives a
record no value, the free value is the model's (log 56). -/
def Obligations.RegisterReads : Prop :=
  (∀ (s : State) (f : Firing) (h : Hdr) (n : BitVec 6) (c : Ctx), Turn s f → (s.tile f.tile).ctx = some c →
    (armedPort c false n = none →
      exec (.rd h false false n) s = .next (delivered s f h (resultToken f (if n = 0 then 0 else c.g[n.toNat]) false))) ∧
    (exec (.rd h false true n) s = .next (delivered s f h (capToken f (c.kreg n.toNat) false))) ∧
    (∀ p, armedPort c false n = some p → patOut (c.port p).record = false →
      (patTotal (c.port p).record ≤ (c.port p).work.pos → ∃ t, exec (.rd h false false n) s = .next t ∧
        (t.fabric f.tile).mesh = (s.fabric f.tile).mesh ++ sent f.slot h (resultToken f 0 true)) ∧
      (∀ e v, (c.port p).work.pos < patTotal (c.port p).record →
        s.ahead.find? (fun e => e.tile == f.tile && e.port == p && e.pos == (c.port p).work.pos) = some e →
        e.got = .value v → ∃ t, exec (.rd h false false n) s = .next t ∧
          (t.fabric f.tile).mesh = (s.fabric f.tile).mesh ++ sent f.slot h (resultToken f v false) ∧
          (∀ x, (t.tile f.tile).ctx = some x → f.tile < 192 → p < 8 →
            (x.port p).work.pos = (c.port p).work.pos + 1 ∧ (x.port p).work.last = v)) ∧
      exec (.rd h true false n) s = .next (delivered s f h
        (if (c.port p).work.lastV then resultToken f (c.port p).work.last (c.port p).work.lastEos
         else resultToken f 0 true)))) ∧
  (∀ (s : State) (f : Firing) (h : Hdr) (n : BitVec 6) (c : Ctx), Turn s f → (s.tile f.tile).ctx = some c →
    let free (kr : Bool) : Prop := ∃ i0 i1, exec (.rd h true kr n) s =
      .next (trapFiring { s with cur := none, freeCtr := s.freeCtr + 2 } f 0x42 i0 i1)
    free true ∧
    (n.toNat < 56 → free false) ∧
    (armedPort c false n = none → 56 ≤ n.toNat →
      PortTraps (.rd h true false n) s { s with cur := none } f 0x42 (n.toNat - 56) (c.port (n.toNat - 56))) ∧
    (∀ p keep, armedPort c false n = some p → patOut (c.port p).record = true →
      PortTraps (.rd h keep false n) s { s with cur := none } f 0x42 p (c.port p)))

/-- An element of an output port at a position that a push can take: beyond the stream's end, or in the scratchpad. -/
def PushLands (q : SPort) (pos : Nat) : Prop :=
  patTotal q.record ≤ pos ∨ (q.cap.space = 0 ∧ 0 ≤ patOffset q.record pos ∧
    patOffset q.record pos + patSize q.record ≤ (q.cap.length : Int) ∧ (elementAddr q pos).toNat < 0x400000)

/-- R289: a push has taken the next position of its port, behind the WRs that are kept; at the stream's end OVR is set and the
position stays. -/
def PushPlaced (u : State) (t p : Nat) (c : Ctx) (ws : List HeldWr) (w : HeldWr) : Prop :=
  let q := c.port p
  let moved : PortPos :=
    if patTotal q.record ≤ q.work.pos then { q.work with ovr := true } else { q.work with pos := q.work.pos + 1 }
  (u.tile t).ctx = some (c.modPort p (fun q => { q with work := moved })) ∧
  (u.fabric t).wrs = ws ++ [{ w with pos := some q.work.pos }]

/-- R107, R289, R290, R293, R295, R334: WR keeps its value, or its push to an armed output port, for the commit; a WR to an armed
input port traps with cause 0x42, and one of an EOS token settles as nullified. In a block without LOOP a push takes the next
position of its port once every WR of that port in a lower slot has settled, and sets OVR at TOTAL; where its element fails its
check it traps with cause 0x41; a nullified WR lets the pushes behind it take theirs. (What 0x42 records, and the free underlying
cause, is the model's choice, log 56: the spec gives R293's record.) -/
def Obligations.RegisterWrites : Prop :=
  ∀ (s : State) (f : Firing) (h : Hdr) (kr : Bool) (n : BitVec 6) (c : Ctx) (a : Token), Turn s f →
    (s.tile f.tile).ctx = some c → f.left = some a →
    let x := s.fabric f.tile
    let w : HeldWr := { slot := f.slot, key := f.key, tagged := false, kr := kr, n := n.toNat, push := false, val := a.val
                        cap := a.toCap, pos := none, check := none }
    (a.eos = false → armedPort c kr n = none → exec (.wr h kr n) s = .next (keeping s f w)) ∧
    (∀ p, a.eos = false → armedPort c kr n = some p → patOut (c.port p).record = true → isLoop s f.tile = true →
      f.tile < 192 → exec (.wr h kr n) s = .next (keeping s f { w with n := p, push := true, tagged := h.w })) ∧
    (∀ p, a.eos = false → armedPort c kr n = some p → patOut (c.port p).record = false →
      PortTraps (.wr h kr n) s { s with cur := none } f 0x42 p (c.port p)) ∧
    (a.eos = true → isLoop s f.tile = true → f.tile < 192 →
      exec (.wr h kr n) s = .next (settledWith s f .nullified [])) ∧
    (∀ p b, x.blk = some b → b.loop = false → f.tile < 192 → armedPort c kr n = some p → patOut (c.port p).record = true →
      let q := c.port p
      let push : HeldWr := { w with n := p, push := true, tagged := h.w }
      (a.eos = false → (∀ v ∈ x.wrs, v.slot ≠ f.slot ∧ (v.push = true → v.pos ≠ none)) → pushSlots b c p = [f.slot] →
        (PushLands q q.work.pos → ∃ u, exec (.wr h kr n) s = .next u ∧ PushPlaced u f.tile p c x.wrs push ∧
          (u.fabric f.tile).settled = x.settled ++ [({ slot := f.slot, key := f.key, how := .fired } : Settled)]) ∧
        (q.work.pos < patTotal q.record → (q.cap.length : Int) < patOffset q.record q.work.pos + patSize q.record →
          exec (.wr h kr n) s = .next (trapFiring (keeping s f push) f 0x41 (elementAddr q q.work.pos)
            (streamInfo1 p true 0x23 q.work.pos)))) ∧
      (∀ j l, a.eos = false → (∀ v ∈ x.wrs, v.push = true → v.pos ≠ none) → pushSlots b c p = j :: l → j ≠ f.slot →
        settledFor x j f.key = false → exec (.wr h kr n) s = .next (keeping s f push)) ∧
      (a.eos = true → (∀ v ∈ x.wrs, v.push = true → v.pos ≠ none) →
        exec (.wr h kr n) s = .next (settledWith s f .nullified [])) ∧
      (∀ j v, a.eos = true → pushSlots b c p = [f.slot, j] → settledFor x j f.key = true → x.wrs = [v] → v.slot = j →
        v.push = true → v.n = p → v.pos = none → PushLands q q.work.pos →
        ∃ u, exec (.wr h kr n) s = .next u ∧ PushPlaced u f.tile p c [] v))

/-- R331, R342: addition, subtraction, products, their high parts, and the bitwise operations. -/
def Obligations.ArithmeticResults : Prop :=
  ∀ (s : State) (f : Firing) (h : Hdr) (imm : BitVec 30), Turn s f →
    let l := tokVal f.left
    let r := tokVal f.right
    let a := signedArg h.w l
    let b := signedArg h.w r
    let k := imm.toInt
    let n := operandBits h.w
    Computes (.add h) s f h (signedResult h.w (a + b)) ∧
    Computes (.sub h) s f h (signedResult h.w (a - b)) ∧
    Computes (.mul h) s f h (signedResult h.w (a * b)) ∧
    Computes (.addi h imm) s f h (signedResult h.w (a + k)) ∧
    Computes (.muli h imm) s f h (signedResult h.w (a * k)) ∧
    Computes (.mulh h) s f h (signedResult h.w (a * b / 2 ^ n)) ∧
    Computes (.mulhu h) s f h (unsignedResult h.w (unsignedArg h.w l * unsignedArg h.w r / 2 ^ n)) ∧
    Computes (.and h) s f h (signedResult h.w (l &&& r).toInt) ∧
    Computes (.or h) s f h (signedResult h.w (l ||| r).toInt) ∧
    Computes (.xor h) s f h (signedResult h.w (l ^^^ r).toInt) ∧
    Computes (.andn h) s f h (signedResult h.w (l &&& ~~~r).toInt) ∧
    Computes (.andi h imm) s f h (signedResult h.w (l &&& imm.signExtend 64).toInt) ∧
    Computes (.ori h imm) s f h (signedResult h.w (l ||| imm.signExtend 64).toInt) ∧
    Computes (.xori h imm) s f h (signedResult h.w (l ^^^ imm.signExtend 64).toInt)

/-- R342: shifts by sh, which is the low 6 or 5 bits of the amount, rotation within the operand width, and SHADD. -/
def Obligations.ShiftResults : Prop :=
  ∀ (s : State) (f : Firing) (h : Hdr) (imm : BitVec 30) (s1 : BitVec 2), Turn s f →
    let l := tokVal f.left
    let a := signedArg h.w l
    let ua := unsignedArg h.w l
    let n := operandBits h.w
    let sh := (tokVal f.right).toNat % n
    let si := imm.toNat % n
    Computes (.shl h) s f h (signedResult h.w (a * 2 ^ sh)) ∧
    Computes (.shr h) s f h (unsignedResult h.w (ua / 2 ^ sh)) ∧
    Computes (.sar h) s f h (signedResult h.w (a / 2 ^ sh)) ∧
    Computes (.shli h imm) s f h (signedResult h.w (a * 2 ^ si)) ∧
    Computes (.shri h imm) s f h (unsignedResult h.w (ua / 2 ^ si)) ∧
    Computes (.sari h imm) s f h (signedResult h.w (a / 2 ^ si)) ∧
    Computes (.rol h) s f h (signedResult h.w ((ua * 2 ^ sh % 2 ^ n + ua / 2 ^ (n - sh) : Nat) : Int)) ∧
    Computes (.shadd h s1) s f h (signedResult h.w (a * 2 ^ (s1.toNat + 1) + signedArg h.w (tokVal f.right)))

/-- R343: quotients truncated toward zero, remainders a − q × b; a zero divisor gives all ones and a; the most negative value
over −1 wraps. -/
def Obligations.DivisionResults : Prop :=
  ∀ (s : State) (f : Firing) (h : Hdr), Turn s f →
    let a := signedArg h.w (tokVal f.left)
    let b := signedArg h.w (tokVal f.right)
    let ua := unsignedArg h.w (tokVal f.left)
    let ub := unsignedArg h.w (tokVal f.right)
    Computes (.div h) s f h (signedResult h.w (if b = 0 then -1 else a.tdiv b)) ∧
    Computes (.rem h) s f h (signedResult h.w (if b = 0 then a else a - a.tdiv b * b)) ∧
    Computes (.divu h) s f h (unsignedResult h.w (if ub = 0 then 2 ^ 64 - 1 else ua / ub)) ∧
    Computes (.remu h) s f h (unsignedResult h.w (if ub = 0 then ua else ua - ua / ub * ub))

/-- R342: the counts of leading zeros, trailing zeros and set bits of the operand, and the smaller and larger of two operands,
read as signed and as unsigned. -/
def Obligations.CountAndChoiceResults : Prop :=
  ∀ (s : State) (f : Firing) (h : Hdr), Turn s f →
    let n := operandBits h.w
    let x := unsignedArg h.w (tokVal f.left)
    let a := signedArg h.w (tokVal f.left)
    let b := signedArg h.w (tokVal f.right)
    let ub := unsignedArg h.w (tokVal f.right)
    (∃ k, k ≤ n ∧ x < 2 ^ (n - k) ∧ (k < n → 2 ^ (n - k - 1) ≤ x) ∧ Computes (.clz h) s f h (BitVec.ofNat 64 k)) ∧
    (∃ k, k ≤ n ∧ x % 2 ^ k = 0 ∧ (k < n → x / 2 ^ k % 2 = 1) ∧ Computes (.ctz h) s f h (BitVec.ofNat 64 k)) ∧
    Computes (.popc h) s f h (BitVec.ofNat 64 ((List.range n).filter (fun i => x.testBit i)).length) ∧
    Computes (.min h) s f h (signedResult h.w (min a b)) ∧
    Computes (.max h) s f h (signedResult h.w (max a b)) ∧
    Computes (.minu h) s f h (unsignedResult h.w (min x ub)) ∧
    Computes (.maxu h) s f h (unsignedResult h.w (max x ub))

/-- R344: BFX sign-extends and BFXU zero-extends the field of len1 + 1 bits at lsb, and BFI replaces it by the low bits of the
right operand. With W = 1 the result is sign-extended from bit 31. -/
def Obligations.BitFieldResults : Prop :=
  ∀ (s : State) (f : Firing) (h : Hdr) (lsb len1 : BitVec 6), Turn s f →
    lsb.toNat + len1.toNat + 1 ≤ operandBits h.w →
    let a := tokVal f.left
    let b := tokVal f.right
    let field := a.extractLsb' lsb.toNat (len1.toNat + 1)
    Computes (.bfx h lsb len1) s f h (field.signExtend 64) ∧
    Computes (.bfxu h lsb len1) s f h (signedResult h.w (field.toNat : Int)) ∧
    (∃ v : Word, Computes (.bfi h lsb len1) s f h (signedResult h.w v.toInt) ∧
      ∀ k, v.getLsbD k = (if lsb.toNat ≤ k ∧ k ≤ lsb.toNat + len1.toNat then b.getLsbD (k - lsb.toNat) else a.getLsbD k))

/-- R345, R346: the tests deliver 1 where their relation holds and 0 elsewhere; the unsigned immediate forms read the
sign-extended immediate as unsigned; the predicate forms ask whether operands are zero. -/
def Obligations.TestResults : Prop :=
  ∀ (s : State) (f : Firing) (h : Hdr) (imm : BitVec 30), Turn s f →
    let a := signedArg h.w (tokVal f.left)
    let b := signedArg h.w (tokVal f.right)
    let ua := unsignedArg h.w (tokVal f.left)
    let ub := unsignedArg h.w (tokVal f.right)
    let k := imm.toInt
    let uk := unsignedArg h.w (imm.signExtend 64)
    Computes (.teq h) s f h (if a = b then 1 else 0) ∧
    Computes (.tne h) s f h (if a ≠ b then 1 else 0) ∧
    Computes (.tlt h) s f h (if a < b then 1 else 0) ∧
    Computes (.tle h) s f h (if a ≤ b then 1 else 0) ∧
    Computes (.tltu h) s f h (if ua < ub then 1 else 0) ∧
    Computes (.tleu h) s f h (if ua ≤ ub then 1 else 0) ∧
    Computes (.teqi h imm) s f h (if a = k then 1 else 0) ∧
    Computes (.tnei h imm) s f h (if a ≠ k then 1 else 0) ∧
    Computes (.tlti h imm) s f h (if a < k then 1 else 0) ∧
    Computes (.tlei h imm) s f h (if a ≤ k then 1 else 0) ∧
    Computes (.tltui h imm) s f h (if ua < uk then 1 else 0) ∧
    Computes (.tleui h imm) s f h (if ua ≤ uk then 1 else 0) ∧
    Computes (.pand h) s f h (if ua ≠ 0 ∧ ub ≠ 0 then 1 else 0) ∧
    Computes (.por h) s f h (if ua ≠ 0 ∨ ub ≠ 0 then 1 else 0) ∧
    Computes (.pnot h) s f h (if ua = 0 then 1 else 0) ∧
    (∀ (t c : Nat) (a : Candidate) (b : Block), chooseFiring s t c = some a → (s.fabric t).blk = some b →
      instrAt b a.slot = some (.pand h) ∨ instrAt b a.slot = some (.por h) →
      (operandAt (s.fabric t) a.slot .left a.key).isSome ∧ (operandAt (s.fabric t) a.slot .right a.key).isSome) ∧
    (formOf (.pnot h)).left = true ∧ (formOf (.pnot h)).right = false ∧
    (∀ w : Word, w.extractLsb' 56 8 = 0x3F → decode w = .error .reservedOpcode)

/-- R347, R348: the float forms deliver the FP32 encoding formed once from the exact value, zero-extended, and keep their
flags; a NaN operand of FADD, FSUB, FDIV, FMIN or FMAX gives the canonical NaN; the tests deliver 0 with a NaN, and FTLT and
FTLE then raise NV. -/
def Obligations.FloatResults : Prop :=
  ∀ (s : State) (f : Firing) (h : Hdr) (rm : BitVec 2) (sat : Bool), Turn s f →
    let a := fpOperand f.left
    let b := fpOperand f.right
    let c := fpOperand f.third
    let nan := a = .nan ∨ b = .nan
    let put (v : FNum × Bool) : State := let r := deliverNum fp32 rm.toNat sat v.1 v.2
      floating s f h (BitVec.ofNat 64 r.1) r.2
    exec (.fadd h rm sat) s = .next (put (FNum.add a b)) ∧
    exec (.fsub h rm sat) s = .next (put (FNum.add a b.negate)) ∧
    exec (.fmul h rm sat) s = .next (put (FNum.mul a b)) ∧
    exec (.ffma h rm sat) s = .next (put (if (FNum.mul a b).2 then (.nan, true) else FNum.add (FNum.mul a b).1 c)) ∧
    exec (.fdiv h rm sat) s = .next (let v := FNum.div a b
      let r := deliverNum fp32 rm.toNat sat v.1 v.2.1
      floating s f h (BitVec.ofNat 64 r.1) (r.2 ||| (if v.2.2 then flagDZ else 0))) ∧
    (nan → exec (.fadd h rm sat) s = .next (floating s f h 0x7FC00000 0) ∧
      exec (.fsub h rm sat) s = .next (floating s f h 0x7FC00000 0) ∧
      exec (.fdiv h rm sat) s = .next (floating s f h 0x7FC00000 0) ∧
      exec (.fmin h) s = .next (floating s f h 0x7FC00000 0) ∧
      exec (.fmax h) s = .next (floating s f h 0x7FC00000 0)) ∧
    (¬ nan → exec (.fmin h) s = .next (floating s f h
        ((tokVal (if FNum.below b a then f.right else f.left)).setWidth 32 |>.setWidth 64) 0) ∧
      exec (.fmax h) s = .next (floating s f h
        ((tokVal (if FNum.below a b then f.right else f.left)).setWidth 32 |>.setWidth 64) 0)) ∧
    exec (.fteq h) s = .next (floating s f h (if FNum.eqv a b then 1 else 0) 0) ∧
    exec (.ftlt h) s = .next (floating s f h (if FNum.lt a b then 1 else 0) (if nan then flagNV else 0)) ∧
    exec (.ftle h) s = .next (floating s f h (if FNum.lt a b ∨ FNum.eqv a b then 1 else 0) (if nan then flagNV else 0))

/-- R349: FCVT converts as FN chooses: to an integer by toint with RM, from an integer or to a narrower format by deliver with
RM and SAT, and to FP32 exactly. -/
def Obligations.ConversionResults : Prop :=
  ∀ (s : State) (f : Firing) (h : Hdr) (rm : BitVec 2) (sat : Bool), Turn s f →
    let l := tokVal f.left
    let a := decodeFloat fp32 l.toNat
    let whole (n : Nat) : State := let r := tointNum (-(2 ^ (n - 1) : Int)) (2 ^ (n - 1) - 1) rm.toNat a
      floating s f h (BitVec.ofInt 64 r.1) r.2
    let put (F : FFmt) (v : FNum) : State := let r := deliverNum F rm.toNat sat v false
      floating s f h (BitVec.ofNat 64 r.1) r.2
    let widen (F : FFmt) : State :=
      floating s f h (BitVec.ofNat 64 (deliverNum fp32 0 false (decodeFloat F l.toNat) false).1) 0
    exec (.fcvt h 0 rm sat) s = .next (whole 32) ∧
    exec (.fcvt h 1 rm sat) s = .next (whole 64) ∧
    exec (.fcvt h 2 rm sat) s = .next (put fp32 (.ofInt (l.setWidth 32).toInt)) ∧
    exec (.fcvt h 3 rm sat) s = .next (put fp32 (.ofInt l.toInt)) ∧
    exec (.fcvt h 4 rm sat) s = .next (put bf16 a) ∧
    exec (.fcvt h 5 rm sat) s = .next (widen bf16) ∧
    exec (.fcvt h 6 rm sat) s = .next (put e4m3 a) ∧
    exec (.fcvt h 7 rm sat) s = .next (put e5m2 a) ∧
    exec (.fcvt h 8 rm sat) s = .next (widen e4m3) ∧
    exec (.fcvt h 9 rm sat) s = .next (widen e5m2)

/-- R16, R259: rounding m · 2^e to a multiple of 2^q. Mode 0 gives a nearest multiple, the even one of two; mode 1 never
exceeds the magnitude and falls short of it by less than one multiple; mode 2 rounds down and mode 3 up; the flag says whether
nothing was lost. -/
def Obligations.RoundingIsCorrect : Prop :=
  ∀ (neg : Bool) (m : Nat) (e q : Int), e ≤ q →
    let u := 2 ^ (q - e).toNat
    let at_ (mode : Nat) := (roundMag mode neg m e q).1 * u
    (2 * at_ 0 ≤ 2 * m + u ∧ 2 * m ≤ 2 * at_ 0 + u ∧
      (2 * at_ 0 = 2 * m + u ∨ 2 * m = 2 * at_ 0 + u → (roundMag 0 neg m e q).1 % 2 = 0)) ∧
    (at_ 1 ≤ m ∧ m < at_ 1 + u) ∧
    (if neg then m ≤ at_ 2 ∧ at_ 2 < m + u else at_ 2 ≤ m ∧ m < at_ 2 + u) ∧
    (if neg then at_ 3 ≤ m ∧ m < at_ 3 + u else m ≤ at_ 3 ∧ at_ 3 < m + u) ∧
    (∀ mode, ((roundMag mode neg m e q).2 = true ↔ m % u = 0))

/-- R115, R116, R132, R290, R339: LGEN takes its bound and LGEN2 the bound and base of its row; EOS on the bound counts as a bound
of 0, and a bound above the limit traps with cause 0x07. A parked trap whose tag has become the oldest is taken then. Of a row
whose outer tag was purged and comes again the inner tags emitted stay (R121, the model's choice, log 15). -/
def Obligations.GeneratorsStart : Prop :=
  ∀ (s : State) (f : Firing) (h : Hdr) (b : Block) (c : Ctx), Turn s f →
    (s.fabric f.tile).blk = some b → (s.tile f.tile).ctx = some c →
    let n := if tokEos f.left then 0 else (tokVal f.left).toNat
    (f.key = none →
      let limit := if (lgen2Slot b).isSome then 65535 else 4294967295
      (n ≤ limit → exec (.lgen h) s = .next ((settledWith s f .fired []).modFabric f.tile (fun x =>
        { x with gen := startGen b c f.slot n }))) ∧
      (limit < n → Traps (.lgen h) s f 0x07 (tokVal f.left) 0)) ∧
    (∀ t, f.key = some t → f.outer = true →
      let row := t.toNat / 65536
      let started : State := (settledWith s f .fired []).modFabric f.tile (fun x =>
        { x with gen := { x.gen with rows := x.gen.rows ++ [{ row := row, m := n, b := tokVal f.right, eos := f.eos }] } })
      (n ≤ 65535 → (s.fabric f.tile).gen.boundOf row = none → (s.fabric f.tile).parked = [] →
        exec (.lgen2 h) s = .next started) ∧
      (n ≤ 65535 → (s.fabric f.tile).gen.boundOf row = none → exec (.lgen2 h) s = .next (takeDue started f.tile)) ∧
      (∀ old, n ≤ 65535 → (s.fabric f.tile).gen.boundOf row = some old → (s.fabric f.tile).parked = [] → f.tile < 192 →
        ∃ u, exec (.lgen2 h) s = .next u ∧ (u.fabric f.tile).gen.boundOf row = some (
          let g := (s.fabric f.tile).gen
          if row < g.row then old else if row = g.row then max n g.inner else n)) ∧
      (65535 < n → Traps (.lgen2 h) s f 0x07 (tokVal f.left) 0))

/-- R350, R351, R353, R374: an exit that fires first in its block is recorded with where it leads: BR and CALL relative to
their block, BRI and CALLI to their left token, RET to g55 as it stood at mapping; a CALL keeps the first 64-byte boundary
after its block; TRET needs a SUPERVISOR block and INH. R106, R128, R350: a second exit of a block instance abandons the
block at once and traps with cause 0x05; an exit that receives an EOS token counts as not fired. -/
def Obligations.ExitsRecorded : Prop :=
  (∀ (s : State) (f : Firing) (h : Hdr) (off : BitVec 30) (b : Block) (c : Ctx), Turn s f → f.eos = false →
    (s.fabric f.tile).blk = some b → (s.fabric f.tile).exit = none → (s.tile f.tile).ctx = some c →
    let rel : Word := b.addr + 64 * off.signExtend 64
    let back : Word := b.addr + BitVec.ofNat 64 (64 * ((16 + 8 * b.words.length + 63) / 64))
    exec (.br h off) s = .next (exiting s f (.block rel none)) ∧
    exec (.bri h) s = .next (exiting s f (.block (tokVal f.left) none)) ∧
    exec (.call h off) s = .next (exiting s f (.block rel (some back))) ∧
    exec (.calli h) s = .next (exiting s f (.block (tokVal f.left) (some back))) ∧
    exec (.ret h) s = .next (exiting s f (.block c.g[55] none)) ∧
    exec (.halt h) s = .next (exiting s f .halt) ∧
    (b.supervisor = true → c.inh = true → exec (.tret h) s = .next (exiting s f .tret)) ∧
    (¬(b.supervisor = true ∧ c.inh = true) → Traps (.tret h) s f 0x0A 0 0)) ∧
  (∀ (s : State) (f : Firing) (h : Hdr) (off : BitVec 30) (x : ExitRec), Turn s f →
    (s.fabric f.tile).exit = some x →
    let trapped := trapNow { s with cur := none } f.tile { cause := 0x05, blk := blockAddr s f.tile, slot := f.slot
                                                           tag := keyTag f.key, info0 := 0, info1 := 0 }
    (f.eos = false →
      exec (.br h off) s = .next trapped ∧ exec (.bri h) s = .next trapped ∧ exec (.call h off) s = .next trapped ∧
      exec (.calli h) s = .next trapped ∧ exec (.ret h) s = .next trapped ∧ exec (.halt h) s = .next trapped) ∧
    (f.eos = true → exec (.bri h) s = .next (settledWith s f .off []) ∧
      exec (.calli h) s = .next (settledWith s f .off [])))

/-! ### Memory, atomics, capabilities (R139, R354 to R367) -/

/-- R136, R139: a capability of space L reaches the tile's own scratchpad exactly where every check passes, and the first check
that fails, in the order of R139, gives the cause; the trap records the address. -/
def Obligations.CapabilityChecks : Prop :=
  ∀ (s : State) (t k n : Nat) (signed : Bool) (c : CapReg) (off : Word) (sup : Bool),
    let a := c.base + off
    let trap (x : Nat) : State × Except MemTrap (Place × Word) := (s, .error ⟨x, a, memInfo1 k n false 0⟩)
    let r := resolve s t k c off (.load n signed) sup c
    (c.tag = false → r = trap 0x20) ∧
    (c.tag = true → c.rsv ≠ 0 → r = trap 0x26) ∧
    (c.tag = true → c.rsv = 0 → c.lock ≠ 0 → r = trap 0x25) ∧
    (c.tag = true → c.rsv = 0 → c.lock = 0 → c.space = 2 → r = trap 0x2C) ∧
    (c.tag = true → c.rsv = 0 → c.lock = 0 → c.space = 3 → (sup = false ∨ (n ≠ 4 ∧ n ≠ 8)) → r = trap 0x27) ∧
    (c.tag = true → c.rsv = 0 → c.lock = 0 → c.space < 2 → c.perms.getLsbD 0 = false → r = trap 0x24) ∧
    (c.tag = true → c.rsv = 0 → c.lock = 0 → c.space < 2 → c.perms.getLsbD 0 = true → c.length < off.toNat + n →
      r = trap 0x23) ∧
    (c.tag = true → c.rsv = 0 → c.lock = 0 → c.space < 2 → c.perms.getLsbD 0 = true → off.toNat + n ≤ c.length →
      a.toNat % n ≠ 0 → r = trap 0x28) ∧
    (c.tag = true → c.rsv = 0 → c.lock = 0 → c.space = 0 → c.perms.getLsbD 0 = true → off.toNat + n ≤ c.length →
      a.toNat % n = 0 → 0x400000 ≤ a.toNat → r = trap 0x23) ∧
    (c.tag = true → c.rsv = 0 → c.lock = 0 → c.space = 0 → c.perms.getLsbD 0 = true → off.toNat + n ≤ c.length →
      a.toNat % n = 0 → a.toNat < 0x400000 → r = (s, .ok (.scratch t a.toNat, a)))

/-- The loads, LDK and FEQ (R357, R358, R360, R362), each with what it does at its place. -/
def readForms (h : Hdr) (m : MField) : List (Instr × MemOp) :=
  [(.ldb h m, .load 1 true), (.ldbu h m, .load 1 false), (.ldh h m, .load 2 true), (.ldhu h m, .load 2 false),
   (.ldw h m, .load 4 true), (.ldwu h m, .load 4 false), (.ldd h m, .load 8 true), (.ldk h m, .ldk),
   (.feq h m, .feq (2 ^ m.sz.toNat))]

/-- The stores, STK, the other full/empty forms and the atomics (R359, R360, R362 to R364). -/
def writeForms (h : Hdr) (m : MField) (acq rel : Bool) : List (Instr × MemOp) :=
  let n := 2 ^ m.sz.toNat
  [(.stb h m, .store 1), (.sth h m, .store 2), (.stw h m, .store 4), (.std h m, .store 8), (.stk h m, .stk),
   (.lde h m, .lde n), (.stf h m, .stf n), (.stfw h m, .stfw n), (.feclr h m, .feclr n), (.feset h m, .feset n),
   (.aadd h acq rel m, .atomic 0 n), (.aand h acq rel m, .atomic 1 n), (.aor h acq rel m, .atomic 2 n),
   (.axor h acq rel m, .atomic 3 n), (.amin h acq rel m, .atomic 4 n), (.amax h acq rel m, .atomic 5 n),
   (.aminu h acq rel m, .atomic 6 n), (.amaxu h acq rel m, .atomic 7 n), (.aswp h acq rel m, .atomic 8 n),
   (.acas h acq rel m, .atomic 9 n)]

/-- R139, R354: a class M form whose access fails a check traps at firing with that cause and those information registers.
R356: an EOS token nullifies a store, STK, an atomic and a full/empty form but FEQ, while a load, LDK and FEQ pass EOS on with value
0. Said of every class M form. -/
def Obligations.AccessTraps : Prop :=
  (∀ (s s1 : State) (f : Firing) (h : Hdr) (m : MField) (c : Ctx) (e : MemTrap) (acq rel : Bool), Turn s f → f.eos = false →
    (s.tile f.tile).ctx = some c → Anew s f c →
    let fails (op : MemOp) : Prop := resolve { s with cur := none } f.tile m.k.toNat (c.kreg m.k.toNat)
      (tokVal f.left + m.off.signExtend 64) op (isSupervisor s f.tile)
      { bits := (accessData op f).1, tag := (accessData op f).2 } = (s1, .error e)
    let trap := Host.Outcome.next (trapFiring s1 f e.cause e.info0 e.info1)
    ∀ x ∈ readForms h m ++ writeForms h m acq rel, fails x.2 → exec x.1 s = trap) ∧
  (∀ (s : State) (f : Firing) (h : Hdr) (m : MField) (c : Ctx) (acq rel : Bool), Turn s f → f.eos = true →
    (s.tile f.tile).ctx = some c → Anew s f c →
    (∀ x ∈ writeForms h m acq rel, exec x.1 s = .next (settledWith s f .nullified [])) ∧
    ∀ x ∈ readForms h m, exec x.1 s = .next (settledWith s f .fired
      (sentTo f.slot h.t1 { resultToken f 0 true with anc := if f.anc.contains f.slot then f.anc else f.slot :: f.anc } ++
       sentTo f.slot h.t2 { resultToken f 0 true with anc := if f.anc.contains f.slot then f.anc else f.slot :: f.anc })))

/-- R146, R358, R360, R362: a load, LDK or FEQ whose line or word is full and not reserved reads at once: it brings back
the bytes at its place, little-endian, sign-extended or zero-extended, the capability with its granule's tag, or the
state. One whose line or word has a state acts as an acquire, FEQ where it gives 1 (R226, R292), and another discards what was
read ahead of its bytes (R230, log 118). R146: a load, LDK or LDE
of an empty line or word waits there, and acts as an acquire once it has been satisfied (R292). R225: a load that a chain
links behind a held store of the same address and size reads what the store will write. -/
def Obligations.LoadsRead : Prop :=
  (∀ (s s1 : State) (f : Firing) (h : Hdr) (m : MField) (c : Ctx) (p : Place) (a : Word), Turn s f → f.eos = false →
    (s.tile f.tile).ctx = some c → Anew s f c → Near p → f.anc = [] → s1.pend = [] →
    reservedByOther s1 f.tile c.id p = false →
    let back (op : MemOp) (v : MemValue) : State :=
      accessing s1 f (accessBy s1 f m op c p a ((tokVal f.right).setWidth 128) false (some (.value v)))
    let done (op : MemOp) (v : MemValue) : Host.Outcome State Fault Refusal := .next (acquiring (back op v) f.tile op p)
    let loads (n : Nat) (signed : Bool) (i : Instr) : Prop :=
      Reaches s f c m (.load n signed) s1 p a → targetFull s1 p = true → readFault s1 p n = none →
      exec i s = done (.load n signed) (.word (let x := (readPlace s1 p n).setWidth (8 * n)
        if signed then x.signExtend 64 else x.setWidth 64))
    loads 1 true (.ldb h m) ∧ loads 1 false (.ldbu h m) ∧ loads 2 true (.ldh h m) ∧ loads 2 false (.ldhu h m) ∧
    loads 4 true (.ldw h m) ∧ loads 4 false (.ldwu h m) ∧ loads 8 true (.ldd h m) ∧
    (∀ t off, p = .scratch t off → Reaches s f c m .ldk s1 p a → targetFull s1 p = true → readFault s1 p 16 = none →
      let x := mread (s1.tile t).mem off 16
      exec (.ldk h m) s = done .ldk { val := BitVec.ofNat 64 x, hi := BitVec.ofNat 64 (x / 2 ^ 64)
                                      ctag := granuleTag s1 t (off / 16) }) ∧
    (p ≠ .mailboxHole → Reaches s f c m (.feq (2 ^ m.sz.toNat)) s1 p a →
      (targetFull s1 p = true → exec (.feq h m) s = done (.feq (2 ^ m.sz.toNat)) (.word 1)) ∧
      (targetFull s1 p = false → exec (.feq h m) s = .next (back (.feq (2 ^ m.sz.toNat)) (.word 0))))) ∧
  (∀ (s s1 : State) (f : Firing) (h : Hdr) (m : MField) (c : Ctx) (p : Place) (a : Word), Turn s f → f.eos = false →
    (s.tile f.tile).ctx = some c → Anew s f c → hasState p = true → f.anc = [] → s1.pend = [] → targetFull s1 p = false →
    let waits (op : MemOp) (i : Instr) : Prop := Reaches s f c m op s1 p a → exec i s = .next (accessing s1 f
      (accessBy s1 f m op c p a ((tokVal f.right).setWidth 128) true none))
    waits (.load 1 true) (.ldb h m) ∧ waits (.load 1 false) (.ldbu h m) ∧ waits (.load 2 true) (.ldh h m) ∧
    waits (.load 2 false) (.ldhu h m) ∧ waits (.load 4 true) (.ldw h m) ∧ waits (.load 4 false) (.ldwu h m) ∧
    waits (.load 8 true) (.ldd h m) ∧ waits .ldk (.ldk h m) ∧ waits (.lde (2 ^ m.sz.toNat)) (.lde h m)) ∧
  (∀ (s s1 : State) (f : Firing) (h : Hdr) (m : MField) (c : Ctx) (p : Place) (a v : Word) (j : Nat) (w : Bool) (l : List Nat),
    Turn s f → f.eos = false → (s.tile f.tile).ctx = some c → Anew s f c → (∃ t off, p = .scratch t off) → s1.pend = [] →
    f.anc.contains j = true →
    (s1.fabric f.tile).held = [{ slot := j, key := f.key, tagged := w, eff := .store p 8 (v.setWidth 128) false false, anc := l }] →
    reservedByOther s1 f.tile c.id p = false → targetFull s1 p = true → readFault s1 p 8 = none →
    Reaches s f c m (.load 8 true) s1 p a →
    exec (.ldd h m) s = .next (acquire (accessing s1 f
      (accessBy s1 f m (.load 8 true) c p a ((tokVal f.right).setWidth 128) false (some (.value (.word v))))) f.tile))

/-- R105, R145, R362, R364: LDE and the atomics act at once where their line or word is full and not reserved: they bring
back the old value and keep it in the replay buffer; LDE leaves the line or word empty, and an atomic leaves what its
operation makes of the old value, the right operand and, for ACAS, the third. AMINU and AMAXU give the old value
zero-extended. R105, R160: an irrevocable instruction of a block that enters again, and an access that a handler has
performed, deliver the kept result and act on nothing; an LDE or atomic whose first request a far member has still to
answer takes it over. -/
def Obligations.AtomicsAct : Prop :=
  (∀ (s s1 : State) (f : Firing) (h : Hdr) (m : MField) (c : Ctx) (acq rel : Bool) (p : Place) (a : Word), Turn s f →
    f.eos = false → (s.tile f.tile).ctx = some c → Anew s f c → Near p → s1.pend = [] →
    reservedByOther s1 f.tile c.id p = false → targetFull s1 p = true → MemoriesWf s1 →
    let n := 2 ^ m.sz.toNat
    let w := 8 * n
    let old := readPlace s1 p n
    let o := (old.setWidth w).setWidth 64
    let x := ((tokVal f.right).setWidth w).setWidth 64
    let e := ((tokVal f.third).setWidth w).setWidth 64
    let so := (old.setWidth w).toInt
    let sx := ((tokVal f.right).setWidth w).toInt
    let act (i : Instr) (fn : BitVec 4) (result : Word) (new : Option Word) : Prop :=
      Reaches s f c m (.atomic fn n) s1 p a → readFault s1 p n = none →
      ∃ t q, exec i s = .next t ∧ t.pend = [q] ∧ q.got = some (.value (.word result)) ∧ q.place = p ∧
        (c.inh = false → ∀ y, (t.tile f.tile).ctx = some y →
          y.replay = c.replay ++ [{ slot := f.slot, tag := keyTag f.key, val := result }]) ∧
        (∀ u off, p = .scratch u off → u < 192 → ∀ b, mget (t.tile u).mem b =
          (match new with
            | some v => if off ≤ b ∧ b < off + n then BitVec.ofNat 8 (v.toNat / 256 ^ (b - off)) else mget (s1.tile u).mem b
            | none => mget (s1.tile u).mem b)) ∧
        (∀ g k, p = .mailbox g k → g < 16 → mailboxWord t g k = new.getD old) ∧
        (∀ b, p = .host b → ∀ z, mget t.host z = (match new with
          | some v => if b ≤ z ∧ z < b + n then BitVec.ofNat 8 (v.toNat / 256 ^ (z - b)) else mget s1.host z
          | none => mget s1.host z))
    act (.aadd h acq rel m) 0 ((old.setWidth w).signExtend 64) (some (((o + x).setWidth w).setWidth 64)) ∧
    act (.aand h acq rel m) 1 ((old.setWidth w).signExtend 64) (some (o &&& x)) ∧
    act (.aor h acq rel m) 2 ((old.setWidth w).signExtend 64) (some (o ||| x)) ∧
    act (.axor h acq rel m) 3 ((old.setWidth w).signExtend 64) (some (o ^^^ x)) ∧
    act (.amin h acq rel m) 4 ((old.setWidth w).signExtend 64) (some (if sx < so then x else o)) ∧
    act (.amax h acq rel m) 5 ((old.setWidth w).signExtend 64) (some (if so < sx then x else o)) ∧
    act (.aminu h acq rel m) 6 ((old.setWidth w).setWidth 64) (some (if x.toNat < o.toNat then x else o)) ∧
    act (.amaxu h acq rel m) 7 ((old.setWidth w).setWidth 64) (some (if o.toNat < x.toNat then x else o)) ∧
    act (.aswp h acq rel m) 8 ((old.setWidth w).signExtend 64) (some x) ∧
    act (.acas h acq rel m) 9 ((old.setWidth w).signExtend 64) (if o = e then some x else none) ∧
    (Reaches s f c m (.lde n) s1 p a → readFault s1 p n = none → hasState p = true →
      ∃ t q, exec (.lde h m) s = .next t ∧ t.pend = [q] ∧ q.got = some (.value (.word ((old.setWidth w).signExtend 64))) ∧
        (∀ u off, p = .scratch u off → u < 192 → targetFull t p = false ∧ (t.tile u).mem = (s1.tile u).mem) ∧
        (∀ g k, p = .mailbox g k → g < 16 → targetFull t p = false ∧ mailboxWord t g k = mailboxWord s1 g k))) ∧
  (∀ (s : State) (f : Firing) (h : Hdr) (m : MField) (c : Ctx) (acq rel : Bool), Turn s f →
    (s.tile f.tile).ctx = some c →
    let chain := if f.anc.contains f.slot then f.anc else f.slot :: f.anc
    (∀ r, replayEntry c f.slot f.key = some r →
      let again := settledWith s f .fired (sentTo f.slot h.t1 { resultToken f r.val false with anc := chain } ++
        sentTo f.slot h.t2 { resultToken f (if m.oe then 0 else r.val) false with anc := chain })
      let held := settledWith s f .fired (completionOf f h m)
      (∀ i ∈ [.lde h m, .aadd h acq rel m, .aand h acq rel m, .aor h acq rel m, .axor h acq rel m, .amin h acq rel m,
          .amax h acq rel m, .aminu h acq rel m, .amaxu h acq rel m, .aswp h acq rel m, .acas h acq rel m, .ldb h m, .ldbu h m,
          .ldh h m, .ldhu h m, .ldw h m, .ldwu h m, .ldd h m, .ldk h m, .feq h m], exec i s = .next again) ∧
      (∀ i ∈ [.stb h m, .sth h m, .stw h m, .std h m, .stk h m, .stf h m, .stfw h m, .feclr h m, .feset h m],
        exec i s = .next held)) ∧
    (∀ e, replayEntry c f.slot f.key = none → lostPend s c f.slot f.key = some e →
      let t := settledWith s f .fired []
      let taken : State := { t with pend := t.pend.map (fun x =>
        if x.id == e.id then { x with who := .firing f.tile c.id f.slot f.key } else x) }
      ∀ i ∈ [.lde h m, .aadd h acq rel m, .aand h acq rel m, .aor h acq rel m, .axor h acq rel m, .amin h acq rel m,
        .amax h acq rel m, .aminu h acq rel m, .amaxu h acq rel m, .aswp h acq rel m, .acas h acq rel m], exec i s = .next taken))

/-- R104, R355, R359, R360, R362: a store, STF, FECLR or FESET that is not at a far member resolves when it fires: its
write is held for its block or tag, a full/empty operation's with its scope (R222), and with OE its completion token leaves. R363: an STFW of an empty line or word that
nobody reserves takes the reservation when it fires and has still to resolve; of a full one it waits. -/
def Obligations.StoresAreHeld : Prop :=
  (∀ (s s1 : State) (f : Firing) (h : Hdr) (m : MField) (c : Ctx) (p : Place) (a : Word), Turn s f → f.eos = false →
    (s.tile f.tile).ctx = some c → Anew s f c → Near p →
    let v := tokVal f.right
    let n := 2 ^ m.sz.toNat
    let held (op : MemOp) (i : Instr) (e : Effect) : Prop :=
      Reaches s f c m op s1 p a → exec i s = .next (holding s1 f h.w e (completionOf f h m))
    held (.store 1) (.stb h m) (.store p 1 (v.setWidth 128) false false) ∧
    held (.store 2) (.sth h m) (.store p 2 (v.setWidth 128) false false) ∧
    held (.store 4) (.stw h m) (.store p 4 (v.setWidth 128) false false) ∧
    held (.store 8) (.std h m) (.store p 8 (v.setWidth 128) false false) ∧
    (∀ b, f.right = some b → held .stk (.stk h m) (.store p 16 b.toCap.bits true b.toCap.tag)) ∧
    let withScope (op : MemOp) (i : Instr) (e : Effect) : Prop :=
      Reaches s f c m op s1 p a → exec i s = .next (holdingAt s1 f h.w e m.scope (completionOf f h m))
    withScope (.stf n) (.stf h m) (.stf p n v) ∧
    withScope (.feclr n) (.feclr h m) (.feclr p) ∧
    withScope (.feset n) (.feset h m) (.feset p)) ∧
  (∀ (s s1 : State) (f : Firing) (h : Hdr) (m : MField) (c : Ctx) (p : Place) (a : Word), Turn s f → f.eos = false →
    (s.tile f.tile).ctx = some c → Anew s f c → hasState p = true → s1.pend = [] →
    Reaches s f c m (.stfw (2 ^ m.sz.toNat)) s1 p a →
    let e (acq : Bool) (got : Option Loaded) :=
      accessBy s1 f m (.stfw (2 ^ m.sz.toNat)) c p a ((tokVal f.right).setWidth 128) acq got
    (targetFull s1 p = false → s1.reserved.any (fun r => sameTarget r.place p) = false →
      exec (.stfw h m) s = .next ({ accessing s1 f (e false (some (.value (.word 0)))) with
        reserved := s1.reserved ++ [{ tile := f.tile, ctx := c.id, slot := f.slot, key := f.key, place := p }] })) ∧
    (targetFull s1 p = true → exec (.stfw h m) s = .next (accessing s1 f (e true none))))

/-- R355, R359, R363: an access that has been performed leaves the list of accesses when it returns: a load delivers its value
with no EOS and no CAP, an STFW that has its reservation holds its write, with its scope, and a failed access traps at its block. -/
def Obligations.AccessesReturn : Prop :=
  ∀ (s : State) (t j : Nat) (key : Key) (e : Pend) (b : Block) (h : Hdr) (m : MField) (v : Word),
    s.pend = [e] → e.who = .firing t (s.ctxId t) j key → (s.fabric t).blk = some b → s.cur = none →
    let f := pendFiring s e t j key
    let s0 := { s with pend := [] }
    let out := { resultToken f v false with anc := if f.anc.contains j then f.anc else j :: f.anc }
    (∀ n signed, instrAt b j = some (.ldd h m) → e.op = .load n signed → e.got = some (.value (.word v)) →
      exec (.loadReturn e.id) s = .next (s0.modFabric t (fun x => { x with
        mesh := x.mesh ++ sentTo j h.t1 out ++ sentTo j h.t2 { out with val := if m.oe then 0 else v } }))) ∧
    (∀ n, instrAt b j = some (.stfw h m) → e.op = .stfw n → e.got = some (.value (.word v)) →
      exec (.stfwReservation t e.id) s = .next (s0.modFabric t (fun x => { x with
        held := x.held ++ [{ slot := j, key := key, tagged := h.w, eff := .stfw e.place n (e.data.extractLsb' 0 64)
                             anc := e.anc, scope := m.scope }]
        mesh := x.mesh ++ completionOf f h m }))) ∧
    (∀ n signed cause i0 i1, instrAt b j = some (.ldd h m) → e.op = .load n signed → e.got = some (.failed cause i0 i1) →
      exec (.loadReturn e.id) s = .next (trapSlot s0 t j key cause i0 i1))

/-- R27: an access at a far member completes with the answer, traps with cause 0x2F where it is refused, and with cause
0x2E where no answer has come within 100 µs. (Cause 0x2E at the timeout follows R27 and not the opcode table's summary,
log 72.) R24, R26 to R29, R42: a far member's request is answered: with status 3 and a violation of kind 7 while the
league is off, or where no enabled tenant has its league ASID (in the PF's log) or the one that has it takes no league
requests; with status 1 where its tables have no page there, with status 2 and a violation of kind 6 where they or the
place deny it; with status 0 at once where it only asks whether it would be refused, but that the check of an STFW reserves an
empty and unreserved line or word before it is answered, until a cancellation ends that (R363, log 106); otherwise it is performed at the
place that the tables give, in host memory or in a scratchpad line that is full, and answered with what it reads. (Which
tenant a league ASID names is log 73, and that far translations are tagged with it log 104; the status of a refusal that
R27's outcomes do not name is the model's choice, log 79.) -/
def Obligations.LeagueAccesses : Prop :=
  (∀ (s : State) (t j : Nat) (key : Key) (e : Pend) (b : Block) (h : Hdr) (m : MField) (a : Word) (n : Nat) (signed : Bool)
    (value status : Nat),
    s.pend = [e] → e.who = .firing t (s.ctxId t) j key → (s.fabric t).blk = some b → instrAt b j = some (.ldd h m) →
    e.place = .league a → e.got = none → e.sent = true → linkedStores s e = [] → e.op = .load 8 signed → s.ahead = [] →
    s.cur = none →
    let f := pendFiring s e t j key
    let s0 := { s with pend := [] }
    let chain := if f.anc.contains j then f.anc else j :: f.anc
    let v : Word := BitVec.ofNat 64 value
    (s.now ≤ e.since + 100000 → exec (.leagueResponse e.id 0 value) s = .next (s0.modFabric t (fun x => { x with
      mesh := x.mesh ++ sentTo j h.t1 { resultToken f v false with anc := chain } ++
        sentTo j h.t2 { resultToken f (if m.oe then 0 else v) false with anc := chain } }))) ∧
    (s.now ≤ e.since + 100000 → 1 ≤ status → status ≤ 3 → exec (.leagueResponse e.id status n) s =
      .next (trapSlot s0 t j key 0x2F e.addr ((e.addr.extractLsb' 45 11).setWidth 64 ||| (BitVec.ofNat 64 status <<< 16)))) ∧
    (e.since + 100000 < s.now → exec (.leagueTimeout e.id) s =
      .next (trapSlot s0 t j key 0x2E e.addr ((e.addr.extractLsb' 45 11).setWidth 64)))) ∧
  (∀ (s : State) (r : LeagueRequest), r.cancel = true → s.pend = [] →
    let left := s.reserved.filter (fun x => !(x.tile == 256 + r.member.toNat && x.ctx == r.party && x.addr == r.addr))
    exec (.leagueRequestServe r) s = .next { s with reserved := left }) ∧
  (∀ (s : State) (r : LeagueRequest), r.cancel = false →
    let j := r.member.toNat
    let refused (u : State) (f kind status : Nat) : Prop :=
      exec (.leagueRequestServe r) s = .next ((logViolation u f kind r.addr j).emit (.leagueAnswer j status 0))
    (leagueTenant s r.lasid = none → refused s 0 7 3) ∧
    (∀ f, leagueTenant s r.lasid = some f → (s.ctl.lgen = false ∨ (s.tenant f).lgon = false) → refused s f 7 3) ∧
    (∀ f s1, leagueTenant s r.lasid = some f → s.ctl.lgen = true → (s.tenant f).lgon = true →
      (∀ cause level, translateAccessAs s f r.lasid.toNat (r.addr.toNat % 2 ^ 45) (opAccess r.op) = (s1, .error (cause, level)) →
        (cause = 0x21 → exec (.leagueRequestServe r) s = .next (s1.emit (.leagueAnswer j 1 0))) ∧
        (cause ≠ 0x21 → refused s1 f 6 2)) ∧
      (∀ p, translateAccessAs s f r.lasid.toNat (r.addr.toNat % 2 ^ 45) (opAccess r.op) = (s1, .ok p) →
        (placeFault 192 r.op .zero false p ≠ none → refused s1 f 6 2) ∧
        (placeFault 192 r.op .zero false p = none → r.check = true → (∀ n, r.op ≠ .stfw n) →
          exec (.leagueRequestServe r) s = .next (s1.emit (.leagueAnswer j 0 0))) ∧
        (∀ n, placeFault 192 r.op .zero false p = none → r.check = true → r.op = .stfw n → hasState p = true → s1.pend = [] →
          targetFull s1 p = false → s1.reserved = [] → ∃ u, exec (.leagueRequestServe r) s = .next u ∧
            u.outbox = s1.outbox ++ [.leagueAnswer j 0 0] ∧ u.pend = [] ∧ ∃ x, u.reserved = [x] ∧ x.place = p ∧
            x.tile = 256 + j ∧ x.ctx = r.party ∧ x.addr = r.addr) ∧
        (placeFault 192 r.op .zero false p = none → r.check = false → s1.pend = [] → ∀ n, n ≤ 8 →
          let w := r.data.extractLsb' 0 64
          let serves (P : State → Prop) (v : Nat) : Prop := ∃ u, exec (.leagueRequestServe r) s = .next u ∧
            u.outbox = s1.outbox ++ [.leagueAnswer j 0 v] ∧ u.pend = [] ∧ P u
          (∀ b, p = .host b →
            (r.op = .store n → serves (fun u => u.host = mwrite s1.host b n w.toNat) 0) ∧
            (hostAnswer s1 b n = .good →
              let old : Word := BitVec.ofNat 64 (mread s1.host b n)
              (∀ signed, r.op = .load n signed → serves (fun u => u.host = s1.host) (loadExtend n signed old).toNat) ∧
              (∀ fn, r.op = .atomic fn n → serves (fun u => u.host = (match atomicNew fn n old w r.expect with
                | some v => mwrite s1.host b n v.toNat
                | none => s1.host)) (atomicResult fn n old).toNat))) ∧
          (∀ t off, p = .scratch t off → t < 192 → s1.reserved = [] → lineState s1 t (off / 128) = .reset →
            let old : Word := BitVec.ofNat 64 (mread (s1.tile t).mem off n)
            (r.op = .store n → serves (fun u => (u.tile t).mem = mwriteBytes (s1.tile t).mem off (bytesOf n w.toNat)) 0) ∧
            (∀ signed, r.op = .load n signed →
              serves (fun u => (u.tile t).mem = (s1.tile t).mem) (loadExtend n signed old).toNat) ∧
            (r.op = .lde n → serves (fun u => (u.tile t).mem = (s1.tile t).mem ∧
              lineState u t (off / 128) = { full := false, poison := false }) (loadExtend n true old).toNat))))))

/-- R137, R366: KBASE, KLEN and KATTR deliver BASE, LENGTH, and the tag, LOCK, SPACE and PERMS of the left capability,
whatever its state. R140, R141, R367: what the operations that change a capability deliver, and the causes with which they
trap: 0x20 untagged, 0x26 reserved bits, 0x25 locked, 0x23 beyond the length, 0x24 without the permission or the key.
TINFO0 is BASE. -/
def Obligations.CapabilityForms : Prop :=
  (∀ (s : State) (f : Firing) (h : Hdr) (a : Token), Turn s f → f.left = some a →
    let c := a.toCap
    Computes (.kbase h) s f h (c.bits.extractLsb' 0 64) ∧
    Computes (.klen h) s f h ((c.bits.extractLsb' 64 40).setWidth 64) ∧
    Computes (.kattr h) s f h (BitVec.ofBool c.tag ++ 0#39 ++ c.bits.extractLsb' 104 24)) ∧
  (∀ (s : State) (f : Firing) (h : Hdr) (a : Token) (ctx : Ctx), Turn s f → f.left = some a →
    (s.tile f.tile).ctx = some ctx →
    let c := a.toCap
    let b := tokVal f.right
    let gives (i : Instr) (r : CapReg) : Prop := exec i s = .next (delivered s f h (capToken f r f.eos))
    let traps (i : Instr) (cause : Nat) : Prop := Traps i s f cause c.base b
    (c.tag = false → traps (.kadv h) 0x20 ∧ traps (.ktrim h) 0x20 ∧ traps (.kmask h) 0x20 ∧ traps (.klock h) 0x20 ∧
      Traps (.kopen h) s f 0x20 c.base 0) ∧
    (c.tag = true → c.rsv ≠ 0 → traps (.kadv h) 0x26 ∧ traps (.ktrim h) 0x26 ∧ traps (.kmask h) 0x26 ∧
      traps (.klock h) 0x26 ∧ Traps (.kopen h) s f 0x26 c.base 0) ∧
    (c.tag = true → c.rsv = 0 → c.lock ≠ 0 → traps (.kadv h) 0x25 ∧ traps (.ktrim h) 0x25 ∧ traps (.kmask h) 0x25 ∧
      traps (.klock h) 0x25) ∧
    (c.tag = true → c.rsv = 0 → c.lock = 0 →
      (b.toNat ≤ c.length → gives (.kadv h) (.make c.space (c.base + b) (c.length - b.toNat) c.perms 0 true)) ∧
      (c.length < b.toNat → traps (.kadv h) 0x23) ∧
      (b.toNat ≤ c.length → gives (.ktrim h) (.make c.space c.base b.toNat c.perms 0 true)) ∧
      (c.length < b.toNat → traps (.ktrim h) 0x23) ∧
      gives (.kmask h) (.make c.space c.base c.length (c.perms &&& b.setWidth 12) 0 true) ∧
      (c.perms.getLsbD 8 = true → 1 ≤ b.toNat → b.toNat ≤ 15 →
        (isSupervisor s f.tile = true ∨ ctx.keys.getLsbD b.toNat = true) →
        gives (.klock h) (.make c.space c.base c.length c.perms b.toNat true)) ∧
      (c.perms.getLsbD 8 = false ∨ b.toNat < 1 ∨ 15 < b.toNat ∨
        (isSupervisor s f.tile = false ∧ ctx.keys.getLsbD b.toNat = false) → traps (.klock h) 0x24) ∧
      Traps (.kopen h) s f 0x24 c.base 0) ∧
    (c.tag = true → c.rsv = 0 → c.lock ≠ 0 →
      (isSupervisor s f.tile = true ∨ (ctx.keys.getLsbD c.lock = true ∧ c.perms.getLsbD 9 = true) →
        gives (.kopen h) (.make c.space c.base c.length c.perms 0 true)) ∧
      (isSupervisor s f.tile = false → (ctx.keys.getLsbD c.lock = false ∨ c.perms.getLsbD 9 = false) →
        Traps (.kopen h) s f 0x24 c.base 0)))

/-! ### Streams, fences, system (R280 to R296, R369 to R379) -/

/-- R226, R283, R285, R303: SPARM holds the arming of its port once its record has been read from a full line, which is an
acquire, and has passed its checks, and traps with cause 0x40 on a malformed one; SPDIS and SPSKIP hold their effects and SPPOS
delivers the committed position, with OVR in bit 63, where the port was armed at mapping; elsewhere they trap with cause 0x43.
(That 0x40 and 0x43 record what R293 records, and the free underlying cause, is the model's choice, log 56.) -/
def Obligations.StreamControl : Prop :=
  ∀ (s : State) (f : Firing) (h : Hdr) (k : BitVec 4) (p : BitVec 3) (c : Ctx), Turn s f → f.eos = false → BlockWide s f →
    (s.tile f.tile).ctx = some c →
    let q := mappedPort s f.tile p.toNat
    (∀ s1 t off a, resolveRange { s with cur := none } f.tile k.toNat (c.kreg k.toNat) (tokVal f.left) 64 64 permLD .read
        (isSupervisor s f.tile) false false = (s1, .ok (.scratch t off, a)) →
      blockedRead s1 f.tile c.id (.scratch t off) = false → readFault s1 (.scratch t off) 64 = none → f.anc = [] →
      (∀ e ∈ s1.pend, e.writing = false) →
      let r : BitVec 512 := BitVec.ofNat 512 (mread (s1.tile t).mem off 64)
      let pc := c.kreg (patK r)
      (patMalformed r pc.base = true → PortTraps (.sparm h k p) s (acquire s1 f.tile) f 0x40 p.toNat
        { armed := true, record := r, cap := pc, com := PortPos.reset, work := PortPos.reset }) ∧
      (patMalformed r pc.base = false → patternCapFault pc (patOut r) = none →
        exec (.sparm h k p) s = .next (holding (acquire s1 f.tile) f false (.sparm p.toNat r pc) []))) ∧
    (q.armed = true →
      Holds (.spdis h p) s f false (.spdis p.toNat) ∧
      Holds (.spskip h p) s f false (.spskip p.toNat (tokVal f.left)) ∧
      exec (.sppos h p) s = .next (delivered s f h (resultToken f
        (BitVec.ofNat 64 q.com.pos ||| (if q.com.ovr then 0x8000000000000000 else 0)) false))) ∧
    (q.armed = false →
      PortTraps (.spdis h p) s { s with cur := none } f 0x43 p.toNat q ∧
      PortTraps (.spskip h p) s { s with cur := none } f 0x43 p.toNat q ∧
      PortTraps (.sppos h p) s { s with cur := none } f 0x43 p.toNat q)

/-- R281, R282: the element at position p of a pattern lies at START plus the sum over its dimensions of the index, p in
the mixed radix of the counts with dimension 0 fastest, times the stride; for one and for two dimensions. (That START is
read as unsigned beside the sign-extended strides is the model's reading, log 70.) R292, R293: STREAM_PREFETCH reads the
next element of an armed input port that is not held yet into the elements read ahead: its bytes, zero-extended or
sign-extended by SGN, or the failed check of its address. (While a committed fence waits for its stores nothing is read,
log 118.) -/
def Obligations.StreamElements : Prop :=
  (∀ (r : BitVec 512) (p : Nat),
    (patNd r = 0 → 0 < patCount r 0 → p < patCount r 0 → patOffset r p = (patStart r).toNat + p * patStride r 0) ∧
    (patNd r = 1 → 0 < patCount r 0 → p < patCount r 0 * patCount r 1 →
      patOffset r p = (patStart r).toNat + (p % patCount r 0 : Nat) * patStride r 0 +
        (p / patCount r 0 : Nat) * patStride r 1)) ∧
  (∀ (s : State) (t p : Nat) (c : Ctx), (s.tile t).ctx = some c → p < 8 →
    let q := c.port p
    let pos := q.work.pos
    let r := q.record
    q.armed = true → patOut r = false → pos < patTotal r → nextAhead s t p q = some pos → q.cap.space = 0 →
    fencePending s c = false →
    let a := elementAddr q pos
    let n := patSize r
    let keep (s : State) (place : Option Place) (g : Fetched) : State :=
      let x : Prefetch :=
        { tile := t, port := p, pos := pos, place := place, size := n, got := g, since := s.nextId, upto := s.nextId }
      { s with ahead := s.ahead ++ [x] }
    (patOffset r pos < 0 ∨ (q.cap.length : Int) < patOffset r pos + n →
      exec (.streamPrefetch t p) s = .next (keep s none (.failed 0x23))) ∧
    (0 ≤ patOffset r pos → patOffset r pos + n ≤ (q.cap.length : Int) → a.toNat < 0x400000 →
      blockedRead s t c.id (.scratch t a.toNat) = false → (lineState s t (a.toNat / 128)).poison = false →
      (∀ e ∈ s.pend, e.writing = false) →
      let x : Word := BitVec.ofNat 64 (mread (s.tile t).mem a.toNat n)
      exec (.streamPrefetch t p) s = .next (keep { s with nextId := s.nextId + 1 } (some (.scratch t a.toNat))
        (.value (if patSigned r then sext (8 * n) x else zext (8 * n) x)))))

/-- R104, R209, R210, R369 to R371, R379: fences, queue fences, BINIT and BARR are held for their block; BWAIT resolves at once
where its barrier has passed the tile's arrival phase and waits elsewhere; WAITQ resolves at once, as an acquire, where the
queues it names hold nothing of another block, and waits elsewhere; WFE resolves at once where EV is set,
which it clears, and waits elsewhere. -/
def Obligations.Synchronisation : Prop :=
  ∀ (s : State) (f : Firing) (h : Hdr) (kinds q : BitVec 4) (scope : BitVec 3) (b : BitVec 2) (c : Ctx), Turn s f →
    f.eos = false → BlockWide s f → (s.tile f.tile).ctx = some c →
    let phase := (s.barrierOf c b.toNat).phase
    let mine := (c.arrival[b.toNat]?.getD none).getD phase
    let x := s.fabric f.tile
    let others : Prop := ∀ w ∈ x.waits, waitOver s c x.inst w = false
    let quiet : Prop := ∀ j, j < 4 → q.getLsbD j = true → queueQuiet s c x.inst j = true
    Holds (.fence h kinds scope) s f false (.fence kinds scope.toNat) ∧
    Holds (.qfence h q) s f false (.qfence q) ∧
    Holds (.binit h b) s f false (.binit b.toNat (tokVal f.left)) ∧
    Holds (.barr h b) s f false (.barr b.toNat) ∧
    (mine < phase → exec (.bwait h b) s = .next (settledWith s f .fired [])) ∧
    (phase ≤ mine → others → exec (.bwait h b) s = .next (waiting s f (.barrier b.toNat mine))) ∧
    (quiet → others → exec (.waitq h q) s = .next (acquire (settledWith s f .fired []) f.tile)) ∧
    (¬quiet → others → exec (.waitq h q) s = .next (waiting s f (.queues q))) ∧
    (c.ev = true → exec (.wfe h) s = .next ((settledWith s f .fired []).modCtx f.tile (fun c => { c with ev := false }))) ∧
    (c.ev = false → others → exec (.wfe h) s = .next (waiting s f (.event s.now)))

/-- R127, R285: a form that is block-wide only, SPPOS by R285 among them, traps with cause 0x08 when it fires for a tag of
an iterating block. R300, R324, R374 to R378: the supervisor-only instructions trap with cause 0x0A at firing in a user
block. (That in a user block this comes before the 0x08 of a block-wide-only form that fires for a tag is the model's
reading, log 49.) -/
def Obligations.RestrictedForms : Prop :=
  (∀ (s : State) (f : Firing) (h : Hdr) (q k : BitVec 4) (b : BitVec 2) (p : BitVec 3) (n : BitVec 12) (c : Ctx), Turn s f →
    f.eos = false → isLoop s f.tile = true → f.key.isSome = true → (s.tile f.tile).ctx = some c →
    Traps (.qfence h q) s f 0x08 0 0 ∧ Traps (.binit h b) s f 0x08 0 0 ∧ Traps (.barr h b) s f 0x08 0 0 ∧
    Traps (.bwait h b) s f 0x08 0 0 ∧ Traps (.waitq h q) s f 0x08 0 0 ∧ Traps (.wfe h) s f 0x08 0 0 ∧
    Traps (.sparm h k p) s f 0x08 0 0 ∧ Traps (.spdis h p) s f 0x08 0 0 ∧ Traps (.spskip h p) s f 0x08 0 0 ∧
    Traps (.sppos h p) s f 0x08 0 0 ∧ Traps (.tlbiVa h) s f 0x08 0 0 ∧ Traps (.tlbiCtx h) s f 0x08 0 0 ∧
    (isSupervisor s f.tile = true → Traps (.csrw h n) s f 0x08 0 0 ∧ Traps (.tlbiAsid h) s f 0x08 0 0 ∧
      Traps (.tlbiAll h) s f 0x08 0 0 ∧ Traps (.asidrt h) s f 0x08 0 0)) ∧
  (∀ (s : State) (f : Firing) (h : Hdr) (n : BitVec 12), Turn s f → f.eos = false → isSupervisor s f.tile = false →
    Traps (.csrr h n) s f 0x0A 0 0 ∧ Traps (.csrw h n) s f 0x0A 0 0 ∧ Traps (.tlbiAsid h) s f 0x0A 0 0 ∧
    Traps (.tlbiAll h) s f 0x0A 0 0 ∧ Traps (.asidrt h) s f 0x0A 0 0 ∧ Traps (.tret h) s f 0x0A 0 0)

/-- R298, R373, R375, R376: SYSCALL and BRK pass their left value on and ask for causes 0x01 and 0x09 after the commit; CSRR
delivers a supervisor register of the context and CROOT its capability; CSRW's write is held. -/
def Obligations.SystemForms : Prop :=
  ∀ (s : State) (f : Firing) (h : Hdr) (n : BitVec 12) (c : Ctx), Turn s f → f.eos = false →
    (s.tile f.tile).ctx = some c →
    let asks (cause : Nat) : State := (delivered s f h (resultToken f (tokVal f.left) false)).modFabric f.tile (fun x =>
      { x with sys := x.sys ++ [{ slot := f.slot, key := f.key, cause := cause, val := tokVal f.left }] })
    let reads (m : BitVec 12) (v : Word) : Prop := exec (.csrr h m) s = .next (delivered s f h (resultToken f v false))
    exec (.syscall h) s = .next (asks 0x01) ∧ exec (.brk h) s = .next (asks 0x09) ∧
    (isSupervisor s f.tile = true →
      reads 0x000 (BitVec.ofNat 64 c.tcause) ∧ reads 0x001 c.tblk ∧ reads 0x002 (BitVec.ofNat 64 c.tslot) ∧
      reads 0x003 (c.ttag.setWidth 64) ∧ reads 0x004 c.tinfo0 ∧ reads 0x005 c.tinfo1 ∧ reads 0x006 c.tvec ∧
      reads 0x007 c.treta ∧
      reads 0x008 (BitVec.ofNat 64 (c.inh.toNat + 2 * c.async.toNat + 4 * c.after.toNat)) ∧
      reads 0x009 ((s.fabric f.tile).mapFlags.setWidth 64) ∧ reads 0x021 (c.keys.setWidth 64) ∧
      exec (.csrr h 0x020) s = .next (delivered s f h (capToken f (.make 3 0 0x10000 0x803 0 true) false)) ∧
      (BlockWide s f → Holds (.csrw h n) s f false (.csrw n.toNat (tokVal f.left))))

/-- R95, R157, R158, R377, R378: when a TLBI has fired no slice holds a translation that it names, no block cache a line of a page
that it names, no walk cache an entry of its ASID, and TLBI ALL leaves none at all; ASIDRT moves the generation of its ASID on, and at the wrap removes its entries. -/
def Obligations.TranslationsRemoved : Prop :=
  ∀ (s : State) (f : Firing) (h : Hdr) (c : Ctx), Turn s f → f.eos = false → BlockWide s f → (s.tile f.tile).ctx = some c →
    MemoriesWf s →
    let own := asidOf s c.tenant
    let va := (tokVal f.left).toNat
    let a := va % 65536
    let fired (t : State) : Prop := settledFor (t.fabric f.tile) f.slot f.key = true
    (∃ t, exec (.tlbiVa h) s = .next t ∧ fired t ∧ ∀ x ∈ t.tiles, (∀ e ∈ x.walks, e.asid ≠ own) ∧
      ((tokVal f.left).getLsbD 56 = false → (∀ e ∈ x.tlb, e.asid = own → e.vpage ≠ va / 65536 / 2 ^ (e.shift - 16)) ∧
        (∀ e ∈ x.bcache, e.asid = own → 64 * e.vline / 2 ^ e.shift ≠ va / 2 ^ e.shift))) ∧
    (∃ t, exec (.tlbiCtx h) s = .next t ∧ fired t ∧ ∀ x ∈ t.tiles, (∀ e ∈ x.walks, e.asid ≠ own) ∧
      (∀ e ∈ x.tlb, e.asid ≠ own) ∧ (∀ e ∈ x.bcache, e.asid ≠ own)) ∧
    (isSupervisor s f.tile = true →
      (∃ t, exec (.tlbiAsid h) s = .next t ∧ fired t ∧ ∀ x ∈ t.tiles, (∀ e ∈ x.walks, e.asid ≠ a) ∧
        (∀ e ∈ x.tlb, e.asid ≠ a) ∧ (∀ e ∈ x.bcache, e.asid ≠ a)) ∧
      (∃ t, exec (.tlbiAll h) s = .next t ∧ fired t ∧ ∀ x ∈ t.tiles, x.tlb = [] ∧ x.walks = [] ∧ x.bcache = []) ∧
      (∃ t, exec (.asidrt h) s = .next t ∧ fired t ∧ asidGeneration t a = (asidGeneration s a + 1) % 256 ∧
        (∀ b, b ≠ a → asidGeneration t b = asidGeneration s b) ∧
        (asidGeneration t a = 0 → ∀ x ∈ t.tiles, ∀ e ∈ x.tlb, e.asid ≠ a)))

/-- R99, R289: where a firing's predicate does not match, or a NULL token reached a port that it reads, every instruction settles and
does nothing else: a tracked one as nullified, any other as off. A WR also lets the pushes behind it take positions: in an
iterating block they wait for their tags, in another the next one takes its port's position. -/
def Obligations.PredicatedOff : Prop :=
  ∀ (i : Instr) (s : State) (f : Firing), s.cur = some f → f.off = true → (hdrOf i).isSome = true →
    ((formOf i).kind = .tracked → exec i s = .next (settledWith s f .nullified [])) ∧
    ((formOf i).kind = .plain ∨ (formOf i).kind = .exit → exec i s = .next (settledWith s f .off [])) ∧
    ((formOf i).kind = .wr → isLoop s f.tile = true → exec i s = .next (settledWith s f .nullified [])) ∧
    (∀ b c, (formOf i).kind = .wr → f.tile < 192 → (s.fabric f.tile).blk = some b → b.loop = false →
      (s.tile f.tile).ctx = some c →
      ((∀ v ∈ (s.fabric f.tile).wrs, v.push = true → v.pos ≠ none) → exec i s = .next (settledWith s f .nullified [])) ∧
      (∀ p j v, p < 8 → pushSlots b c p = [f.slot, j] → settledFor (s.fabric f.tile) j f.key = true →
        (s.fabric f.tile).wrs = [v] → v.slot = j → v.push = true → v.n = p → v.pos = none →
        patOut (c.port p).record = true → PushLands (c.port p) (c.port p).work.pos →
        ∃ u, exec i s = .next u ∧ PushPlaced u f.tile p c [] v))

/-! ### Engine commands, copies and riders at firing (R380, R392, R396, R399 to R401, R193) -/

/-- The instruction fires a command into a queue of its tile's context: the command is held with what it captures. -/
def Enters (i : Instr) (s : State) (f : Firing) (tagged : Bool) (q : Nat) (caps : List CapReg) : Prop :=
  Holds i s f tagged (.command q { instr := some i, fence := 0, set := 0, blk := blockAddr s f.tile, slot := f.slot
                                   tag := keyTag f.key, left := tokVal f.left, right := tokVal f.right, caps := caps
                                   record := [], supervisor := isSupervisor s f.tile, inst := (s.fabric f.tile).inst
                                   empties := [], cycle := 0, stamp := 0 })

/-- R246, R380: the vector forms that read no memory enter the vector queue with their tokens. R249, R390, R391: a vector
memory form whose capability passes its checks, and, where it is unguarded and consecutive or strided, whose every lane
lies within it, enters the vector queue with the capability; a store names the lines it empties. The first lane that fails
traps at firing. (That the trap of a failed capability records the address of lane 0, whatever the guard, is the model's
reading, log 58.) -/
def Obligations.VectorFormsEnter : Prop :=
  (∀ (s : State) (f : Firing) (h : Hdr) (v : VField) (cond : BitVec 4), Turn s f → f.eos = false →
    let enters (i : Instr) : Prop := Enters i s f false 1 []
    enters (.vbcst h v) ∧ enters (.vadd h v) ∧ enters (.vsub h v) ∧ enters (.vmul h v) ∧ enters (.vfma h v) ∧
    enters (.vmin h v) ∧ enters (.vmax h v) ∧ enters (.vabs h v) ∧ enters (.vneg h v) ∧ enters (.vand h v) ∧
    enters (.vor h v) ∧ enters (.vxor h v) ∧ enters (.vshl h v) ∧ enters (.vshr h v) ∧ enters (.vcvt h v) ∧
    enters (.vexp2 h v) ∧ enters (.vrcp h v) ∧ enters (.vrsq h v) ∧ enters (.vredadd h v) ∧ enters (.vredmax h v) ∧
    enters (.vredmin h v) ∧ enters (.vcmp h cond v) ∧ enters (.vsel h v) ∧ enters (.vperm h v) ∧ enters (.vcmpr h v) ∧
    enters (.viota h v) ∧ enters (.mand h v) ∧ enters (.mor h v) ∧ enters (.mnot h v) ∧ enters (.mpopc h v) ∧
    enters (.vins h v)) ∧
  (∀ (s : State) (f : Firing) (h : Hdr) (v : VField) (c : Ctx), Turn s f → f.eos = false → (s.tile f.tile).ctx = some c →
    let k := c.kreg (v.va.toNat % 16)
    let n := v.width / 8
    let unit (i : Nat) : Int := (tokVal f.left).toNat + (i * n : Nat)
    let stride (i : Nat) : Int := (tokVal f.left).toNat + i * (tokVal f.right).toInt
    let fits (off : Nat → Int) : Prop := ∀ i, i < 4096 / v.width → laneFault k n (off i) = none
    let stores (i : Instr) (off : Nat → Int) : Prop :=
      Holds i s f false (.command 1 (commandOf s f i [k] [] (storeLines k v off)))
    (engineCapFault k permLD = none → v.me = true ∨ fits unit → Enters (.vld h v) s f false 1 [k]) ∧
    (engineCapFault k permLD = none → v.me = true ∨ fits stride → Enters (.vlds h v) s f false 1 [k]) ∧
    (engineCapFault k permLD = none → Enters (.vgth h v) s f false 1 [k]) ∧
    (engineCapFault k permST = none → v.me = true ∨ fits unit → stores (.vst h v) unit) ∧
    (engineCapFault k permST = none → v.me = true ∨ fits stride → stores (.vsts h v) stride) ∧
    (engineCapFault k permST = none → Enters (.vsct h v) s f false 1 [k]) ∧
    (engineCapFault k (permLD ||| permST) = none → Enters (.vscta h v) s f false 1 [k]) ∧
    (∀ x, engineCapFault k permLD = some x →
      Traps (.vld h v) s f x (k.base + tokVal f.left) (memInfo1 (v.va.toNat % 16) n false 0)) ∧
    (∀ i x, engineCapFault k permLD = none → v.me = false → i < 4096 / v.width → laneFault k n (unit i) = some x →
      (∀ j, j < i → laneFault k n (unit j) = none) →
      Traps (.vld h v) s f x (BitVec.ofInt 64 (k.base.toNat + unit i)) (memInfo1 (v.va.toNat % 16) n false 0)))

/-- R234, R236, R239, R271 to R278, R392 to R395: a matrix or rank form whose operand passes its checks enters its queue with its
tokens and capability; MRD names the lines it will write; an illegal rank token traps with cause 0x15. (The range that RKPASS
checks at firing, and that its token comes before its capability, are the model's reading, log 59.) -/
def Obligations.MatrixAndRankFormsEnter : Prop :=
  ∀ (s : State) (f : Firing) (h : Hdr) (k : BitVec 4) (fmt vd va vb : BitVec 5) (m1 row0 : BitVec 10) (dt mg mc : BitVec 3)
    (rm : BitVec 2) (sat me kt : Bool) (c : Ctx), Turn s f → f.eos = false → (s.tile f.tile).ctx = some c →
    let r := c.kreg k.toNat
    let off := (tokVal f.left).toNat
    let l := tokVal f.left
    let ok (size : Option Nat) (align : Nat) (need : BitVec 12) : Prop := engineFault r off size align need = none
    (ok (some (tileSize fmt)) 128 permLD → Enters (.mlws h k fmt) s f h.w 2 [r]) ∧
    (∀ x, engineFault r off (some (tileSize fmt)) 128 permLD = some x →
      Traps (.mlws h k fmt) s f x (r.base + l) (memInfo1 k.toNat 128 false 0)) ∧
    Enters (.mswap h) s f h.w 2 [] ∧
    (ok none 128 permLD → Enters (.mpass h k m1 row0) s f h.w 2 [r]) ∧
    (ok none 128 permLD → Enters (.mpasss h k m1 row0) s f h.w 2 [r]) ∧
    Enters (.mzero h m1 row0) s f h.w 2 [] ∧
    (ok (some (128 * (m1.toNat + 1) * mrdBytes dt.toNat)) 128 permST → Holds (.mrd h k m1 row0 dt rm sat) s f h.w
      (.command 2 (commandOf s f (.mrd h k m1 row0 dt rm sat) [r] []
        (linesOf (r.base.toNat + off) (128 * (m1.toNat + 1) * mrdBytes dt.toNat))))) ∧
    (ok (some 32) 32 permLD → Enters (.mcbl h k) s f h.w 2 [r]) ∧
    (ok (some 512) 128 permLD → Enters (.rkatl h k) s f h.w 2 [r]) ∧
    (baseTokenLegal 128 3968 (tokVal f.right) = true →
      ok (some (512 * m1.toNat + 2 * rankCut (tokVal f.right))) 128 permLD → Enters (.rkpass h k m1 row0) s f h.w 2 [r]) ∧
    (baseTokenLegal 128 3968 (tokVal f.right) = false → Traps (.rkpass h k m1 row0) s f 0x15 (tokVal f.right) 1) ∧
    (rankTokenLegal kt l = true → Enters (.rank h vd va mg me kt mc) s f false 1 []) ∧
    (rankTokenLegal kt l = false → Traps (.rank h vd va mg me kt mc) s f 0x15 l 0) ∧
    (mergeTokenLegal l = true → Enters (.rkmerge h vd va vb kt mc) s f false 1 []) ∧
    (mergeTokenLegal l = false → Traps (.rkmerge h vd va vb kt mc) s f 0x15 l 0) ∧
    (baseTokenLegal 256 3840 l = true → (tokVal f.right).toNat < 2 ^ 16 → Enters (.rkrecon h vd va vb mg me) s f false 1 []) ∧
    (baseTokenLegal 256 3840 l = false → Traps (.rkrecon h vd va vb mg me) s f 0x15 l 0)

/-- R398 to R401, R404: a copy form whose record has been read from a full line, an acquire (R226), and whose completion line, source and
destination pass their checks, enters the copy queue with its record and the lines that its entry will empty; CPYM also needs
its follow-on command to pass. -/
def Obligations.CopyFormsEnter : Prop :=
  ∀ (s s1 s2 : State) (f : Firing) (h : Hdr) (k ks kd : BitVec 4) (c : Ctx) (t off : Nat) (a line : Word) (p : Place),
    Turn s f → f.eos = false → (s.tile f.tile).ctx = some c →
    resolveRange { s with cur := none } f.tile k.toNat (c.kreg k.toNat) (tokVal f.left) 64 64 permLD .read
      (isSupervisor s f.tile) false true = (s1, .ok (.scratch t off, a)) →
    blockedRead s1 f.tile c.id (.scratch t off) = false → readFault s1 (.scratch t off) 64 = none → f.anc = [] →
    (∀ e ∈ s1.pend, e.writing = false) →
    let s3 := acquire s1 f.tile
    let bytes := mbytes (s1.tile t).mem off 64
    let sc := c.kreg ks.toNat
    let dc := c.kreg kd.toNat
    let passes (kind : CopyKind) : Prop := let r := copyRec kind bytes
      resolveRange s3 f.tile k.toNat (c.kreg k.toNat) (BitVec.ofNat 64 r.cmpl) 128 128 permST .write
        (isSupervisor s f.tile) true true = (s2, .ok (p, line)) ∧
      (kind ≠ .cpyfill → copyCapFault sc r.src (r.sourceSpan kind) permLD = none) ∧
      copyCapFault dc r.dst r.destSpan permST = none
    let enters (kind : CopyKind) (i : Instr) (src : CapReg) (more : List CapReg) : Prop :=
      exec i s = .next (holding s2 f h.w (.command 0 (commandOf s2 f i ([c.kreg k.toNat, src, dc] ++ more) bytes
        (copyEmpties (copyRec kind bytes) dc (line.toNat / 128)))) [])
    (passes .cpy → enters .cpy (.cpy h k ks kd) sc []) ∧
    (passes .cpy2d → enters .cpy2d (.cpy2d h k ks kd) sc []) ∧
    (passes .cpyfill → enters .cpyfill (.cpyfill h k kd) (c.kreg 0) []) ∧
    (passes .cpyz → enters .cpyz (.cpyz h k ks kd) sc []) ∧
    (∀ e, passes .cpym → followOn s2 f (copyRec .cpym bytes) = .ok e → enters .cpym (.cpym h k ks kd) sc e.caps) ∧
    (∀ x, passes .cpym → followOn s2 f (copyRec .cpym bytes) = .error x →
      exec (.cpym h k ks kd) s = .next (trapFiring s2 f x.cause x.info0 x.info1))

/-- R193, R194, R399, R407, R408: a rider form whose record has been read from a full line and passes every check enters the
rider queue; a malformed record traps with cause 0x50, and a region that crosses a 1 GiB boundary with 0x51. (The span as the
length of RIPREF's lapse request is the model's reading, log 68, and so are the share's checks without an alignment, and for an
empty range, log 63.) -/
def Obligations.RiderFormsEnter : Prop :=
  ∀ (s s1 s2 : State) (f : Firing) (h : Hdr) (kr kc : BitVec 4) (c : Ctx) (t off : Nat) (a : Word),
    Turn s f → f.eos = false → (s.tile f.tile).ctx = some c →
    resolveRange { s with cur := none } f.tile kc.toNat (c.kreg kc.toNat) (tokVal f.left) 64 64 permLD .read
      (isSupervisor s f.tile) false true = (s1, .ok (.scratch t off, a)) →
    blockedRead s1 f.tile c.id (.scratch t off) = false → readFault s1 (.scratch t off) 64 = none → f.anc = [] →
    (∀ e ∈ s1.pend, e.writing = false) →
    let s3 := acquire s1 f.tile
    let bytes := mbytes (s1.tile t).mem off 64
    let r := riderRec bytes
    let region := c.kreg kr.toNat
    let ra := (region.base + BitVec.ofNat 64 r.roff).toNat
    let one (i : Instr) (kind : Nat) : Prop :=
      (recordMalformed kind bytes f.right.isSome = true → exec i s =
        .next (trapFiring s3 f 0x50 (region.base + BitVec.ofNat 64 r.roff) (BitVec.ofNat 64 r.cmpl))) ∧
      (recordMalformed kind bytes f.right.isSome = false → regionFault region r = none →
        (ra / 2 ^ 30 % 2 ^ 27 ≠ (ra + (r.span - 1)) % 2 ^ 64 / 2 ^ 30 % 2 ^ 27 → exec i s =
          .next (trapFiring s3 f 0x51 (region.base + BitVec.ofNat 64 r.roff) (BitVec.ofNat 64 r.cmpl))) ∧
        (ra / 2 ^ 30 % 2 ^ 27 = (ra + (r.span - 1)) % 2 ^ 64 / 2 ^ 30 % 2 ^ 27 →
          checkShare s3 f.tile kc.toNat (c.kreg kc.toNat) r = (s2, none) →
          (kind = 9 → r.lset = true → ra % 2 ^ 21 = 0 ∧ r.span % 2 ^ 21 = 0) →
          exec i s = .next (holding s2 f h.w (.command 3 (commandOf s2 f i [region, c.kreg kc.toNat] bytes
            (riderEmpties r (c.kreg kc.toNat)))) [])))
    one (.riread h kr kc) 1 ∧ one (.rifilt h kr kc) 2 ∧ one (.rimatv h kr kc) 3 ∧ one (.riupd h kr kc) 4 ∧
    one (.rired h kr kc) 5 ∧ one (.ricxg h kr kc) 6 ∧ one (.riwrite h kr kc) 7 ∧ one (.rifill h kr kc) 8 ∧
    one (.ripref h kr kc) 9

/-! ### Device steps of a tile: tokens, tags, blocks, traps (R91 to R135, R297 to R301, R314) -/

/-- R115, R116, R118, R119, R135, R314: a token that reaches its port is dropped where its colour is stale, traps with cause
0x08 where it is a tagged one at LGEN or one without an outer tag at LGEN2, and with cause 0x06 where its port, or its firing,
has had one. Else a block-wide one is latched, and another joins its slot's operands where it completes a firing or a way of its
set is free. The oldest toybox entry of a set returns to its slot's operands as soon as a way is free, before a token is placed.
(That a generator traps a token which it does not take with cause 0x08 is the model's reading, log 43; that entries return before
a token is placed, in its step, stands for R119's next fabric cycle, the model's choice, log 45.) -/
def Obligations.TokensArrive : Prop :=
  (∀ (s0 : State) (t i : Nat) (o : Operand) (b : Block),
    let s := returnToys s0 t
    let x := s.fabric t
    x.mesh[i]? = some o → x.blk = some b →
    let fresh := staleToken x o.tok = false ∧ wrongToken b o = false ∧ duplicateToken x o = false
    let joins (o : Operand) : State := s.modFabric t (fun x => { x with
      mesh := x.mesh.eraseIdx i, operands := x.operands ++ [o] })
    let gone : State := s.modFabric t (fun x => { x with mesh := x.mesh.eraseIdx i })
    (staleToken x o.tok = true → exec (.tokenArrival t i) s0 = .next gone) ∧
    (∀ h, staleToken x o.tok = false →
      (instrAt b o.slot = some (.lgen h) ∧ o.tok.bw = false) ∨
      (instrAt b o.slot = some (.lgen2 h) ∧ (o.tok.bw = true ∨ o.tok.outer = false)) →
      exec (.tokenArrival t i) s0 = .next (trapSlot gone t o.slot (tokenKey o.tok) 0x08 0 0)) ∧
    (staleToken x o.tok = false → wrongToken b o = false → duplicateToken x o = true →
      exec (.tokenArrival t i) s0 = .next (trapSlot gone t o.slot (tokenKey o.tok) 0x06 0 0)) ∧
    (fresh → o.tok.bw = true → exec (.tokenArrival t i) s0 = .next (s.modFabric t (fun x => { x with
      mesh := x.mesh.eraseIdx i, latches := x.latches ++ [o] }))) ∧
    (fresh → o.tok.bw = false → completesFiring b x o = true → exec (.tokenArrival t i) s0 = .next (joins o)) ∧
    (fresh → o.tok.bw = false → completesFiring b x o = false → (waysOf x o).length < 4 →
      exec (.tokenArrival t i) s0 = .next (joins { o with stored := true })) ∧
    ((s0.fabric t).toybox = [] → s = s0)) ∧
  (∀ (s : State) (t c set e : Nat) (p : Operand),
    oldestToy (s.fabric t) c set = some (e, p) → (waysOf (s.fabric t) p).length < 4 →
    ∃ u, exec (.toyboxReturn t c set) s = .next u ∧
      (u.fabric t).operands = (s.fabric t).operands ++ [{ p with stored := true }] ∧
      (u.fabric t).toybox = (s.fabric t).toybox.filter (fun y => !(y.1 == e)))

/-- R104, R107, R123, R145, R209, R227, R359 to R363: what a held effect of the block or tag on a tile does once it is released,
from s to u: a store writes its bytes, clears the tags of their granules (STK sets its own) and leaves line states; STF and STFW
write and set their line or word full, FECLR sets it empty and FESET full; a command enters its queue behind the others, and its
lines are empty; a FENCE with LD is an acquire. -/
def Released (s u : State) (t : Nat) (c v : Ctx) (e : Effect) : Prop :=
  let wrote (g off n d : Nat) : Prop := ∀ a, a < 0x3E0000 →
    mget (u.tile g).mem a = if off ≤ a ∧ a < off + n then BitVec.ofNat 8 (d / 256 ^ (a - off)) else mget (s.tile g).mem a
  let lines (g l : Nat) (full : Bool) : Prop :=
    ∀ k, lineState u g k = if k = l then { full := full, poison := false } else lineState s g k
  let share (g off n : Nat) : Prop := g < 192 ∧ 0 < n ∧ off + n ≤ 0x3E0000
  (∀ g off n d x, e = .store (.scratch g off) n d false x → share g off n → n ≤ 8 → wrote g off n d.toNat ∧
    (∀ k, lineState u g k = lineState s g k) ∧ ∀ i, off / 16 ≤ i → i ≤ (off + n - 1) / 16 → granuleTag u g i = false) ∧
  (∀ g off d x, e = .store (.scratch g off) 16 d true x → share g off 16 → wrote g off 16 d.toNat ∧
    (∀ k, lineState u g k = lineState s g k) ∧ granuleTag u g (off / 16) = x) ∧
  (∀ g off n w, e = .stf (.scratch g off) n w ∨ (e = .stfw (.scratch g off) n w ∧ targetFull s (.scratch g off) = false) →
    share g off n → n ≤ 8 → wrote g off n w.toNat ∧ lines g (off / 128) true) ∧
  (∀ g off, e = .feclr (.scratch g off) → share g off 1 → wrote g off 0 0 ∧ lines g (off / 128) false) ∧
  (∀ g off, e = .feset (.scratch g off) → share g off 1 → wrote g off 0 0 ∧ lines g (off / 128) true) ∧
  (∀ f m d x, e = .store (.mailbox f m) 8 d false x → f < 16 →
    mailboxWord u f m = d.setWidth 64 ∧ mailboxFull u f m = mailboxFull s f m) ∧
  (∀ f m w, e = .stf (.mailbox f m) 8 w → f < 16 → mailboxWord u f m = w ∧ mailboxFull u f m = true) ∧
  (∀ f m, e = .feclr (.mailbox f m) → f < 16 → mailboxWord u f m = mailboxWord s f m ∧ mailboxFull u f m = false) ∧
  (∀ f m, e = .feset (.mailbox f m) → f < 16 → mailboxWord u f m = mailboxWord s f m ∧ mailboxFull u f m = true) ∧
  (∀ a n d x, e = .store (.host a) n d false x → n ≤ 8 → ∀ z, mget u.host z =
    if a ≤ z ∧ z < a + n then BitVec.ofNat 8 (d.toNat / 256 ^ (z - a)) else mget s.host z) ∧
  (∀ q k, e = .command q k → q < 4 → (∃ n m, v.queue q = c.queue q ++ [{ k with cycle := n, stamp := m }]) ∧
    ∀ l ∈ k.empties, (lineState u t l).full = false) ∧
  (∀ kinds scope, e = .fence kinds scope → (kinds.getLsbD 0 = true → ∀ p ∈ u.ahead, p.tile ≠ t) ∧
    (kinds.getLsbD 1 = true → v.fenced = true)) ∧
  (∀ f, e = .flags f → v.fflags = c.fflags ||| f)

/-- Nothing is under way and nothing reserved, and the line states and granule tags of every tile are in canonical form. -/
def Still (s : State) : Prop :=
  MemoriesWf s ∧ s.pend = [] ∧ s.reserved = [] ∧ ∀ x ∈ s.tiles, twf LineState.reset x.lines = true ∧ twf false x.gtags = true

/-- R84, R115 to R117, R122, R123, R126, R263: TAG_EMIT puts the next tag in flight, or ends the sequence; TAG_COMPLETE marks a tag
that has come to rest complete, and releases its effect of the tagged channel, or traps with cause 0x06 where a WR or tracked
instruction still holds an operand of it; TAG_RETIRE moves the position of retirement on, keeps the values of the tag's WRs, and
releases its other effect. (For a tag that holds one effect, or none. What a tag at rest is follows the model's reading, log 44;
the pair of a locked context stands on its even tile, log 40.) -/
def Obligations.TagsMove : Prop :=
  ∀ (s : State) (t : Nat) (b : Block) (c : Ctx), (s.fabric t).blk = some b → (s.tile t).ctx = some c →
    (c.lock = true → t % 2 = 0) →
    let x := s.fabric t
    (∀ g w, emission b x = .inner g w → ∃ u, exec (.tagEmit t) s = .next u ∧ (u.fabric t).gen.inner = g.inner + 1 ∧
      (u.fabric t).tags = x.tags ++ [{ tag := w, outer := false, col := colourOf x w, complete := false }]) ∧
    (∀ w, emission b x = .outer w → ∃ u, exec (.tagEmit t) s = .next u ∧
      (u.fabric t).gen.nextOuter = x.gen.nextOuter + 1 ∧
      (u.fabric t).tags = x.tags ++ [{ tag := w, outer := true, col := colourOf x w, complete := false }]) ∧
    (emission b x = .ended → ∃ u, exec (.tagEmit t) s = .next u ∧ (u.fabric t).gen.sentEnd = true ∧
      (u.fabric t).tags = x.tags) ∧
    (∀ r, x.tags.find? (fun y => y.tag == r.tag) = some r → b.loop = true → mayComplete s t r = true →
      (∀ j, stuckSlot b x r.tag = some j →
        exec (.tagComplete t r.tag) s = .next (trapSlot s t j (some r.tag) 0x06 0 0)) ∧
      (stuckSlot b x r.tag = none → heldOf x (some r.tag) true = [] → pushesOf x (some r.tag) true = [] →
        ∃ u, exec (.tagComplete t r.tag) s = .next u ∧
          (u.fabric t).tags = x.tags.map (fun y => if y.tag == r.tag then { y with complete := true } else y)) ∧
      (∀ h, stuckSlot b x r.tag = none → heldOf x (some r.tag) true = [h] → pushesOf x (some r.tag) true = [] → Still s →
        queuesHaveRoom s c [h] = true → (∀ f, h.eff ≠ .flags f) → (∀ k n, h.eff ≠ .fence k n) →
        ∃ u v, exec (.tagComplete t r.tag) s = .next u ∧ (u.tile t).ctx = some v ∧ Released s u t c v h.eff ∧
          (u.fabric t).tags = x.tags.map (fun y => if y.tag == r.tag then { y with complete := true } else y))) ∧
    (∀ w, w = x.gen.resumeTag → b.loop = true → x.gen.isOldest w = true → (∃ r ∈ x.tags, r.tag = w ∧ r.complete = true) →
      x.parked = [] → pushesOf x (some w) false = [] →
      outstanding s t (fun k => k == some w) = false → fencePending s c = false →
      let moves (u : State) : Prop := (u.fabric t).gen = x.gen.advance ∧ (u.fabric t).kept = keepValues x (some w) ∧
        (u.fabric t).tags = x.tags.filter (fun y => !(y.tag == w))
      (heldOf x (some w) false = [] → ∃ u, exec (.tagRetire t) s = .next u ∧ moves u) ∧
      (∀ h, heldOf x (some w) false = [h] → writesToybox t h = false → Still s → queuesHaveRoom s c [h] = true →
        fenceHolds s t c x.inst (fenceKinds [h]) [h] = true →
        ∃ u v, exec (.tagRetire t) s = .next u ∧ moves u ∧ (u.tile t).ctx = some v ∧ Released s u t c v h.eff))

/-- R84, R107, R289, R300, R351, R353: a block whose commit condition holds writes the registers of its WRs and g55 for a
call, and leaves the fabric; its exit names the next block, halts the context, or clears INH and leads to TRETA. A push
that has its position writes its element there. (The pair of a locked context stands on its even tile, log 40.) R84, R104,
R107, R209, R285, R371, R372, R375: what each held effect does when its block commits: a held store, full/empty effect,
command or fence is released; CSRW writes its register, reserved bits ignored; BINIT sets its barrier's count, where 0 is
the region's tiles and a number above 48 is ignored, and BARR arrives, as an acquire; SPARM, SPDIS and SPSKIP change their
port; a queue fence enters the queues of its set. (For a block that holds one effect. A register's reserved bits are
R298's; the count of 0 for a locked region is log 99; that a write of FFLAGS leaves the flags that an engine command has raised at
the same moment is R263's and R415's, and what one moment is, log 107.) -/
def Obligations.BlocksCommit : Prop :=
  ((∀ (s : State) (t : Nat) (b : Block) (c : Ctx) (e : ExitRec) (w : HeldWr) (pos : Nat), (s.fabric t).blk = some b →
    (s.tile t).ctx = some c → (s.fabric t).exit = some e → commitReady s t b c = true → (s.fabric t).held = [] →
    (s.fabric t).sys = [] → (s.fabric t).wrs = [w] → w.push = true → w.key = blockKey b → b.loop = false → w.pos = some pos →
    commitRoom s t b c = true → (c.lock = true → t % 2 = 0) → (e.dest = .halt → c.inh = false) → Still s →
    let q := c.port w.n
    let n := patSize q.record
    let a := (elementAddr q pos).toNat
    ∃ u, exec (.blockCommit t) s = .next u ∧ u.fabric t = Fabric.reset ∧
      (patTotal q.record ≤ pos → ∀ k, k < 0x3E0000 → mget (u.tile t).mem k = mget (s.tile t).mem k) ∧
      (pos < patTotal q.record → PushLands q pos → a + n ≤ 0x3E0000 → ∀ k, k < 0x3E0000 → mget (u.tile t).mem k =
        if a ≤ k ∧ k < a + n then BitVec.ofNat 8 (w.val.toNat / 256 ^ (k - a)) else mget (s.tile t).mem k)) ∧
  (∀ (s : State) (t : Nat) (b : Block) (c : Ctx) (e : ExitRec), (s.fabric t).blk = some b → (s.tile t).ctx = some c →
    (s.fabric t).exit = some e → commitReady s t b c = true → (s.fabric t).held = [] → (s.fabric t).sys = [] →
    (∀ w ∈ (s.fabric t).wrs, w.push = false) → commitRoom s t b c = true → (c.lock = true → t % 2 = 0) →
    let x := s.fabric t
    let d := writeRegisters c (x.wrs.filter (fun w => w.key == blockKey b) ++ (if b.loop then x.kept else []))
    ∃ u v, exec (.blockCommit t) s = .next u ∧ (u.tile t).ctx = some v ∧ u.fabric t = Fabric.reset ∧
      (∀ n, v.kreg n = d.kreg n) ∧ (∀ n, n ≠ 55 → v.greg n = d.greg n) ∧
      (∀ a, e.dest = .block a none → v.phase = .fetching ∧ v.pc = a ∧ v.greg 55 = d.greg 55 ∧ v.inh = c.inh) ∧
      (∀ a r, e.dest = .block a (some r) → v.phase = .fetching ∧ v.pc = a ∧ v.greg 55 = r ∧ v.inh = c.inh) ∧
      (e.dest = .halt → c.inh = false → v.phase = .halted ∧ v.greg 55 = d.greg 55) ∧
      (e.dest = .tret → c.haltedEntry = false → v.phase = .fetching ∧ v.pc = c.treta ∧ v.inh = false) ∧
      (e.dest = .tret → c.haltedEntry = true → v.phase = .halted ∧ v.inh = false))) ∧
  (∀ (s : State) (t : Nat) (b : Block) (c : Ctx) (e : ExitRec) (h : Held), (s.fabric t).blk = some b →
    (s.tile t).ctx = some c → (s.fabric t).exit = some e → commitReady s t b c = true → (s.fabric t).held = [h] →
    h.key = blockKey b → (s.fabric t).sys = [] → (∀ w ∈ (s.fabric t).wrs, w.push = false) → commitRoom s t b c = true →
    (c.lock = true → t % 2 = 0) → (e.dest = .halt → c.inh = false) → Still s →
    let region := s.regionOf c.launch c.region
    ∃ u v, exec (.blockCommit t) s = .next u ∧ (u.tile t).ctx = some v ∧ u.fabric t = Fabric.reset ∧
      Released s u t c v h.eff ∧
      (∀ n w, h.eff = .csrw n w →
        v.tcause = (if n = 0x000 then w.toNat % 128 else c.tcause) ∧ v.tblk = (if n = 0x001 then w else c.tblk) ∧
        v.tslot = (if n = 0x002 then w.toNat % 256 else c.tslot) ∧ v.ttag = (if n = 0x003 then w.setWidth 32 else c.ttag) ∧
        v.tinfo0 = (if n = 0x004 then w else c.tinfo0) ∧ v.tinfo1 = (if n = 0x005 then w else c.tinfo1) ∧
        v.tvec = (if n = 0x006 then w &&& ~~~0x3F#64 else c.tvec) ∧
        v.treta = (if n = 0x007 then w &&& ~~~0x3F#64 else c.treta) ∧
        v.fflags = (if n = 0x009 then w.setWidth 6 ||| (if c.flagsAt = s.now then c.flagsNow else 0) else c.fflags) ∧
        v.keys = (if n = 0x021 then w.setWidth 16 &&& 0xFFFE else c.keys)) ∧
      (∀ k n r old, h.eff = .binit k n → region = some r → r.bars[k]? = some old →
        ∃ y, u.regionOf c.launch c.region = some y ∧ y.bars[k]? = some { old with count :=
          if n = 0 then r.nodes.length else if n.toNat ≤ 48 then n.toNat else old.count }) ∧
      (∀ k r old, h.eff = .barr k → region = some r → r.bars[k]? = some old →
        v.arrival[k]? = some (some old.phase) ∧ (∀ p ∈ u.ahead, p.tile ≠ t) ∧
        ∃ y, u.regionOf c.launch c.region = some y ∧ y.bars[k]? = some { old with arrivals := old.arrivals + 1 }) ∧
      (∀ p r cap, h.eff = .sparm p r cap → p < 8 → v.port p =
        { armed := true, record := r, cap := cap, com := PortPos.reset, work := PortPos.reset }) ∧
      (∀ p, h.eff = .spdis p → p < 8 → (v.port p).armed = false) ∧
      (∀ p n, h.eff = .spskip p n → p < 8 →
        let pos := min ((c.port p).work.pos + n.toNat) (c.port p).total
        (v.port p).com.pos = pos ∧ (v.port p).work.pos = pos) ∧
      (∀ set, h.eff = .qfence set → ∃ id, ∀ q, q < 4 → v.queue q =
        if set.getLsbD q then c.queue q ++ [fenceEntry id set (s.fabric t).inst] else c.queue q))

/-- R108, R132, R244, R297 to R299, R301: taking a trap writes its record into the trap registers, TRETA, AFTER and ASYNC,
sets INH and leads to TVEC (TRETA's bits 5 to 0 read 0), and leaves g and k registers as they are: a parked trap that is
due and the trap of a quiescent block return to the block, a held engine trap to the block that was interrupted, or to the
halted state. (Which parked trap is due in a block with LGEN2 is the model's reading, log 15.) R301, R302: a trap within a
handler ends the context, its launch and its queued commands, and is reported with cause 0x74, the second cause and the
second slot; the trap registers keep the first record. (That the record of a trap within a handler is reported so is the
model's reading, log 17.) -/
def Obligations.TrapsTaken : Prop :=
  (∀ (s : State) (t : Nat) (c : Ctx), (s.tile t).ctx = some c → c.inh = false →
    let x := s.fabric t
    let handles (i : Instr) (r : TrapRec) (treta : Word) (after async : Bool) : Prop :=
      ∃ u d, exec i s = .next u ∧ (u.tile t).ctx = some d ∧ d.tcause = r.cause ∧ d.tblk = r.blk ∧ d.tslot = r.slot ∧
        d.ttag = r.tag ∧ d.tinfo0 = r.info0 ∧ d.tinfo1 = r.info1 ∧ d.treta = treta &&& 0xFFFFFFFFFFFFFFC0 ∧ d.after = after ∧ d.async = async ∧
        d.inh = true ∧ d.phase = .fetching ∧ d.pc = c.tvec ∧ (∀ n, d.greg n = c.greg n) ∧ (∀ n, d.kreg n = c.kreg n)
    (∀ r, x.parked.find? (trapDue s t) = some r → handles (.trapEntry t) r r.blk false false) ∧
    (∀ b k slot tag, x.blk = some b → quiescent s t b = true → commitReady s t b c = false →
      stuckTrap s t b c = some (k, slot, tag) → handles (.quiescenceTrap t)
        { cause := k, blk := b.addr, slot := slot, tag := tag, info0 := 0, info1 := 0 } b.addr false false) ∧
    (∀ p, firstPending c.pendingTraps = some p →
      (c.phase = .running → handles (.engineTrapTaken t) p.trap (blockAddr s t) false true) ∧
      (c.phase = .fetching → handles (.engineTrapTaken t) p.trap c.pc false true) ∧
      (c.phase = .halted → handles (.engineTrapTaken t) p.trap 0 true true))) ∧
  (∀ (s : State) (t : Nat) (c : Ctx) (r : TrapRec), (s.tile t).ctx = some c → c.inh = true → c.phase.live = true →
    (s.fabric t).parked.find? (trapDue s t) = some r →
    ∃ u d, exec (.trapEntry t) s = .next u ∧ (u.tile t).ctx = some d ∧ d.phase = .ended ∧ d.tcause = c.tcause ∧
      d.tblk = c.tblk ∧ d.tslot = c.tslot ∧ d.tinfo0 = c.tinfo0 ∧ d.tinfo1 = c.tinfo1 ∧ d.copyQ = [] ∧ d.vectorQ = [] ∧
      d.matrixQ = [] ∧ d.riderQ = [] ∧ (∀ l ∈ u.launches, l.id = c.launch → l.ended = true) ∧
      .unresolved t 0x74 (BitVec.ofNat 64 r.cause) (BitVec.ofNat 64 r.slot) ∈ u.outbox)

/-- R92, R94, R96, R98, R352: a tile that wants a block checks its target and brings its lines into the block cache; a failed
check or line traps. A block that is whole there is mapped, with nothing else in the fabric and the registers as they are, or
rejected; one whose signature is wrong, and one whose mapping is discarded, is counted and read again past the cache, and a copy
that has so come from memory is taken as it is. -/
def Obligations.BlocksMapped : Prop :=
  ∀ (s : State) (t : Nat) (c : Ctx), (s.tile t).ctx = some c → c.phase = .fetching → fetchBlocked s t c = false →
    (∀ k i1, targetFault c.pc = some (k, i1) → exec (.blockFetch t) s = .next (fetchTrap s t c.pc k 0x80 c.pc i1)) ∧
    (targetFault c.pc = none →
      (∀ u fresh, fetchBlock s t c.tenant c.pc.toNat false = (u, .ok fresh) →
        exec (.blockFetch t) s = .next (u.modTile t (fun x => { x with fresh := x.fresh || fresh }))) ∧
      (∀ u va k level, fetchBlock s t c.tenant c.pc.toNat false = (u, .error (va, k, level)) →
        exec (.blockFetch t) s = .next (fetchTrap u t c.pc k 0x80 (BitVec.ofNat 64 va) (memInfo1 0 64 false level))) ∧
      (∀ bs sig, cachedBlock s t (asidOf s c.tenant) c.pc.toNat = some (bs, sig) →
        exec (.blockFetch t) s = .next (s.modTile t (fun x => x))) ∧
      (∀ bs sig, cachedBlock s t (asidOf s c.tenant) c.pc.toNat = some (bs, sig) →
        let w0 := wordAt bs 0
        let n := if hdrN w0 > 128 then 0 else hdrN w0
        let words := bodyWords bs n
        let good : Prop := (s.tile t).fresh = true ∨ sig = crc16 ((bs.drop 16).take (8 * n))
        (¬good → exec (.blockMap t) s = .next (refetch s t c)) ∧
        (∀ k slot i0 i1, mapFault c.via c.pc w0 (wordAt bs 1) words ((bs.drop 16).take (8 * n)) = some (k, slot, i0, i1) →
          good →
          exec (.blockMap t) s = .next (fetchTrap s t c.pc k slot i0 i1)) ∧
        (mapFault c.via c.pc w0 (wordAt bs 1) words ((bs.drop 16).take (8 * n)) = none → good →
          ∃ u d b, exec (.blockMap t) s = .next u ∧ (u.tile t).ctx = some d ∧ (u.fabric t).blk = some b ∧
            b.addr = c.pc ∧ b.words = words ∧ b.loop = hdrLoop w0 ∧ b.supervisor = hdrSupervisor w0 ∧
            (u.fabric t).operands = [] ∧ (u.fabric t).settled = [] ∧ (u.fabric t).exit = none ∧ (u.fabric t).held = [] ∧
            d.phase = .running ∧ d.g = c.g ∧ d.k = c.k ∧ (u.fabric t).mapPorts = c.ports)) ∧
      exec (.blockCacheRefetch t) s = .next (refetch s t c))

/-- R83, R96, R305 to R309: a fault that a tile cannot meet changes nothing. The first internal fault on a tile is counted as transient,
leaves every context's committed registers and all memory as they were, and fences nothing; a second one within its limit is
lasting: it sets the tile's bit of TFENCE, takes one from TSERV, stands in RELLAST, and leaves the tile without a live context, or
makes an image that is still being written invalid; the nodes of waiting regions leave the tile. An error in the storage of a context
ends it and fences nothing, and one in the save bank, or in a register that is being saved, makes its image invalid and ends its
launch. (Which faults may happen, and that an error in storage is not counted as lasting, is the model's reading, log 41; the period
in which an image is being written is log 25. The facts about a state are given for one with nothing under way and no waiting
region.) -/
def Obligations.FaultsHandled : Prop :=
  ∀ (s : State) (t : Nat) (k : FaultKind),
    let ts := faultTiles t k
    let storage : Prop := ∃ st i, k = .architectural st i
    let x := leadTile s t
    (faultPossible s t k = false → exec (.faultRollback t k) s = .next s) ∧
    (faultPossible s t k = true →
    (∀ i, k = .architectural 8 i → ∃ u, exec (.faultRollback t k) s = .next u ∧
      (∀ y ∈ u.images, y.bank = some t → y.valid = false ∧ y.cause = 0x73) ∧
      (∀ x, bankImage s t = some x → (∀ l ∈ u.launches, l.id = x.ctx.launch → l.ended = true) ∧
        .unresolved t 0x73 (BitVec.ofNat 64 i) 8 ∈ u.outbox)) ∧
    (∀ st i, st ≠ 8 → k = .architectural st i →
      (∀ y, savingTile s t = some y → ∃ u, exec (.faultRollback t k) s = .next u ∧
        ∀ z ∈ u.images, z.bank = some y → z.valid = false ∧ z.cause = 0x73) ∧
      (savingTile s t = none → exec (.faultRollback t k) s = .next (endWithFault s x k) ∧
        (Still s → (endWithFault s x k).ctl = s.ctl ∧
          ∀ c, ((endWithFault s x k).tile x).ctx = some c → c.phase.live = false))) ∧
    (¬storage → (∀ u ∈ ts, (s.tile u).faulted = false) → exec (.faultRollback t k) s = .next (firstEvent s t k) ∧
      (Still s →
        let u := firstEvent s t k
        u.ctl = { s.ctl with trans := if s.ctl.trans = BitVec.allOnes 32 then s.ctl.trans else s.ctl.trans + 1 } ∧
        u.host = s.host ∧ (∀ y ∈ ts, (u.tile y).faulted = true) ∧
        ∀ y, (∀ a < 0x3E0000, mget (u.tile y).mem a = mget (s.tile y).mem a) ∧ (u.tile y).lines = (s.tile y).lines ∧
          ∀ c, (s.tile y).ctx = some c → ∃ d, (u.tile y).ctx = some d ∧ d.g = c.g ∧ d.k = c.k ∧ d.v = c.v ∧ d.m = c.m ∧
            d.acc = c.acc ∧ d.fflags = c.fflags ∧ d.keys = c.keys)) ∧
    (¬storage → (∃ u ∈ ts, (s.tile u).faulted = true) →
      exec (.faultRollback t k) s = .next (ts.foldl leaveTile (ts.foldl (fun s u => fenceTile (endWithFault s (leadTile s u) k) u)
        (countLasting s t (faultRecord t k).1))) ∧
      (Still s → (∀ l ∈ s.launches, ∀ r ∈ l.regions, r.st ≠ .waiting) →
        ∃ u, exec (.faultRollback t k) s = .next u ∧ u.ctl.relValid = true ∧ u.ctl.relTile = BitVec.ofNat 8 t ∧
          u.ctl.relCause = BitVec.ofNat 8 (faultRecord t k).1 ∧
          u.ctl.lasting = (if s.ctl.lasting = BitVec.allOnes 16 then s.ctl.lasting else s.ctl.lasting + 1) ∧
          (∀ y < 192, u.ctl.tfence.getLsbD y = (s.ctl.tfence.getLsbD y || ts.contains y)) ∧
          ((∀ y ∈ ts, s.ctl.tfence.getLsbD y = false) → u.ctl.tserv = s.ctl.tserv - BitVec.ofNat 8 ts.length) ∧
          (∀ y ∈ ts, ∀ c, (u.tile (leadTile s y)).ctx = some c → c.phase.live = false) ∧
          (∀ y, savingTile s t = some y → (s.tile x).ctx = none → ∀ z ∈ u.images, z.bank = some y → z.complete = false →
            z.valid = false ∧ z.cause = (faultRecord t k).1))))

/-! ### Contexts, saves and engines (R71 to R89, R206 to R209, R238 to R244, R379) -/

/-- R70 to R75, R85: MAP makes a free entry READY and UNMAP frees a READY one, each refused elsewhere; a region whose nodes are
all mapped starts, a node's context gets its entry address, its number in g1 and the roots in k1 and k2; a loaded image lets it
fetch; a drained halted context is DONE; a converged region with nothing left on its tiles has finished; a full barrier moves to
its next phase once the FENCE of every arrival is over. (A region's choices of stack and tile are free, log 35; that the release
comes at any time after the last arrival is the model's choice, log 39.) -/
def Obligations.RegionsRun : Prop :=
  ∀ (s : State) (t i l rn bn : Nat) (src : MapSource) (e : Entry) (c : Ctx) (r : Region) (b : Barrier), t < 192 → i < 8 →
    entryOf s t i = e →
    (∀ n, sourceOf s src = some (l, rn, n) → e.st = .free → fenced s t = false → ∃ u, exec (.map t i src) s = .next u ∧
      entryOf u t i = { st := .ready, tenant := tenantOfSource s src, launch := l, region := rn, source := some src }) ∧
    (∀ n, sourceOf s src = some (l, rn, n) → e.st ≠ .free → exec (.map t i src) s = .next (s.emit (.mapRefused t i))) ∧
    (e.st = .running → exec (.unmap t i) s = .next (s.emit (.mapRefused t i))) ∧
    (e.st = .ready → ∃ u, exec (.unmap t i) s = .next u ∧ entryOf u t i = Entry.reset) ∧
    ((s.tile t).ctx = some c →
      (c.phase = .loading → ∀ x m, (launchOf s c.launch).bind (fun l => l.nodes[c.node]?) = some x → x.imglen ≠ 0 →
        ∀ u, readG s c.tenant x.image.toNat x.imglen = (u, .data m) → exec (.contextImageLoad t) s =
          .next ((putShare u t m [] []).modCtx t (fun c => { c with phase := .fetching }))) ∧
      ((s.tile t).running = some i → isDrained s c = true → ∃ u, exec (.localDone t) s = .next u ∧
        (entryOf u t i).st = .done ∧ (u.tile t).ctx = some { c with phase := .done })) ∧
    (s.regionOf l rn = some r →
      (∀ x, launchOf s l = some x → mayStart s x r = true → ∃ u, exec (.regionStart l rn) s = .next u ∧
        (∀ y, u.regionOf l rn = some y → y.st = .started) ∧
        (∀ n rec, r.unfinished = [(n, t)] → (r.seq t).head? = some i → e.source = some (.node l n) → x.nodes[n]? = some rec →
          ∃ d, (u.tile t).ctx = some d ∧ d.phase = .loading ∧ d.pc = rec.entry ∧
            d.greg 1 = BitVec.ofNat 64 n ∧ d.kreg 1 = x.roots.1 ∧ d.kreg 2 = x.roots.2)) ∧
      (converged r = true → ∃ u, exec (.regionConverge l rn) s = .next u ∧
        ∀ y, u.regionOf l rn = some y → y.unfinished = [] → y.st = .finished) ∧
      (r.bars[bn]? = some b → r.st = .started → 0 < b.count → b.count ≤ b.arrivals →
        (arrivalPending s l r bn b.phase = true → exec (.barrierRelease l rn bn) s = .next s) ∧
        (arrivalPending s l r bn b.phase = false → ∃ u, exec (.barrierRelease l rn bn) s = .next u ∧
          ∀ y, u.regionOf l rn = some y → y.bars[bn]? = some { b with phase := b.phase + 1, arrivals := 0 })))

/-- R71, R75 to R83, R181: SWITCH pre-empts a started region whose banks are free, is refused where one is not, and steps a
converged region on; an image becomes complete once nothing it owes is out, gets a place in the save pool, and leaves its bank
once its legs have alighted; a complete image of a pre-empted region is read back into the bank of the tile that is chosen for
it, and mapped once its legs have alighted. (The five steps of a pre-emption at once, a place in the pool of the model's own
layout, and the two steps of a resume are the model's choice, log 13, 25, 35 and 36.) -/
def Obligations.SavesAndResumes : Prop :=
  ∀ (s : State) (t k n : Nat) (i : Image) (r : Region) (x : Launch),
    (s.regionOf (n / 64) (n % 64) = some r → r.st = .started → r.stack = k →
      (converged r = true → exec (.switch k n) s = .next (converge s (n / 64) r)) ∧
      (converged r = false → banksBusy s r = true → exec (.switch k n) s = .next (s.emit (.switchRefused k n))) ∧
      (converged r = false → banksBusy s r = false → ∃ u, exec (.switch k n) s = .next u ∧
        ∀ y, u.regionOf (n / 64) (n % 64) = some y → y.st = .preempted)) ∧
    (bankImage s t = some i →
      (i.complete = false → owes s i.ctx.id = false → writesImage s i = false →
        (i.discard = true → ∃ u, exec (.saveImageComplete t) s = .next u ∧ ∀ y ∈ u.images, y.id ≠ i.id) ∧
        (∀ p, i.discard = false → freeSpot s = some p → ∃ u, exec (.saveImageComplete t) s = .next u ∧
          ∀ y ∈ u.images, y.id = i.id → y.complete = true ∧ y.spot = some p)) ∧
      (i.complete = true → i.reading = false → (∀ v ∈ s.services, v.fill = none → v.image = i.ctx.id → v.alighted = true) →
        ∃ u, exec (.saveBankFree t) s = .next u ∧ ∀ y ∈ u.images, y.id = i.id → y.bank = none)) ∧
    (imageOf s n = some i → launchOf s i.ctx.launch = some x → s.regionOf i.ctx.launch i.ctx.region = some r →
      i.complete = true → i.restored = false → r.st = .preempted → x.ended = false → launchGoes s x = true →
      mayPlace s x r t = true →
      (i.bank = none → i.reading = false → bankUsed s t = false → ∃ u, exec (.contextResume t k n) s = .next u ∧
        ∀ y ∈ u.images, y.id = i.id → y.reading = true ∧ y.bank = some t) ∧
      (i.bank = some t → i.reading = true → serviceDone s i = true → i.valid = true → t < 192 → k < 8 →
      (entryOf s t k).st = .free → ∃ u, exec (.contextResume t k n) s = .next u ∧
        entryOf u t k = { st := .ready, tenant := i.ctx.tenant, launch := i.ctx.launch, region := i.ctx.region, source := some (.image n) }))

/-- R86 to R89, R207, R209, R226, R241, R244, R379: the head of the vector or matrix queue is performed unless its queue
is stopped, one that fills lines after the stores before it and the emptying of those lines: it completes with its flags, or traps; a pass reaches the
head. The first row in flight lands 256 array cycles after it entered; the entries of a queue fence leave together; a step
boundary takes four array cycles and takes over a new slew table; a WFE resolves 65,536 fabric cycles after it fired. (The
cycle at which a pass asks for its stop, and the moment within a step, are the model's reading, log 59.) R245, R247, R249,
R250, R267, R382 to R391: what a performed vector command leaves. Every active lane of VD has its form's value and every
other lane its old one; a reduction leaves its value in lane 0 and zeros above; no other vector register changes. An
integer value is exact and then wrapped, or saturated with SAT, and a float one is formed once from the exact value; VCMP
and the mask forms write a mask register; VLD brings the lanes' bytes, and VST writes the register's bytes and sets its
emptied lines full. (VCMP's conditions for integer lanes, the consecutive memory forms unguarded.) R233, R234, R237 to
R239, R241, R393 to R395: what a performed matrix command leaves. MLWS loads the shadow plane, here one of INT8; MSWAP
exchanges the planes; MZERO clears its accumulator rows; MRD writes its rows to the scratchpad, here as INT32, and sets
its emptied lines full; a row of a granted pass, here of INT8, enters with the exact sum of its products for each column,
and is added to its accumulator row when it lands. -/
def Obligations.EnginesTurn : Prop :=
  (∀ (s : State) (t k n : Nat) (c : Ctx) (e : QEntry) (i : Instr) (rest : List QEntry) (l : Flight) (ls : List Flight),
    ((s.tile t).ctx = some c →
      let raised (fl : BitVec 6) (c : Ctx) : Ctx :=
        { c with fflags := c.fflags ||| fl, flagsAt := s.now, flagsNow := (if c.flagsAt = s.now then c.flagsNow else 0) ||| fl }
      let free : Prop := e.empties = [] ∨ (storingBefore s c.id e.stamp = false ∧
        ∀ l ∈ e.empties, writeHeld s t c.id (128 * l) 128 = false)
      (c.vectorQ = e :: rest → e.instr = some i → c.stopV = false → free →
        let v := engineView s t c.id 1
        let left (u : State) : State := leaveView s u t c.id 1
        (∀ u fl, performVectorQueue v t c e i = .complete u fl → exec (.vectorCommandPerform t) s =
          .next (popQueue ((left u).modCtx t (raised fl)) t 1)) ∧
        (∀ u x i0 i1, performVectorQueue v t c e i = .traps u x i0 i1 → exec (.vectorCommandPerform t) s =
          .next (reportEngine (popQueue (left u) t 1) t 0 (commandTrap e x i0 i1)))) ∧
      (c.matrixQ = e :: rest → e.instr = some i → c.stopM = false → c.pass = none →
        free ∨ (passOf i).isSome = true →
        let v := engineView s t c.id 2
        let left (u : State) : State := leaveView s u t c.id 2
        (∀ u fl, (passOf i).isSome = false → performMatrix v t c e i = some (.complete u fl) → exec (.matrixCommandPerform t) s =
          .next (popQueue ((left u).modCtx t (raised fl)) t 2)) ∧
        (∀ u x i0 i1, (passOf i).isSome = false → performMatrix v t c e i = some (.traps u x i0 i1) → exec (.matrixCommandPerform t) s =
          .next (reportEngine (popQueue (left u) t 2) t 1 (commandTrap e x i0 i1))) ∧
        ((passOf i).isSome = true → exec (.matrixCommandPerform t) s =
          .next (if ownEarlier s t c.id e.stamp (stepRanges e c.front.fmt 0) then s else reachHead s t c e 0))) ∧
      (c.flights = l :: ls → l.cycle + 256 < (s.stack (t / 48)).cycle + 4 →
        exec (.accumulatorRowLand t) s = .next (resolveWaits (s.modCtx t (fun c => landRow { c with flights := ls } l)) t)) ∧
      (∀ qs, qs = [0, 1, 2, 3].filter (fun q => (c.queue q).any (fun e => e.instr.isNone && e.fence == n)) → qs ≠ [] →
        (∀ q ∈ qs, reachedFence s c q n = true) →
        exec (.queueFenceRelease t n) s = .next (qs.foldl (fun s q => popQueue s t q) s)) ∧
      (∃ u, exec (.wfeTimeout t) s = .next u ∧ (∀ w since, w ∈ (u.fabric t).waits → w.on = .event since →
        fabricCycles (s.now - since) < 65536) ∧
        (∀ w ∈ (s.fabric t).waits, (∀ since, w.on = .event since → fabricCycles (s.now - since) < 65536) →
          w ∈ (u.fabric t).waits))) ∧
    (k < 4 → ∃ u, exec (.grantStep k) s = .next u ∧ (u.stack k).cycle = (s.stack k).cycle + 4 ∧ (u.stack k).write = none ∧
      (∀ v, (s.stack k).write = some v → (u.stack k).up = v.extractLsb' 0 32 ∧ (u.stack k).dn = v.extractLsb' 32 32) ∧
      ((s.stack k).write = none → (u.stack k).up = (s.stack k).up ∧ (u.stack k).dn = (s.stack k).dn))) ∧
  (∀ (s : State) (t : Nat) (c : Ctx) (e : QEntry) (rest : List QEntry) (h : Hdr) (v : VField) (cond : BitVec 4),
    (s.tile t).ctx = some c → c.vectorQ = e :: rest → c.stopV = false → Still s →
    let w := v.width
    let n := w / 8
    let lanes := 4096 / w
    let at_ (x : VecReg) (i : Nat) : Nat := (x.extractLsb' (w * i) w).toNat
    let a (i : Nat) := at_ (c.vreg v.va.toNat) i
    let b (i : Nat) := at_ (c.vreg v.vb.toNat) i
    let d (i : Nat) := at_ (c.vreg v.vd.toNat) i
    let active (i : Nat) : Prop := v.me = false ∨ (c.mreg v.mg.toNat).getLsbD i = true
    let on (i : Nat) : Bool := !v.me || (c.mreg v.mg.toNat).getLsbD i
    let picks (i : Nat) : Bool := (c.mreg (v.spec.toNat % 8)).getLsbD i
    let num (x : Nat) : Int := if v.ty = 1 then x else (BitVec.ofNat w x).toInt
    let lo : Int := if v.ty = 1 then 0 else -(2 ^ (w - 1))
    let hi : Int := if v.ty = 1 then 255 else 2 ^ (w - 1) - 1
    let put (x : Int) : Nat := ((if v.sat then max lo (min hi x) else x) % (2 ^ w : Int)).toNat
    let real (x : Nat) : FNum := decodeFloat (typeFmt v.code) x
    let round (r : FNum × Bool) : Nat := (deliverNum (typeFmt v.code) v.rm.toNat v.sat r.1 r.2).1 % 2 ^ w
    let gives (i : Instr) (p : State → Ctx → Prop) : Prop := e.instr = some i →
      ∃ u y, exec (.vectorCommandPerform t) s = .next u ∧ (u.tile t).ctx = some y ∧ y.vectorQ = rest ∧ p u y
    let whole (i : Instr) (x : Nat → Nat) : Prop := gives i (fun _ y => y.m = c.m ∧
      (∀ r, r ≠ v.vd.toNat → y.vreg r = c.vreg r) ∧ ∀ k, k < lanes → at_ (y.vreg v.vd.toNat) k = x k)
    let each (i : Instr) (x : Nat → Nat) : Prop := whole i (fun k => if on k then x k else d k)
    let masks (i : Instr) (many : Nat) (x : Nat → Bool) : Prop := gives i (fun _ y => y.v = c.v ∧
      (∀ r, r ≠ v.vd.toNat % 8 → y.mreg r = c.mreg r) ∧
      ∀ k, k < many → (y.mreg (v.vd.toNat % 8)).getLsbD k = if on k then x k else (c.mreg (v.vd.toNat % 8)).getLsbD k)
    let bit (r : BitVec 5) (k : Nat) : Bool := (c.mreg (r.toNat % 8)).getLsbD k
    (v.code < 5 →
      each (.vadd h v) (fun k => put (num (a k) + num (b k))) ∧ each (.vsub h v) (fun k => put (num (a k) - num (b k))) ∧
      each (.vmul h v) (fun k => put (num (a k) * num (b k))) ∧
      each (.vfma h v) (fun k => put (num (a k) * num (b k) + num (d k))) ∧
      each (.vmin h v) (fun k => if num (b k) < num (a k) then b k else a k) ∧
      each (.vmax h v) (fun k => if num (a k) < num (b k) then b k else a k) ∧
      each (.vabs h v) (fun k => put ((num (a k)).natAbs : Int)) ∧ each (.vneg h v) (fun k => put (-num (a k))) ∧
      each (.viota h v) (fun k => put ((((List.range k).filter picks).length : Nat) : Int)) ∧
      whole (.vredadd h v) (fun k => if k = 0 then
        put ((((List.range lanes).filter on).map (fun i => num (a i))).foldl (· + ·) 0) else 0) ∧
      whole (.mpopc h v) (fun k => if k = 0 then
        put ((((List.range lanes).filter (fun i => bit v.va i && on i)).length : Nat) : Int) else 0) ∧
      (cond.toNat < 6 → masks (.vcmp h cond v) lanes (fun k =>
        if cond = 0 then decide (num (a k) = num (b k)) else if cond = 1 then decide (num (a k) ≠ num (b k))
        else if cond = 2 then decide (num (a k) < num (b k)) else if cond = 3 then decide (num (a k) ≤ num (b k))
        else if cond = 4 then decide (num (b k) < num (a k)) else decide (num (b k) ≤ num (a k))))) ∧
    (5 ≤ v.code →
      each (.vadd h v) (fun k => round (FNum.add (real (a k)) (real (b k)))) ∧
      each (.vsub h v) (fun k => round (FNum.add (real (a k)) (real (b k)).negate)) ∧
      each (.vmul h v) (fun k => round (FNum.mul (real (a k)) (real (b k))))) ∧
    each (.vand h v) (fun k => a k &&& b k) ∧ each (.vor h v) (fun k => a k ||| b k) ∧
    each (.vxor h v) (fun k => a k ^^^ b k) ∧ each (.vshl h v) (fun k => a k * 2 ^ (b k % w) % 2 ^ w) ∧
    each (.vshr h v) (fun k => (num (a k) / (2 ^ (b k % w) : Int) % (2 ^ w : Int)).toNat) ∧
    each (.vbcst h v) (fun _ => e.left.toNat % 2 ^ w) ∧
    whole (.vins h v) (fun k => if k = e.right.toNat % lanes ∧ active k then e.left.toNat % 2 ^ w else d k) ∧
    each (.vsel h v) (fun k => if picks k then a k else b k) ∧
    each (.vperm h v) (fun k => if w = 8 then a (k / 256 * 256 + b k) else a (b k % lanes)) ∧
    whole (.vcmpr h v) (fun k => ((((List.range lanes).filter picks)[k]?).map a).getD 0) ∧
    masks (.mand h v) 512 (fun k => bit v.va k && bit v.vb k) ∧ masks (.mor h v) 512 (fun k => bit v.va k || bit v.vb k) ∧
    masks (.mnot h v) 512 (fun k => !bit v.va k) ∧
    (let k := e.cap 0
     let off := k.base.toNat + e.left.toNat
     v.me = false → (∀ i, i < lanes → laneFault k n ((e.left.toNat : Int) + (i * n : Nat)) = none) → off + 512 ≤ 0x3E0000 →
     ((∀ i, i < lanes → readable s t c.id (off + i * n) n = true ∧ poisonedAt s t (off + i * n) n = none) → e.empties = [] →
       whole (.vld h v) (fun i => mread (s.tile t).mem (off + i * n) n)) ∧
     gives (.vst h v) (fun u y => y.v = c.v ∧ y.m = c.m ∧ (∀ l ∈ e.empties, (lineState u t l).full = true) ∧
       ∀ x, mget (u.tile t).mem x = if off ≤ x ∧ x < off + 512 then (c.vreg v.vd.toNat).extractLsb' (8 * (x - off)) 8
         else mget (s.tile t).mem x))) ∧
  (∀ (s : State) (t : Nat) (c : Ctx) (e : QEntry) (rest : List QEntry) (h : Hdr) (k : BitVec 4) (m1 row0 : BitVec 10)
    (rm : BitVec 2) (p : Pass), (s.tile t).ctx = some c → Still s → twf 0 c.acc = true →
    let a := (e.cap 0).base.toNat + e.left.toNat
    let rows := m1.toNat + 1
    let byte (x : Nat) : Int := (mget (s.tile t).mem x).toInt
    let gives (i : Instr) (q : State → Ctx → Prop) : Prop := e.instr = some i →
      ∃ u y, exec (.matrixCommandPerform t) s = .next u ∧ (u.tile t).ctx = some y ∧ y.matrixQ = rest ∧ q u y
    (c.matrixQ = e :: rest → c.stopM = false → c.pass = none →
      gives (.mswap h) (fun _ y => y.front = c.shadow ∧ y.shadow = c.front ∧ y.acc = c.acc) ∧
      (c.flights = [] →
        gives (.mzero h m1 row0) (fun _ y => y.front = c.front ∧ y.shadow = c.shadow ∧ ∀ r n, n < 128 →
          y.accAt r n = if row0.toNat ≤ r ∧ r < row0.toNat + rows then 0 else c.accAt r n) ∧
        (e.empties = [] → readable s t c.id a 16384 = true → poisonedAt s t a 16384 = none →
          gives (.mlws h k 3) (fun _ y => y.front = c.front ∧ y.acc = c.acc ∧ y.shadow.loaded = true ∧ y.shadow.fmt = 3 ∧
            ∀ i n, i < 128 → n < 128 → y.shadow.weight i n = .ofInt (byte (a + 128 * i + n)))) ∧
        (a + 512 * rows ≤ 0x3E0000 → gives (.mrd h k m1 row0 4 rm false) (fun u y => y.acc = c.acc ∧
          (∀ l ∈ e.empties, (lineState u t l).full = true) ∧ ∀ r n, r < rows → n < 128 →
            mread (u.tile t).mem (a + 512 * r + 4 * n) 4 = (c.accAt (row0.toNat + r) n).toNat % 2 ^ 32)))) ∧
    (c.pass = some p → p.entry = e → p.granted = true → p.cycle < (s.stack (t / 48)).cycle + 4 → p.next < rows →
      e.instr = some (.mpass h k m1 row0) → c.front.fmt = 3 →
      (∀ m, m < rows → readable s t c.id (a + 128 * m) 128 = true ∧ poisonedAt s t (a + 128 * m) 128 = none) →
      ∃ u y l, exec (.matrixCommandPerform t) s = .next u ∧ (u.tile t).ctx = some y ∧ y.flights = c.flights ++ [l] ∧
        l.row = row0.toNat + p.next ∧ l.int = true ∧ l.pass = p.id ∧ l.adds.length = 128 ∧
        ∀ n, n < 128 → l.adds[n]? = some [BitVec.ofInt 80 (((List.range 128).map (fun i =>
          byte (a + 128 * p.next + i) * numInt (c.front.weight i n))).foldl (· + ·) 0)]) ∧
    (∀ l ls, c.flights = l :: ls → l.cycle + 256 < (s.stack (t / 48)).cycle + 4 → l.adds.length = 128 →
      ∃ u y, exec (.accumulatorRowLand t) s = .next u ∧ (u.tile t).ctx = some y ∧ y.flights = ls ∧
        (∀ r n, n < 128 → r ≠ l.row → y.accAt r n = c.accAt r n) ∧
        ∀ n xs, l.adds[n]? = some xs → y.accAt l.row n = xs.foldl (fun z x => if l.int then z + x else accAdd z x) (c.accAt l.row n)))

/-! ### Copies, riders and fills (R176 to R219, R402 to R408) -/

/-- The context `a` stands on tile g, and nothing of it or of the machine is saved, under way or reserved. -/
def Standing (s : State) (a g : Nat) : Prop := homeOf s a = .tile g ∧ Still s ∧ ∀ i ∈ s.images, i.ctx.id ≠ a

/-- Bytes [landed, landed + n) of a copy's L destination lie in the share, in lines without poison. -/
def DestOpen (s : State) (k : Copy) (g n : Nat) : Prop :=
  k.dst.global = false ∧ ∀ j < n, k.dst.byteAt (k.landed + j) < 0x3E0000 ∧
    (lineState s g (k.dst.byteAt (k.landed + j) / 128)).poison = false

/-- R214, R402: the chunk of n bytes at `landed` of a copy lands in the share on tile g as `data` says: of the copy offsets with one
address the last one's byte stands there, every other byte is as it was, and just those lines it touched become full that no later
byte of the copy lies in, but for its completion line. -/
def ChunkLands (s : State) (k : Copy) (g n : Nat) (data : Nat → Byte) : Prop :=
  let at_ (j : Nat) : Nat := k.dst.byteAt (k.landed + j)
  ∃ u y, exec (.copyChunk k.id) s = .next u ∧ u.copies.find? (fun z => z.id == k.id) = some y ∧ y.landed = k.landed + n ∧
    y.stop = none ∧
    (∀ j < n, (∀ i, j < i → i < n → at_ i ≠ at_ j) → mget (u.tile g).mem (at_ j) = data (k.landed + j)) ∧
    (∀ x, (∀ j < n, at_ j ≠ x) → mget (u.tile g).mem x = mget (s.tile g).mem x) ∧
    (∀ t, t ≠ g → (u.tile t).mem = (s.tile t).mem) ∧ u.host = s.host ∧
    (∀ l, ((∃ j < n, at_ j / 128 = l) ∧ k.dst.hits k.total (k.landed + n) (128 * l) (128 * l + 128) = false ∧ k.cmpl / 128 ≠ l →
      lineState u g l = { full := true, poison := false }) ∧
      (¬((∃ j < n, at_ j / 128 = l) ∧ k.dst.hits k.total (k.landed + n) (128 * l) (128 * l + 128) = false ∧ k.cmpl / 128 ≠ l) →
        lineState u g l = lineState s g l))

/-- R145, R147, R207, R213 to R219, R226, R228, R402 to R405: a copy at the head of its queue starts while fewer than four run, none of
them writes what it uses and no store before it is under way; the lines of an L destination, which its entry set empty, stay as they
are, and the lines of a G page that maps a scratchpad and that it writes in are then empty. A chunk lands once its bytes have been read:
the source's bytes, CPYFILL's pattern, or CPYZ's output; or the copy stops there, and a line of its destination that poison kept from
landing is full and poisoned. A landed CPYM enters its follow-on command. A finished copy writes its completion record once its writes
are performed, and one that moves nothing after those before it in its queue, sets the record's line full, leaves every other byte and
line of its share as it was, and traps where it stopped and its record asks for it. (When a G page's lines are emptied, which copies
conflict, and how CPYZ reads on are the model's reading, log 24, 60, 61 and 88.) -/
def Obligations.CopiesRun : Prop :=
  ∀ (s : State) (t g a : Nat) (c : Ctx) (e x : QEntry) (rest : List QEntry) (kind : CopyKind) (k : Copy),
    ((s.tile t).ctx = some c → c.copyQ = e :: rest → e.instr.bind kindOf = some kind →
      (s.copies.filter (copyOfCtx c.id)).length < 4 →
      (∀ y ∈ s.copies, copyOfCtx c.id y = true → conflicts s y (copyOf (s.nextId + 1) c e kind) = false) →
      (storingBefore s c.id e.stamp = true → exec (.copyStart t) s = .next s) ∧
      (storingBefore s c.id e.stamp = false →
      let k := copyOf (s.nextId + 1) c e kind
      let added := State.modCtx { s with nextId := s.nextId + 1, copies := s.copies ++ [k] } t (fun c => { c with copyQ := rest })
      exec (.copyStart t) s = .next (openPages added (s.nextId + 1)) ∧
      (k.dst.global = false → (∀ y ∈ s.copies, y.id ≠ k.id) → exec (.copyStart t) s = .next added) ∧
      (∀ u page off, destPages k = [page] →
        spotOf added k k.dst (max k.dst.base (65536 * page)) .write = (u, .ok (.place (.scratch g off))) → Still u →
        (∀ y ∈ s.copies, y.id ≠ k.id) → u.copies = added.copies → (∀ i ∈ u.images, i.ctx.id ≠ c.id) → g < 192 →
        ∃ v, exec (.copyStart t) s = .next v ∧ (∀ z, (v.tile z).mem = (u.tile z).mem) ∧
          (∀ i < 512, k.dst.hits k.total 0 (65536 * page + 128 * i) (65536 * page + 128 * i + 128) = true →
            lineState v g (off / 65536 * 512 + i) = { full := false, poison := false })))) ∧
    (s.copies.find? (fun y => y.id == k.id) = some k → k.stop = none →
      let n := min 64 (k.total - k.landed)
      (k.owner = .ctx a → Standing s a g → DestOpen s k g n →
        (k.kind = .cpyfill → k.landed < k.total →
          ChunkLands s k g n (fun j => k.pattern.extractLsb' (8 * (j % 8)) 8)) ∧
        (k.kind = .cpy ∨ k.kind = .cpym ∨ k.kind = .cpy2d → k.landed < k.total → k.src.global = false →
          (∀ j < n, lineState s g (k.src.byteAt (k.landed + j) / 128) = { full := true, poison := false }) →
          ChunkLands s k g n (fun j => mget (s.tile g).mem (k.src.byteAt j))) ∧
        (k.kind = .cpyz → k.output = none → k.landed + n < k.total → k.landed + n ≤ (unpacked k).length →
          ChunkLands s k g n (fun j => (unpacked k)[j]?.getD 0)) ∧
        (∀ out, k.kind = .cpyz → k.output = some (out, none) → k.landed < k.total → k.landed + n ≤ out.length →
          ChunkLands s k g n (fun j => out[j]?.getD 0))) ∧
      (k.kind = .cpyfill → k.landed < k.total → exec (.copyChunk k.id) s = .next (landChunk s k (patternBytes k.pattern k.landed n))) ∧
      (k.kind = .cpyz → k.total ≠ 0 → exec (.copyChunk k.id) s = .next (unpackTurn s k)) ∧
      (k.kind = .cpy ∨ k.kind = .cpym ∨ k.kind = .cpy2d → k.landed < k.total →
        let runs := piecesFrom k.src k.landed n
        (∀ u bs, readPieces k runs s = (u, .bytes bs) → exec (.copyChunk k.id) s = .next (landChunk u k bs)) ∧
        (∀ u, readPieces k runs s = (u, .waits) → exec (.copyChunk k.id) s = .next u) ∧
        (∀ u z, readPieces k runs s = (u, .stops z) → exec (.copyChunk k.id) s = .next (stopCopy u k z) ∧
          (u.copies = s.copies → k.owner = .ctx a → Standing u a g → k.dst.global = false →
            (stopCopy u k z).copies.find? (fun y => y.id == k.id) = some { k with stop := some z } ∧
            ((stopCopy u k z).tile g).mem = (u.tile g).mem ∧
            (z.poison = true → z.erroff < k.total →
              lineState (stopCopy u k z) g (k.dst.byteAt z.erroff / 128) = { full := true, poison := true }))))) ∧
    (s.copies.find? (fun y => y.id == k.id) = some k → k.follow = some x → copyLanded s k = true → k.foin = false →
      ∀ d, contextOf s k.ctx = some d → queueUsed s d 2 < 32 → homeOf s k.ctx = .tile t →
        exec (.followOnEntry k.id) s = .next ((enterCommand s t 2 x).modCopy k.id (fun y => { y with foin := true }))) ∧
    (s.copies.find? (fun y => y.id == k.id) = some k → k.owner = .ctx a → shareReserved s a (k.cmpl / 128) = false →
      landingYet s k = false →
      (recordWaits s k a = true → exec (.copyComplete k.id) s = .next s) ∧
      (recordWaits s k a = false →
      let written := shareFill (shareWrite s a k.cmpl (copyRecordBytes k)) a (k.cmpl / 128) false
      let done : State := { dropFar written k.id with
        copies := (dropFar written k.id).copies.filter (fun y => !(y.id == k.id)) }
      let told : State := shareResolve (match contextOf done a with
        | some y => if y.copyQ.isEmpty && !done.copies.any (copyOfCtx a) then contextEvent done a else done
        | none => done) a
      (k.stop = none → copyLanded s k = true → k.follow = none ∨ k.foin = true → exec (.copyComplete k.id) s = .next told ∧
        copyRecordBytes k = bytesOf 8 (256 * kindCode k.kind + if k.foin then 2 ^ 18 else 0) ++ bytesOf 8 k.total ++
          bytesOf 8 (2 ^ 64 - 1) ++ List.replicate 104 0) ∧
      (∀ z, k.stop = some z → k.trap = false → exec (.copyComplete k.id) s = .next told) ∧
      (Standing s a g → k.cmpl % 128 = 0 → k.cmpl < 0x3E0000 →
        (∀ j < 128, mget (told.tile g).mem (k.cmpl + j) = (copyRecordBytes k)[j]?.getD 0) ∧
        (∀ j, j < k.cmpl ∨ k.cmpl + 128 ≤ j → mget (told.tile g).mem j = mget (s.tile g).mem j) ∧
        lineState told g (k.cmpl / 128) = { full := true, poison := false } ∧
        (∀ l, l ≠ k.cmpl / 128 → lineState told g l = lineState s g l) ∧ told.copies.find? (fun y => y.id == k.id) = none) ∧
      (∀ z, k.stop = some z → k.trap = true → exec (.copyComplete k.id) s = .next (reportTrap told a 2
        { cause := z.status, blk := k.blk, slot := k.slot, tag := k.tag, info0 := z.addr,
          info1 := BitVec.ofNat 64 k.cmplOff }))))

/-- R146, R185 to R190, R194, R203, R204, R226: the rider at the head of its queue leaves as its legs, with its operand as it stands,
once the stores before it are performed and its operand's lines are all full, and joins the waiters of those that are not. A leg
that reaches its ring has arrived at the present slot, and gets a seat there while fewer than eight of its tile are taken, if every
leg before it has one. A lane of a ring goes to its oldest request, of the lowest tile among equals, while fewer than eight are
taken. A leg that boards does so at the present slot, and stands in the ring's boarding order behind those that boarded before it,
and among those of the same slot by arrival and tile. A leg whose ride is over has alighted, without seat or lane, and is no longer
aboard. A rider with every leg alighted and every delivery landed writes its outputs and record, whose lines are then full, is gone,
and traps where its record asks.
(When a leg arrives is the agenda's choice, log 64; in which slot a request for a lane is made is log 92. R189's grant is given for a
slot at whose beginning nothing arrives, boards or alights; of RIMATV, which may fail or wait on its pages when it arrives, no seat is
claimed.) -/
def Obligations.RidersRun : Prop :=
  ∀ (s : State) (t q : Nat) (c : Ctx) (e : QEntry) (rest : List QEntry) (x : Rider) (l : Leg),
    let apart : Prop := (s.riders.map (·.id)).Nodup ∧ (∀ y ∈ s.riders, y.tile < 192) ∧ s.riders.length < 2 ^ 40
    let now := slotNow s
    ((s.tile t).ctx = some c → c.riderQ = e :: rest → e.instr.isSome = true →
      (s.riders.filter (fun x => x.tile == t)).length < 64 →
      let off := (e.cap 1).base.toNat + (riderRec e.record).opnd
      let n := (riderRec e.record).operandLen
      (storingBefore s c.id e.stamp = true → exec (.riderLeaveQueue t) s = .next s) ∧
      (storingBefore s c.id e.stamp = false → readable s t c.id off n = false →
        exec (.riderLeaveQueue t) s = .next (waitAnew s t c (blockedLines s t c.id off n))) ∧
      (storingBefore s c.id e.stamp = false → readable s t c.id off n = true → poisonedAt s t off n = none →
      ∃ u, exec (.riderLeaveQueue t) s = .next u ∧ u.riders = s.riders ++
        [riderOf (s.nextId + 1) t (slotNow s) c e (mbytes (s.tile t).mem off n)] ∧
        ∀ d, (u.tile t).ctx = some d → d.riderQ = rest)) ∧
    (apart → riderAt s x.id = some x → x.leg q = some l → mayArrive s x.id q = true →
      let mine := legsOf s x.tile q
      ∃ u y m, exec (.legArrival x.id q) s = .next u ∧ riderAt u x.id = some y ∧ y.leg q = some m ∧ m.arrived = some now ∧
        m.boarded = l.boarded ∧
        ((riderRec x.record).kind ≠ 3 → l.seated = false → (∀ z ∈ mine.takeWhile (fun z => z.1.id != x.id), z.2.seated = true) →
          m.seated = decide ((mine.filter (fun z => z.2.seated)).length < 8))) ∧
    ((s.ring q).running = false → exec (.benchLaneGrant q) s = .next s) ∧
    ((s.ring q).running = true → exec (.benchLaneGrant q) s = .next (grantLane (beginSlot s q) q) ∧
      (q < 32 → apart → s.services = [] → (∀ y ∈ s.riders, now < y.since + 200) →
        (∀ y ∈ ringLegs s q, rideOver y.2 now = false ∧ mayBoard s q y.1 y.2 = false ∧ mayAsk s q y.1 y.2 = false) →
        let held := ((ringLegs s q).filter (fun y => y.2.lane)).length
        (8 ≤ held → ∃ u, exec (.benchLaneGrant q) s = .next u ∧ u.riders = s.riders) ∧
        (∀ y a, held < 8 → y ∈ ringLegs s q → y.2.lane = false → y.2.laneAsked = some a → a ≤ now →
          (∀ z ∈ ringLegs s q, ∀ b, z.2.lane = false → z.2.laneAsked = some b → b ≤ now → z.1.id = y.1.id ∨ a < b ∨
            (a = b ∧ y.1.tile < z.1.tile)) →
          ∃ u z m, exec (.benchLaneGrant q) s = .next u ∧ riderAt u y.1.id = some z ∧ z.leg q = some m ∧ m.lane = true ∧
            ∀ w ∈ s.riders, w.id ≠ y.1.id → w ∈ u.riders))) ∧
    ((s.ring q).running = true → riderAt s x.id = some x → x.leg q = some l → mayBoard s q x l = true →
      let walked := if (riderRec x.record).kind = 3 then (s, true) else takePages s x.id q
      (walked.2 = false → exec (.legBoard x.id q) s = .next (giveSeats walked.1 x.tile q)) ∧
      (walked.2 = true → ∃ u y m, exec (.legBoard x.id q) s = .next u ∧ riderAt u x.id = some y ∧ y.leg q = some m ∧
        m.boarded = some now ∧ m.arrived = l.arrived ∧
        (q < 32 → apart → (∀ w ∈ (s.ring q).aboard, w ≠ .rider x.id ∧ boardedAt s w q ≤ now ∧ boardRank s w q < 2 ^ 192) →
          boardRank s (.rider x.id) q < 2 ^ 192 → ∃ before after, (s.ring q).aboard = before ++ after ∧
          (u.ring q).aboard = before ++ .rider x.id :: after ∧
          (∀ w ∈ before, boardedAt s w q < now ∨ boardRank s w q ≤ boardRank s (.rider x.id) q) ∧
          (∀ w, after.head? = some w → boardedAt s w q = now ∧ (∀ z k a b, w = .rider z.id → riderAt s z.id = some z →
            z.leg q = some k → l.arrived = some a → k.arrived = some b → a < b ∨ (a = b ∧ x.tile ≤ z.tile)))))) ∧
    ((s.ring q).running = true → riderAt s x.id = some x → x.leg q = some l → l.alighted = false → rideOver l now = true →
      apart → ∃ u y m, exec (.legAlight x.id q) s = .next u ∧ riderAt u x.id = some y ∧ y.leg q = some m ∧ m.alighted = true ∧
        m.seated = false ∧ m.lane = false ∧
        (q < 32 → (u.ring q).aboard = (s.ring q).aboard.filter (fun w => decide (w ≠ .rider x.id)))) ∧
    (let s1 := landOwed s x.id
     let r := riderRec x.record
     let line := (x.recBase + r.cmpl) / 128
     let lines := linesOf (x.recBase + r.dst) (finalOutput x).length
     let out := lines.foldl (fun s l => shareFill s x.ctx l false) (shareWrite s1 x.ctx (x.recBase + r.dst) (finalOutput x))
     let noted := shareFill (shareWrite out x.ctx (x.recBase + r.cmpl) (riderRecordBytes x)) x.ctx line false
     let gone : State := { noted with riders := noted.riders.filter (fun y => !(y.id == x.id)) }
     let u : State := shareResolve (issueWants gone x.tenant (x.legs.flatMap (fun l => l.deferred))) x.ctx
     riderAt s1 x.id = some x → (∀ l ∈ x.legs, l.alighted = true) → x.orphan = false → x.owed = [] →
     (∀ l ∈ line :: lines, shareReserved s1 x.ctx l = false) →
     (r.trap = false ∨ x.status = 0 → exec (.riderComplete x.id) s = .next u) ∧
     riderAt u x.id = none ∧
     (Standing s1 x.ctx t → (x.recBase + r.cmpl) % 128 = 0 → x.recBase + r.cmpl < 0x3E0000 →
       x.recBase + r.dst + (finalOutput x).length ≤ 0x3E0000 →
       let inRecord (a : Nat) : Prop := x.recBase + r.cmpl ≤ a ∧ a < x.recBase + r.cmpl + 128
       (∀ i < 128, mget (u.tile t).mem (x.recBase + r.cmpl + i) = (riderRecordBytes x)[i]?.getD 0) ∧
       (∀ i < (finalOutput x).length, ¬inRecord (x.recBase + r.dst + i) →
         mget (u.tile t).mem (x.recBase + r.dst + i) = (finalOutput x)[i]?.getD 0) ∧
       (∀ a, ¬inRecord a → (a < x.recBase + r.dst ∨ x.recBase + r.dst + (finalOutput x).length ≤ a) →
         mget (u.tile t).mem a = mget (s1.tile t).mem a) ∧
       ∀ l ∈ line :: lines, lineState u t l = { full := true, poison := false }) ∧
     (r.trap = true → x.status ≠ 0 → exec (.riderComplete x.id) s = .next (reportTrap u x.ctx 3
       { cause := x.status, blk := x.blk, slot := x.slot, tag := x.tag, info0 := BitVec.ofNat 64 x.faddr,
         info1 := BitVec.ofNat 64 r.cmpl })))

/-- R46, R176 to R182, R201: each request for a page reaches the event matcher, and begins a fill or joins the one in progress;
the first requested fill reads its descriptor, and fails with its status or goes on; a read source is boarded; a fill whose legs
have alighted makes the page resident, a failed one ends; a clean releasable page whose frame another page's fill needs is
evicted, and its translations are gone. (How a deferred leg takes its translations is the model's reading, log 66; the keys of
page events are its own, log 29.) -/
def Obligations.PagesFilled : Prop :=
  ∀ (s : State) (f leaf : Nat) (x : Fill) (r : Resident),
    (∀ id q w u, askingLeg s f leaf = some (id, q, w) → eventArrives s .pageRequest (pageKey f leaf) = some u →
      exec (.pageRequest f leaf) s = .next (requestFill (u.modRider id (fun x => x.modLeg q (fun l => { l with
        deferred := markRaised leaf l.deferred }))) f leaf w)) ∧
    (s.fills.find? (fun y => y.page.leaf == leaf && y.tenant == f) = some x → x.st = .requested →
      (s.fills.find? (fun y => y.st == .requested)).map (fun y => y.page.leaf) = some leaf →
      (∀ n, readDescriptor s x = .error n →
        exec (.fillStart f leaf) s = .next (s.modFill leaf (fun y => { y with st := .failed n }))) ∧
      (∀ y, readDescriptor s x = .ok y → ∃ u, exec (.fillStart f leaf) s = .next u ∧ ∀ z ∈ u.fills, z.page.leaf = leaf →
        z.frame = y.frame ∧ z.src = y.src ∧ z.slen = y.slen ∧
        z.st = (if (holders s leaf y.frame (2 ^ y.page.shift)).isEmpty then .reading else y.st))) ∧
    (s.fills.find? (fun y => y.page.leaf == leaf) = some x →
      (x.st = .reading → (∀ n, pageContent s x = .error n →
          exec (.fillSourceReady leaf) s = .next (s.modFill leaf (fun y => { y with st := .failed n }))) ∧
        (∀ m, pageContent s x = .ok m → heldBack s x = false → ∃ u, exec (.fillSourceReady leaf) s = .next u ∧
          ∀ z ∈ u.fills, z.page.leaf = leaf → z.st = .boarding ∧ z.content = m)) ∧
      (x.st = .boarding → (∀ v ∈ s.services, v.fill = some leaf → v.alighted = true) →
        ∃ u, exec (.fillComplete leaf) s = .next u ∧ (∀ y ∈ u.fills, y.page.leaf ≠ leaf) ∧
          ∃ y ∈ u.residents, y.tenant = x.tenant ∧ y.page = x.page ∧ y.frame = x.frame) ∧
      (∀ n, x.st = .failed n → ∃ u, exec (.fillFail leaf n) s = .next u ∧ (∀ y ∈ u.fills, y.page.leaf ≠ leaf))) ∧
    (s.residents.find? (fun y => y.page.leaf == leaf) = some r → r.releasable = true → r.dirty = false →
      (∃ y ∈ s.fills, y.st = .waiting ∧ y.page.leaf ≠ leaf ∧
        rangesMeet r.frame (2 ^ r.page.shift) y.frame (2 ^ y.page.shift) = true) →
      ∃ u, exec (.pageEvict leaf) s = .next u ∧ (∀ y ∈ u.residents, y.page.leaf ≠ leaf) ∧
        ∀ x ∈ u.tiles, ∀ e ∈ x.tlb, e.asid = asidOf s r.tenant ∨ e.asid = (s.tenant r.tenant).lasid.toNat → e.vpage ≠ r.page.va / 65536 / 2 ^ (e.shift - 16))

/-- R164: a sweep slot takes 2 ns; the cursor of a running ring moves on by one row of its turn, and a stopped one stays.
R163, R164, R166, R168, R171, R195, R196, R198, R408: what a rider does to a row when the cursor visits it while its leg
is aboard, for a row of deadline 0 without errors in which it has one element: RIUPD leaves the updated element, RICXG its
new value where the element equals V0, RIWRITE its operand's element and RIFILL V0, and the kinds that only read leave the
row as it is; no other byte of Chroiradal memory changes, and the row's age is 0. -/
def Obligations.SlotsAdvance : Prop :=
  (∀ (s : State), ∃ u, exec .sweepSlot s = .next u ∧ u.now = s.now + 2 ∧
    ∀ q, q < 32 → (u.ring q).cursor = if (s.ring q).running then ((s.ring q).cursor + 1) % turn else (s.ring q).cursor) ∧
  (∀ (s : State) (q e off b z : Nat) (x : Rider) (l : Leg), q < 32 → MemoriesWf s → twf Lapse.zero s.lapse = true →
    (∀ p, p < 32 → p ≠ q → (s.ring p).running = false) → (s.ring q).running = true → (s.ring q).zeroing = 0 →
    (s.ring q).aboard = [.rider x.id] → s.services = [] → s.riders = [x] → x.owed = [] → x.legs = [l] → l.ring = q →
    l.boarded = some b → l.arrived = some z → l.alighted = false → l.waited = false → l.deferred = [] →
    rideOver l (slotNow s) = false → (riderRec x.record).kind ≠ 3 → s.badChunks = [] →
    let row := bitrev 21 (s.ring q).cursor
    let r := riderRec x.record
    let a := rowAddr q row
    let old := mread s.sweep (a + off) r.esz
    let kind (n : Nat) : Prop := r.kind = n
    (tget Lapse.zero s.lapse (q * 2 ^ 21 + row)).d = 0 → elementsAt x l q row = [(e, off)] → off + r.esz ≤ 8192 →
    ∃ u, exec .sweepSlot s = .next u ∧
      let leaves (v : Nat) : Prop := ∀ k, mget u.sweep k =
        if a + off ≤ k ∧ k < a + off + r.esz then BitVec.ofNat 8 (v / 256 ^ (k - (a + off))) else mget s.sweep k
      (kind 4 → leaves (updated r (operandElem x r.esz e) old)) ∧
      (kind 6 → leaves (if old = r.v0.toNat % 256 ^ r.esz then r.a.toNat else old)) ∧
      (kind 7 → leaves (operandElem x r.esz e)) ∧ (kind 8 → leaves r.v0.toNat) ∧
      (kind 1 ∨ kind 2 ∨ kind 5 → ∀ k, mget u.sweep k = mget s.sweep k) ∧
      (r.kind ≠ 9 → (tget Lapse.zero u.lapse (q * 2 ^ 21 + row)).a = 0) ∧
      (kind 4 ∨ kind 7 ∨ kind 8 → ∃ y, riderAt u x.id = some y ∧ y.count = x.count + 1))

/-! ### Queues, packets and events (R46, R52 to R64) -/

/-- R46, R64, R415: an event that matches armed entries disarms them, and their cookies enter the ready queue in entry
order, ahead of those of the events of the same cycle that come after it by kind and key; a kick that matches none sets
its queue's pending bit; another event enters the hold queue, in its place among those of its cycle, and where there is no
room the last of them waits at its source; a kick makes the puppeteer decide. Arming takes the lowest free entry (log 96),
with the held events matched again; a 513th is refused. (The keys of events are the model's own numbering, log 29; the
cycle that events share is log 91.) R42, R46, R48, R52 to R56, R64: a doorbell to an index that its tenant does not own is
logged as a violation of kind 4, unless the function is being reset; a kick of the present index changes nothing, one too
far ahead puts the queue in ERROR with code 2, and another moves L, and of a queue without a slot reaches the matcher and
makes the puppeteer decide; a reserved operation gives code 5; a destroyed queue is gone; a legal descriptor makes an
owned queue, a broken one or one with no room writes 6, and one that has to be waited for is taken up again later. (That a
creation whose descriptor waits is taken up at the next decision, and one that fails leaves nothing, is the model's
reading, log 32.) -/
def Obligations.EventsAndDoorbells : Prop :=
  (∀ (s : State) (kind : EventKind) (key : Nat) (cookie : BitVec 32),
    let m := s.matcher
    let e := (kind, key)
    let hit := m.armed.any (entryMatches kind key)
    let earlier := m.cycle = s.now
    let after (n : Nat) : Prop := n = if earlier then ((m.came.filter (fun y => !eventBefore y.1 e)).map (fun y => y.2)).sum else 0
    let kept := if earlier then m.kept else 0
    let placed := m.held.take (m.held.length - kept) ++ insertEvent e (m.held.drop (m.held.length - kept))
    (hit = true → ∃ u, exec (.eventArrival kind key) s = .next u ∧
      u.matcher.armed = m.armed.filter (fun e => !entryMatches kind key e) ∧
      (∀ n, after n → u.matcher.ready = m.ready.take (m.ready.length - n) ++
        (m.armed.filter (entryMatches kind key)).map (fun e => e.2.cookie) ++ m.ready.drop (m.ready.length - n)) ∧
      u.matcher.held = m.held ∧ u.matcher.waiting = m.waiting) ∧
    (kind = .kick → ∃ u, exec (.eventArrival kind key) s = .next u ∧ u.agenda = .ev .schedulingDecision :: s.agenda ∧
      (hit = false → u.matcher = m ∧ ∀ q ∈ u.queues, kickKey q.tenant q.index = key → q.pending = true)) ∧
    (hit = false → kind ≠ .kick → ∃ u, exec (.eventArrival kind key) s = .next u ∧ u.queues = s.queues ∧
      u.matcher.armed = m.armed ∧ u.matcher.ready = m.ready ∧
      (m.held.length < 64 → u.matcher.held = placed ∧ u.matcher.waiting = m.waiting) ∧
      (64 ≤ m.held.length → ∀ y, placed.getLast? = some y → u.matcher.waiting = m.waiting ++ [y] ∧
        (y = e → u.matcher.held = m.held) ∧ (y ≠ e → u.matcher.held = placed.dropLast))) ∧
    (freeMatch m = none → exec (.eventArm kind key cookie) s = .next (s.emit .armRefused)) ∧
    (∀ i, freeMatch m = some i → m.waiting = [] → (∀ h ∈ m.held, m.armed.any (entryMatches h.1 h.2) = false) →
      ∃ u, exec (.eventArm kind key cookie) s = .next u ∧ i < 512 ∧ (∀ x ∈ m.armed, x.1 ≠ i) ∧
        (e ∈ m.held → u.matcher.armed = m.armed ∧ u.matcher.ready = m.ready ++ [cookie] ∧ u.matcher.held = m.held.erase e) ∧
        (e ∉ m.held → u.matcher.armed = armEntry i { kind := kind, key := key, cookie := cookie } m.armed ∧
          u.matcher.ready = m.ready ∧ u.matcher.held = m.held)) ∧
    (∀ i, freeMatch m = some i → exec (.eventArm kind key cookie) s = .next (letIn { s with
      matcher := rematch { m with armed := armEntry i { kind := kind, key := key, cookie := cookie } m.armed } }))) ∧
  (∀ (s : State) (f q desc : Nat) (w : BitVec 32), f < 16 → q < 4096 → (s.tenant f).resetting = false →
    (regionsMapped s = true → queueAt s f q = none →
      let logged := logViolation s f 4 (BitVec.ofNat 64 (regionBase f + 0x10000 + 8 * q)) 0
      exec (.doorbellKick f q w) s = .next logged ∧ exec (.doorbellDestroy f q) s = .next logged ∧
      exec (.doorbellReserved f q) s = .next logged) ∧
    (regionsMapped s = true → takesWork s = true → ∀ x, queueAt s f q = some x →
      let far := 2 ^ x.log2n < (w - x.ridx).toNat ∨ 2 ^ x.log2n < (w - x.last).toNat
      let noted := s.modQueue f q (fun x => { x with last := w })
      (far → exec (.doorbellKick f q w) s = .next (queueError s f q 2 none)) ∧
      (¬far → w = x.last → exec (.doorbellKick f q w) s = .next s) ∧
      (¬far → w ≠ x.last → x.slot.isSome = true → exec (.doorbellKick f q w) s = .next noted) ∧
      (¬far → w ≠ x.last → x.slot = none → exec (.doorbellKick f q w) s = .next (refreshQueue (demandDecision
        (raise (noted.modQueue f q (fun x => { x with pending := true })) .kick (kickKey f q))) f q)) ∧
      exec (.doorbellReserved f q) s = .next (queueError s f q 5 none) ∧
      exec (.doorbellDestroy f q) s = .next (destroyQueue s x)) ∧
    (takesWork s = true → ∀ u,
      (readG s f desc 64 = (u, .waits) →
        exec (.doorbellCreate f q desc) s = .next { u with creating := u.creating ++ [(f, q, desc)] }) ∧
      (∀ a b d, readG s f desc 64 = (u, .fails a b d) → exec (.doorbellCreate f q desc) s = .next u) ∧
      (∀ m, readG s f desc 64 = (u, .data m) →
        let owned := (queuesOf u f).length
        let total := (u.queues.filter (fun x => decide (x.st ≠ .destroyed))).length
        (queueOfDesc f q m = none → exec (.doorbellCreate f q desc) s =
          .next (storeG u f q (memWord m 16) (BitVec.ofNat 64 (6 * 2 ^ 32)))) ∧
        (∀ x, queueOfDesc f q m = some x →
          (queueAt u f q = none → owned < (u.tenant f).qmax.toNat → total < 4096 → exec (.doorbellCreate f q desc) s =
            .next (storeG { u with queues := u.queues ++ [x] } f q x.stat (statusWord x))) ∧
          ((queueAt u f q).isSome = true ∨ (u.tenant f).qmax.toNat ≤ owned ∨ 4096 ≤ total →
            exec (.doorbellCreate f q desc) s = .next (storeG u f q x.stat (BitVec.ofNat 64 (6 * 2 ^ 32))))))))

/-- The head packet of the queue in slot n has been fetched, as m. -/
def HeadPacket (s : State) (n : Nat) (q : Queue) (m : Memory) (u : State) : Prop :=
  s.queues.find? (fun q => q.slot == some n && decide (q.st ≠ .destroyed)) = some q ∧ slotsRun s = true ∧ q.st ≠ .error ∧
  q.ridx ≠ q.last ∧ q.started.any (fun p => (accessOf p).isSome && decide (p.index = q.ridx)) = false ∧
  readG s q.tenant ((q.ring.toNat + 64 * (q.ridx.toNat % 2 ^ q.log2n)) % 2 ^ 64) 64 = (u, .data m)

/-- R45, R57 to R61, R145, R182: a fetched head packet runs: a launch begins or puts the queue in ERROR, a copy starts and sets
its destination's lines empty, a hint marks its pages or waits for them, a signal stores to its mailbox word once every earlier
packet is complete, a wait takes from its word, a fence completes after every earlier packet, and a malformed packet gives ERROR
with code 1 at its index. (What makes a packet malformed beyond R58's words, and how a signal and a wait act, is the model's
reading, log 32 and 69.) -/
def Obligations.PacketsRun : Prop :=
  ∀ (s u : State) (n : Nat) (q : Queue) (m : Memory), HeadPacket s n q m u →
    let irq := packetIrq m
    (packetKind m = .malformed → exec (.packetMalformed n) s = .next (queueError u q.tenant q.index 1 (some q.ridx))) ∧
    (∀ desc sig, packetKind m = .launch desc sig →
      (u.ctl.barred = true → exec (.packetLaunch n) s = .next u) ∧
      (u.ctl.barred = false →
        (∀ v id, beginLaunch u q q.ridx desc sig = (v, .begun id) →
          exec (.packetLaunch n) s = .next (consume v q (some { index := q.ridx, irq := irq, work := .launch id }))) ∧
        (∀ v, beginLaunch u q q.ridx desc sig = (v, .waits) → exec (.packetLaunch n) s = .next v) ∧
        (∀ v code, beginLaunch u q q.ridx desc sig = (v, .error code) →
          exec (.packetLaunch n) s = .next (queueError v q.tenant q.index code (some q.ridx))))) ∧
    (∀ src dst z, packetKind m = .copy src dst 0 z → exec (.packetCopy n) s = .next (packetDone (consume u q none) q irq)) ∧
    (∀ src dst len z, packetKind m = .copy src dst len z → len ≠ 0 → exec (.packetCopy n) s =
      .next (consume (openPages { u with nextId := u.nextId + 1,
                                         copies := u.copies ++ [packetCopyOf (u.nextId + 1) q src dst len z] } (u.nextId + 1)) q
        (some { index := q.ridx, irq := irq, work := .copy (u.nextId + 1) }))) ∧
    (∀ va rel, packetKind m = .hint va 0 rel → va ≤ 2 ^ 57 →
      exec (.packetHint n) s = .next (packetDone (consume (markFrames u [] rel) q none) q irq)) ∧
    (∀ va rel, packetKind m = .hint va 65536 rel → va + 65536 ≤ 2 ^ 57 →
      (sweepLeaf u q.tenant (va % 2 ^ 64) = .bad → exec (.packetHint n) s = .next (queueError u q.tenant q.index 3 (some q.ridx))) ∧
      (∀ g, sweepLeaf u q.tenant (va % 2 ^ 64) = .resident g →
        exec (.packetHint n) s = .next (packetDone (consume (markFrames u [g] rel) q none) q irq)) ∧
      (∀ w, sweepLeaf u q.tenant (va % 2 ^ 64) = .absent w →
        (rel = true → exec (.packetHint n) s = .next (packetDone (consume (markFrames u [] rel) q none) q irq)) ∧
        (rel = false → exec (.packetHint n) s = .next (consume (markFrames u [] rel) q
          (some { index := q.ridx, irq := irq, work := .hint [w] false }))))) ∧
    (∀ b v, packetKind m = .signal b v → q.started = [] → exec (.packetSignal n) s = .next (startHead
      (mailboxAccess u q b (.stfw 8) v).2 q irq (.signal (mailboxAccess u q b (.stfw 8) v).1))) ∧
    (∀ b, packetKind m = .wait b → exec (.packetWait n) s = .next (startHead
      (mailboxAccess u q b (.lde 8) 0).2 q irq (.wait (mailboxAccess u q b (.lde 8) 0).1))) ∧
    (packetKind m = .fence → q.started = [] → exec (.packetQueueFence n) s = .next (packetDone (consume u q none) q irq))

/-- A packet of an owned queue has ended: it has left the packets that the queue has started, all others stay, and a decision is
to follow. -/
def PacketEnds (u : State) (x : Queue) (p : PacketRec) (ridx : BitVec 32) : Prop :=
  .ev .schedulingDecision ∈ u.agenda ∧ ∃ y, queueAt u x.tenant x.index = some y ∧
    y.started = x.started.filter (fun r => decide (r.index ≠ p.index)) ∧ y.ridx = ridx ∧ y.last = x.last

/-- R55: a packet has failed: its queue is in ERROR with code 3 at it, and the packet has left those that are started. -/
def PacketFails (u : State) (x : Queue) (p : PacketRec) : Prop :=
  ∃ y, queueAt u x.tenant x.index = some y ∧ y.st = .error ∧ y.err = 3 ∧ y.ridx = p.index ∧
    ∀ r ∈ y.started, r ∈ x.started ∧ r.index ≠ p.index

/-- R63, R64: what a decision leaves. No queue is lost; no queue waits beside a free slot, nor beside a mapped queue that has had
its slot for 2 ms, or has nothing left to do, and whose priority is strictly below the effective priority of the waiting one, which
grows by one for each 2 ms of waiting up to its tenant's ceiling; a queue with packets left keeps its slot for 2 ms. -/
def Decided (s u : State) : Prop :=
  u.queues.map (fun q => (q.tenant, q.index)) = s.queues.map (fun q => (q.tenant, q.index)) ∧
  (∀ q ∈ u.queues, q.slot = none → q.st ≠ .error →
    (q.ridx ≠ q.last ∨ ∃ l ∈ u.launches, l.tenant = q.tenant ∧ l.queue = q.index ∧ ∃ r ∈ l.regions, r.st ≠ .finished) →
    (∀ n, n < 64 → ∃ v ∈ u.queues, v.slot = some n) ∧
    ∀ v ∈ u.queues, v.slot.isSome = true → 2000000 ≤ u.now - v.mappedAt ∨ (v.ridx = v.last ∧ v.started = []) →
      max q.pri (min (u.tenant q.tenant).ceil.toNat (q.pri + (u.now - q.wsince) / 2000000)) ≤ v.pri) ∧
  (∀ v ∈ s.queues, v.slot.isSome = true → v.st ≠ .error → v.ridx ≠ v.last → s.now - v.mappedAt < 2000000 →
    ∃ w ∈ u.queues, w.tenant = v.tenant ∧ w.index = v.index ∧ w.slot = v.slot)

/-- R39, R55, R57, R59, R60, R63, R64, R228: a started packet completes with its work and leaves its queue's started packets, and a
decision follows: a copy that has landed or stopped, its writes performed (one that has stopped puts the queue in ERROR with code
3), a hint that waits for no page (one of which a fill failed gives ERROR likewise), a wait or signal that has been performed (the
head one is consumed, RIDX one greater), a launch all of whose regions have finished, after its signal, which goes to its mailbox
word once every earlier packet is complete; until then nothing changes. A decision of the puppeteer, and its timer, which also
counts a heartbeat, leaves no queue waiting beside a free slot or a displaceable queue of lower priority, and pre-empts what runs
on of a queue without a slot. (The decision's clauses speak of a machine with no access under way, and the first of one whose
launches run on no tile. The launches and images of an ERROR queue are log 33, how a wait and a signal act log 69, a destroyed
queue's packets log 83, the lowest free slot log 84.) -/
def Obligations.PacketsComplete : Prop :=
  (∀ (s : State) (f q i : Nat) (x : Queue) (p : PacketRec),
    startedQueue s f q (BitVec.ofNat 32 i) = some (x, p) →
      let ends (s : State) (ridx : BitVec 32) : Prop :=
        ∃ u, exec (.packetComplete f q i) s = .next u ∧ PacketEnds u x p ridx
      let owned := queueAt s f q = some x
      (∀ id c, p.work = .copy id → s.copies.find? (fun c => c.id == id) = some c →
        (landingYet s c = true → exec (.packetComplete f q i) s = .next s) ∧
        (c.stop = none → copyLanded s c = false → exec (.packetComplete f q i) s = .next s) ∧
        (landingYet s c = false →
          (owned → c.stop = none → copyLanded s c = true → ∃ u, exec (.packetComplete f q i) s = .next u ∧
            PacketEnds u x p x.ridx ∧ ∀ k ∈ u.copies, k.id ≠ id) ∧
          (owned → c.stop.isSome = true → x.st ≠ .error → ∃ u, exec (.packetComplete f q i) s = .next u ∧
            PacketFails u x p ∧ ∀ k ∈ u.copies, k.id ≠ id) ∧
          (x.st = .destroyed → c.stop.isSome = true ∨ copyLanded s c = true → ∃ u, exec (.packetComplete f q i) s = .next u ∧
            ∀ y ∈ u.queues, y.tenant = x.tenant → y.index = x.index → y.st = .destroyed →
              ∀ r ∈ y.started, r.index ≠ p.index))) ∧
      (∀ w bad, p.work = .hint w bad →
        (w ≠ [] → exec (.packetComplete f q i) s = .next s) ∧
        (w = [] → owned → bad = false → ends s x.ridx) ∧
        (w = [] → owned → bad = true → x.st ≠ .error → ∃ u, exec (.packetComplete f q i) s = .next u ∧ PacketFails u x p)) ∧
      (∀ id, p.work = .wait id ∨ p.work = .signal id →
        let performed := s.pend.any (fun e => e.id == id && e.got.isSome)
        (performed = false → exec (.packetComplete f q i) s = .next s) ∧
        (performed = true → owned → p.index = x.ridx → ends s (x.ridx + 1)) ∧
        (performed = true → owned → p.index ≠ x.ridx → ends s x.ridx)) ∧
      (∀ id l, p.work = .launch id → launchOf s id = some l →
        (l.ended = true ∨ (∃ r ∈ l.regions, r.st ≠ .finished) → exec (.packetComplete f q i) s = .next s) ∧
        (l.ended = false → (∀ r ∈ l.regions, r.st = .finished) →
          (l.signal = none → owned → ∃ u, exec (.packetComplete f q i) s = .next u ∧ PacketEnds u x p x.ridx ∧
            ∀ k ∈ u.launches, k.id ≠ l.id) ∧
          (∀ m v, l.signal = some (m, v) →
            ((x.started.head?.map (fun r => r.index)) ≠ some p.index → exec (.packetComplete f q i) s = .next s) ∧
            (s.pend = [] → owned → (x.started.head?.map (fun r => r.index)) = some p.index →
              ∃ u y id, exec (.packetComplete f q i) s = .next u ∧ queueAt u f q = some y ∧
                y.started = { p with work := .signal id } :: x.started.tail ∧ (∀ k ∈ u.launches, k.id = l.id → k.signal = none) ∧
                ∃ e ∈ u.pend, e.id = id ∧ e.op = .stfw 8 ∧ e.place = .mailbox f m ∧ e.data = v.setWidth 128))))) ∧
  (∀ s : State, takesWork s = true → s.creating = [] → s.pend = [] →
    let idle := (s.queues.map (fun q => (q.tenant, q.index))).Nodup ∧
      (∀ q ∈ s.queues, q.st ≠ .destroyed ∧ q.pri < 8 ∧ ∀ p ∈ q.started, accessOf p = none) ∧
      (∀ l ∈ s.launches, l.ended = false ∧ launchRuns l = false ∧
        ∀ q ∈ s.queues, q.tenant = l.tenant → q.index = l.queue → ∃ p ∈ q.started, p.work = .launch l.id)
    (idle → ∃ u, exec .schedulingDecision s = .next u ∧ Decided s u) ∧
    (idle → ∃ u, exec .puppeteerTimerTick s = .next u ∧ Decided s u ∧ u.ctl.hbeat = s.ctl.hbeat + 1) ∧
    (∀ l r q, s.ctl.pup ≠ .activating → s.launches = [l] → l.regions = [r] → l.ended = false → r.st = .started →
      converged r = false → banksBusy s r = false → s.queues = [q] → q.tenant = l.tenant → q.index = l.queue →
      q.slot = none → q.st = .error → ∃ u, exec .schedulingDecision s = .next u ∧
        ∃ y, u.regionOf l.id r.region = some y ∧ y.st = .preempted)) ∧
  (∀ s : State, takesWork s = false →
    exec .schedulingDecision s = .next s ∧
    (s.ctl.pup = .bringup → exec .puppeteerTimerTick s = .next (s.modCtl (fun c => { c with hbeat := c.hbeat + 1 }))) ∧
    (s.ctl.pup ≠ .bringup → exec .puppeteerTimerTick s = .next s))

/-! ### The device around the tiles (R21 to R25, R31 to R51, R309) -/

/-- R48, R52, R61: what a reset of function f leaves of it: no queue, no creation under way, no launch that has not been given up, its
riders to ride out their turn without a record, its log, TNSTAT, windows and vectors at their reset values, and the reset over unless a
context, an image to discard or a launch of it is still there. -/
def FunctionCleared (u : State) (f : Nat) : Prop :=
  let x := u.tenant f
  x.viol = false ∧ x.lost = 0 ∧ x.count = 0 ∧ x.head = 0 ∧ x.seq = 0 ∧ x.vlog = Vector.replicate 16 0 ∧ x.linkev = false ∧
  x.fwev = false ∧ x.wingb = 0 ∧ x.wingl = 0 ∧ x.winsb = 0 ∧ x.winsl = 0 ∧ x.msix = Vector.replicate 64 MsixEntry.reset ∧
  x.resetting = resetWaits u f ∧ queuesOf u f = [] ∧ (∀ c ∈ u.creating, c.1 ≠ f) ∧
  (∀ l ∈ u.launches, l.tenant = f → l.ended = true) ∧ (∀ r ∈ u.riders, r.tenant = f → r.orphan = true)

/-- R45, R48, R50, R65: a cold reset returns everything inside the module to its reset value; a function-level reset takes
the function's queues, launches, mailboxes, vectors, windows and log, a hot reset those of every function, and each is
over once nothing of the function is left; what is left of it then, and that other functions keep their queues and registers, is said
field by field; a watchdog reset counts in WDCNT, clears the event matcher, recovers every
queue from the copy that SEL names, aborts an activation before its flip, and raises FWEV; where its re-check fails STATE
is FAILED and no launch is made. (What a failed re-check does to an activation past its flip is the model's choice, log
86; the digest that is checked again is log 28; when a function's reset is over is the model's reading, log 38, and the
vectors' reset values are presumed, log 12.) R39, R49, R50, R164: bring-up: the boot ROM checks the flash image, and stops
in FAILED or goes on to BOOTROM; the puppeteer starts every sweep, whose first turn is to write zeros; failing tiles are
fenced and TSERV counts the others; then STATE is RUNNING, tenant regions are mapped and configuration requests completed.
(M0, M2 and the steps of an activation out of FAILED are the model's reading, log 28; the flash image is a constant of
Config, log 8.) -/
def Obligations.ResetsAndBringUp : Prop :=
  (∀ (s : State) (f : Nat),
    exec .coldReset s = .next { State.reset with
      host := s.host, hostBad := s.hostBad, freeCtr := s.freeCtr, agenda := s.agenda, outbox := s.outbox } ∧
    (f < 16 → ∃ u, exec (.functionLevelReset f) s = .next u ∧ u = settleResets (resetFunction s f) ∧
      ((∀ p ∈ s.pend, ∀ o, p.place ≠ .control o) → FunctionCleared u f ∧
        (∀ g, g < 16 → g ≠ f → queuesOf u g = queuesOf s g ∧
          let y := u.tenant g
          { s.tenant g with pba := y.pba, mbox := y.mbox, mfull := y.mfull, resetting := y.resetting } = y)) ∧
      (s.pend = [] → queuesOf s f = [] → resetWaits s f = false → (∀ g < 16, (s.tenant g).resetting = false) →
        (u.tenant f).pba = 0 ∧ (u.tenant f).mbox = [] ∧ (u.tenant f).mfull = [] ∧
        (∀ g, g < 16 → g ≠ f → u.tenant g = s.tenant g) ∧
        u = { s with tenants := u.tenants, creating := u.creating, riders := u.riders })) ∧
    (∃ u, exec .hotReset s = .next u ∧ u = settleResets ((List.range 16).foldl resetFunction s) ∧
      ((∀ p ∈ s.pend, ∀ o, p.place ≠ .control o) → (∀ g < 16, FunctionCleared u g) ∧ u.ctl = s.ctl)) ∧
    (takesWork s = true ∨ s.ctl.pup = .bringup → ∃ u, exec .watchdogReset s = .next u ∧
      (s.matcher.waiting = [] → u.matcher.armed = [] ∧ u.matcher.ready = [] ∧ u.matcher.held = [] ∧ u.matcher.waiting = [] ∧
        u.queues = s.queues.map recoverQueue) ∧
      (u.tenant 0).fwev = true ∧
      u.ctl.wdcnt = (if s.ctl.wdcnt = BitVec.allOnes 16 then s.ctl.wdcnt else s.ctl.wdcnt + 1) ∧
      (s.ctl.activation = .loading → u.ctl.activation = .none ∧ u.ctl.fwstatus = 0x17) ∧
      (sha384 (bankBytes s.ctl) = s.ctl.bankDigest → u.ctl.pup = s.ctl.pup) ∧
      (sha384 (bankBytes s.ctl) ≠ s.ctl.bankDigest → u.ctl.pup = .failed ∧ u.ctl.barred = true ∧ regionsMapped u = false))) ∧
  (∀ (s : State) (failing : BitVec 192),
    (s.ctl.pup = .reset → ∃ u, exec .bootRomCheck s = .next u ∧ u.ctl.bringup = 2 ∧
      (imageStatus Config.flashImage = 0 → u.ctl.pup = .bootrom ∧ u.ctl.bank0 = Config.flashImage ∧ u.ctl.activeBank = false) ∧
      (imageStatus Config.flashImage ≠ 0 → u.ctl.pup = .failed ∧ configNormal u = true)) ∧
    (s.ctl.bringup = 2 → s.ctl.pup = .bootrom ∨ s.ctl.pup = .activating → ∃ u, exec .puppeteerStart s = .next u ∧
      u.ctl.pup = .bringup ∧ u.ctl.bringup = 3 ∧ ∀ q, q < 32 → (u.ring q).running = true ∧ (u.ring q).zeroing = turn) ∧
    (s.ctl.pup = .bringup → s.ctl.bringup = 3 → ∃ u, exec (.tileSelfTest failing) s = .next u ∧ u.ctl.tfence = failing ∧
      u.ctl.tserv.toNat = 192 - countTiles failing ∧ u.ctl.bringup = 4) ∧
    (s.ctl.pup = .bringup → s.ctl.bringup = 4 → ∃ u, exec .bringupRunning s = .next u ∧ u.ctl.pup = .running ∧
      regionsMapped u = true ∧ configNormal u = true ∧ (s.ctl.activation = .flipped → u.ctl.activation = .none ∧ u.ctl.fwstatus = 0)))

/-- R42, R43: a violation has been logged for a function: an entry with its kind and address stands behind the others and VIOL is set,
or, where the log is full, LOST counts it up to its maximum. One of the host's side stands before those of the Volong side of the same
moment, which move on by one (R415; what one moment is, is log 107). -/
def LoggedViolation (s u : State) (f kind : Nat) (addr : Word) : Prop :=
  let x := s.tenant f
  let y := u.tenant f
  let far := if x.logAt = s.now then min x.logFar x.count else 0
  if kind < 6 ∧ 0 < far then
    let at_ (i : Nat) : Nat := (x.head.toNat + x.count - far + i) % 16
    x.count ≤ 16 → y.viol = true ∧
    (∃ e, y.vlog[at_ 0]? = some e ∧ e.extractLsb' 0 64 = addr ∧ e.extractLsb' 64 8 = BitVec.ofNat 8 kind) ∧
    (∀ i < far, x.count - far + i + 1 < 16 → ∃ d e, x.vlog[at_ i]? = some d ∧ y.vlog[at_ (i + 1)]? = some e ∧
      e.extractLsb' 0 72 = d.extractLsb' 0 72 ∧ e.extractLsb' 72 8 = d.extractLsb' 72 8 + 1) ∧
    (x.count < 16 → y.count = x.count + 1 ∧ y.seq = x.seq + 1 ∧ y.lost = x.lost) ∧
    (x.count = 16 → y.count = 16 ∧ y.lost = (if x.lost = BitVec.allOnes 32 then x.lost else x.lost + 1))
  else if x.count < 16 then
    y.count = x.count + 1 ∧ y.viol = true ∧ y.seq = x.seq + 1 ∧ y.lost = x.lost ∧
    ∃ e : BitVec 128, y.vlog = x.vlog.setIfInBounds ((x.head.toNat + x.count) % 16) e ∧
      e.extractLsb' 0 64 = addr ∧ e.extractLsb' 64 8 = BitVec.ofNat 8 kind
  else y.count = x.count ∧ y.vlog = x.vlog ∧ y.lost = (if x.lost = BitVec.allOnes 32 then x.lost else x.lost + 1)

/-- R24, R25, R39 to R43, R48, R50, R51, R89, R309: what a write of each register does: LGCTL's fields while EN is clear, a
clear of EN alone while it is set; TENCFG and TENPT, whose frozen fields keep their values with a violation of kind 2 logged in the
PF's log, and a fall of EN tears the tenant down; FWACT's GO, LEN and DUPGO; HEAD releases entries; W1C bits are cleared, but a VF's
write of 1 to a bit of TNSTAT that the PF alone has is a violation of kind 2 and is discarded; SLEWTAB waits for a step boundary
unless an entry 0 would be zero; GO of ATTCMD sets BUSY and takes the nonce. (That a write of a frozen field is logged whatever it
writes is the model's reading, log 18, and so is which write of TNSTAT by a VF is a violation, log 26.) -/
def Obligations.RegistersWritten : Prop :=
  ∀ (s : State) (f p k : Nat) (v : Word) (n : BitVec 4),
    (s.ctl.lgen = false → exec (.lgctlWrite v) s = .next (s.modCtl (fun c => { c with
      mcnt := v.extractLsb' 16 11, midx := v.extractLsb' 0 11
      lgen := v.getLsbD 11 && decide (v.extractLsb' 16 11 ≠ 0) && decide ((v.extractLsb' 16 11).toNat ≤ 1152) &&
        decide ((v.extractLsb' 0 11).toNat < (v.extractLsb' 16 11).toNat) }))) ∧
    (s.ctl.lgen = true → v.getLsbD 11 = false →
      exec (.lgctlWrite v) s = .next (s.modCtl (fun c => { c with lgen := false }))) ∧
    (s.ctl.lgen = true → v.getLsbD 11 = true → exec (.lgctlWrite v) s = .next (logViolation s 0 5 0x0100 0)) ∧
    (f < 16 → ∃ u, exec (.tencfgWrite f v) s = .next u ∧ (u.tenant f).qmax = v.extractLsb' 48 13 ∧
      (u.tenant f).ceil = v.extractLsb' 40 3 ∧ (u.tenant f).lgon = v.getLsbD 43 ∧
      (u.tenant f).en = (v.getLsbD 63 || f == 0) ∧
      ((s.tenant f).en = true → (u.tenant f).en = false → u.agenda = .ev (.functionLevelReset f) :: s.agenda) ∧
      (translationFrozen s f = true → (u.tenant f).asid = (s.tenant f).asid ∧ (u.tenant f).lasid = (s.tenant f).lasid ∧
        LoggedViolation s u 0 2 (BitVec.ofNat 64 (0x0400 + 16 * f))) ∧
      (translationFrozen s f = false → (u.tenant 0).count = (s.tenant 0).count ∧ (u.tenant f).asid = v.extractLsb' 0 16 ∧ (u.tenant f).lasid = v.extractLsb' 16 16)) ∧
    (f < 16 → translationFrozen s f = true → ∃ u, exec (.tenptWrite f v) s = .next u ∧
      (u.tenant f).root = (s.tenant f).root ∧ LoggedViolation s u 0 2 (BitVec.ofNat 64 (0x0408 + 16 * f))) ∧
    (f < 16 → translationFrozen s f = false → exec (.tenptWrite f v) s =
      .next ((removeTenant s f).modTenant f (fun x => { x with root := v.extractLsb' 12 52 }))) ∧
    (∃ u, exec (.fwactGo v) s = .next u ∧ u.ctl.fwlen = v.extractLsb' 32 32 ∧
      (s.ctl.activation = .none → s.ctl.trip = false → u.ctl.activation = .loading ∧ u.ctl.fwstatus = 1 ∧
        u.ctl.goLen = v.extractLsb' 32 32 ∧ u.ctl.goAddr = s.ctl.fwstage) ∧
      (s.ctl.activation ≠ .none → u.ctl.activation = s.ctl.activation ∧ u.ctl.dupgo = true)) ∧
    exec .fwactDupgoClear s = .next (s.modCtl (fun c => { c with dupgo := false })) ∧
    (f < 16 → ∃ u, exec (.vlogctlHeadWrite f n) s = .next u ∧ (u.tenant f).head = n ∧
      (u.tenant f).count = (s.tenant f).count - min (n - (s.tenant f).head).toNat (s.tenant f).count) ∧
    (f < 16 → f = 0 ∨ v &&& 6 = 0 → exec (.tnstatClear f v) s = .next (s.modTenant f (fun x => { x with
      viol := x.viol && !v.getLsbD 0, fwev := x.fwev && !(v.getLsbD 1 && f == 0)
      linkev := x.linkev && !(v.getLsbD 2 && f == 0) }))) ∧
    (f < 16 → f ≠ 0 → v &&& 6 ≠ 0 → ∃ u, exec (.tnstatClear f v) s = .next u ∧ LoggedViolation s u f 2 0 ∧
      ((s.tenant f).viol = true → (u.tenant f).viol = true)) ∧
    (p < 18 → ∃ u, exec (.vlstatDownevClear p) s = .next u ∧ vportOf u p = { vportOf s p with downev := false } ∧
      ∀ j, j ≠ p → vportOf u j = vportOf s j) ∧
    (v.extractLsb' 0 4 ≠ 0 → v.extractLsb' 32 4 ≠ 0 →
      exec (.slewtabWrite k v) s = .next (s.modStack k (fun x => { x with write := some v }))) ∧
    (v.extractLsb' 0 4 = 0 ∨ v.extractLsb' 32 4 = 0 → exec (.slewtabWrite k v) s = .next s) ∧
    exec .rellastValidClear s = .next (s.modCtl (fun c => { c with relValid := false })) ∧
    (s.ctl.attBusy = false → exec .attcmdGo s = .next (s.modCtl (fun c => { c with
      attDone := false, attBusy := true, attGo := c.attnonce }))) ∧
    (s.ctl.attBusy = true → exec .attcmdGo s = .next s)

/-- R21, R22, R25, R34, R35, R46, R47, R50, R51: an activation ends with the status of the first check its image fails, or flips
the bank, and the new firmware then runs; a finished report sets DONE; a replay is counted, and a port with more than 64 replays
in 1 ms is taken down, with DOWNEV and LINKEV set; a DRAM stack at 95 degrees doubles its rate until below 92, and a sensor at
110 degrees trips the module; a forecast changes no result. (Status 0x10 for a LEN above 524,288, 0x16 for a poisoned read, and
FWEV clear at a failure are the model's choice, log 85; a signature's number k is free, log 8.) -/
def Obligations.FirmwareAndLinks : Prop :=
  ∀ (s : State) (p k half : Nat) (dram : Bool),
    (s.ctl.activation = .loading →
      (524288 < s.ctl.goLen.toNat → exec .fwImageLoaded s = .next (activationFails s 0x10)) ∧
      (s.ctl.goLen.toNat ≤ 524288 → stagedImage s = none → exec .fwImageLoaded s = .next (activationFails s 0x16)) ∧
      (∀ img, s.ctl.goLen.toNat ≤ 524288 → stagedImage s = some img →
        (imageStatus img ≠ 0 → exec .fwImageLoaded s = .next (activationFails s (imageStatus img))) ∧
        (imageStatus img = 0 → layoutsListed s img = false → exec .fwImageLoaded s = .next (activationFails s 0x15)) ∧
        (imageStatus img = 0 → layoutsListed s img = true → ∃ u, exec .fwImageLoaded s = .next u ∧
          u.ctl.activeBank = !s.ctl.activeBank ∧ bankBytes u.ctl = img ∧ u.ctl.m0 = sha384 img ∧ u.ctl.pup = .activating ∧
          u.ctl.activation = .flipped ∧ u.ctl.m2 = sha384 (digestBytes s.ctl.m2 ++ digestBytes (sha384 img))))) ∧
    (s.ctl.pup = .activating → s.ctl.activation = .flipped → 4 ≤ s.ctl.bringup → ∃ u, exec .fwActivated s = .next u ∧
      u.ctl.pup = .running ∧ u.ctl.activation = .none ∧ u.ctl.fwstatus = 0 ∧ (u.tenant 0).fwev = true) ∧
    (s.ctl.attBusy = true →
      let drawn : State := { s with freeCtr := s.freeCtr + 1 }
      ∃ n, exec .attestReportDone s = .next (drawn.modCtl (fun c => { c with
        attrep := reportMemory drawn n, attBusy := false, attDone := true }))) ∧
    exec .thermalForecast s = .next s ∧
    (∃ u, exec (.sensorReport dram k half) s = .next u ∧
      (dram = true → k < 8 → u.dram[k]? = some (decide (190 ≤ half) || (s.dram[k]?.getD false && decide (184 ≤ half)))) ∧
      (220 ≤ half → k < (if dram then 8 else 4) → u.ctl.trip = true ∧
        (s.ctl.trip = false → u.ctl.pup = .tripped ∧ ∀ q, (u.ring q).running = false)) ∧
      (half < 220 → u.ctl.trip = s.ctl.trip)) ∧
    (p < 18 → ∃ u, exec (.flitReplay p) s = .next u ∧ (vportOf u p).replays =
        (if (vportOf s p).replays = BitVec.allOnes 32 then (vportOf s p).replays else (vportOf s p).replays + 1) ∧
      (mustFall u p = true → u.agenda = .portFalls p :: s.agenda) ∧ (mustFall u p = false → u.agenda = s.agenda)) ∧
    (p < 18 → (vportOf s p).up = true →
      64 < ((vportOf s p).recent.filter (fun t => decide (s.now < t + 1000000))).length →
      ∃ u, exec (.volongPortDown p) s = .next u ∧ (vportOf u p).up = false ∧ (vportOf u p).downev = true ∧
        (u.tenant 0).linkev = true) ∧
    (p < 18 → ∃ u, exec (.volongPortUp p) s = .next u ∧ vportOf u p = { vportOf s p with up := true })

/-- R38: what a register reads as if a write of 4 or 8 bytes puts its bytes there and leaves the others. -/
def written (old : Word) (off size : Nat) (v : Word) : Word :=
  if size = 8 then v
  else if off % 8 = 0 then old.extractLsb' 32 32 ++ v.extractLsb' 0 32
  else v.extractLsb' 0 32 ++ old.extractLsb' 0 32

/-- R24, R25, R38 to R40, R42, R50, R51, R309: what the registers of the module control block read as after a write at offset o: RW
fields as written, a 4-byte write leaving the other half; RO fields as before, and a register of none but such is a violation of kind
2; RSV fields zero; W1C bits no more than cleared. -/
def ControlReads (s u : State) (o size : Nat) (v old : Word) : Prop :=
  let reg := o - o % 8
  let w := written old o size v
  let now := ctlRegister u reg
  (reg = 0x10 → now = some (w &&& ~~~0xFFF#64)) ∧ (reg = 0x108 → now = some (w &&& 0xFFFFF)) ∧
  (0x800 ≤ reg → reg < 0x830 → now = some w) ∧
  (reg = 0x18 → w.getLsbD 0 = false → ∃ x, now = some x ∧ x.extractLsb' 32 32 = w.extractLsb' 32 32 ∧
    x.extractLsb' 2 30 = old.extractLsb' 2 30) ∧
  (reg = 0x38 → ∃ x, now = some x ∧ x ||| 0x10000 = old ||| 0x10000) ∧
  (0x200 ≤ reg → reg < 0x290 → ∃ x, now = some x ∧ x ||| 2 = old ||| 2) ∧
  (reg = 0x100 → s.ctl.lgen = false → ∃ x, now = some x ∧ x.extractLsb' 16 11 = w.extractLsb' 16 11 ∧
    x.extractLsb' 0 11 = w.extractLsb' 0 11 ∧ x.extractLsb' 32 32 = old.extractLsb' 32 32) ∧
  (∀ g < 16, reg = 0x400 + 16 * g →
    (translationFrozen s g = false → now = some ((w &&& 0x9FFF0F00FFFFFFFF) ||| if g = 0 then 0x8000000000000000 else 0)) ∧
    (translationFrozen s g = true → now = some (((w &&& 0x9FFF0F0000000000) ||| (old &&& 0xFFFFFFFF)) |||
      if g = 0 then 0x8000000000000000 else 0))) ∧
  (∀ g < 16, reg = 0x408 + 16 * g →
    now = some (if translationFrozen s g = true then old else w &&& ~~~0xFFF#64)) ∧
  (reg ∈ [0, 8, 0x20, 0x28, 0x30, 0x40, 0x48, 0x50] ∨ 0x1000 ≤ reg →
    now = some old ∧ u = logViolation s 0 2 (BitVec.ofNat 64 o) 0)

/-- R38, R41 to R44: the same of the registers of a function's region. -/
def RegionReads (s u : State) (f off o size : Nat) (v old : Word) : Prop :=
  let reg := o - o % 8
  let w := written old o size v
  let now := tenantRegister u f reg
  (reg = 0x10 ∨ reg = 0x20 → now = some w) ∧ (reg = 0x18 ∨ reg = 0x28 → now = some (w &&& 0xFFFFFFFFFF)) ∧
  (0x20000 ≤ reg → reg < 0x20400 → now = some (if reg % 16 = 0 then w else w &&& 0x1FFFFFFFF)) ∧
  (reg = 8 → ∃ x, now = some x ∧ x.extractLsb' 0 4 = w.extractLsb' 0 4 ∧ x.extractLsb' 32 32 = old.extractLsb' 32 32) ∧
  (0x100 ≤ reg ∧ reg < 0x200 ∨ reg = 0x21000 → u = logViolation s f 2 (BitVec.ofNat 64 off) 0)

/-- R31, R32, R37, R38, R42, R49: an aligned access of 4 or 8 bytes at a mapped offset of BAR0 reads or writes its register; an
offset that is not mapped is a violation of kind 1 and another size or alignment one of kind 3, and such a read answers
Unsupported Request. Of a written register the RW fields are read back, RO and RSV fields keep their values, and a 4-byte write
leaves the other half. A configuration request is retried before RUNNING, and then answered with the function's configuration. A
queue pair's data lands in host memory or a scratchpad, unless the module has no accelerator ID. (That kind 1 comes before kind
3 is the model's reading, log 26; where a queue pair's data lands is log 30.) -/
def Obligations.HostAccesses : Prop :=
  ∀ (s : State) (f off size addr t : Nat) (v : Word) (bytes : List Byte) (vf : Option Bool),
    (functionAnswers s f off = true →
      let logged (kind : Nat) : State := logViolation s f kind (BitVec.ofNat 64 off) 0
      (barSpot s f off = .unmapped → exec (.registerWrite f off size v) s = .next (logged 1) ∧
        exec (.registerRead f off size) s = .next ((logged 1).emit (.unsupported f))) ∧
      (barSpot s f off ≠ .unmapped → alignedAccess off size = false →
        exec (.registerWrite f off size v) s = .next (logged 3) ∧
        exec (.registerRead f off size) s = .next ((logged 3).emit (.unsupported f))) ∧
      (∀ o, barSpot s f off = .control o → alignedAccess off size = true →
        (∀ u, ctlWrite s o size v = some u → exec (.registerWrite f off size v) s = .next u) ∧
        (∀ old, ctlRegister s (o - o % 8) = some old →
          ∃ u, exec (.registerWrite f off size v) s = .next u ∧ ControlReads s u o size v old) ∧
        (∀ x, ctlRegister s (o - o % 8) = some x →
          exec (.registerRead f off size) s = .next (s.emit (.readData f (partOf x o size))))) ∧
      (∀ o, barSpot s f off = .region o → alignedAccess off size = true →
        exec (.registerWrite f off size v) s = .next (tenantWrite s f o size v) ∧
        (∀ old, tenantRegister s f (o - o % 8) = some old → RegionReads s (tenantWrite s f o size v) f off o size v old) ∧
        (∀ x, tenantRegister s f (o - o % 8) = some x →
          exec (.registerRead f off size) s = .next (s.emit (.readData f (partOf x o size)))))) ∧
    (configNormal s = false → exec (.configurationRequest f vf) s = .next (s.emit (.retry f))) ∧
    (configNormal s = true → vf = none ∨ f ≠ 0 →
      exec (.configurationRequest f vf) s = .next (s.emit (.config f (configOf s f)))) ∧
    (configNormal s = true → ∀ b,
      let u := s.modCtl (fun c => { c with vfEnable := b })
      exec (.configurationRequest 0 (some b)) s = .next (u.emit (.config 0 (configOf u 0)))) ∧
    (s.ctl.accid ≠ 0xFFFFF → takesWork s = true →
      exec (.scaleOutReceive .host addr bytes) s = .next { s with host := mwriteBytes s.host addr bytes } ∧
      (addr + bytes.length ≤ 0x3E0000 → exec (.scaleOutReceive (.scratch t) addr bytes) s = .next (writeScratch s t addr bytes))) ∧
    (s.ctl.accid = 0xFFFFF → ∀ d, exec (.scaleOutReceive d addr bytes) s = .next s)

/-! ### The machine as a whole -/

/-- R25, R39, R48, R90, R147, R164: the machine after reset: no tile has a context or is fenced, every line is full, no queue,
launch, copy, rider or fill is there, the puppeteer is in RESET, the sweeps stand still, every Volong port's counters and every
tenant's log are clear. (Full lines without poison are the model's choice, log 5: R90 and R147 give a line its state and no
value at reset.) -/
def Obligations.ResetState : Prop :=
  (∀ t, (State.reset.tile t).ctx = none ∧ (State.reset.fabric t).blk = none ∧ fenced State.reset t = false ∧
    ∀ l, lineState State.reset t l = { full := true, poison := false }) ∧
  State.reset.queues = [] ∧ State.reset.launches = [] ∧ State.reset.copies = [] ∧ State.reset.riders = [] ∧
  State.reset.fills = [] ∧ State.reset.ctl.pup = .reset ∧ State.reset.ctl.trip = false ∧ State.reset.ctl.lgen = false ∧
  State.reset.ctl.relValid = false ∧ State.reset.ctl.fwstatus = 0 ∧
  (∀ q, (State.reset.ring q).running = false) ∧ (∀ p, (vportOf State.reset p).replays = 0) ∧
  (∀ f, (State.reset.tenant f).viol = false ∧ (State.reset.tenant f).count = 0)

/-- R84, R101, R119: a step of a cluster that fires: operands return from the toybox, and exec runs the instruction that decodes
from the word of the slot that is chosen, on its operands; a step that names a device step runs it, unless a thermal trip has
stopped what it needs. The agenda loses its head, and the trailing tiles of locked pairs follow. (The agenda is log 1; what a
thermal trip leaves running log 31; that trailing tiles follow at the end of a step log 40; that operands return from the toybox
before the firing, in its step, log 45: the model's choices.) -/
def Obligations.StepRuns : Prop :=
  ∀ (s : State) (rest : List Happening),
    let u : State := { s with agenda := rest, cur := none }
    (∀ t c a b w i, s.agenda = .fire t c :: rest → s.ctl.trip = false →
      let v := returnToys u t
      chooseFiring v t c = some a → (v.fabric t).blk = some b → b.words[a.slot]? = some w → decode w = .ok i →
      step s = mirrored (exec i (takeOperands (countWaits v t c a) t b i a))) ∧
    (∀ i, s.agenda = .ev i :: rest → s.ctl.trip = false ∨ survivesTrip i = true → step s = mirrored (exec i u)) ∧
    (∀ i, s.agenda = .ev i :: rest → s.ctl.trip = true → survivesTrip i = false → step s = .next (mirrorPairs u))

/-- R311 to R323: the decoder reads back every instruction word that the encoder writes, with every operand at every value that
the encoding admits. -/
def Obligations.DecodeEncode : Prop := ∀ (i : Instr) (h : Hdr), hdrOf i = some h → WellFormed i → decode (encode i) = .ok i

/-- R311, R324, R325: a word decodes only where its opcode is assigned, its FN is one that R325 lists for the opcode, or 0 for an
opcode that R325 does not list, and its PM is not 11; a word of a reserved opcode is rejected as such. -/
def Obligations.WordsRejected : Prop :=
  ∀ (w : Word),
    let op := (w.extractLsb' 56 8).toNat
    let fn := (w.extractLsb' 52 4).toNat
    let reserved := op = 0x00 ∨ (0x0C ≤ op ∧ op ≤ 0x0F) ∨ op = 0x2F ∨ op = 0x3F ∨ (0x4B ≤ op ∧ op ≤ 0x4F) ∨
      (0x56 ≤ op ∧ op ≤ 0x5F) ∨ (0x6D ≤ op ∧ op ≤ 0x6F) ∨ op = 0x76 ∨ op = 0x77 ∨ (0x7C ≤ op ∧ op ≤ 0x7F) ∨
      (0x8C ≤ op ∧ op ≤ 0x8F) ∨ op = 0x96 ∨ op = 0x97 ∨ op = 0xC7 ∨ (0xCD ≤ op ∧ op ≤ 0xCF) ∨ (0xD5 ≤ op ∧ op ≤ 0xD7) ∨
      0xE1 ≤ op
    let variants := if op = 0x2C then 2 else if op = 0x2D ∨ op = 0x2E ∨ op = 0xB6 ∨ op = 0xB7 ∨ op = 0xBD then 3
      else if op = 0x47 ∨ (0x78 ≤ op ∧ op ≤ 0x7B) then 10 else if op = 0x9D then 4 else if op = 0xB8 then 6 else 1
    (reserved → decode w = .error .reservedOpcode) ∧
    (∀ i, decode w = .ok i → ¬reserved ∧ fn < variants ∧ w.extractLsb' 50 2 ≠ 3)

/-- Words written out from the spec's encodings decode to the instructions they stand for. -/
def Obligations.WordsDecode : Prop :=
  let none_ : Target := { d := 0, port := .left }
  let h : Hdr := { pm := .always, u := false, w := false, t1 := none_, t2 := none_ }
  let both : Hdr := { h with t1 := { d := 1, port := .right }, t2 := { d := 2, port := .left } }
  decode 0x0100060000000006 = .ok (.rd { h with t1 := { d := 3, port := .left } } false false 6) ∧
  decode 0x2C0002823FFFFFC8 = .ok (.addi both (-56)) ∧
  decode 0x3800070100000000 = .ok (.tlti { h with t1 := { d := 3, port := .pred }, t2 := { d := 1, port := .left } } 0) ∧
  decode 0x4700040000000040 = .ok (.fcvt { h with t1 := { d := 2, port := .left } } 0 1 false) ∧
  decode 0x5008000000000003 = .ok (.br { h with pm := .onFalse } 3) ∧
  decode 0x6400028201000000 = .ok (.ldw both { k := 0, sz := 2, oe := false, scope := 0, off := 0 }) ∧
  decode 0x8800000000000001 = .ok (.sparm h 0 1) ∧
  decode 0x9D30000000000000 = .ok (.tlbiAll h) ∧
  decode 0xD000000000400000 = .ok (.cpy h 0 1 0) ∧
  decode 0xDC04000008000000 = .ok (.rired { h with pm := .onTrue } 2 0)

/-- Every step keeps every memory of the machine in its canonical form. -/
def Obligations.MemoriesKept : Prop := ∀ s t : State, MemoriesWf s → step s = .next t → MemoriesWf t

/-- Every memory of the machine after reset is in canonical form. -/
def Obligations.MemoriesAtReset : Prop := MemoriesWf State.reset
end

