-- ==== Sys2Proof/Laws/Checks.lean ====
section
/-! SUPPORT. The predictions of R305 agree with the residues of the results, so that no mismatch is met without a fault. -/

namespace Sys2Proof.Machine

theorem residue_toNat (a : Word) : (residue a).toNat = a.toNat % 15 := by
  simp only [residue, BitVec.toNat_ofNat]; omega

theorem predictAdd_eq (a b : Word) : predictAdd a b = residue (a + b) := by
  have ha := a.isLt
  have hb := b.isLt
  apply BitVec.eq_of_toNat_eq
  simp only [predictAdd, residue_toNat, BitVec.toNat_ofNat, BitVec.toNat_add]
  omega

theorem predictSub_eq (a b : Word) : predictSub a b = residue (a - b) := by
  have ha := a.isLt
  have hb := b.isLt
  apply BitVec.eq_of_toNat_eq
  simp only [predictSub, residue_toNat, BitVec.toNat_ofNat, BitVec.toNat_sub]
  split <;> omega

theorem predictMul_eq (a b : Word) : predictMul a b = residue (a * b) := by
  apply BitVec.eq_of_toNat_eq
  simp only [predictMul, residue_toNat, BitVec.toNat_ofNat, BitVec.toNat_mul]
  have h : a.toNat % 15 * (b.toNat % 15) % 15 = a.toNat * b.toNat % 15 := (Nat.mul_mod _ _ 15).symm
  omega

/-- No mismatch without a fault, whatever the operands. -/
theorem residue_ne_15 (a : Word) : residue a ≠ 15 := by
  intro h
  have := congrArg BitVec.toNat h
  rw [residue_toNat] at this
  simp at this
  omega

end Sys2Proof.Machine
end

