-- ==== Sys2Proof/Laws/Encoding.lean ====
section
/-! SUPPORT. What the decoder reads back from each run of bits that the encoder lays down. -/

namespace Sys2Proof

/-- The common fields of a packed word are those it was packed from. -/
theorem fieldsOf_pack (op : BitVec 8) (fn : BitVec 4) (h : Hdr) (cf : BitVec 30) :
    fieldsOf (pack op fn h cf) =
      { hi := op.extractLsb' 4 4, lo := op.extractLsb' 0 4, fn := fn, pm := predModeCode h.pm, u := h.u, w := h.w,
        t1 := targetCode h.t1, t2 := targetCode h.t2, cf := cf } := by
  simp only [fieldsOf, pack, Fields.mk.injEq]
  refine ⟨?_, ?_, ?_, ?_, ?_, ?_, ?_, ?_, ?_⟩
  case refine_5 | refine_6 =>
    rw [BitVec.getLsbD_cast]; simp only [BitVec.getLsbD_append]; simp
  all_goals
    apply BitVec.eq_of_getLsbD_eq; intro i hi
    simp only [BitVec.getLsbD_extractLsb', BitVec.getLsbD_cast, BitVec.getLsbD_append]
    grind

/-- A target's code gives the target. -/
theorem targetOf_code (t : Target) : targetOf (targetCode t) = .ok t := by
  obtain ⟨d, p⟩ := t
  have h1 : (d ++ portCode p).extractLsb' 2 7 = d := by
    apply BitVec.eq_of_getLsbD_eq; intro i hi
    simp only [BitVec.getLsbD_extractLsb', BitVec.getLsbD_append]; grind
  have h2 : (d ++ portCode p).extractLsb' 0 2 = portCode p := by
    apply BitVec.eq_of_getLsbD_eq; intro i hi
    simp only [BitVec.getLsbD_extractLsb', BitVec.getLsbD_append]; grind
  simp only [targetOf, targetCode, h1, h2]
  cases p <;> rfl

/-- The common fields of an encoded header give the header. -/
theorem headerOf_code (h : Hdr) (hi lo fn : BitVec 4) (cf : BitVec 30) :
    headerOf { hi := hi, lo := lo, fn := fn, pm := predModeCode h.pm, u := h.u, w := h.w,
               t1 := targetCode h.t1, t2 := targetCode h.t2, cf := cf } = .ok h := by
  simp only [headerOf, targetOf_code]
  have : predModeOf (predModeCode h.pm) = .ok h.pm := by cases h.pm <;> rfl
  simp [this]

/-- The header of a packed word. -/
theorem headerOf_pack (op : BitVec 8) (fn : BitVec 4) (h : Hdr) (cf : BitVec 30) :
    headerOf (fieldsOf (pack op fn h cf)) = .ok h := by
  rw [fieldsOf_pack, headerOf_code]

/-- A form on an encoded header. -/
theorem take_code (h : Hdr) (hi lo fn : BitVec 4) (cf : BitVec 30) (p : Prop) [Decidable p] (k : Hdr → Instr) :
    take { hi := hi, lo := lo, fn := fn, pm := predModeCode h.pm, u := h.u, w := h.w,
           t1 := targetCode h.t1, t2 := targetCode h.t2, cf := cf } p k =
      if p then .ok (k h) else .error .nonzeroField := by
  simp only [take, headerOf_code]

/-! ### The class fields -/

/-- RD and WR: KEEP, KR, the number, and the bits above them. -/
theorem cfRd_fields (keep kr : Bool) (n : BitVec 6) :
    (cfRd keep kr n).extractLsb' 8 22 = 0#22 ∧ (cfRd keep kr n)[7] = keep ∧
    (cfRd keep kr n)[6] = kr ∧ (cfRd keep kr n).extractLsb' 0 6 = n := by
  refine ⟨?_, ?_, ?_, ?_⟩
  case refine_2 | refine_3 => rw [← BitVec.getLsbD_eq_getElem]; simp only [cfRd, BitVec.getLsbD_append]; simp
  all_goals
    apply BitVec.eq_of_getLsbD_eq; intro i hi
    simp only [cfRd, BitVec.getLsbD_extractLsb', BitVec.getLsbD_append]; grind

/-- WR has no KEEP. -/
theorem cfRd_wr (kr : Bool) (n : BitVec 6) : (cfRd false kr n).extractLsb' 7 23 = 0#23 := by
  apply BitVec.eq_of_getLsbD_eq; intro i hi
  simp only [cfRd, BitVec.getLsbD_extractLsb', BitVec.getLsbD_append]; grind

/-- BFX, BFXU and BFI: lsb and length less one. -/
theorem cfBits_fields (lsb len1 : BitVec 6) :
    (cfBits lsb len1).extractLsb' 12 18 = 0#18 ∧ (cfBits lsb len1).extractLsb' 6 6 = lsb ∧
    (cfBits lsb len1).extractLsb' 0 6 = len1 := by
  refine ⟨?_, ?_, ?_⟩ <;>
    (apply BitVec.eq_of_getLsbD_eq; intro i hi
     simp only [cfBits, BitVec.getLsbD_extractLsb', BitVec.getLsbD_append]; grind)

/-- The scalar float forms: RM and SAT. -/
theorem cfFloat_fields (rm : BitVec 2) (sat : Bool) :
    (cfFloat rm sat).extractLsb' 8 22 = 0#22 ∧ (cfFloat rm sat).extractLsb' 0 5 = 0#5 ∧
    (cfFloat rm sat).extractLsb' 6 2 = rm ∧ (cfFloat rm sat)[5] = sat := by
  refine ⟨?_, ?_, ?_, ?_⟩
  case refine_4 => rw [← BitVec.getLsbD_eq_getElem]; simp only [cfFloat, BitVec.getLsbD_append]; simp
  all_goals
    apply BitVec.eq_of_getLsbD_eq; intro i hi
    simp only [cfFloat, BitVec.getLsbD_extractLsb', BitVec.getLsbD_append]; grind

/-- Class M. -/
theorem cfM_fields (m : MField) (hi lo fn : BitVec 4) (pm : BitVec 2) (u w : Bool) (t1 t2 : BitVec 9) :
    Fields.m ⟨hi, lo, fn, pm, u, w, t1, t2, cfM m⟩ = m := by
  obtain ⟨k, sz, oe, sc, off⟩ := m
  simp only [Fields.m, Fields.bits, Fields.bit, cfM, MField.mk.injEq]
  refine ⟨?_, ?_, ?_, ?_, ?_⟩
  case refine_3 => simp only [BitVec.getLsbD_append]; simp
  all_goals
    apply BitVec.eq_of_getLsbD_eq; intro i hi
    simp only [BitVec.getLsbD_extractLsb', BitVec.getLsbD_append]; grind

/-- SPARM: K and the port. -/
theorem cfSparm_fields (k : BitVec 4) (p : BitVec 3) :
    (cfSparm k p).extractLsb' 3 23 = 0#23 ∧ (cfSparm k p).extractLsb' 26 4 = k ∧ (cfSparm k p).extractLsb' 0 3 = p := by
  refine ⟨?_, ?_, ?_⟩ <;>
    (apply BitVec.eq_of_getLsbD_eq; intro i hi
     simp only [cfSparm, BitVec.getLsbD_extractLsb', BitVec.getLsbD_append]; grind)

/-- FENCE: its kinds and scope. -/
theorem cfFence_fields (kinds : BitVec 4) (scope : BitVec 3) :
    (cfFence kinds scope).extractLsb' 8 22 = 0#22 ∧ (cfFence kinds scope).extractLsb' 3 1 = 0#1 ∧
    (cfFence kinds scope).extractLsb' 4 4 = kinds ∧ (cfFence kinds scope).extractLsb' 0 3 = scope := by
  refine ⟨?_, ?_, ?_, ?_⟩ <;>
    (apply BitVec.eq_of_getLsbD_eq; intro i hi
     simp only [cfFence, BitVec.getLsbD_extractLsb', BitVec.getLsbD_append]; grind)

/-- A field in the low bits. -/
theorem setWidth_low {n : Nat} (x : BitVec n) (h : n ≤ 30) : (x.setWidth 30).extractLsb' 0 n = x := by
  apply BitVec.eq_of_getLsbD_eq; intro i hi
  simp only [BitVec.getLsbD_extractLsb', BitVec.getLsbD_setWidth]; grind

/-- Above a field in the low bits every bit is zero. -/
theorem setWidth_high {n : Nat} (x : BitVec n) (k : Nat) : (x.setWidth 30).extractLsb' n k = 0#k := by
  apply BitVec.eq_of_getLsbD_eq; intro i hi
  simp only [BitVec.getLsbD_extractLsb', BitVec.getLsbD_setWidth]; grind

/-- Class V. -/
theorem cfV_fields (v : VField) (hi lo fn : BitVec 4) (pm : BitVec 2) (u w : Bool) (t1 t2 : BitVec 9) :
    Fields.v ⟨hi, lo, fn, pm, u, w, t1, t2, cfV v⟩ = v := by
  obtain ⟨vd, va, vb, mg, me, ty, rm, sat, spec⟩ := v
  simp only [Fields.v, Fields.bits, Fields.bit, cfV, VField.mk.injEq]
  refine ⟨?_, ?_, ?_, ?_, ?_, ?_, ?_, ?_, ?_⟩
  case refine_5 | refine_8 => simp only [BitVec.getLsbD_append]; simp
  all_goals
    apply BitVec.eq_of_getLsbD_eq; intro i hi
    simp only [BitVec.getLsbD_extractLsb', BitVec.getLsbD_append]; grind

/-- Class X: K and the bits below it. -/
theorem cfX_fields (k : BitVec 4) (low : BitVec 26) :
    (cfX k low).extractLsb' 26 4 = k ∧ (cfX k low).extractLsb' 0 26 = low := by
  refine ⟨?_, ?_⟩ <;>
    (apply BitVec.eq_of_getLsbD_eq; intro i hi
     simp only [cfX, BitVec.getLsbD_extractLsb', BitVec.getLsbD_append]; grind)

/-- MLWS: its format. -/
theorem cfX_fmt (k : BitVec 4) (fmt : BitVec 5) :
    (cfX k (fmt.setWidth 26)).extractLsb' 0 5 = fmt ∧ (cfX k (fmt.setWidth 26)).extractLsb' 5 21 = 0#21 := by
  refine ⟨?_, ?_⟩ <;>
    (apply BitVec.eq_of_getLsbD_eq; intro i hi
     simp only [cfX, BitVec.getLsbD_extractLsb', BitVec.getLsbD_append, BitVec.getLsbD_setWidth]; grind)

/-- The passes, MZERO and MRD: K, M less one, ROW0 and the bits below. -/
theorem cfPass_fields (k : BitVec 4) (m1 row0 : BitVec 10) (low : BitVec 6) :
    (cfPass k m1 row0 low).extractLsb' 26 4 = k ∧ (cfPass k m1 row0 low).extractLsb' 16 10 = m1 ∧
    (cfPass k m1 row0 low).extractLsb' 6 10 = row0 ∧ (cfPass k m1 row0 low).extractLsb' 0 6 = low := by
  refine ⟨?_, ?_, ?_, ?_⟩ <;>
    (apply BitVec.eq_of_getLsbD_eq; intro i hi
     simp only [cfPass, BitVec.getLsbD_extractLsb', BitVec.getLsbD_append]; grind)

/-- MRD: its type, RM and SAT. -/
theorem cfMrd_fields (k : BitVec 4) (m1 row0 : BitVec 10) (dt : BitVec 3) (rm : BitVec 2) (sat : Bool) :
    (cfPass k m1 row0 (cfMrd dt rm sat)).extractLsb' 3 3 = dt ∧
    (cfPass k m1 row0 (cfMrd dt rm sat)).extractLsb' 1 2 = rm ∧ (cfPass k m1 row0 (cfMrd dt rm sat))[0] = sat := by
  refine ⟨?_, ?_, ?_⟩
  case refine_3 => rw [← BitVec.getLsbD_eq_getElem]; simp only [cfPass, cfMrd, BitVec.getLsbD_append]; simp
  all_goals
    apply BitVec.eq_of_getLsbD_eq; intro i hi
    simp only [cfPass, cfMrd, BitVec.getLsbD_extractLsb', BitVec.getLsbD_append]; grind

/-- The rank-coded forms. -/
theorem cfRank_fields (vd va vb : BitVec 5) (mg : BitVec 3) (me kt : Bool) (mc : BitVec 3) :
    (cfRank vd va vb mg me kt mc).extractLsb' 25 5 = vd ∧ (cfRank vd va vb mg me kt mc).extractLsb' 20 5 = va ∧
    (cfRank vd va vb mg me kt mc).extractLsb' 15 5 = vb ∧ (cfRank vd va vb mg me kt mc).extractLsb' 12 3 = mg ∧
    (cfRank vd va vb mg me kt mc)[11] = me ∧ (cfRank vd va vb mg me kt mc).extractLsb' 4 7 = 0#7 ∧
    (cfRank vd va vb mg me kt mc)[3] = kt ∧ (cfRank vd va vb mg me kt mc).extractLsb' 0 3 = mc := by
  refine ⟨?_, ?_, ?_, ?_, ?_, ?_, ?_, ?_⟩
  case refine_5 | refine_7 => rw [← BitVec.getLsbD_eq_getElem]; simp only [cfRank, BitVec.getLsbD_append]; simp
  all_goals
    apply BitVec.eq_of_getLsbD_eq; intro i hi
    simp only [cfRank, BitVec.getLsbD_extractLsb', BitVec.getLsbD_append]; grind

/-- RKMERGE has no mask fields. -/
theorem cfRank_merge (vd va vb : BitVec 5) (kt : Bool) (mc : BitVec 3) :
    (cfRank vd va vb 0#3 false kt mc).extractLsb' 4 11 = 0#11 := by
  apply BitVec.eq_of_getLsbD_eq; intro i hi
  simp only [cfRank, BitVec.getLsbD_extractLsb', BitVec.getLsbD_append]; grind

/-- RKRECON has neither KT nor MC. -/
theorem cfRank_recon (vd va vb : BitVec 5) (mg : BitVec 3) (me : Bool) :
    (cfRank vd va vb mg me false 0#3).extractLsb' 0 11 = 0#11 := by
  apply BitVec.eq_of_getLsbD_eq; intro i hi
  simp only [cfRank, BitVec.getLsbD_extractLsb', BitVec.getLsbD_append]; grind

/-- Copies and riders: three register numbers. -/
theorem cfCopy_fields (k a b : BitVec 4) :
    (cfCopy k a b).extractLsb' 26 4 = k ∧ (cfCopy k a b).extractLsb' 22 4 = a ∧ (cfCopy k a b).extractLsb' 18 4 = b ∧
    (cfCopy k a b).extractLsb' 0 18 = 0#18 := by
  refine ⟨?_, ?_, ?_, ?_⟩ <;>
    (apply BitVec.eq_of_getLsbD_eq; intro i hi
     simp only [cfCopy, BitVec.getLsbD_extractLsb', BitVec.getLsbD_append]; grind)

/-- Riders name two registers. -/
theorem cfCopy_rider (k a : BitVec 4) : (cfCopy k a 0#4).extractLsb' 0 22 = 0#22 := by
  apply BitVec.eq_of_getLsbD_eq; intro i hi
  simp only [cfCopy, BitVec.getLsbD_extractLsb', BitVec.getLsbD_append]; grind

end Sys2Proof
end

