-- ==== Sys2Proof/Laws/State.lean ====
section
/-! SUPPORT. What each update of the machine state leaves alone and what it changes: one lemma for each field. -/

namespace Sys2Proof.Machine

/-! ### setTile -/

@[simp] theorem State.setTile_grants (s : State) (t : Nat) (x : Tile) : (s.setTile t x).grants = s.grants := rfl
@[simp] theorem State.setTile_dram (s : State) (t : Nat) (x : Tile) : (s.setTile t x).dram = s.dram := rfl
@[simp] theorem State.setTile_tenants (s : State) (t : Nat) (x : Tile) : (s.setTile t x).tenants = s.tenants := rfl
@[simp] theorem State.setTile_ctl (s : State) (t : Nat) (x : Tile) : (s.setTile t x).ctl = s.ctl := rfl
@[simp] theorem State.setTile_matcher (s : State) (t : Nat) (x : Tile) : (s.setTile t x).matcher = s.matcher := rfl
@[simp] theorem State.setTile_queues (s : State) (t : Nat) (x : Tile) : (s.setTile t x).queues = s.queues := rfl
@[simp] theorem State.setTile_launches (s : State) (t : Nat) (x : Tile) : (s.setTile t x).launches = s.launches := rfl
@[simp] theorem State.setTile_creating (s : State) (t : Nat) (x : Tile) : (s.setTile t x).creating = s.creating := rfl
@[simp] theorem State.setTile_signals (s : State) (t : Nat) (x : Tile) : (s.setTile t x).signals = s.signals := rfl
@[simp] theorem State.setTile_images (s : State) (t : Nat) (x : Tile) : (s.setTile t x).images = s.images := rfl
@[simp] theorem State.setTile_asidGen (s : State) (t : Nat) (x : Tile) : (s.setTile t x).asidGen = s.asidGen := rfl
@[simp] theorem State.setTile_pend (s : State) (t : Nat) (x : Tile) : (s.setTile t x).pend = s.pend := rfl
@[simp] theorem State.setTile_reserved (s : State) (t : Nat) (x : Tile) : (s.setTile t x).reserved = s.reserved := rfl
@[simp] theorem State.setTile_ahead (s : State) (t : Nat) (x : Tile) : (s.setTile t x).ahead = s.ahead := rfl
@[simp] theorem State.setTile_copies (s : State) (t : Nat) (x : Tile) : (s.setTile t x).copies = s.copies := rfl
@[simp] theorem State.setTile_riders (s : State) (t : Nat) (x : Tile) : (s.setTile t x).riders = s.riders := rfl
@[simp] theorem State.setTile_services (s : State) (t : Nat) (x : Tile) : (s.setTile t x).services = s.services := rfl
@[simp] theorem State.setTile_rings (s : State) (t : Nat) (x : Tile) : (s.setTile t x).rings = s.rings := rfl
@[simp] theorem State.setTile_sweep (s : State) (t : Nat) (x : Tile) : (s.setTile t x).sweep = s.sweep := rfl
@[simp] theorem State.setTile_lapse (s : State) (t : Nat) (x : Tile) : (s.setTile t x).lapse = s.lapse := rfl
@[simp] theorem State.setTile_badChunks (s : State) (t : Nat) (x : Tile) : (s.setTile t x).badChunks = s.badChunks := rfl
@[simp] theorem State.setTile_fills (s : State) (t : Nat) (x : Tile) : (s.setTile t x).fills = s.fills := rfl
@[simp] theorem State.setTile_residents (s : State) (t : Nat) (x : Tile) : (s.setTile t x).residents = s.residents := rfl
@[simp] theorem State.setTile_host (s : State) (t : Nat) (x : Tile) : (s.setTile t x).host = s.host := rfl
@[simp] theorem State.setTile_hostBad (s : State) (t : Nat) (x : Tile) : (s.setTile t x).hostBad = s.hostBad := rfl
@[simp] theorem State.setTile_now (s : State) (t : Nat) (x : Tile) : (s.setTile t x).now = s.now := rfl
@[simp] theorem State.setTile_freeCtr (s : State) (t : Nat) (x : Tile) : (s.setTile t x).freeCtr = s.freeCtr := rfl
@[simp] theorem State.setTile_nextId (s : State) (t : Nat) (x : Tile) : (s.setTile t x).nextId = s.nextId := rfl
@[simp] theorem State.setTile_cur (s : State) (t : Nat) (x : Tile) : (s.setTile t x).cur = s.cur := rfl
@[simp] theorem State.setTile_agenda (s : State) (t : Nat) (x : Tile) : (s.setTile t x).agenda = s.agenda := rfl
@[simp] theorem State.setTile_outbox (s : State) (t : Nat) (x : Tile) : (s.setTile t x).outbox = s.outbox := rfl
@[simp] theorem State.setTile_tenant (s : State) (t : Nat) (x : Tile) (u : Nat) : (s.setTile t x).tenant u = s.tenant u := rfl
@[simp] theorem State.setTile_stack (s : State) (t : Nat) (x : Tile) (u : Nat) : (s.setTile t x).stack u = s.stack u := rfl

/-! ### modTile -/

@[simp] theorem State.modTile_grants (s : State) (t : Nat) (f : Tile → Tile) : (s.modTile t f).grants = s.grants := rfl
@[simp] theorem State.modTile_dram (s : State) (t : Nat) (f : Tile → Tile) : (s.modTile t f).dram = s.dram := rfl
@[simp] theorem State.modTile_tenants (s : State) (t : Nat) (f : Tile → Tile) : (s.modTile t f).tenants = s.tenants := rfl
@[simp] theorem State.modTile_ctl (s : State) (t : Nat) (f : Tile → Tile) : (s.modTile t f).ctl = s.ctl := rfl
@[simp] theorem State.modTile_matcher (s : State) (t : Nat) (f : Tile → Tile) : (s.modTile t f).matcher = s.matcher := rfl
@[simp] theorem State.modTile_queues (s : State) (t : Nat) (f : Tile → Tile) : (s.modTile t f).queues = s.queues := rfl
@[simp] theorem State.modTile_launches (s : State) (t : Nat) (f : Tile → Tile) : (s.modTile t f).launches = s.launches := rfl
@[simp] theorem State.modTile_creating (s : State) (t : Nat) (f : Tile → Tile) : (s.modTile t f).creating = s.creating := rfl
@[simp] theorem State.modTile_signals (s : State) (t : Nat) (f : Tile → Tile) : (s.modTile t f).signals = s.signals := rfl
@[simp] theorem State.modTile_images (s : State) (t : Nat) (f : Tile → Tile) : (s.modTile t f).images = s.images := rfl
@[simp] theorem State.modTile_asidGen (s : State) (t : Nat) (f : Tile → Tile) : (s.modTile t f).asidGen = s.asidGen := rfl
@[simp] theorem State.modTile_pend (s : State) (t : Nat) (f : Tile → Tile) : (s.modTile t f).pend = s.pend := rfl
@[simp] theorem State.modTile_reserved (s : State) (t : Nat) (f : Tile → Tile) : (s.modTile t f).reserved = s.reserved := rfl
@[simp] theorem State.modTile_ahead (s : State) (t : Nat) (f : Tile → Tile) : (s.modTile t f).ahead = s.ahead := rfl
@[simp] theorem State.modTile_copies (s : State) (t : Nat) (f : Tile → Tile) : (s.modTile t f).copies = s.copies := rfl
@[simp] theorem State.modTile_riders (s : State) (t : Nat) (f : Tile → Tile) : (s.modTile t f).riders = s.riders := rfl
@[simp] theorem State.modTile_services (s : State) (t : Nat) (f : Tile → Tile) : (s.modTile t f).services = s.services := rfl
@[simp] theorem State.modTile_rings (s : State) (t : Nat) (f : Tile → Tile) : (s.modTile t f).rings = s.rings := rfl
@[simp] theorem State.modTile_sweep (s : State) (t : Nat) (f : Tile → Tile) : (s.modTile t f).sweep = s.sweep := rfl
@[simp] theorem State.modTile_lapse (s : State) (t : Nat) (f : Tile → Tile) : (s.modTile t f).lapse = s.lapse := rfl
@[simp] theorem State.modTile_badChunks (s : State) (t : Nat) (f : Tile → Tile) : (s.modTile t f).badChunks = s.badChunks := rfl
@[simp] theorem State.modTile_fills (s : State) (t : Nat) (f : Tile → Tile) : (s.modTile t f).fills = s.fills := rfl
@[simp] theorem State.modTile_residents (s : State) (t : Nat) (f : Tile → Tile) : (s.modTile t f).residents = s.residents := rfl
@[simp] theorem State.modTile_host (s : State) (t : Nat) (f : Tile → Tile) : (s.modTile t f).host = s.host := rfl
@[simp] theorem State.modTile_hostBad (s : State) (t : Nat) (f : Tile → Tile) : (s.modTile t f).hostBad = s.hostBad := rfl
@[simp] theorem State.modTile_now (s : State) (t : Nat) (f : Tile → Tile) : (s.modTile t f).now = s.now := rfl
@[simp] theorem State.modTile_freeCtr (s : State) (t : Nat) (f : Tile → Tile) : (s.modTile t f).freeCtr = s.freeCtr := rfl
@[simp] theorem State.modTile_nextId (s : State) (t : Nat) (f : Tile → Tile) : (s.modTile t f).nextId = s.nextId := rfl
@[simp] theorem State.modTile_cur (s : State) (t : Nat) (f : Tile → Tile) : (s.modTile t f).cur = s.cur := rfl
@[simp] theorem State.modTile_agenda (s : State) (t : Nat) (f : Tile → Tile) : (s.modTile t f).agenda = s.agenda := rfl
@[simp] theorem State.modTile_outbox (s : State) (t : Nat) (f : Tile → Tile) : (s.modTile t f).outbox = s.outbox := rfl
@[simp] theorem State.modTile_tenant (s : State) (t : Nat) (f : Tile → Tile) (u : Nat) : (s.modTile t f).tenant u = s.tenant u := rfl
@[simp] theorem State.modTile_stack (s : State) (t : Nat) (f : Tile → Tile) (u : Nat) : (s.modTile t f).stack u = s.stack u := rfl

/-! ### modFabric -/

@[simp] theorem State.modFabric_grants (s : State) (t : Nat) (f : Fabric → Fabric) : (s.modFabric t f).grants = s.grants := rfl
@[simp] theorem State.modFabric_dram (s : State) (t : Nat) (f : Fabric → Fabric) : (s.modFabric t f).dram = s.dram := rfl
@[simp] theorem State.modFabric_tenants (s : State) (t : Nat) (f : Fabric → Fabric) : (s.modFabric t f).tenants = s.tenants := rfl
@[simp] theorem State.modFabric_ctl (s : State) (t : Nat) (f : Fabric → Fabric) : (s.modFabric t f).ctl = s.ctl := rfl
@[simp] theorem State.modFabric_matcher (s : State) (t : Nat) (f : Fabric → Fabric) : (s.modFabric t f).matcher = s.matcher := rfl
@[simp] theorem State.modFabric_queues (s : State) (t : Nat) (f : Fabric → Fabric) : (s.modFabric t f).queues = s.queues := rfl
@[simp] theorem State.modFabric_launches (s : State) (t : Nat) (f : Fabric → Fabric) : (s.modFabric t f).launches = s.launches := rfl
@[simp] theorem State.modFabric_creating (s : State) (t : Nat) (f : Fabric → Fabric) : (s.modFabric t f).creating = s.creating := rfl
@[simp] theorem State.modFabric_signals (s : State) (t : Nat) (f : Fabric → Fabric) : (s.modFabric t f).signals = s.signals := rfl
@[simp] theorem State.modFabric_images (s : State) (t : Nat) (f : Fabric → Fabric) : (s.modFabric t f).images = s.images := rfl
@[simp] theorem State.modFabric_asidGen (s : State) (t : Nat) (f : Fabric → Fabric) : (s.modFabric t f).asidGen = s.asidGen := rfl
@[simp] theorem State.modFabric_pend (s : State) (t : Nat) (f : Fabric → Fabric) : (s.modFabric t f).pend = s.pend := rfl
@[simp] theorem State.modFabric_reserved (s : State) (t : Nat) (f : Fabric → Fabric) : (s.modFabric t f).reserved = s.reserved := rfl
@[simp] theorem State.modFabric_ahead (s : State) (t : Nat) (f : Fabric → Fabric) : (s.modFabric t f).ahead = s.ahead := rfl
@[simp] theorem State.modFabric_copies (s : State) (t : Nat) (f : Fabric → Fabric) : (s.modFabric t f).copies = s.copies := rfl
@[simp] theorem State.modFabric_riders (s : State) (t : Nat) (f : Fabric → Fabric) : (s.modFabric t f).riders = s.riders := rfl
@[simp] theorem State.modFabric_services (s : State) (t : Nat) (f : Fabric → Fabric) : (s.modFabric t f).services = s.services := rfl
@[simp] theorem State.modFabric_rings (s : State) (t : Nat) (f : Fabric → Fabric) : (s.modFabric t f).rings = s.rings := rfl
@[simp] theorem State.modFabric_sweep (s : State) (t : Nat) (f : Fabric → Fabric) : (s.modFabric t f).sweep = s.sweep := rfl
@[simp] theorem State.modFabric_lapse (s : State) (t : Nat) (f : Fabric → Fabric) : (s.modFabric t f).lapse = s.lapse := rfl
@[simp] theorem State.modFabric_badChunks (s : State) (t : Nat) (f : Fabric → Fabric) : (s.modFabric t f).badChunks = s.badChunks := rfl
@[simp] theorem State.modFabric_fills (s : State) (t : Nat) (f : Fabric → Fabric) : (s.modFabric t f).fills = s.fills := rfl
@[simp] theorem State.modFabric_residents (s : State) (t : Nat) (f : Fabric → Fabric) : (s.modFabric t f).residents = s.residents := rfl
@[simp] theorem State.modFabric_host (s : State) (t : Nat) (f : Fabric → Fabric) : (s.modFabric t f).host = s.host := rfl
@[simp] theorem State.modFabric_hostBad (s : State) (t : Nat) (f : Fabric → Fabric) : (s.modFabric t f).hostBad = s.hostBad := rfl
@[simp] theorem State.modFabric_now (s : State) (t : Nat) (f : Fabric → Fabric) : (s.modFabric t f).now = s.now := rfl
@[simp] theorem State.modFabric_freeCtr (s : State) (t : Nat) (f : Fabric → Fabric) : (s.modFabric t f).freeCtr = s.freeCtr := rfl
@[simp] theorem State.modFabric_nextId (s : State) (t : Nat) (f : Fabric → Fabric) : (s.modFabric t f).nextId = s.nextId := rfl
@[simp] theorem State.modFabric_cur (s : State) (t : Nat) (f : Fabric → Fabric) : (s.modFabric t f).cur = s.cur := rfl
@[simp] theorem State.modFabric_agenda (s : State) (t : Nat) (f : Fabric → Fabric) : (s.modFabric t f).agenda = s.agenda := rfl
@[simp] theorem State.modFabric_outbox (s : State) (t : Nat) (f : Fabric → Fabric) : (s.modFabric t f).outbox = s.outbox := rfl
@[simp] theorem State.modFabric_tenant (s : State) (t : Nat) (f : Fabric → Fabric) (u : Nat) : (s.modFabric t f).tenant u = s.tenant u := rfl
@[simp] theorem State.modFabric_stack (s : State) (t : Nat) (f : Fabric → Fabric) (u : Nat) : (s.modFabric t f).stack u = s.stack u := rfl

/-! ### modCtx -/

@[simp] theorem State.modCtx_grants (s : State) (t : Nat) (f : Ctx → Ctx) : (s.modCtx t f).grants = s.grants := rfl
@[simp] theorem State.modCtx_dram (s : State) (t : Nat) (f : Ctx → Ctx) : (s.modCtx t f).dram = s.dram := rfl
@[simp] theorem State.modCtx_tenants (s : State) (t : Nat) (f : Ctx → Ctx) : (s.modCtx t f).tenants = s.tenants := rfl
@[simp] theorem State.modCtx_ctl (s : State) (t : Nat) (f : Ctx → Ctx) : (s.modCtx t f).ctl = s.ctl := rfl
@[simp] theorem State.modCtx_matcher (s : State) (t : Nat) (f : Ctx → Ctx) : (s.modCtx t f).matcher = s.matcher := rfl
@[simp] theorem State.modCtx_queues (s : State) (t : Nat) (f : Ctx → Ctx) : (s.modCtx t f).queues = s.queues := rfl
@[simp] theorem State.modCtx_launches (s : State) (t : Nat) (f : Ctx → Ctx) : (s.modCtx t f).launches = s.launches := rfl
@[simp] theorem State.modCtx_creating (s : State) (t : Nat) (f : Ctx → Ctx) : (s.modCtx t f).creating = s.creating := rfl
@[simp] theorem State.modCtx_signals (s : State) (t : Nat) (f : Ctx → Ctx) : (s.modCtx t f).signals = s.signals := rfl
@[simp] theorem State.modCtx_images (s : State) (t : Nat) (f : Ctx → Ctx) : (s.modCtx t f).images = s.images := rfl
@[simp] theorem State.modCtx_asidGen (s : State) (t : Nat) (f : Ctx → Ctx) : (s.modCtx t f).asidGen = s.asidGen := rfl
@[simp] theorem State.modCtx_pend (s : State) (t : Nat) (f : Ctx → Ctx) : (s.modCtx t f).pend = s.pend := rfl
@[simp] theorem State.modCtx_reserved (s : State) (t : Nat) (f : Ctx → Ctx) : (s.modCtx t f).reserved = s.reserved := rfl
@[simp] theorem State.modCtx_ahead (s : State) (t : Nat) (f : Ctx → Ctx) : (s.modCtx t f).ahead = s.ahead := rfl
@[simp] theorem State.modCtx_copies (s : State) (t : Nat) (f : Ctx → Ctx) : (s.modCtx t f).copies = s.copies := rfl
@[simp] theorem State.modCtx_riders (s : State) (t : Nat) (f : Ctx → Ctx) : (s.modCtx t f).riders = s.riders := rfl
@[simp] theorem State.modCtx_services (s : State) (t : Nat) (f : Ctx → Ctx) : (s.modCtx t f).services = s.services := rfl
@[simp] theorem State.modCtx_rings (s : State) (t : Nat) (f : Ctx → Ctx) : (s.modCtx t f).rings = s.rings := rfl
@[simp] theorem State.modCtx_sweep (s : State) (t : Nat) (f : Ctx → Ctx) : (s.modCtx t f).sweep = s.sweep := rfl
@[simp] theorem State.modCtx_lapse (s : State) (t : Nat) (f : Ctx → Ctx) : (s.modCtx t f).lapse = s.lapse := rfl
@[simp] theorem State.modCtx_badChunks (s : State) (t : Nat) (f : Ctx → Ctx) : (s.modCtx t f).badChunks = s.badChunks := rfl
@[simp] theorem State.modCtx_fills (s : State) (t : Nat) (f : Ctx → Ctx) : (s.modCtx t f).fills = s.fills := rfl
@[simp] theorem State.modCtx_residents (s : State) (t : Nat) (f : Ctx → Ctx) : (s.modCtx t f).residents = s.residents := rfl
@[simp] theorem State.modCtx_host (s : State) (t : Nat) (f : Ctx → Ctx) : (s.modCtx t f).host = s.host := rfl
@[simp] theorem State.modCtx_hostBad (s : State) (t : Nat) (f : Ctx → Ctx) : (s.modCtx t f).hostBad = s.hostBad := rfl
@[simp] theorem State.modCtx_now (s : State) (t : Nat) (f : Ctx → Ctx) : (s.modCtx t f).now = s.now := rfl
@[simp] theorem State.modCtx_freeCtr (s : State) (t : Nat) (f : Ctx → Ctx) : (s.modCtx t f).freeCtr = s.freeCtr := rfl
@[simp] theorem State.modCtx_nextId (s : State) (t : Nat) (f : Ctx → Ctx) : (s.modCtx t f).nextId = s.nextId := rfl
@[simp] theorem State.modCtx_cur (s : State) (t : Nat) (f : Ctx → Ctx) : (s.modCtx t f).cur = s.cur := rfl
@[simp] theorem State.modCtx_agenda (s : State) (t : Nat) (f : Ctx → Ctx) : (s.modCtx t f).agenda = s.agenda := rfl
@[simp] theorem State.modCtx_outbox (s : State) (t : Nat) (f : Ctx → Ctx) : (s.modCtx t f).outbox = s.outbox := rfl
@[simp] theorem State.modCtx_tenant (s : State) (t : Nat) (f : Ctx → Ctx) (u : Nat) : (s.modCtx t f).tenant u = s.tenant u := rfl
@[simp] theorem State.modCtx_stack (s : State) (t : Nat) (f : Ctx → Ctx) (u : Nat) : (s.modCtx t f).stack u = s.stack u := rfl

/-! ### modTenant -/

@[simp] theorem State.modTenant_tiles (s : State) (f : Nat) (g : Tenant → Tenant) : (s.modTenant f g).tiles = s.tiles := rfl
@[simp] theorem State.modTenant_grants (s : State) (f : Nat) (g : Tenant → Tenant) : (s.modTenant f g).grants = s.grants := rfl
@[simp] theorem State.modTenant_dram (s : State) (f : Nat) (g : Tenant → Tenant) : (s.modTenant f g).dram = s.dram := rfl
@[simp] theorem State.modTenant_ctl (s : State) (f : Nat) (g : Tenant → Tenant) : (s.modTenant f g).ctl = s.ctl := rfl
@[simp] theorem State.modTenant_matcher (s : State) (f : Nat) (g : Tenant → Tenant) : (s.modTenant f g).matcher = s.matcher := rfl
@[simp] theorem State.modTenant_queues (s : State) (f : Nat) (g : Tenant → Tenant) : (s.modTenant f g).queues = s.queues := rfl
@[simp] theorem State.modTenant_launches (s : State) (f : Nat) (g : Tenant → Tenant) : (s.modTenant f g).launches = s.launches := rfl
@[simp] theorem State.modTenant_creating (s : State) (f : Nat) (g : Tenant → Tenant) : (s.modTenant f g).creating = s.creating := rfl
@[simp] theorem State.modTenant_signals (s : State) (f : Nat) (g : Tenant → Tenant) : (s.modTenant f g).signals = s.signals := rfl
@[simp] theorem State.modTenant_images (s : State) (f : Nat) (g : Tenant → Tenant) : (s.modTenant f g).images = s.images := rfl
@[simp] theorem State.modTenant_asidGen (s : State) (f : Nat) (g : Tenant → Tenant) : (s.modTenant f g).asidGen = s.asidGen := rfl
@[simp] theorem State.modTenant_pend (s : State) (f : Nat) (g : Tenant → Tenant) : (s.modTenant f g).pend = s.pend := rfl
@[simp] theorem State.modTenant_reserved (s : State) (f : Nat) (g : Tenant → Tenant) : (s.modTenant f g).reserved = s.reserved := rfl
@[simp] theorem State.modTenant_ahead (s : State) (f : Nat) (g : Tenant → Tenant) : (s.modTenant f g).ahead = s.ahead := rfl
@[simp] theorem State.modTenant_copies (s : State) (f : Nat) (g : Tenant → Tenant) : (s.modTenant f g).copies = s.copies := rfl
@[simp] theorem State.modTenant_riders (s : State) (f : Nat) (g : Tenant → Tenant) : (s.modTenant f g).riders = s.riders := rfl
@[simp] theorem State.modTenant_services (s : State) (f : Nat) (g : Tenant → Tenant) : (s.modTenant f g).services = s.services := rfl
@[simp] theorem State.modTenant_rings (s : State) (f : Nat) (g : Tenant → Tenant) : (s.modTenant f g).rings = s.rings := rfl
@[simp] theorem State.modTenant_sweep (s : State) (f : Nat) (g : Tenant → Tenant) : (s.modTenant f g).sweep = s.sweep := rfl
@[simp] theorem State.modTenant_lapse (s : State) (f : Nat) (g : Tenant → Tenant) : (s.modTenant f g).lapse = s.lapse := rfl
@[simp] theorem State.modTenant_badChunks (s : State) (f : Nat) (g : Tenant → Tenant) : (s.modTenant f g).badChunks = s.badChunks := rfl
@[simp] theorem State.modTenant_fills (s : State) (f : Nat) (g : Tenant → Tenant) : (s.modTenant f g).fills = s.fills := rfl
@[simp] theorem State.modTenant_residents (s : State) (f : Nat) (g : Tenant → Tenant) : (s.modTenant f g).residents = s.residents := rfl
@[simp] theorem State.modTenant_host (s : State) (f : Nat) (g : Tenant → Tenant) : (s.modTenant f g).host = s.host := rfl
@[simp] theorem State.modTenant_hostBad (s : State) (f : Nat) (g : Tenant → Tenant) : (s.modTenant f g).hostBad = s.hostBad := rfl
@[simp] theorem State.modTenant_now (s : State) (f : Nat) (g : Tenant → Tenant) : (s.modTenant f g).now = s.now := rfl
@[simp] theorem State.modTenant_freeCtr (s : State) (f : Nat) (g : Tenant → Tenant) : (s.modTenant f g).freeCtr = s.freeCtr := rfl
@[simp] theorem State.modTenant_nextId (s : State) (f : Nat) (g : Tenant → Tenant) : (s.modTenant f g).nextId = s.nextId := rfl
@[simp] theorem State.modTenant_cur (s : State) (f : Nat) (g : Tenant → Tenant) : (s.modTenant f g).cur = s.cur := rfl
@[simp] theorem State.modTenant_agenda (s : State) (f : Nat) (g : Tenant → Tenant) : (s.modTenant f g).agenda = s.agenda := rfl
@[simp] theorem State.modTenant_outbox (s : State) (f : Nat) (g : Tenant → Tenant) : (s.modTenant f g).outbox = s.outbox := rfl
@[simp] theorem State.modTenant_tile (s : State) (f : Nat) (g : Tenant → Tenant) (u : Nat) : (s.modTenant f g).tile u = s.tile u := rfl
@[simp] theorem State.modTenant_stack (s : State) (f : Nat) (g : Tenant → Tenant) (u : Nat) : (s.modTenant f g).stack u = s.stack u := rfl

/-! ### modStack -/

@[simp] theorem State.modStack_tiles (s : State) (k : Nat) (g : Stack → Stack) : (s.modStack k g).tiles = s.tiles := rfl
@[simp] theorem State.modStack_dram (s : State) (k : Nat) (g : Stack → Stack) : (s.modStack k g).dram = s.dram := rfl
@[simp] theorem State.modStack_tenants (s : State) (k : Nat) (g : Stack → Stack) : (s.modStack k g).tenants = s.tenants := rfl
@[simp] theorem State.modStack_ctl (s : State) (k : Nat) (g : Stack → Stack) : (s.modStack k g).ctl = s.ctl := rfl
@[simp] theorem State.modStack_matcher (s : State) (k : Nat) (g : Stack → Stack) : (s.modStack k g).matcher = s.matcher := rfl
@[simp] theorem State.modStack_queues (s : State) (k : Nat) (g : Stack → Stack) : (s.modStack k g).queues = s.queues := rfl
@[simp] theorem State.modStack_launches (s : State) (k : Nat) (g : Stack → Stack) : (s.modStack k g).launches = s.launches := rfl
@[simp] theorem State.modStack_creating (s : State) (k : Nat) (g : Stack → Stack) : (s.modStack k g).creating = s.creating := rfl
@[simp] theorem State.modStack_signals (s : State) (k : Nat) (g : Stack → Stack) : (s.modStack k g).signals = s.signals := rfl
@[simp] theorem State.modStack_images (s : State) (k : Nat) (g : Stack → Stack) : (s.modStack k g).images = s.images := rfl
@[simp] theorem State.modStack_asidGen (s : State) (k : Nat) (g : Stack → Stack) : (s.modStack k g).asidGen = s.asidGen := rfl
@[simp] theorem State.modStack_pend (s : State) (k : Nat) (g : Stack → Stack) : (s.modStack k g).pend = s.pend := rfl
@[simp] theorem State.modStack_reserved (s : State) (k : Nat) (g : Stack → Stack) : (s.modStack k g).reserved = s.reserved := rfl
@[simp] theorem State.modStack_ahead (s : State) (k : Nat) (g : Stack → Stack) : (s.modStack k g).ahead = s.ahead := rfl
@[simp] theorem State.modStack_copies (s : State) (k : Nat) (g : Stack → Stack) : (s.modStack k g).copies = s.copies := rfl
@[simp] theorem State.modStack_riders (s : State) (k : Nat) (g : Stack → Stack) : (s.modStack k g).riders = s.riders := rfl
@[simp] theorem State.modStack_services (s : State) (k : Nat) (g : Stack → Stack) : (s.modStack k g).services = s.services := rfl
@[simp] theorem State.modStack_rings (s : State) (k : Nat) (g : Stack → Stack) : (s.modStack k g).rings = s.rings := rfl
@[simp] theorem State.modStack_sweep (s : State) (k : Nat) (g : Stack → Stack) : (s.modStack k g).sweep = s.sweep := rfl
@[simp] theorem State.modStack_lapse (s : State) (k : Nat) (g : Stack → Stack) : (s.modStack k g).lapse = s.lapse := rfl
@[simp] theorem State.modStack_badChunks (s : State) (k : Nat) (g : Stack → Stack) : (s.modStack k g).badChunks = s.badChunks := rfl
@[simp] theorem State.modStack_fills (s : State) (k : Nat) (g : Stack → Stack) : (s.modStack k g).fills = s.fills := rfl
@[simp] theorem State.modStack_residents (s : State) (k : Nat) (g : Stack → Stack) : (s.modStack k g).residents = s.residents := rfl
@[simp] theorem State.modStack_host (s : State) (k : Nat) (g : Stack → Stack) : (s.modStack k g).host = s.host := rfl
@[simp] theorem State.modStack_hostBad (s : State) (k : Nat) (g : Stack → Stack) : (s.modStack k g).hostBad = s.hostBad := rfl
@[simp] theorem State.modStack_now (s : State) (k : Nat) (g : Stack → Stack) : (s.modStack k g).now = s.now := rfl
@[simp] theorem State.modStack_freeCtr (s : State) (k : Nat) (g : Stack → Stack) : (s.modStack k g).freeCtr = s.freeCtr := rfl
@[simp] theorem State.modStack_nextId (s : State) (k : Nat) (g : Stack → Stack) : (s.modStack k g).nextId = s.nextId := rfl
@[simp] theorem State.modStack_cur (s : State) (k : Nat) (g : Stack → Stack) : (s.modStack k g).cur = s.cur := rfl
@[simp] theorem State.modStack_agenda (s : State) (k : Nat) (g : Stack → Stack) : (s.modStack k g).agenda = s.agenda := rfl
@[simp] theorem State.modStack_outbox (s : State) (k : Nat) (g : Stack → Stack) : (s.modStack k g).outbox = s.outbox := rfl
@[simp] theorem State.modStack_tile (s : State) (k : Nat) (g : Stack → Stack) (u : Nat) : (s.modStack k g).tile u = s.tile u := rfl
@[simp] theorem State.modStack_tenant (s : State) (k : Nat) (g : Stack → Stack) (u : Nat) : (s.modStack k g).tenant u = s.tenant u := rfl

/-! ### modCtl -/

@[simp] theorem State.modCtl_tiles (s : State) (g : Control → Control) : (s.modCtl g).tiles = s.tiles := rfl
@[simp] theorem State.modCtl_grants (s : State) (g : Control → Control) : (s.modCtl g).grants = s.grants := rfl
@[simp] theorem State.modCtl_dram (s : State) (g : Control → Control) : (s.modCtl g).dram = s.dram := rfl
@[simp] theorem State.modCtl_tenants (s : State) (g : Control → Control) : (s.modCtl g).tenants = s.tenants := rfl
@[simp] theorem State.modCtl_matcher (s : State) (g : Control → Control) : (s.modCtl g).matcher = s.matcher := rfl
@[simp] theorem State.modCtl_queues (s : State) (g : Control → Control) : (s.modCtl g).queues = s.queues := rfl
@[simp] theorem State.modCtl_launches (s : State) (g : Control → Control) : (s.modCtl g).launches = s.launches := rfl
@[simp] theorem State.modCtl_creating (s : State) (g : Control → Control) : (s.modCtl g).creating = s.creating := rfl
@[simp] theorem State.modCtl_signals (s : State) (g : Control → Control) : (s.modCtl g).signals = s.signals := rfl
@[simp] theorem State.modCtl_images (s : State) (g : Control → Control) : (s.modCtl g).images = s.images := rfl
@[simp] theorem State.modCtl_asidGen (s : State) (g : Control → Control) : (s.modCtl g).asidGen = s.asidGen := rfl
@[simp] theorem State.modCtl_pend (s : State) (g : Control → Control) : (s.modCtl g).pend = s.pend := rfl
@[simp] theorem State.modCtl_reserved (s : State) (g : Control → Control) : (s.modCtl g).reserved = s.reserved := rfl
@[simp] theorem State.modCtl_ahead (s : State) (g : Control → Control) : (s.modCtl g).ahead = s.ahead := rfl
@[simp] theorem State.modCtl_copies (s : State) (g : Control → Control) : (s.modCtl g).copies = s.copies := rfl
@[simp] theorem State.modCtl_riders (s : State) (g : Control → Control) : (s.modCtl g).riders = s.riders := rfl
@[simp] theorem State.modCtl_services (s : State) (g : Control → Control) : (s.modCtl g).services = s.services := rfl
@[simp] theorem State.modCtl_rings (s : State) (g : Control → Control) : (s.modCtl g).rings = s.rings := rfl
@[simp] theorem State.modCtl_sweep (s : State) (g : Control → Control) : (s.modCtl g).sweep = s.sweep := rfl
@[simp] theorem State.modCtl_lapse (s : State) (g : Control → Control) : (s.modCtl g).lapse = s.lapse := rfl
@[simp] theorem State.modCtl_badChunks (s : State) (g : Control → Control) : (s.modCtl g).badChunks = s.badChunks := rfl
@[simp] theorem State.modCtl_fills (s : State) (g : Control → Control) : (s.modCtl g).fills = s.fills := rfl
@[simp] theorem State.modCtl_residents (s : State) (g : Control → Control) : (s.modCtl g).residents = s.residents := rfl
@[simp] theorem State.modCtl_host (s : State) (g : Control → Control) : (s.modCtl g).host = s.host := rfl
@[simp] theorem State.modCtl_hostBad (s : State) (g : Control → Control) : (s.modCtl g).hostBad = s.hostBad := rfl
@[simp] theorem State.modCtl_now (s : State) (g : Control → Control) : (s.modCtl g).now = s.now := rfl
@[simp] theorem State.modCtl_freeCtr (s : State) (g : Control → Control) : (s.modCtl g).freeCtr = s.freeCtr := rfl
@[simp] theorem State.modCtl_nextId (s : State) (g : Control → Control) : (s.modCtl g).nextId = s.nextId := rfl
@[simp] theorem State.modCtl_cur (s : State) (g : Control → Control) : (s.modCtl g).cur = s.cur := rfl
@[simp] theorem State.modCtl_agenda (s : State) (g : Control → Control) : (s.modCtl g).agenda = s.agenda := rfl
@[simp] theorem State.modCtl_outbox (s : State) (g : Control → Control) : (s.modCtl g).outbox = s.outbox := rfl
@[simp] theorem State.modCtl_tile (s : State) (g : Control → Control) (u : Nat) : (s.modCtl g).tile u = s.tile u := rfl
@[simp] theorem State.modCtl_tenant (s : State) (g : Control → Control) (u : Nat) : (s.modCtl g).tenant u = s.tenant u := rfl
@[simp] theorem State.modCtl_stack (s : State) (g : Control → Control) (u : Nat) : (s.modCtl g).stack u = s.stack u := rfl

/-! ### emit -/

@[simp] theorem State.emit_tiles (s : State) (o : Output) : (s.emit o).tiles = s.tiles := rfl
@[simp] theorem State.emit_grants (s : State) (o : Output) : (s.emit o).grants = s.grants := rfl
@[simp] theorem State.emit_dram (s : State) (o : Output) : (s.emit o).dram = s.dram := rfl
@[simp] theorem State.emit_tenants (s : State) (o : Output) : (s.emit o).tenants = s.tenants := rfl
@[simp] theorem State.emit_ctl (s : State) (o : Output) : (s.emit o).ctl = s.ctl := rfl
@[simp] theorem State.emit_matcher (s : State) (o : Output) : (s.emit o).matcher = s.matcher := rfl
@[simp] theorem State.emit_queues (s : State) (o : Output) : (s.emit o).queues = s.queues := rfl
@[simp] theorem State.emit_launches (s : State) (o : Output) : (s.emit o).launches = s.launches := rfl
@[simp] theorem State.emit_creating (s : State) (o : Output) : (s.emit o).creating = s.creating := rfl
@[simp] theorem State.emit_signals (s : State) (o : Output) : (s.emit o).signals = s.signals := rfl
@[simp] theorem State.emit_images (s : State) (o : Output) : (s.emit o).images = s.images := rfl
@[simp] theorem State.emit_asidGen (s : State) (o : Output) : (s.emit o).asidGen = s.asidGen := rfl
@[simp] theorem State.emit_pend (s : State) (o : Output) : (s.emit o).pend = s.pend := rfl
@[simp] theorem State.emit_reserved (s : State) (o : Output) : (s.emit o).reserved = s.reserved := rfl
@[simp] theorem State.emit_ahead (s : State) (o : Output) : (s.emit o).ahead = s.ahead := rfl
@[simp] theorem State.emit_copies (s : State) (o : Output) : (s.emit o).copies = s.copies := rfl
@[simp] theorem State.emit_riders (s : State) (o : Output) : (s.emit o).riders = s.riders := rfl
@[simp] theorem State.emit_services (s : State) (o : Output) : (s.emit o).services = s.services := rfl
@[simp] theorem State.emit_rings (s : State) (o : Output) : (s.emit o).rings = s.rings := rfl
@[simp] theorem State.emit_sweep (s : State) (o : Output) : (s.emit o).sweep = s.sweep := rfl
@[simp] theorem State.emit_lapse (s : State) (o : Output) : (s.emit o).lapse = s.lapse := rfl
@[simp] theorem State.emit_badChunks (s : State) (o : Output) : (s.emit o).badChunks = s.badChunks := rfl
@[simp] theorem State.emit_fills (s : State) (o : Output) : (s.emit o).fills = s.fills := rfl
@[simp] theorem State.emit_residents (s : State) (o : Output) : (s.emit o).residents = s.residents := rfl
@[simp] theorem State.emit_host (s : State) (o : Output) : (s.emit o).host = s.host := rfl
@[simp] theorem State.emit_hostBad (s : State) (o : Output) : (s.emit o).hostBad = s.hostBad := rfl
@[simp] theorem State.emit_now (s : State) (o : Output) : (s.emit o).now = s.now := rfl
@[simp] theorem State.emit_freeCtr (s : State) (o : Output) : (s.emit o).freeCtr = s.freeCtr := rfl
@[simp] theorem State.emit_nextId (s : State) (o : Output) : (s.emit o).nextId = s.nextId := rfl
@[simp] theorem State.emit_cur (s : State) (o : Output) : (s.emit o).cur = s.cur := rfl
@[simp] theorem State.emit_agenda (s : State) (o : Output) : (s.emit o).agenda = s.agenda := rfl
@[simp] theorem State.emit_tile (s : State) (o : Output) (u : Nat) : (s.emit o).tile u = s.tile u := rfl
@[simp] theorem State.emit_tenant (s : State) (o : Output) (u : Nat) : (s.emit o).tenant u = s.tenant u := rfl
@[simp] theorem State.emit_stack (s : State) (o : Output) (u : Nat) : (s.emit o).stack u = s.stack u := rfl

/-! ### modQueue -/

@[simp] theorem State.modQueue_tiles (s : State) (f q : Nat) (g : Queue → Queue) : (s.modQueue f q g).tiles = s.tiles := rfl
@[simp] theorem State.modQueue_grants (s : State) (f q : Nat) (g : Queue → Queue) : (s.modQueue f q g).grants = s.grants := rfl
@[simp] theorem State.modQueue_dram (s : State) (f q : Nat) (g : Queue → Queue) : (s.modQueue f q g).dram = s.dram := rfl
@[simp] theorem State.modQueue_tenants (s : State) (f q : Nat) (g : Queue → Queue) : (s.modQueue f q g).tenants = s.tenants := rfl
@[simp] theorem State.modQueue_ctl (s : State) (f q : Nat) (g : Queue → Queue) : (s.modQueue f q g).ctl = s.ctl := rfl
@[simp] theorem State.modQueue_matcher (s : State) (f q : Nat) (g : Queue → Queue) : (s.modQueue f q g).matcher = s.matcher := rfl
@[simp] theorem State.modQueue_creating (s : State) (f q : Nat) (g : Queue → Queue) : (s.modQueue f q g).creating = s.creating := rfl
@[simp] theorem State.modQueue_signals (s : State) (f q : Nat) (g : Queue → Queue) : (s.modQueue f q g).signals = s.signals := rfl
@[simp] theorem State.modQueue_launches (s : State) (f q : Nat) (g : Queue → Queue) : (s.modQueue f q g).launches = s.launches := rfl
@[simp] theorem State.modQueue_images (s : State) (f q : Nat) (g : Queue → Queue) : (s.modQueue f q g).images = s.images := rfl
@[simp] theorem State.modQueue_asidGen (s : State) (f q : Nat) (g : Queue → Queue) : (s.modQueue f q g).asidGen = s.asidGen := rfl
@[simp] theorem State.modQueue_pend (s : State) (f q : Nat) (g : Queue → Queue) : (s.modQueue f q g).pend = s.pend := rfl
@[simp] theorem State.modQueue_reserved (s : State) (f q : Nat) (g : Queue → Queue) : (s.modQueue f q g).reserved = s.reserved := rfl
@[simp] theorem State.modQueue_ahead (s : State) (f q : Nat) (g : Queue → Queue) : (s.modQueue f q g).ahead = s.ahead := rfl
@[simp] theorem State.modQueue_copies (s : State) (f q : Nat) (g : Queue → Queue) : (s.modQueue f q g).copies = s.copies := rfl
@[simp] theorem State.modQueue_riders (s : State) (f q : Nat) (g : Queue → Queue) : (s.modQueue f q g).riders = s.riders := rfl
@[simp] theorem State.modQueue_services (s : State) (f q : Nat) (g : Queue → Queue) : (s.modQueue f q g).services = s.services := rfl
@[simp] theorem State.modQueue_rings (s : State) (f q : Nat) (g : Queue → Queue) : (s.modQueue f q g).rings = s.rings := rfl
@[simp] theorem State.modQueue_sweep (s : State) (f q : Nat) (g : Queue → Queue) : (s.modQueue f q g).sweep = s.sweep := rfl
@[simp] theorem State.modQueue_lapse (s : State) (f q : Nat) (g : Queue → Queue) : (s.modQueue f q g).lapse = s.lapse := rfl
@[simp] theorem State.modQueue_badChunks (s : State) (f q : Nat) (g : Queue → Queue) : (s.modQueue f q g).badChunks = s.badChunks := rfl
@[simp] theorem State.modQueue_fills (s : State) (f q : Nat) (g : Queue → Queue) : (s.modQueue f q g).fills = s.fills := rfl
@[simp] theorem State.modQueue_residents (s : State) (f q : Nat) (g : Queue → Queue) : (s.modQueue f q g).residents = s.residents := rfl
@[simp] theorem State.modQueue_host (s : State) (f q : Nat) (g : Queue → Queue) : (s.modQueue f q g).host = s.host := rfl
@[simp] theorem State.modQueue_hostBad (s : State) (f q : Nat) (g : Queue → Queue) : (s.modQueue f q g).hostBad = s.hostBad := rfl
@[simp] theorem State.modQueue_now (s : State) (f q : Nat) (g : Queue → Queue) : (s.modQueue f q g).now = s.now := rfl
@[simp] theorem State.modQueue_freeCtr (s : State) (f q : Nat) (g : Queue → Queue) : (s.modQueue f q g).freeCtr = s.freeCtr := rfl
@[simp] theorem State.modQueue_nextId (s : State) (f q : Nat) (g : Queue → Queue) : (s.modQueue f q g).nextId = s.nextId := rfl
@[simp] theorem State.modQueue_cur (s : State) (f q : Nat) (g : Queue → Queue) : (s.modQueue f q g).cur = s.cur := rfl
@[simp] theorem State.modQueue_agenda (s : State) (f q : Nat) (g : Queue → Queue) : (s.modQueue f q g).agenda = s.agenda := rfl
@[simp] theorem State.modQueue_outbox (s : State) (f q : Nat) (g : Queue → Queue) : (s.modQueue f q g).outbox = s.outbox := rfl
@[simp] theorem State.modQueue_tile (s : State) (f q : Nat) (g : Queue → Queue) (u : Nat) : (s.modQueue f q g).tile u = s.tile u := rfl
@[simp] theorem State.modQueue_tenant (s : State) (f q : Nat) (g : Queue → Queue) (u : Nat) : (s.modQueue f q g).tenant u = s.tenant u := rfl
@[simp] theorem State.modQueue_stack (s : State) (f q : Nat) (g : Queue → Queue) (u : Nat) : (s.modQueue f q g).stack u = s.stack u := rfl

/-! ### modCopy -/

@[simp] theorem State.modCopy_tiles (s : State) (id : Nat) (g : Copy → Copy) : (s.modCopy id g).tiles = s.tiles := rfl
@[simp] theorem State.modCopy_grants (s : State) (id : Nat) (g : Copy → Copy) : (s.modCopy id g).grants = s.grants := rfl
@[simp] theorem State.modCopy_dram (s : State) (id : Nat) (g : Copy → Copy) : (s.modCopy id g).dram = s.dram := rfl
@[simp] theorem State.modCopy_tenants (s : State) (id : Nat) (g : Copy → Copy) : (s.modCopy id g).tenants = s.tenants := rfl
@[simp] theorem State.modCopy_ctl (s : State) (id : Nat) (g : Copy → Copy) : (s.modCopy id g).ctl = s.ctl := rfl
@[simp] theorem State.modCopy_matcher (s : State) (id : Nat) (g : Copy → Copy) : (s.modCopy id g).matcher = s.matcher := rfl
@[simp] theorem State.modCopy_queues (s : State) (id : Nat) (g : Copy → Copy) : (s.modCopy id g).queues = s.queues := rfl
@[simp] theorem State.modCopy_creating (s : State) (id : Nat) (g : Copy → Copy) : (s.modCopy id g).creating = s.creating := rfl
@[simp] theorem State.modCopy_signals (s : State) (id : Nat) (g : Copy → Copy) : (s.modCopy id g).signals = s.signals := rfl
@[simp] theorem State.modCopy_launches (s : State) (id : Nat) (g : Copy → Copy) : (s.modCopy id g).launches = s.launches := rfl
@[simp] theorem State.modCopy_images (s : State) (id : Nat) (g : Copy → Copy) : (s.modCopy id g).images = s.images := rfl
@[simp] theorem State.modCopy_asidGen (s : State) (id : Nat) (g : Copy → Copy) : (s.modCopy id g).asidGen = s.asidGen := rfl
@[simp] theorem State.modCopy_pend (s : State) (id : Nat) (g : Copy → Copy) : (s.modCopy id g).pend = s.pend := rfl
@[simp] theorem State.modCopy_reserved (s : State) (id : Nat) (g : Copy → Copy) : (s.modCopy id g).reserved = s.reserved := rfl
@[simp] theorem State.modCopy_ahead (s : State) (id : Nat) (g : Copy → Copy) : (s.modCopy id g).ahead = s.ahead := rfl
@[simp] theorem State.modCopy_riders (s : State) (id : Nat) (g : Copy → Copy) : (s.modCopy id g).riders = s.riders := rfl
@[simp] theorem State.modCopy_services (s : State) (id : Nat) (g : Copy → Copy) : (s.modCopy id g).services = s.services := rfl
@[simp] theorem State.modCopy_rings (s : State) (id : Nat) (g : Copy → Copy) : (s.modCopy id g).rings = s.rings := rfl
@[simp] theorem State.modCopy_sweep (s : State) (id : Nat) (g : Copy → Copy) : (s.modCopy id g).sweep = s.sweep := rfl
@[simp] theorem State.modCopy_lapse (s : State) (id : Nat) (g : Copy → Copy) : (s.modCopy id g).lapse = s.lapse := rfl
@[simp] theorem State.modCopy_badChunks (s : State) (id : Nat) (g : Copy → Copy) : (s.modCopy id g).badChunks = s.badChunks := rfl
@[simp] theorem State.modCopy_fills (s : State) (id : Nat) (g : Copy → Copy) : (s.modCopy id g).fills = s.fills := rfl
@[simp] theorem State.modCopy_residents (s : State) (id : Nat) (g : Copy → Copy) : (s.modCopy id g).residents = s.residents := rfl
@[simp] theorem State.modCopy_host (s : State) (id : Nat) (g : Copy → Copy) : (s.modCopy id g).host = s.host := rfl
@[simp] theorem State.modCopy_hostBad (s : State) (id : Nat) (g : Copy → Copy) : (s.modCopy id g).hostBad = s.hostBad := rfl
@[simp] theorem State.modCopy_now (s : State) (id : Nat) (g : Copy → Copy) : (s.modCopy id g).now = s.now := rfl
@[simp] theorem State.modCopy_freeCtr (s : State) (id : Nat) (g : Copy → Copy) : (s.modCopy id g).freeCtr = s.freeCtr := rfl
@[simp] theorem State.modCopy_nextId (s : State) (id : Nat) (g : Copy → Copy) : (s.modCopy id g).nextId = s.nextId := rfl
@[simp] theorem State.modCopy_cur (s : State) (id : Nat) (g : Copy → Copy) : (s.modCopy id g).cur = s.cur := rfl
@[simp] theorem State.modCopy_agenda (s : State) (id : Nat) (g : Copy → Copy) : (s.modCopy id g).agenda = s.agenda := rfl
@[simp] theorem State.modCopy_outbox (s : State) (id : Nat) (g : Copy → Copy) : (s.modCopy id g).outbox = s.outbox := rfl
@[simp] theorem State.modCopy_tile (s : State) (id : Nat) (g : Copy → Copy) (u : Nat) : (s.modCopy id g).tile u = s.tile u := rfl
@[simp] theorem State.modCopy_tenant (s : State) (id : Nat) (g : Copy → Copy) (u : Nat) : (s.modCopy id g).tenant u = s.tenant u := rfl
@[simp] theorem State.modCopy_stack (s : State) (id : Nat) (g : Copy → Copy) (u : Nat) : (s.modCopy id g).stack u = s.stack u := rfl

/-! ### modRider -/

@[simp] theorem State.modRider_tiles (s : State) (id : Nat) (g : Rider → Rider) : (s.modRider id g).tiles = s.tiles := rfl
@[simp] theorem State.modRider_grants (s : State) (id : Nat) (g : Rider → Rider) : (s.modRider id g).grants = s.grants := rfl
@[simp] theorem State.modRider_dram (s : State) (id : Nat) (g : Rider → Rider) : (s.modRider id g).dram = s.dram := rfl
@[simp] theorem State.modRider_tenants (s : State) (id : Nat) (g : Rider → Rider) : (s.modRider id g).tenants = s.tenants := rfl
@[simp] theorem State.modRider_ctl (s : State) (id : Nat) (g : Rider → Rider) : (s.modRider id g).ctl = s.ctl := rfl
@[simp] theorem State.modRider_matcher (s : State) (id : Nat) (g : Rider → Rider) : (s.modRider id g).matcher = s.matcher := rfl
@[simp] theorem State.modRider_queues (s : State) (id : Nat) (g : Rider → Rider) : (s.modRider id g).queues = s.queues := rfl
@[simp] theorem State.modRider_creating (s : State) (id : Nat) (g : Rider → Rider) : (s.modRider id g).creating = s.creating := rfl
@[simp] theorem State.modRider_signals (s : State) (id : Nat) (g : Rider → Rider) : (s.modRider id g).signals = s.signals := rfl
@[simp] theorem State.modRider_launches (s : State) (id : Nat) (g : Rider → Rider) : (s.modRider id g).launches = s.launches := rfl
@[simp] theorem State.modRider_images (s : State) (id : Nat) (g : Rider → Rider) : (s.modRider id g).images = s.images := rfl
@[simp] theorem State.modRider_asidGen (s : State) (id : Nat) (g : Rider → Rider) : (s.modRider id g).asidGen = s.asidGen := rfl
@[simp] theorem State.modRider_pend (s : State) (id : Nat) (g : Rider → Rider) : (s.modRider id g).pend = s.pend := rfl
@[simp] theorem State.modRider_reserved (s : State) (id : Nat) (g : Rider → Rider) : (s.modRider id g).reserved = s.reserved := rfl
@[simp] theorem State.modRider_ahead (s : State) (id : Nat) (g : Rider → Rider) : (s.modRider id g).ahead = s.ahead := rfl
@[simp] theorem State.modRider_copies (s : State) (id : Nat) (g : Rider → Rider) : (s.modRider id g).copies = s.copies := rfl
@[simp] theorem State.modRider_services (s : State) (id : Nat) (g : Rider → Rider) : (s.modRider id g).services = s.services := rfl
@[simp] theorem State.modRider_rings (s : State) (id : Nat) (g : Rider → Rider) : (s.modRider id g).rings = s.rings := rfl
@[simp] theorem State.modRider_sweep (s : State) (id : Nat) (g : Rider → Rider) : (s.modRider id g).sweep = s.sweep := rfl
@[simp] theorem State.modRider_lapse (s : State) (id : Nat) (g : Rider → Rider) : (s.modRider id g).lapse = s.lapse := rfl
@[simp] theorem State.modRider_badChunks (s : State) (id : Nat) (g : Rider → Rider) : (s.modRider id g).badChunks = s.badChunks := rfl
@[simp] theorem State.modRider_fills (s : State) (id : Nat) (g : Rider → Rider) : (s.modRider id g).fills = s.fills := rfl
@[simp] theorem State.modRider_residents (s : State) (id : Nat) (g : Rider → Rider) : (s.modRider id g).residents = s.residents := rfl
@[simp] theorem State.modRider_host (s : State) (id : Nat) (g : Rider → Rider) : (s.modRider id g).host = s.host := rfl
@[simp] theorem State.modRider_hostBad (s : State) (id : Nat) (g : Rider → Rider) : (s.modRider id g).hostBad = s.hostBad := rfl
@[simp] theorem State.modRider_now (s : State) (id : Nat) (g : Rider → Rider) : (s.modRider id g).now = s.now := rfl
@[simp] theorem State.modRider_freeCtr (s : State) (id : Nat) (g : Rider → Rider) : (s.modRider id g).freeCtr = s.freeCtr := rfl
@[simp] theorem State.modRider_nextId (s : State) (id : Nat) (g : Rider → Rider) : (s.modRider id g).nextId = s.nextId := rfl
@[simp] theorem State.modRider_cur (s : State) (id : Nat) (g : Rider → Rider) : (s.modRider id g).cur = s.cur := rfl
@[simp] theorem State.modRider_agenda (s : State) (id : Nat) (g : Rider → Rider) : (s.modRider id g).agenda = s.agenda := rfl
@[simp] theorem State.modRider_outbox (s : State) (id : Nat) (g : Rider → Rider) : (s.modRider id g).outbox = s.outbox := rfl
@[simp] theorem State.modRider_tile (s : State) (id : Nat) (g : Rider → Rider) (u : Nat) : (s.modRider id g).tile u = s.tile u := rfl
@[simp] theorem State.modRider_tenant (s : State) (id : Nat) (g : Rider → Rider) (u : Nat) : (s.modRider id g).tenant u = s.tenant u := rfl
@[simp] theorem State.modRider_stack (s : State) (id : Nat) (g : Rider → Rider) (u : Nat) : (s.modRider id g).stack u = s.stack u := rfl

/-! ### modRing -/

@[simp] theorem State.modRing_tiles (s : State) (q : Nat) (g : Ring → Ring) : (s.modRing q g).tiles = s.tiles := rfl
@[simp] theorem State.modRing_grants (s : State) (q : Nat) (g : Ring → Ring) : (s.modRing q g).grants = s.grants := rfl
@[simp] theorem State.modRing_dram (s : State) (q : Nat) (g : Ring → Ring) : (s.modRing q g).dram = s.dram := rfl
@[simp] theorem State.modRing_tenants (s : State) (q : Nat) (g : Ring → Ring) : (s.modRing q g).tenants = s.tenants := rfl
@[simp] theorem State.modRing_ctl (s : State) (q : Nat) (g : Ring → Ring) : (s.modRing q g).ctl = s.ctl := rfl
@[simp] theorem State.modRing_matcher (s : State) (q : Nat) (g : Ring → Ring) : (s.modRing q g).matcher = s.matcher := rfl
@[simp] theorem State.modRing_queues (s : State) (q : Nat) (g : Ring → Ring) : (s.modRing q g).queues = s.queues := rfl
@[simp] theorem State.modRing_creating (s : State) (q : Nat) (g : Ring → Ring) : (s.modRing q g).creating = s.creating := rfl
@[simp] theorem State.modRing_signals (s : State) (q : Nat) (g : Ring → Ring) : (s.modRing q g).signals = s.signals := rfl
@[simp] theorem State.modRing_launches (s : State) (q : Nat) (g : Ring → Ring) : (s.modRing q g).launches = s.launches := rfl
@[simp] theorem State.modRing_images (s : State) (q : Nat) (g : Ring → Ring) : (s.modRing q g).images = s.images := rfl
@[simp] theorem State.modRing_asidGen (s : State) (q : Nat) (g : Ring → Ring) : (s.modRing q g).asidGen = s.asidGen := rfl
@[simp] theorem State.modRing_pend (s : State) (q : Nat) (g : Ring → Ring) : (s.modRing q g).pend = s.pend := rfl
@[simp] theorem State.modRing_reserved (s : State) (q : Nat) (g : Ring → Ring) : (s.modRing q g).reserved = s.reserved := rfl
@[simp] theorem State.modRing_ahead (s : State) (q : Nat) (g : Ring → Ring) : (s.modRing q g).ahead = s.ahead := rfl
@[simp] theorem State.modRing_copies (s : State) (q : Nat) (g : Ring → Ring) : (s.modRing q g).copies = s.copies := rfl
@[simp] theorem State.modRing_riders (s : State) (q : Nat) (g : Ring → Ring) : (s.modRing q g).riders = s.riders := rfl
@[simp] theorem State.modRing_services (s : State) (q : Nat) (g : Ring → Ring) : (s.modRing q g).services = s.services := rfl
@[simp] theorem State.modRing_sweep (s : State) (q : Nat) (g : Ring → Ring) : (s.modRing q g).sweep = s.sweep := rfl
@[simp] theorem State.modRing_lapse (s : State) (q : Nat) (g : Ring → Ring) : (s.modRing q g).lapse = s.lapse := rfl
@[simp] theorem State.modRing_badChunks (s : State) (q : Nat) (g : Ring → Ring) : (s.modRing q g).badChunks = s.badChunks := rfl
@[simp] theorem State.modRing_fills (s : State) (q : Nat) (g : Ring → Ring) : (s.modRing q g).fills = s.fills := rfl
@[simp] theorem State.modRing_residents (s : State) (q : Nat) (g : Ring → Ring) : (s.modRing q g).residents = s.residents := rfl
@[simp] theorem State.modRing_host (s : State) (q : Nat) (g : Ring → Ring) : (s.modRing q g).host = s.host := rfl
@[simp] theorem State.modRing_hostBad (s : State) (q : Nat) (g : Ring → Ring) : (s.modRing q g).hostBad = s.hostBad := rfl
@[simp] theorem State.modRing_now (s : State) (q : Nat) (g : Ring → Ring) : (s.modRing q g).now = s.now := rfl
@[simp] theorem State.modRing_freeCtr (s : State) (q : Nat) (g : Ring → Ring) : (s.modRing q g).freeCtr = s.freeCtr := rfl
@[simp] theorem State.modRing_nextId (s : State) (q : Nat) (g : Ring → Ring) : (s.modRing q g).nextId = s.nextId := rfl
@[simp] theorem State.modRing_cur (s : State) (q : Nat) (g : Ring → Ring) : (s.modRing q g).cur = s.cur := rfl
@[simp] theorem State.modRing_agenda (s : State) (q : Nat) (g : Ring → Ring) : (s.modRing q g).agenda = s.agenda := rfl
@[simp] theorem State.modRing_outbox (s : State) (q : Nat) (g : Ring → Ring) : (s.modRing q g).outbox = s.outbox := rfl
@[simp] theorem State.modRing_tile (s : State) (q : Nat) (g : Ring → Ring) (u : Nat) : (s.modRing q g).tile u = s.tile u := rfl
@[simp] theorem State.modRing_tenant (s : State) (q : Nat) (g : Ring → Ring) (u : Nat) : (s.modRing q g).tenant u = s.tenant u := rfl
@[simp] theorem State.modRing_stack (s : State) (q : Nat) (g : Ring → Ring) (u : Nat) : (s.modRing q g).stack u = s.stack u := rfl

/-! ### modLaunch -/

@[simp] theorem State.modLaunch_tiles (s : State) (id : Nat) (g : Launch → Launch) : (s.modLaunch id g).tiles = s.tiles := rfl
@[simp] theorem State.modLaunch_grants (s : State) (id : Nat) (g : Launch → Launch) : (s.modLaunch id g).grants = s.grants := rfl
@[simp] theorem State.modLaunch_dram (s : State) (id : Nat) (g : Launch → Launch) : (s.modLaunch id g).dram = s.dram := rfl
@[simp] theorem State.modLaunch_tenants (s : State) (id : Nat) (g : Launch → Launch) : (s.modLaunch id g).tenants = s.tenants := rfl
@[simp] theorem State.modLaunch_ctl (s : State) (id : Nat) (g : Launch → Launch) : (s.modLaunch id g).ctl = s.ctl := rfl
@[simp] theorem State.modLaunch_matcher (s : State) (id : Nat) (g : Launch → Launch) : (s.modLaunch id g).matcher = s.matcher := rfl
@[simp] theorem State.modLaunch_queues (s : State) (id : Nat) (g : Launch → Launch) : (s.modLaunch id g).queues = s.queues := rfl
@[simp] theorem State.modLaunch_creating (s : State) (id : Nat) (g : Launch → Launch) : (s.modLaunch id g).creating = s.creating := rfl
@[simp] theorem State.modLaunch_signals (s : State) (id : Nat) (g : Launch → Launch) : (s.modLaunch id g).signals = s.signals := rfl
@[simp] theorem State.modLaunch_images (s : State) (id : Nat) (g : Launch → Launch) : (s.modLaunch id g).images = s.images := rfl
@[simp] theorem State.modLaunch_asidGen (s : State) (id : Nat) (g : Launch → Launch) : (s.modLaunch id g).asidGen = s.asidGen := rfl
@[simp] theorem State.modLaunch_pend (s : State) (id : Nat) (g : Launch → Launch) : (s.modLaunch id g).pend = s.pend := rfl
@[simp] theorem State.modLaunch_reserved (s : State) (id : Nat) (g : Launch → Launch) : (s.modLaunch id g).reserved = s.reserved := rfl
@[simp] theorem State.modLaunch_ahead (s : State) (id : Nat) (g : Launch → Launch) : (s.modLaunch id g).ahead = s.ahead := rfl
@[simp] theorem State.modLaunch_copies (s : State) (id : Nat) (g : Launch → Launch) : (s.modLaunch id g).copies = s.copies := rfl
@[simp] theorem State.modLaunch_riders (s : State) (id : Nat) (g : Launch → Launch) : (s.modLaunch id g).riders = s.riders := rfl
@[simp] theorem State.modLaunch_services (s : State) (id : Nat) (g : Launch → Launch) : (s.modLaunch id g).services = s.services := rfl
@[simp] theorem State.modLaunch_rings (s : State) (id : Nat) (g : Launch → Launch) : (s.modLaunch id g).rings = s.rings := rfl
@[simp] theorem State.modLaunch_sweep (s : State) (id : Nat) (g : Launch → Launch) : (s.modLaunch id g).sweep = s.sweep := rfl
@[simp] theorem State.modLaunch_lapse (s : State) (id : Nat) (g : Launch → Launch) : (s.modLaunch id g).lapse = s.lapse := rfl
@[simp] theorem State.modLaunch_badChunks (s : State) (id : Nat) (g : Launch → Launch) : (s.modLaunch id g).badChunks = s.badChunks := rfl
@[simp] theorem State.modLaunch_fills (s : State) (id : Nat) (g : Launch → Launch) : (s.modLaunch id g).fills = s.fills := rfl
@[simp] theorem State.modLaunch_residents (s : State) (id : Nat) (g : Launch → Launch) : (s.modLaunch id g).residents = s.residents := rfl
@[simp] theorem State.modLaunch_host (s : State) (id : Nat) (g : Launch → Launch) : (s.modLaunch id g).host = s.host := rfl
@[simp] theorem State.modLaunch_hostBad (s : State) (id : Nat) (g : Launch → Launch) : (s.modLaunch id g).hostBad = s.hostBad := rfl
@[simp] theorem State.modLaunch_now (s : State) (id : Nat) (g : Launch → Launch) : (s.modLaunch id g).now = s.now := rfl
@[simp] theorem State.modLaunch_freeCtr (s : State) (id : Nat) (g : Launch → Launch) : (s.modLaunch id g).freeCtr = s.freeCtr := rfl
@[simp] theorem State.modLaunch_nextId (s : State) (id : Nat) (g : Launch → Launch) : (s.modLaunch id g).nextId = s.nextId := rfl
@[simp] theorem State.modLaunch_cur (s : State) (id : Nat) (g : Launch → Launch) : (s.modLaunch id g).cur = s.cur := rfl
@[simp] theorem State.modLaunch_agenda (s : State) (id : Nat) (g : Launch → Launch) : (s.modLaunch id g).agenda = s.agenda := rfl
@[simp] theorem State.modLaunch_outbox (s : State) (id : Nat) (g : Launch → Launch) : (s.modLaunch id g).outbox = s.outbox := rfl
@[simp] theorem State.modLaunch_tile (s : State) (id : Nat) (g : Launch → Launch) (u : Nat) : (s.modLaunch id g).tile u = s.tile u := rfl
@[simp] theorem State.modLaunch_tenant (s : State) (id : Nat) (g : Launch → Launch) (u : Nat) : (s.modLaunch id g).tenant u = s.tenant u := rfl
@[simp] theorem State.modLaunch_stack (s : State) (id : Nat) (g : Launch → Launch) (u : Nat) : (s.modLaunch id g).stack u = s.stack u := rfl

/-! ### modFill -/

@[simp] theorem State.modFill_tiles (s : State) (leaf : Nat) (g : Fill → Fill) : (s.modFill leaf g).tiles = s.tiles := rfl
@[simp] theorem State.modFill_grants (s : State) (leaf : Nat) (g : Fill → Fill) : (s.modFill leaf g).grants = s.grants := rfl
@[simp] theorem State.modFill_dram (s : State) (leaf : Nat) (g : Fill → Fill) : (s.modFill leaf g).dram = s.dram := rfl
@[simp] theorem State.modFill_tenants (s : State) (leaf : Nat) (g : Fill → Fill) : (s.modFill leaf g).tenants = s.tenants := rfl
@[simp] theorem State.modFill_ctl (s : State) (leaf : Nat) (g : Fill → Fill) : (s.modFill leaf g).ctl = s.ctl := rfl
@[simp] theorem State.modFill_matcher (s : State) (leaf : Nat) (g : Fill → Fill) : (s.modFill leaf g).matcher = s.matcher := rfl
@[simp] theorem State.modFill_queues (s : State) (leaf : Nat) (g : Fill → Fill) : (s.modFill leaf g).queues = s.queues := rfl
@[simp] theorem State.modFill_creating (s : State) (leaf : Nat) (g : Fill → Fill) : (s.modFill leaf g).creating = s.creating := rfl
@[simp] theorem State.modFill_signals (s : State) (leaf : Nat) (g : Fill → Fill) : (s.modFill leaf g).signals = s.signals := rfl
@[simp] theorem State.modFill_launches (s : State) (leaf : Nat) (g : Fill → Fill) : (s.modFill leaf g).launches = s.launches := rfl
@[simp] theorem State.modFill_images (s : State) (leaf : Nat) (g : Fill → Fill) : (s.modFill leaf g).images = s.images := rfl
@[simp] theorem State.modFill_asidGen (s : State) (leaf : Nat) (g : Fill → Fill) : (s.modFill leaf g).asidGen = s.asidGen := rfl
@[simp] theorem State.modFill_pend (s : State) (leaf : Nat) (g : Fill → Fill) : (s.modFill leaf g).pend = s.pend := rfl
@[simp] theorem State.modFill_reserved (s : State) (leaf : Nat) (g : Fill → Fill) : (s.modFill leaf g).reserved = s.reserved := rfl
@[simp] theorem State.modFill_ahead (s : State) (leaf : Nat) (g : Fill → Fill) : (s.modFill leaf g).ahead = s.ahead := rfl
@[simp] theorem State.modFill_copies (s : State) (leaf : Nat) (g : Fill → Fill) : (s.modFill leaf g).copies = s.copies := rfl
@[simp] theorem State.modFill_riders (s : State) (leaf : Nat) (g : Fill → Fill) : (s.modFill leaf g).riders = s.riders := rfl
@[simp] theorem State.modFill_services (s : State) (leaf : Nat) (g : Fill → Fill) : (s.modFill leaf g).services = s.services := rfl
@[simp] theorem State.modFill_rings (s : State) (leaf : Nat) (g : Fill → Fill) : (s.modFill leaf g).rings = s.rings := rfl
@[simp] theorem State.modFill_sweep (s : State) (leaf : Nat) (g : Fill → Fill) : (s.modFill leaf g).sweep = s.sweep := rfl
@[simp] theorem State.modFill_lapse (s : State) (leaf : Nat) (g : Fill → Fill) : (s.modFill leaf g).lapse = s.lapse := rfl
@[simp] theorem State.modFill_badChunks (s : State) (leaf : Nat) (g : Fill → Fill) : (s.modFill leaf g).badChunks = s.badChunks := rfl
@[simp] theorem State.modFill_residents (s : State) (leaf : Nat) (g : Fill → Fill) : (s.modFill leaf g).residents = s.residents := rfl
@[simp] theorem State.modFill_host (s : State) (leaf : Nat) (g : Fill → Fill) : (s.modFill leaf g).host = s.host := rfl
@[simp] theorem State.modFill_hostBad (s : State) (leaf : Nat) (g : Fill → Fill) : (s.modFill leaf g).hostBad = s.hostBad := rfl
@[simp] theorem State.modFill_now (s : State) (leaf : Nat) (g : Fill → Fill) : (s.modFill leaf g).now = s.now := rfl
@[simp] theorem State.modFill_freeCtr (s : State) (leaf : Nat) (g : Fill → Fill) : (s.modFill leaf g).freeCtr = s.freeCtr := rfl
@[simp] theorem State.modFill_nextId (s : State) (leaf : Nat) (g : Fill → Fill) : (s.modFill leaf g).nextId = s.nextId := rfl
@[simp] theorem State.modFill_cur (s : State) (leaf : Nat) (g : Fill → Fill) : (s.modFill leaf g).cur = s.cur := rfl
@[simp] theorem State.modFill_agenda (s : State) (leaf : Nat) (g : Fill → Fill) : (s.modFill leaf g).agenda = s.agenda := rfl
@[simp] theorem State.modFill_outbox (s : State) (leaf : Nat) (g : Fill → Fill) : (s.modFill leaf g).outbox = s.outbox := rfl
@[simp] theorem State.modFill_tile (s : State) (leaf : Nat) (g : Fill → Fill) (u : Nat) : (s.modFill leaf g).tile u = s.tile u := rfl
@[simp] theorem State.modFill_tenant (s : State) (leaf : Nat) (g : Fill → Fill) (u : Nat) : (s.modFill leaf g).tenant u = s.tenant u := rfl
@[simp] theorem State.modFill_stack (s : State) (leaf : Nat) (g : Fill → Fill) (u : Nat) : (s.modFill leaf g).stack u = s.stack u := rfl

/-! ### What is changed -/

@[simp] theorem State.modCtl_ctl (s : State) (g : Control → Control) : (s.modCtl g).ctl = g s.ctl := rfl
@[simp] theorem State.emit_outbox (s : State) (o : Output) : (s.emit o).outbox = s.outbox ++ [o] := rfl

/-- Reading a tile after one is replaced. -/
theorem State.tile_setTile (s : State) (t u : Nat) (x : Tile) :
    (s.setTile t x).tile u = if t = u ∧ u < 192 then x else s.tile u := by
  simp only [State.tile, State.setTile, Vector.getElem?_setIfInBounds]
  split <;> split <;> simp_all

@[simp] theorem State.tile_setTile_same (s : State) (t : Nat) (x : Tile) (h : t < 192) : (s.setTile t x).tile t = x := by
  simp [State.tile_setTile, h]

@[simp] theorem State.tile_setTile_ne (s : State) (t u : Nat) (x : Tile) (h : t ≠ u) :
    (s.setTile t x).tile u = s.tile u := by
  simp [State.tile_setTile, h]

@[simp] theorem State.tile_modTile_same (s : State) (t : Nat) (f : Tile → Tile) (h : t < 192) :
    (s.modTile t f).tile t = f (s.tile t) := by
  simp [State.modTile, h]

@[simp] theorem State.tile_modTile_ne (s : State) (t u : Nat) (f : Tile → Tile) (h : t ≠ u) :
    (s.modTile t f).tile u = s.tile u := by
  simp [State.modTile, h]

/-- Two replacements of one tile: the second stands. -/
@[simp] theorem State.setTile_setTile (s : State) (t : Nat) (x y : Tile) : (s.setTile t x).setTile t y = s.setTile t y := by
  simp [State.setTile, Vector.setIfInBounds_setIfInBounds]

/-- Replacing a tile by itself changes nothing. -/
@[simp] theorem State.setTile_self (s : State) (t : Nat) : s.setTile t (s.tile t) = s := by
  have h : s.tiles.setIfInBounds t (s.tiles[t]?.getD Tile.reset) = s.tiles := by
    apply Vector.ext
    intro i hi
    simp only [Vector.getElem_setIfInBounds]
    split
    · subst_vars; simp [hi]
    · rfl
  simp [State.setTile, State.tile, h]

/-- Two changes of one tile are one. -/
theorem State.modTile_modTile (s : State) (t : Nat) (f g : Tile → Tile) :
    (s.modTile t f).modTile t g = s.modTile t (fun x => g (f x)) := by
  by_cases h : t < 192
  · simp [State.modTile, h]
  · have hs (s : State) (x : Tile) : s.setTile t x = s := by
      have hv : s.tiles.setIfInBounds t x = s.tiles := by
        apply Vector.ext
        intro i hi
        simp only [Vector.getElem_setIfInBounds]
        split
        · omega
        · rfl
      simp [State.setTile, hv]
    simp [State.modTile, hs]

/-- Two changes of one fabric are one. -/
theorem State.modFabric_modFabric (s : State) (t : Nat) (f g : Fabric → Fabric) :
    (s.modFabric t f).modFabric t g = s.modFabric t (fun x => g (f x)) := by
  simp [State.modFabric, State.modTile_modTile]

@[simp] theorem State.fabric_modFabric_same (s : State) (t : Nat) (f : Fabric → Fabric) (h : t < 192) :
    (s.modFabric t f).fabric t = f (s.fabric t) := by
  simp [State.modFabric, State.fabric, h]

@[simp] theorem State.fabric_modFabric_ne (s : State) (t u : Nat) (f : Fabric → Fabric) (h : t ≠ u) :
    (s.modFabric t f).fabric u = s.fabric u := by
  simp [State.modFabric, State.fabric, h]

@[simp] theorem State.tile_modFabric_ne (s : State) (t u : Nat) (f : Fabric → Fabric) (h : t ≠ u) :
    (s.modFabric t f).tile u = s.tile u := by
  simp [State.modFabric, h]

@[simp] theorem State.tile_modCtx_ne (s : State) (t u : Nat) (f : Ctx → Ctx) (h : t ≠ u) :
    (s.modCtx t f).tile u = s.tile u := by
  simp [State.modCtx, h]

/-- A change of the fabric leaves the running context alone. -/
@[simp] theorem State.ctx_modFabric (s : State) (t u : Nat) (f : Fabric → Fabric) :
    ((s.modFabric t f).tile u).ctx = (s.tile u).ctx := by
  by_cases h : t = u
  · subst h
    by_cases hb : t < 192
    · simp [State.modFabric, hb]
    · simp [State.modFabric, State.modTile, State.tile_setTile, hb]
  · simp [h]

/-- A change of the fabric leaves the scratchpad alone. -/
@[simp] theorem State.mem_modFabric (s : State) (t u : Nat) (f : Fabric → Fabric) :
    ((s.modFabric t f).tile u).mem = (s.tile u).mem := by
  by_cases h : t = u
  · subst h
    by_cases hb : t < 192
    · simp [State.modFabric, hb]
    · simp [State.modFabric, State.modTile, State.tile_setTile, hb]
  · simp [h]

/-- A change of the running context leaves the scratchpad alone. -/
@[simp] theorem State.mem_modCtx (s : State) (t u : Nat) (f : Ctx → Ctx) :
    ((s.modCtx t f).tile u).mem = (s.tile u).mem := by
  by_cases h : t = u
  · subst h
    by_cases hb : t < 192
    · simp [State.modCtx, hb]
    · simp [State.modCtx, State.modTile, State.tile_setTile, hb]
  · simp [h]

/-- Reading a tenant after one is changed. -/
theorem State.tenant_modTenant (s : State) (f u : Nat) (g : Tenant → Tenant) :
    (s.modTenant f g).tenant u = if f = u ∧ u < 16 then g (s.tenant f) else s.tenant u := by
  simp only [State.tenant, State.modTenant, Vector.getElem?_setIfInBounds]
  split <;> split <;> simp_all

/-- Reading a grant unit after one is changed. -/
theorem State.stack_modStack (s : State) (k u : Nat) (g : Stack → Stack) :
    (s.modStack k g).stack u = if k = u ∧ u < 4 then g (s.stack k) else s.stack u := by
  simp only [State.stack, State.modStack, Vector.getElem?_setIfInBounds]
  split <;> split <;> simp_all

end Sys2Proof.Machine
end

