-- ==== Sys2Proof/Laws/Firing.lean ====
section
/-! SUPPORT. What a firing does, said once: its turn, its result, a held effect, an exit, a nullified slot. -/

namespace Sys2Proof.Machine

/-- A firing whose turn it is runs its meaning. -/
theorem onFiring_turn {s : State} {f : Firing} {nul : How} {k : Firing → State → State} (ht : Turn s f) :
    onFiring s nul k = .next (k f { s with cur := none }) := by
  simp [onFiring, ht.1, ht.2]

/-- Without a firing nothing happens. -/
theorem onFiring_none {s : State} {nul : How} {k : Firing → State → State} (hc : s.cur = none) :
    onFiring s nul k = .next s := by
  simp [onFiring, hc]

theorem settle_cur (s : State) (f : Firing) (how : How) : settle { s with cur := none } f how = settledWith s f how [] := by
  have key (u : State) : settle u f how = u.modFabric f.tile (fun x => { x with
      settled := x.settled ++ [({ slot := f.slot, key := f.key, how := how } : Settled)], mesh := x.mesh ++ [] }) := by
    simp only [settle, List.append_nil]
  exact key _

/-- A firing that is predicated off, or that met a NULL token, only settles (R99). -/
theorem onFiring_off {s : State} {f : Firing} {nul : How} {k : Firing → State → State} (hc : s.cur = some f)
    (ho : f.off = true) : onFiring s nul k = .next (settledWith s f nul []) := by
  rw [← settle_cur]; simp [onFiring, hc, ho]

/-- Settling and delivering one token at once. -/
theorem fireResult_eq (u : State) (f : Firing) (h : Hdr) (tok : Token) :
    fireResult f h tok u = u.modFabric f.tile (fun x => { x with
      settled := x.settled ++ [({ slot := f.slot, key := f.key, how := .fired } : Settled)]
      mesh := x.mesh ++ sent f.slot h tok }) := by
  unfold fireResult deliver send settle sent
  rcases Decidable.em (h.t1.d = 0) with h1 | h1 <;> rcases Decidable.em (h.t2.d = 0) with h2 | h2 <;>
    simp only [h1, h2, if_true, if_false, State.modFabric_modFabric, List.filter_cons, List.filter_nil, ne_eq,
      not_true_eq_false, not_false_eq_true, decide_true, decide_false, Bool.false_eq_true, List.map_nil, List.map_cons,
      List.append_nil, List.append_assoc, List.cons_append, List.nil_append]

theorem fireResult_cur (s : State) (f : Firing) (h : Hdr) (tok : Token) :
    fireResult f h tok { s with cur := none } = delivered s f h tok := fireResult_eq _ f h tok

theorem fireHeld_cur (s : State) (f : Firing) (tagged : Bool) (e : Effect) :
    fireHeld { s with cur := none } f tagged e = holding s f tagged e [] := by
  have key (u : State) : fireHeld u f tagged e = u.modFabric f.tile (fun x => { x with
      settled := x.settled ++ [({ slot := f.slot, key := f.key, how := .fired } : Settled)], mesh := x.mesh ++ []
      held := x.held ++ [({ slot := f.slot, key := f.key, tagged := tagged, eff := e, anc := f.anc } : Held)] }) := by
    simp only [fireHeld, hold, holdAt, settle, State.modFabric_modFabric, List.append_nil]
  exact key _

theorem keepWr_cur (s : State) (f : Firing) (w : HeldWr) : keepWr { s with cur := none } f w = keeping s f w := by
  have key (u : State) : keepWr u f w = u.modFabric f.tile (fun x => { x with
      settled := x.settled ++ [({ slot := f.slot, key := f.key, how := .fired } : Settled)], wrs := x.wrs ++ [w] }) := by
    simp only [keepWr, settle, State.modFabric_modFabric]
  exact key _

theorem fireFloat_cur (s : State) (f : Firing) (h : Hdr) (r : Nat × BitVec 6) :
    fireFloat f h r { s with cur := none } = floating s f h (BitVec.ofNat 64 r.1) r.2 := by
  unfold fireFloat floating
  rw [fireResult_cur]
  split
  · rfl
  · have key (u : State) (tok : Token) (e : Effect) : hold (u.modFabric f.tile (fun x => { x with
        settled := x.settled ++ [({ slot := f.slot, key := f.key, how := .fired } : Settled)]
        mesh := x.mesh ++ sent f.slot h tok })) f false e = u.modFabric f.tile (fun x => { x with
      settled := x.settled ++ [({ slot := f.slot, key := f.key, how := .fired } : Settled)]
      mesh := x.mesh ++ sent f.slot h tok
      held := x.held ++ [({ slot := f.slot, key := f.key, tagged := false, eff := e, anc := f.anc } : Held)] }) := by
      simp only [hold, holdAt, State.modFabric_modFabric]
    exact key _ _ _

/-- An exit that fires first is recorded. -/
theorem fireExit_cur {s : State} {f : Firing} {dest : ExitTo} (hx : (s.fabric f.tile).exit = none) :
    fireExit { s with cur := none } f dest = exiting s f dest := by
  have key (u : State) (hu : (u.fabric f.tile).exit = none) : fireExit u f dest = u.modFabric f.tile (fun x => { x with
      settled := x.settled ++ [({ slot := f.slot, key := f.key, how := .fired } : Settled)]
      exit := some { slot := f.slot, key := f.key, dest := dest } }) := by
    simp only [fireExit, hu, settle, State.modFabric_modFabric]
  exact key _ hx

/-- A form of two operands delivers its value. -/
theorem binary_turn {s : State} {f : Firing} {h : Hdr} {op : Word → Word → Word} (ht : Turn s f) :
    binary h op s = .next (delivered s f h (resultToken f (op (tokVal f.left) (tokVal f.right)) f.eos)) := by
  rw [binary, onFiring_turn ht, fireResult_cur]

/-- A form of one operand delivers its value. -/
theorem unary_turn {s : State} {f : Firing} {h : Hdr} {op : Word → Word} (ht : Turn s f) :
    unary h op s = .next (delivered s f h (resultToken f (op (tokVal f.left)) f.eos)) := by
  rw [unary, onFiring_turn ht, fireResult_cur]

/-- The first candidate is one of them. -/
theorem firstCandidate_mem {l : List Candidate} {a : Candidate} (h : firstCandidate l = some a) : a ∈ l := by
  induction l generalizing a with
  | nil => simp [firstCandidate] at h
  | cons x rest ih =>
    simp only [firstCandidate] at h
    split at h
    · simp_all
    · rename_i b hb
      split at h
      · cases h; exact List.mem_cons_of_mem _ (ih hb)
      · simp_all

/-- A slot among the ready ones holds an instruction that is ready for its key. -/
theorem readySlots_ready {s : State} {t : Nat} {slots : List Nat} {a : Candidate} {b : Block}
    (hb : (s.fabric t).blk = some b) (h : a ∈ readySlots s t slots) :
    ∃ c i, (s.tile t).ctx = some c ∧ instrAt b a.slot = some i ∧ readyFor s t b c a.slot i a.key = true := by
  simp only [readySlots, hb] at h
  split at h
  · rename_i b' c hb' hc
    cases hb'
    simp only [List.mem_flatMap] at h
    obtain ⟨j, -, h⟩ := h
    split at h
    · simp at h
    · rename_i i hi
      simp only [List.mem_map, List.mem_filter] at h
      obtain ⟨k, hk, rfl⟩ := h
      exact ⟨c, i, hc, hi, hk.2⟩
  · simp at h

/-- What a cluster fires is ready (R99, R101, R131). -/
theorem chooseFiring_ready {s : State} {t n : Nat} {a : Candidate} {b : Block} (hb : (s.fabric t).blk = some b)
    (h : chooseFiring s t n = some a) :
    ∃ c i, (s.tile t).ctx = some c ∧ instrAt b a.slot = some i ∧ readyFor s t b c a.slot i a.key = true := by
  refine readySlots_ready hb (slots := clusterSlots n) ?_
  simp only [chooseFiring] at h
  split at h
  · rename_i x hx
    cases h
    exact (List.mem_filter.mp (firstCandidate_mem hx)).1
  · exact firstCandidate_mem h

/-- Every port that a chosen firing needs has its token (R99). -/
theorem chooseFiring_operands {s : State} {t n : Nat} {a : Candidate} {b : Block} {i : Instr} {p : Port}
    (hb : (s.fabric t).blk = some b) (h : chooseFiring s t n = some a) (hi : instrAt b a.slot = some i)
    (hp : p ∈ portNeeds b a.slot i) : (operandAt (s.fabric t) a.slot p a.key).isSome := by
  obtain ⟨c, i', -, hi', hr⟩ := chooseFiring_ready hb h
  rw [hi] at hi'
  cases hi'
  simp only [readyFor, hasOperands, Bool.and_eq_true, List.all_eq_true] at hr
  exact hr.1.1.2 p hp

end Sys2Proof.Machine
end

