-- ==== Sys2Proof/Laws/PerInstr.lean ====
section
/-! SUPPORT. One lemma per instruction: its word carries its common fields. -/

/-- The common fields of an instruction's word are the instruction's (R311); a device step has none. -/
def Sys2Proof.Laws.Header.Statement (i : Sys2Proof.Instr) : Prop :=
  ∀ h, Sys2Proof.Machine.hdrOf i = some h → Sys2Proof.headerOf (Sys2Proof.fieldsOf (Sys2Proof.encode i)) = .ok h

open Sys2Proof

theorem Sys2Proof.Laws.Header.rd (h : Hdr) (keep kr : Bool) (n : BitVec 6) :
    Sys2Proof.Laws.Header.Statement (.rd h keep kr n) := fun _ e => Option.some.inj e ▸ headerOf_pack ..
theorem Sys2Proof.Laws.Header.wr (h : Hdr) (kr : Bool) (n : BitVec 6) :
    Sys2Proof.Laws.Header.Statement (.wr h kr n) := fun _ e => Option.some.inj e ▸ headerOf_pack ..
theorem Sys2Proof.Laws.Header.mov (h : Hdr) :
    Sys2Proof.Laws.Header.Statement (.mov h) := fun _ e => Option.some.inj e ▸ headerOf_pack ..
theorem Sys2Proof.Laws.Header.movi (h : Hdr) (imm : BitVec 30) :
    Sys2Proof.Laws.Header.Statement (.movi h imm) := fun _ e => Option.some.inj e ▸ headerOf_pack ..
theorem Sys2Proof.Laws.Header.movhi (h : Hdr) (imm : BitVec 30) :
    Sys2Proof.Laws.Header.Statement (.movhi h imm) := fun _ e => Option.some.inj e ▸ headerOf_pack ..
theorem Sys2Proof.Laws.Header.nul (h : Hdr) :
    Sys2Proof.Laws.Header.Statement (.nul h) := fun _ e => Option.some.inj e ▸ headerOf_pack ..
theorem Sys2Proof.Laws.Header.sel (h : Hdr) :
    Sys2Proof.Laws.Header.Statement (.sel h) := fun _ e => Option.some.inj e ▸ headerOf_pack ..
theorem Sys2Proof.Laws.Header.tagof (h : Hdr) :
    Sys2Proof.Laws.Header.Statement (.tagof h) := fun _ e => Option.some.inj e ▸ headerOf_pack ..
theorem Sys2Proof.Laws.Header.lgen (h : Hdr) :
    Sys2Proof.Laws.Header.Statement (.lgen h) := fun _ e => Option.some.inj e ▸ headerOf_pack ..
theorem Sys2Proof.Laws.Header.lgen2 (h : Hdr) :
    Sys2Proof.Laws.Header.Statement (.lgen2 h) := fun _ e => Option.some.inj e ▸ headerOf_pack ..
theorem Sys2Proof.Laws.Header.teos (h : Hdr) :
    Sys2Proof.Laws.Header.Statement (.teos h) := fun _ e => Option.some.inj e ▸ headerOf_pack ..
theorem Sys2Proof.Laws.Header.add (h : Hdr) :
    Sys2Proof.Laws.Header.Statement (.add h) := fun _ e => Option.some.inj e ▸ headerOf_pack ..
theorem Sys2Proof.Laws.Header.sub (h : Hdr) :
    Sys2Proof.Laws.Header.Statement (.sub h) := fun _ e => Option.some.inj e ▸ headerOf_pack ..
theorem Sys2Proof.Laws.Header.mul (h : Hdr) :
    Sys2Proof.Laws.Header.Statement (.mul h) := fun _ e => Option.some.inj e ▸ headerOf_pack ..
theorem Sys2Proof.Laws.Header.mulh (h : Hdr) :
    Sys2Proof.Laws.Header.Statement (.mulh h) := fun _ e => Option.some.inj e ▸ headerOf_pack ..
theorem Sys2Proof.Laws.Header.mulhu (h : Hdr) :
    Sys2Proof.Laws.Header.Statement (.mulhu h) := fun _ e => Option.some.inj e ▸ headerOf_pack ..
theorem Sys2Proof.Laws.Header.div (h : Hdr) :
    Sys2Proof.Laws.Header.Statement (.div h) := fun _ e => Option.some.inj e ▸ headerOf_pack ..
theorem Sys2Proof.Laws.Header.divu (h : Hdr) :
    Sys2Proof.Laws.Header.Statement (.divu h) := fun _ e => Option.some.inj e ▸ headerOf_pack ..
theorem Sys2Proof.Laws.Header.rem (h : Hdr) :
    Sys2Proof.Laws.Header.Statement (.rem h) := fun _ e => Option.some.inj e ▸ headerOf_pack ..
theorem Sys2Proof.Laws.Header.remu (h : Hdr) :
    Sys2Proof.Laws.Header.Statement (.remu h) := fun _ e => Option.some.inj e ▸ headerOf_pack ..
theorem Sys2Proof.Laws.Header.and (h : Hdr) :
    Sys2Proof.Laws.Header.Statement (.and h) := fun _ e => Option.some.inj e ▸ headerOf_pack ..
theorem Sys2Proof.Laws.Header.or (h : Hdr) :
    Sys2Proof.Laws.Header.Statement (.or h) := fun _ e => Option.some.inj e ▸ headerOf_pack ..
theorem Sys2Proof.Laws.Header.xor (h : Hdr) :
    Sys2Proof.Laws.Header.Statement (.xor h) := fun _ e => Option.some.inj e ▸ headerOf_pack ..
theorem Sys2Proof.Laws.Header.andn (h : Hdr) :
    Sys2Proof.Laws.Header.Statement (.andn h) := fun _ e => Option.some.inj e ▸ headerOf_pack ..
theorem Sys2Proof.Laws.Header.shl (h : Hdr) :
    Sys2Proof.Laws.Header.Statement (.shl h) := fun _ e => Option.some.inj e ▸ headerOf_pack ..
theorem Sys2Proof.Laws.Header.shr (h : Hdr) :
    Sys2Proof.Laws.Header.Statement (.shr h) := fun _ e => Option.some.inj e ▸ headerOf_pack ..
theorem Sys2Proof.Laws.Header.sar (h : Hdr) :
    Sys2Proof.Laws.Header.Statement (.sar h) := fun _ e => Option.some.inj e ▸ headerOf_pack ..
theorem Sys2Proof.Laws.Header.rol (h : Hdr) :
    Sys2Proof.Laws.Header.Statement (.rol h) := fun _ e => Option.some.inj e ▸ headerOf_pack ..
theorem Sys2Proof.Laws.Header.clz (h : Hdr) :
    Sys2Proof.Laws.Header.Statement (.clz h) := fun _ e => Option.some.inj e ▸ headerOf_pack ..
theorem Sys2Proof.Laws.Header.ctz (h : Hdr) :
    Sys2Proof.Laws.Header.Statement (.ctz h) := fun _ e => Option.some.inj e ▸ headerOf_pack ..
theorem Sys2Proof.Laws.Header.popc (h : Hdr) :
    Sys2Proof.Laws.Header.Statement (.popc h) := fun _ e => Option.some.inj e ▸ headerOf_pack ..
theorem Sys2Proof.Laws.Header.min (h : Hdr) :
    Sys2Proof.Laws.Header.Statement (.min h) := fun _ e => Option.some.inj e ▸ headerOf_pack ..
theorem Sys2Proof.Laws.Header.max (h : Hdr) :
    Sys2Proof.Laws.Header.Statement (.max h) := fun _ e => Option.some.inj e ▸ headerOf_pack ..
theorem Sys2Proof.Laws.Header.minu (h : Hdr) :
    Sys2Proof.Laws.Header.Statement (.minu h) := fun _ e => Option.some.inj e ▸ headerOf_pack ..
theorem Sys2Proof.Laws.Header.maxu (h : Hdr) :
    Sys2Proof.Laws.Header.Statement (.maxu h) := fun _ e => Option.some.inj e ▸ headerOf_pack ..
theorem Sys2Proof.Laws.Header.bfx (h : Hdr) (lsb len1 : BitVec 6) :
    Sys2Proof.Laws.Header.Statement (.bfx h lsb len1) := fun _ e => Option.some.inj e ▸ headerOf_pack ..
theorem Sys2Proof.Laws.Header.bfxu (h : Hdr) (lsb len1 : BitVec 6) :
    Sys2Proof.Laws.Header.Statement (.bfxu h lsb len1) := fun _ e => Option.some.inj e ▸ headerOf_pack ..
theorem Sys2Proof.Laws.Header.bfi (h : Hdr) (lsb len1 : BitVec 6) :
    Sys2Proof.Laws.Header.Statement (.bfi h lsb len1) := fun _ e => Option.some.inj e ▸ headerOf_pack ..
theorem Sys2Proof.Laws.Header.shadd (h : Hdr) (s1 : BitVec 2) :
    Sys2Proof.Laws.Header.Statement (.shadd h s1) := fun _ e => Option.some.inj e ▸ headerOf_pack ..
theorem Sys2Proof.Laws.Header.addi (h : Hdr) (imm : BitVec 30) :
    Sys2Proof.Laws.Header.Statement (.addi h imm) := fun _ e => Option.some.inj e ▸ headerOf_pack ..
theorem Sys2Proof.Laws.Header.muli (h : Hdr) (imm : BitVec 30) :
    Sys2Proof.Laws.Header.Statement (.muli h imm) := fun _ e => Option.some.inj e ▸ headerOf_pack ..
theorem Sys2Proof.Laws.Header.andi (h : Hdr) (imm : BitVec 30) :
    Sys2Proof.Laws.Header.Statement (.andi h imm) := fun _ e => Option.some.inj e ▸ headerOf_pack ..
theorem Sys2Proof.Laws.Header.ori (h : Hdr) (imm : BitVec 30) :
    Sys2Proof.Laws.Header.Statement (.ori h imm) := fun _ e => Option.some.inj e ▸ headerOf_pack ..
theorem Sys2Proof.Laws.Header.xori (h : Hdr) (imm : BitVec 30) :
    Sys2Proof.Laws.Header.Statement (.xori h imm) := fun _ e => Option.some.inj e ▸ headerOf_pack ..
theorem Sys2Proof.Laws.Header.shli (h : Hdr) (imm : BitVec 30) :
    Sys2Proof.Laws.Header.Statement (.shli h imm) := fun _ e => Option.some.inj e ▸ headerOf_pack ..
theorem Sys2Proof.Laws.Header.shri (h : Hdr) (imm : BitVec 30) :
    Sys2Proof.Laws.Header.Statement (.shri h imm) := fun _ e => Option.some.inj e ▸ headerOf_pack ..
theorem Sys2Proof.Laws.Header.sari (h : Hdr) (imm : BitVec 30) :
    Sys2Proof.Laws.Header.Statement (.sari h imm) := fun _ e => Option.some.inj e ▸ headerOf_pack ..
theorem Sys2Proof.Laws.Header.teq (h : Hdr) :
    Sys2Proof.Laws.Header.Statement (.teq h) := fun _ e => Option.some.inj e ▸ headerOf_pack ..
theorem Sys2Proof.Laws.Header.tne (h : Hdr) :
    Sys2Proof.Laws.Header.Statement (.tne h) := fun _ e => Option.some.inj e ▸ headerOf_pack ..
theorem Sys2Proof.Laws.Header.tlt (h : Hdr) :
    Sys2Proof.Laws.Header.Statement (.tlt h) := fun _ e => Option.some.inj e ▸ headerOf_pack ..
theorem Sys2Proof.Laws.Header.tle (h : Hdr) :
    Sys2Proof.Laws.Header.Statement (.tle h) := fun _ e => Option.some.inj e ▸ headerOf_pack ..
theorem Sys2Proof.Laws.Header.tltu (h : Hdr) :
    Sys2Proof.Laws.Header.Statement (.tltu h) := fun _ e => Option.some.inj e ▸ headerOf_pack ..
theorem Sys2Proof.Laws.Header.tleu (h : Hdr) :
    Sys2Proof.Laws.Header.Statement (.tleu h) := fun _ e => Option.some.inj e ▸ headerOf_pack ..
theorem Sys2Proof.Laws.Header.teqi (h : Hdr) (imm : BitVec 30) :
    Sys2Proof.Laws.Header.Statement (.teqi h imm) := fun _ e => Option.some.inj e ▸ headerOf_pack ..
theorem Sys2Proof.Laws.Header.tnei (h : Hdr) (imm : BitVec 30) :
    Sys2Proof.Laws.Header.Statement (.tnei h imm) := fun _ e => Option.some.inj e ▸ headerOf_pack ..
theorem Sys2Proof.Laws.Header.tlti (h : Hdr) (imm : BitVec 30) :
    Sys2Proof.Laws.Header.Statement (.tlti h imm) := fun _ e => Option.some.inj e ▸ headerOf_pack ..
theorem Sys2Proof.Laws.Header.tlei (h : Hdr) (imm : BitVec 30) :
    Sys2Proof.Laws.Header.Statement (.tlei h imm) := fun _ e => Option.some.inj e ▸ headerOf_pack ..
theorem Sys2Proof.Laws.Header.tltui (h : Hdr) (imm : BitVec 30) :
    Sys2Proof.Laws.Header.Statement (.tltui h imm) := fun _ e => Option.some.inj e ▸ headerOf_pack ..
theorem Sys2Proof.Laws.Header.tleui (h : Hdr) (imm : BitVec 30) :
    Sys2Proof.Laws.Header.Statement (.tleui h imm) := fun _ e => Option.some.inj e ▸ headerOf_pack ..
theorem Sys2Proof.Laws.Header.pand (h : Hdr) :
    Sys2Proof.Laws.Header.Statement (.pand h) := fun _ e => Option.some.inj e ▸ headerOf_pack ..
theorem Sys2Proof.Laws.Header.por (h : Hdr) :
    Sys2Proof.Laws.Header.Statement (.por h) := fun _ e => Option.some.inj e ▸ headerOf_pack ..
theorem Sys2Proof.Laws.Header.pnot (h : Hdr) :
    Sys2Proof.Laws.Header.Statement (.pnot h) := fun _ e => Option.some.inj e ▸ headerOf_pack ..
theorem Sys2Proof.Laws.Header.fadd (h : Hdr) (rm : BitVec 2) (sat : Bool) :
    Sys2Proof.Laws.Header.Statement (.fadd h rm sat) := fun _ e => Option.some.inj e ▸ headerOf_pack ..
theorem Sys2Proof.Laws.Header.fsub (h : Hdr) (rm : BitVec 2) (sat : Bool) :
    Sys2Proof.Laws.Header.Statement (.fsub h rm sat) := fun _ e => Option.some.inj e ▸ headerOf_pack ..
theorem Sys2Proof.Laws.Header.fmul (h : Hdr) (rm : BitVec 2) (sat : Bool) :
    Sys2Proof.Laws.Header.Statement (.fmul h rm sat) := fun _ e => Option.some.inj e ▸ headerOf_pack ..
theorem Sys2Proof.Laws.Header.ffma (h : Hdr) (rm : BitVec 2) (sat : Bool) :
    Sys2Proof.Laws.Header.Statement (.ffma h rm sat) := fun _ e => Option.some.inj e ▸ headerOf_pack ..
theorem Sys2Proof.Laws.Header.fdiv (h : Hdr) (rm : BitVec 2) (sat : Bool) :
    Sys2Proof.Laws.Header.Statement (.fdiv h rm sat) := fun _ e => Option.some.inj e ▸ headerOf_pack ..
theorem Sys2Proof.Laws.Header.fmin (h : Hdr) :
    Sys2Proof.Laws.Header.Statement (.fmin h) := fun _ e => Option.some.inj e ▸ headerOf_pack ..
theorem Sys2Proof.Laws.Header.fmax (h : Hdr) :
    Sys2Proof.Laws.Header.Statement (.fmax h) := fun _ e => Option.some.inj e ▸ headerOf_pack ..
theorem Sys2Proof.Laws.Header.fcvt (h : Hdr) (fn : BitVec 4) (rm : BitVec 2) (sat : Bool) :
    Sys2Proof.Laws.Header.Statement (.fcvt h fn rm sat) := fun _ e => Option.some.inj e ▸ headerOf_pack ..
theorem Sys2Proof.Laws.Header.fteq (h : Hdr) :
    Sys2Proof.Laws.Header.Statement (.fteq h) := fun _ e => Option.some.inj e ▸ headerOf_pack ..
theorem Sys2Proof.Laws.Header.ftlt (h : Hdr) :
    Sys2Proof.Laws.Header.Statement (.ftlt h) := fun _ e => Option.some.inj e ▸ headerOf_pack ..
theorem Sys2Proof.Laws.Header.ftle (h : Hdr) :
    Sys2Proof.Laws.Header.Statement (.ftle h) := fun _ e => Option.some.inj e ▸ headerOf_pack ..
theorem Sys2Proof.Laws.Header.br (h : Hdr) (off : BitVec 30) :
    Sys2Proof.Laws.Header.Statement (.br h off) := fun _ e => Option.some.inj e ▸ headerOf_pack ..
theorem Sys2Proof.Laws.Header.bri (h : Hdr) :
    Sys2Proof.Laws.Header.Statement (.bri h) := fun _ e => Option.some.inj e ▸ headerOf_pack ..
theorem Sys2Proof.Laws.Header.call (h : Hdr) (off : BitVec 30) :
    Sys2Proof.Laws.Header.Statement (.call h off) := fun _ e => Option.some.inj e ▸ headerOf_pack ..
theorem Sys2Proof.Laws.Header.calli (h : Hdr) :
    Sys2Proof.Laws.Header.Statement (.calli h) := fun _ e => Option.some.inj e ▸ headerOf_pack ..
theorem Sys2Proof.Laws.Header.ret (h : Hdr) :
    Sys2Proof.Laws.Header.Statement (.ret h) := fun _ e => Option.some.inj e ▸ headerOf_pack ..
theorem Sys2Proof.Laws.Header.halt (h : Hdr) :
    Sys2Proof.Laws.Header.Statement (.halt h) := fun _ e => Option.some.inj e ▸ headerOf_pack ..
theorem Sys2Proof.Laws.Header.ldb (h : Hdr) (m : MField) :
    Sys2Proof.Laws.Header.Statement (.ldb h m) := fun _ e => Option.some.inj e ▸ headerOf_pack ..
theorem Sys2Proof.Laws.Header.ldbu (h : Hdr) (m : MField) :
    Sys2Proof.Laws.Header.Statement (.ldbu h m) := fun _ e => Option.some.inj e ▸ headerOf_pack ..
theorem Sys2Proof.Laws.Header.ldh (h : Hdr) (m : MField) :
    Sys2Proof.Laws.Header.Statement (.ldh h m) := fun _ e => Option.some.inj e ▸ headerOf_pack ..
theorem Sys2Proof.Laws.Header.ldhu (h : Hdr) (m : MField) :
    Sys2Proof.Laws.Header.Statement (.ldhu h m) := fun _ e => Option.some.inj e ▸ headerOf_pack ..
theorem Sys2Proof.Laws.Header.ldw (h : Hdr) (m : MField) :
    Sys2Proof.Laws.Header.Statement (.ldw h m) := fun _ e => Option.some.inj e ▸ headerOf_pack ..
theorem Sys2Proof.Laws.Header.ldwu (h : Hdr) (m : MField) :
    Sys2Proof.Laws.Header.Statement (.ldwu h m) := fun _ e => Option.some.inj e ▸ headerOf_pack ..
theorem Sys2Proof.Laws.Header.ldd (h : Hdr) (m : MField) :
    Sys2Proof.Laws.Header.Statement (.ldd h m) := fun _ e => Option.some.inj e ▸ headerOf_pack ..
theorem Sys2Proof.Laws.Header.ldk (h : Hdr) (m : MField) :
    Sys2Proof.Laws.Header.Statement (.ldk h m) := fun _ e => Option.some.inj e ▸ headerOf_pack ..
theorem Sys2Proof.Laws.Header.stb (h : Hdr) (m : MField) :
    Sys2Proof.Laws.Header.Statement (.stb h m) := fun _ e => Option.some.inj e ▸ headerOf_pack ..
theorem Sys2Proof.Laws.Header.sth (h : Hdr) (m : MField) :
    Sys2Proof.Laws.Header.Statement (.sth h m) := fun _ e => Option.some.inj e ▸ headerOf_pack ..
theorem Sys2Proof.Laws.Header.stw (h : Hdr) (m : MField) :
    Sys2Proof.Laws.Header.Statement (.stw h m) := fun _ e => Option.some.inj e ▸ headerOf_pack ..
theorem Sys2Proof.Laws.Header.std (h : Hdr) (m : MField) :
    Sys2Proof.Laws.Header.Statement (.std h m) := fun _ e => Option.some.inj e ▸ headerOf_pack ..
theorem Sys2Proof.Laws.Header.stk (h : Hdr) (m : MField) :
    Sys2Proof.Laws.Header.Statement (.stk h m) := fun _ e => Option.some.inj e ▸ headerOf_pack ..
theorem Sys2Proof.Laws.Header.lde (h : Hdr) (m : MField) :
    Sys2Proof.Laws.Header.Statement (.lde h m) := fun _ e => Option.some.inj e ▸ headerOf_pack ..
theorem Sys2Proof.Laws.Header.stf (h : Hdr) (m : MField) :
    Sys2Proof.Laws.Header.Statement (.stf h m) := fun _ e => Option.some.inj e ▸ headerOf_pack ..
theorem Sys2Proof.Laws.Header.stfw (h : Hdr) (m : MField) :
    Sys2Proof.Laws.Header.Statement (.stfw h m) := fun _ e => Option.some.inj e ▸ headerOf_pack ..
theorem Sys2Proof.Laws.Header.feq (h : Hdr) (m : MField) :
    Sys2Proof.Laws.Header.Statement (.feq h m) := fun _ e => Option.some.inj e ▸ headerOf_pack ..
theorem Sys2Proof.Laws.Header.feclr (h : Hdr) (m : MField) :
    Sys2Proof.Laws.Header.Statement (.feclr h m) := fun _ e => Option.some.inj e ▸ headerOf_pack ..
theorem Sys2Proof.Laws.Header.feset (h : Hdr) (m : MField) :
    Sys2Proof.Laws.Header.Statement (.feset h m) := fun _ e => Option.some.inj e ▸ headerOf_pack ..
theorem Sys2Proof.Laws.Header.aadd (h : Hdr) (acq rel : Bool) (m : MField) :
    Sys2Proof.Laws.Header.Statement (.aadd h acq rel m) := fun _ e => Option.some.inj e ▸ headerOf_pack ..
theorem Sys2Proof.Laws.Header.aand (h : Hdr) (acq rel : Bool) (m : MField) :
    Sys2Proof.Laws.Header.Statement (.aand h acq rel m) := fun _ e => Option.some.inj e ▸ headerOf_pack ..
theorem Sys2Proof.Laws.Header.aor (h : Hdr) (acq rel : Bool) (m : MField) :
    Sys2Proof.Laws.Header.Statement (.aor h acq rel m) := fun _ e => Option.some.inj e ▸ headerOf_pack ..
theorem Sys2Proof.Laws.Header.axor (h : Hdr) (acq rel : Bool) (m : MField) :
    Sys2Proof.Laws.Header.Statement (.axor h acq rel m) := fun _ e => Option.some.inj e ▸ headerOf_pack ..
theorem Sys2Proof.Laws.Header.amin (h : Hdr) (acq rel : Bool) (m : MField) :
    Sys2Proof.Laws.Header.Statement (.amin h acq rel m) := fun _ e => Option.some.inj e ▸ headerOf_pack ..
theorem Sys2Proof.Laws.Header.amax (h : Hdr) (acq rel : Bool) (m : MField) :
    Sys2Proof.Laws.Header.Statement (.amax h acq rel m) := fun _ e => Option.some.inj e ▸ headerOf_pack ..
theorem Sys2Proof.Laws.Header.aminu (h : Hdr) (acq rel : Bool) (m : MField) :
    Sys2Proof.Laws.Header.Statement (.aminu h acq rel m) := fun _ e => Option.some.inj e ▸ headerOf_pack ..
theorem Sys2Proof.Laws.Header.amaxu (h : Hdr) (acq rel : Bool) (m : MField) :
    Sys2Proof.Laws.Header.Statement (.amaxu h acq rel m) := fun _ e => Option.some.inj e ▸ headerOf_pack ..
theorem Sys2Proof.Laws.Header.aswp (h : Hdr) (acq rel : Bool) (m : MField) :
    Sys2Proof.Laws.Header.Statement (.aswp h acq rel m) := fun _ e => Option.some.inj e ▸ headerOf_pack ..
theorem Sys2Proof.Laws.Header.acas (h : Hdr) (acq rel : Bool) (m : MField) :
    Sys2Proof.Laws.Header.Statement (.acas h acq rel m) := fun _ e => Option.some.inj e ▸ headerOf_pack ..
theorem Sys2Proof.Laws.Header.kadv (h : Hdr) :
    Sys2Proof.Laws.Header.Statement (.kadv h) := fun _ e => Option.some.inj e ▸ headerOf_pack ..
theorem Sys2Proof.Laws.Header.ktrim (h : Hdr) :
    Sys2Proof.Laws.Header.Statement (.ktrim h) := fun _ e => Option.some.inj e ▸ headerOf_pack ..
theorem Sys2Proof.Laws.Header.kmask (h : Hdr) :
    Sys2Proof.Laws.Header.Statement (.kmask h) := fun _ e => Option.some.inj e ▸ headerOf_pack ..
theorem Sys2Proof.Laws.Header.kbase (h : Hdr) :
    Sys2Proof.Laws.Header.Statement (.kbase h) := fun _ e => Option.some.inj e ▸ headerOf_pack ..
theorem Sys2Proof.Laws.Header.klen (h : Hdr) :
    Sys2Proof.Laws.Header.Statement (.klen h) := fun _ e => Option.some.inj e ▸ headerOf_pack ..
theorem Sys2Proof.Laws.Header.kattr (h : Hdr) :
    Sys2Proof.Laws.Header.Statement (.kattr h) := fun _ e => Option.some.inj e ▸ headerOf_pack ..
theorem Sys2Proof.Laws.Header.klock (h : Hdr) :
    Sys2Proof.Laws.Header.Statement (.klock h) := fun _ e => Option.some.inj e ▸ headerOf_pack ..
theorem Sys2Proof.Laws.Header.kopen (h : Hdr) :
    Sys2Proof.Laws.Header.Statement (.kopen h) := fun _ e => Option.some.inj e ▸ headerOf_pack ..
theorem Sys2Proof.Laws.Header.sparm (h : Hdr) (k : BitVec 4) (p : BitVec 3) :
    Sys2Proof.Laws.Header.Statement (.sparm h k p) := fun _ e => Option.some.inj e ▸ headerOf_pack ..
theorem Sys2Proof.Laws.Header.spdis (h : Hdr) (p : BitVec 3) :
    Sys2Proof.Laws.Header.Statement (.spdis h p) := fun _ e => Option.some.inj e ▸ headerOf_pack ..
theorem Sys2Proof.Laws.Header.sppos (h : Hdr) (p : BitVec 3) :
    Sys2Proof.Laws.Header.Statement (.sppos h p) := fun _ e => Option.some.inj e ▸ headerOf_pack ..
theorem Sys2Proof.Laws.Header.spskip (h : Hdr) (p : BitVec 3) :
    Sys2Proof.Laws.Header.Statement (.spskip h p) := fun _ e => Option.some.inj e ▸ headerOf_pack ..
theorem Sys2Proof.Laws.Header.fence (h : Hdr) (kinds : BitVec 4) (scope : BitVec 3) :
    Sys2Proof.Laws.Header.Statement (.fence h kinds scope) := fun _ e => Option.some.inj e ▸ headerOf_pack ..
theorem Sys2Proof.Laws.Header.qfence (h : Hdr) (q : BitVec 4) :
    Sys2Proof.Laws.Header.Statement (.qfence h q) := fun _ e => Option.some.inj e ▸ headerOf_pack ..
theorem Sys2Proof.Laws.Header.binit (h : Hdr) (b : BitVec 2) :
    Sys2Proof.Laws.Header.Statement (.binit h b) := fun _ e => Option.some.inj e ▸ headerOf_pack ..
theorem Sys2Proof.Laws.Header.barr (h : Hdr) (b : BitVec 2) :
    Sys2Proof.Laws.Header.Statement (.barr h b) := fun _ e => Option.some.inj e ▸ headerOf_pack ..
theorem Sys2Proof.Laws.Header.bwait (h : Hdr) (b : BitVec 2) :
    Sys2Proof.Laws.Header.Statement (.bwait h b) := fun _ e => Option.some.inj e ▸ headerOf_pack ..
theorem Sys2Proof.Laws.Header.waitq (h : Hdr) (q : BitVec 4) :
    Sys2Proof.Laws.Header.Statement (.waitq h q) := fun _ e => Option.some.inj e ▸ headerOf_pack ..
theorem Sys2Proof.Laws.Header.syscall (h : Hdr) :
    Sys2Proof.Laws.Header.Statement (.syscall h) := fun _ e => Option.some.inj e ▸ headerOf_pack ..
theorem Sys2Proof.Laws.Header.brk (h : Hdr) :
    Sys2Proof.Laws.Header.Statement (.brk h) := fun _ e => Option.some.inj e ▸ headerOf_pack ..
theorem Sys2Proof.Laws.Header.tret (h : Hdr) :
    Sys2Proof.Laws.Header.Statement (.tret h) := fun _ e => Option.some.inj e ▸ headerOf_pack ..
theorem Sys2Proof.Laws.Header.csrr (h : Hdr) (n : BitVec 12) :
    Sys2Proof.Laws.Header.Statement (.csrr h n) := fun _ e => Option.some.inj e ▸ headerOf_pack ..
theorem Sys2Proof.Laws.Header.csrw (h : Hdr) (n : BitVec 12) :
    Sys2Proof.Laws.Header.Statement (.csrw h n) := fun _ e => Option.some.inj e ▸ headerOf_pack ..
theorem Sys2Proof.Laws.Header.tlbiVa (h : Hdr) :
    Sys2Proof.Laws.Header.Statement (.tlbiVa h) := fun _ e => Option.some.inj e ▸ headerOf_pack ..
theorem Sys2Proof.Laws.Header.tlbiCtx (h : Hdr) :
    Sys2Proof.Laws.Header.Statement (.tlbiCtx h) := fun _ e => Option.some.inj e ▸ headerOf_pack ..
theorem Sys2Proof.Laws.Header.tlbiAsid (h : Hdr) :
    Sys2Proof.Laws.Header.Statement (.tlbiAsid h) := fun _ e => Option.some.inj e ▸ headerOf_pack ..
theorem Sys2Proof.Laws.Header.tlbiAll (h : Hdr) :
    Sys2Proof.Laws.Header.Statement (.tlbiAll h) := fun _ e => Option.some.inj e ▸ headerOf_pack ..
theorem Sys2Proof.Laws.Header.asidrt (h : Hdr) :
    Sys2Proof.Laws.Header.Statement (.asidrt h) := fun _ e => Option.some.inj e ▸ headerOf_pack ..
theorem Sys2Proof.Laws.Header.wfe (h : Hdr) :
    Sys2Proof.Laws.Header.Statement (.wfe h) := fun _ e => Option.some.inj e ▸ headerOf_pack ..
theorem Sys2Proof.Laws.Header.vld (h : Hdr) (v : VField) :
    Sys2Proof.Laws.Header.Statement (.vld h v) := fun _ e => Option.some.inj e ▸ headerOf_pack ..
theorem Sys2Proof.Laws.Header.vst (h : Hdr) (v : VField) :
    Sys2Proof.Laws.Header.Statement (.vst h v) := fun _ e => Option.some.inj e ▸ headerOf_pack ..
theorem Sys2Proof.Laws.Header.vlds (h : Hdr) (v : VField) :
    Sys2Proof.Laws.Header.Statement (.vlds h v) := fun _ e => Option.some.inj e ▸ headerOf_pack ..
theorem Sys2Proof.Laws.Header.vsts (h : Hdr) (v : VField) :
    Sys2Proof.Laws.Header.Statement (.vsts h v) := fun _ e => Option.some.inj e ▸ headerOf_pack ..
theorem Sys2Proof.Laws.Header.vgth (h : Hdr) (v : VField) :
    Sys2Proof.Laws.Header.Statement (.vgth h v) := fun _ e => Option.some.inj e ▸ headerOf_pack ..
theorem Sys2Proof.Laws.Header.vsct (h : Hdr) (v : VField) :
    Sys2Proof.Laws.Header.Statement (.vsct h v) := fun _ e => Option.some.inj e ▸ headerOf_pack ..
theorem Sys2Proof.Laws.Header.vscta (h : Hdr) (v : VField) :
    Sys2Proof.Laws.Header.Statement (.vscta h v) := fun _ e => Option.some.inj e ▸ headerOf_pack ..
theorem Sys2Proof.Laws.Header.vbcst (h : Hdr) (v : VField) :
    Sys2Proof.Laws.Header.Statement (.vbcst h v) := fun _ e => Option.some.inj e ▸ headerOf_pack ..
theorem Sys2Proof.Laws.Header.vadd (h : Hdr) (v : VField) :
    Sys2Proof.Laws.Header.Statement (.vadd h v) := fun _ e => Option.some.inj e ▸ headerOf_pack ..
theorem Sys2Proof.Laws.Header.vsub (h : Hdr) (v : VField) :
    Sys2Proof.Laws.Header.Statement (.vsub h v) := fun _ e => Option.some.inj e ▸ headerOf_pack ..
theorem Sys2Proof.Laws.Header.vmul (h : Hdr) (v : VField) :
    Sys2Proof.Laws.Header.Statement (.vmul h v) := fun _ e => Option.some.inj e ▸ headerOf_pack ..
theorem Sys2Proof.Laws.Header.vfma (h : Hdr) (v : VField) :
    Sys2Proof.Laws.Header.Statement (.vfma h v) := fun _ e => Option.some.inj e ▸ headerOf_pack ..
theorem Sys2Proof.Laws.Header.vmin (h : Hdr) (v : VField) :
    Sys2Proof.Laws.Header.Statement (.vmin h v) := fun _ e => Option.some.inj e ▸ headerOf_pack ..
theorem Sys2Proof.Laws.Header.vmax (h : Hdr) (v : VField) :
    Sys2Proof.Laws.Header.Statement (.vmax h v) := fun _ e => Option.some.inj e ▸ headerOf_pack ..
theorem Sys2Proof.Laws.Header.vabs (h : Hdr) (v : VField) :
    Sys2Proof.Laws.Header.Statement (.vabs h v) := fun _ e => Option.some.inj e ▸ headerOf_pack ..
theorem Sys2Proof.Laws.Header.vneg (h : Hdr) (v : VField) :
    Sys2Proof.Laws.Header.Statement (.vneg h v) := fun _ e => Option.some.inj e ▸ headerOf_pack ..
theorem Sys2Proof.Laws.Header.vand (h : Hdr) (v : VField) :
    Sys2Proof.Laws.Header.Statement (.vand h v) := fun _ e => Option.some.inj e ▸ headerOf_pack ..
theorem Sys2Proof.Laws.Header.vor (h : Hdr) (v : VField) :
    Sys2Proof.Laws.Header.Statement (.vor h v) := fun _ e => Option.some.inj e ▸ headerOf_pack ..
theorem Sys2Proof.Laws.Header.vxor (h : Hdr) (v : VField) :
    Sys2Proof.Laws.Header.Statement (.vxor h v) := fun _ e => Option.some.inj e ▸ headerOf_pack ..
theorem Sys2Proof.Laws.Header.vshl (h : Hdr) (v : VField) :
    Sys2Proof.Laws.Header.Statement (.vshl h v) := fun _ e => Option.some.inj e ▸ headerOf_pack ..
theorem Sys2Proof.Laws.Header.vshr (h : Hdr) (v : VField) :
    Sys2Proof.Laws.Header.Statement (.vshr h v) := fun _ e => Option.some.inj e ▸ headerOf_pack ..
theorem Sys2Proof.Laws.Header.vcvt (h : Hdr) (v : VField) :
    Sys2Proof.Laws.Header.Statement (.vcvt h v) := fun _ e => Option.some.inj e ▸ headerOf_pack ..
theorem Sys2Proof.Laws.Header.vexp2 (h : Hdr) (v : VField) :
    Sys2Proof.Laws.Header.Statement (.vexp2 h v) := fun _ e => Option.some.inj e ▸ headerOf_pack ..
theorem Sys2Proof.Laws.Header.vrcp (h : Hdr) (v : VField) :
    Sys2Proof.Laws.Header.Statement (.vrcp h v) := fun _ e => Option.some.inj e ▸ headerOf_pack ..
theorem Sys2Proof.Laws.Header.vrsq (h : Hdr) (v : VField) :
    Sys2Proof.Laws.Header.Statement (.vrsq h v) := fun _ e => Option.some.inj e ▸ headerOf_pack ..
theorem Sys2Proof.Laws.Header.vredadd (h : Hdr) (v : VField) :
    Sys2Proof.Laws.Header.Statement (.vredadd h v) := fun _ e => Option.some.inj e ▸ headerOf_pack ..
theorem Sys2Proof.Laws.Header.vredmax (h : Hdr) (v : VField) :
    Sys2Proof.Laws.Header.Statement (.vredmax h v) := fun _ e => Option.some.inj e ▸ headerOf_pack ..
theorem Sys2Proof.Laws.Header.vredmin (h : Hdr) (v : VField) :
    Sys2Proof.Laws.Header.Statement (.vredmin h v) := fun _ e => Option.some.inj e ▸ headerOf_pack ..
theorem Sys2Proof.Laws.Header.vcmp (h : Hdr) (cond : BitVec 4) (v : VField) :
    Sys2Proof.Laws.Header.Statement (.vcmp h cond v) := fun _ e => Option.some.inj e ▸ headerOf_pack ..
theorem Sys2Proof.Laws.Header.vsel (h : Hdr) (v : VField) :
    Sys2Proof.Laws.Header.Statement (.vsel h v) := fun _ e => Option.some.inj e ▸ headerOf_pack ..
theorem Sys2Proof.Laws.Header.vperm (h : Hdr) (v : VField) :
    Sys2Proof.Laws.Header.Statement (.vperm h v) := fun _ e => Option.some.inj e ▸ headerOf_pack ..
theorem Sys2Proof.Laws.Header.vcmpr (h : Hdr) (v : VField) :
    Sys2Proof.Laws.Header.Statement (.vcmpr h v) := fun _ e => Option.some.inj e ▸ headerOf_pack ..
theorem Sys2Proof.Laws.Header.viota (h : Hdr) (v : VField) :
    Sys2Proof.Laws.Header.Statement (.viota h v) := fun _ e => Option.some.inj e ▸ headerOf_pack ..
theorem Sys2Proof.Laws.Header.mand (h : Hdr) (v : VField) :
    Sys2Proof.Laws.Header.Statement (.mand h v) := fun _ e => Option.some.inj e ▸ headerOf_pack ..
theorem Sys2Proof.Laws.Header.mor (h : Hdr) (v : VField) :
    Sys2Proof.Laws.Header.Statement (.mor h v) := fun _ e => Option.some.inj e ▸ headerOf_pack ..
theorem Sys2Proof.Laws.Header.mnot (h : Hdr) (v : VField) :
    Sys2Proof.Laws.Header.Statement (.mnot h v) := fun _ e => Option.some.inj e ▸ headerOf_pack ..
theorem Sys2Proof.Laws.Header.mpopc (h : Hdr) (v : VField) :
    Sys2Proof.Laws.Header.Statement (.mpopc h v) := fun _ e => Option.some.inj e ▸ headerOf_pack ..
theorem Sys2Proof.Laws.Header.vins (h : Hdr) (v : VField) :
    Sys2Proof.Laws.Header.Statement (.vins h v) := fun _ e => Option.some.inj e ▸ headerOf_pack ..
theorem Sys2Proof.Laws.Header.mlws (h : Hdr) (k : BitVec 4) (fmt : BitVec 5) :
    Sys2Proof.Laws.Header.Statement (.mlws h k fmt) := fun _ e => Option.some.inj e ▸ headerOf_pack ..
theorem Sys2Proof.Laws.Header.mswap (h : Hdr) :
    Sys2Proof.Laws.Header.Statement (.mswap h) := fun _ e => Option.some.inj e ▸ headerOf_pack ..
theorem Sys2Proof.Laws.Header.mpass (h : Hdr) (k : BitVec 4) (m1 row0 : BitVec 10) :
    Sys2Proof.Laws.Header.Statement (.mpass h k m1 row0) := fun _ e => Option.some.inj e ▸ headerOf_pack ..
theorem Sys2Proof.Laws.Header.mpasss (h : Hdr) (k : BitVec 4) (m1 row0 : BitVec 10) :
    Sys2Proof.Laws.Header.Statement (.mpasss h k m1 row0) := fun _ e => Option.some.inj e ▸ headerOf_pack ..
theorem Sys2Proof.Laws.Header.mzero (h : Hdr) (m1 row0 : BitVec 10) :
    Sys2Proof.Laws.Header.Statement (.mzero h m1 row0) := fun _ e => Option.some.inj e ▸ headerOf_pack ..
theorem Sys2Proof.Laws.Header.mrd (h : Hdr) (k : BitVec 4) (m1 row0 : BitVec 10) (dt : BitVec 3) (rm : BitVec 2) (sat : Bool) :
    Sys2Proof.Laws.Header.Statement (.mrd h k m1 row0 dt rm sat) := fun _ e => Option.some.inj e ▸ headerOf_pack ..
theorem Sys2Proof.Laws.Header.mcbl (h : Hdr) (k : BitVec 4) :
    Sys2Proof.Laws.Header.Statement (.mcbl h k) := fun _ e => Option.some.inj e ▸ headerOf_pack ..
theorem Sys2Proof.Laws.Header.rank (h : Hdr) (vd va : BitVec 5) (mg : BitVec 3) (me kt : Bool) (mc : BitVec 3) :
    Sys2Proof.Laws.Header.Statement (.rank h vd va mg me kt mc) := fun _ e => Option.some.inj e ▸ headerOf_pack ..
theorem Sys2Proof.Laws.Header.rkmerge (h : Hdr) (vd va vb : BitVec 5) (kt : Bool) (mc : BitVec 3) :
    Sys2Proof.Laws.Header.Statement (.rkmerge h vd va vb kt mc) := fun _ e => Option.some.inj e ▸ headerOf_pack ..
theorem Sys2Proof.Laws.Header.rkatl (h : Hdr) (k : BitVec 4) :
    Sys2Proof.Laws.Header.Statement (.rkatl h k) := fun _ e => Option.some.inj e ▸ headerOf_pack ..
theorem Sys2Proof.Laws.Header.rkpass (h : Hdr) (k : BitVec 4) (m1 row0 : BitVec 10) :
    Sys2Proof.Laws.Header.Statement (.rkpass h k m1 row0) := fun _ e => Option.some.inj e ▸ headerOf_pack ..
theorem Sys2Proof.Laws.Header.rkrecon (h : Hdr) (vd va vb : BitVec 5) (mg : BitVec 3) (me : Bool) :
    Sys2Proof.Laws.Header.Statement (.rkrecon h vd va vb mg me) := fun _ e => Option.some.inj e ▸ headerOf_pack ..
theorem Sys2Proof.Laws.Header.cpy (h : Hdr) (rec src dst : BitVec 4) :
    Sys2Proof.Laws.Header.Statement (.cpy h rec src dst) := fun _ e => Option.some.inj e ▸ headerOf_pack ..
theorem Sys2Proof.Laws.Header.cpym (h : Hdr) (rec src dst : BitVec 4) :
    Sys2Proof.Laws.Header.Statement (.cpym h rec src dst) := fun _ e => Option.some.inj e ▸ headerOf_pack ..
theorem Sys2Proof.Laws.Header.cpy2d (h : Hdr) (rec src dst : BitVec 4) :
    Sys2Proof.Laws.Header.Statement (.cpy2d h rec src dst) := fun _ e => Option.some.inj e ▸ headerOf_pack ..
theorem Sys2Proof.Laws.Header.cpyfill (h : Hdr) (rec dst : BitVec 4) :
    Sys2Proof.Laws.Header.Statement (.cpyfill h rec dst) := fun _ e => Option.some.inj e ▸ headerOf_pack ..
theorem Sys2Proof.Laws.Header.cpyz (h : Hdr) (rec src dst : BitVec 4) :
    Sys2Proof.Laws.Header.Statement (.cpyz h rec src dst) := fun _ e => Option.some.inj e ▸ headerOf_pack ..
theorem Sys2Proof.Laws.Header.riread (h : Hdr) (region rec : BitVec 4) :
    Sys2Proof.Laws.Header.Statement (.riread h region rec) := fun _ e => Option.some.inj e ▸ headerOf_pack ..
theorem Sys2Proof.Laws.Header.rifilt (h : Hdr) (region rec : BitVec 4) :
    Sys2Proof.Laws.Header.Statement (.rifilt h region rec) := fun _ e => Option.some.inj e ▸ headerOf_pack ..
theorem Sys2Proof.Laws.Header.rimatv (h : Hdr) (region rec : BitVec 4) :
    Sys2Proof.Laws.Header.Statement (.rimatv h region rec) := fun _ e => Option.some.inj e ▸ headerOf_pack ..
theorem Sys2Proof.Laws.Header.riupd (h : Hdr) (region rec : BitVec 4) :
    Sys2Proof.Laws.Header.Statement (.riupd h region rec) := fun _ e => Option.some.inj e ▸ headerOf_pack ..
theorem Sys2Proof.Laws.Header.rired (h : Hdr) (region rec : BitVec 4) :
    Sys2Proof.Laws.Header.Statement (.rired h region rec) := fun _ e => Option.some.inj e ▸ headerOf_pack ..
theorem Sys2Proof.Laws.Header.ricxg (h : Hdr) (region rec : BitVec 4) :
    Sys2Proof.Laws.Header.Statement (.ricxg h region rec) := fun _ e => Option.some.inj e ▸ headerOf_pack ..
theorem Sys2Proof.Laws.Header.riwrite (h : Hdr) (region rec : BitVec 4) :
    Sys2Proof.Laws.Header.Statement (.riwrite h region rec) := fun _ e => Option.some.inj e ▸ headerOf_pack ..
theorem Sys2Proof.Laws.Header.rifill (h : Hdr) (region rec : BitVec 4) :
    Sys2Proof.Laws.Header.Statement (.rifill h region rec) := fun _ e => Option.some.inj e ▸ headerOf_pack ..
theorem Sys2Proof.Laws.Header.ripref (h : Hdr) (region rec : BitVec 4) :
    Sys2Proof.Laws.Header.Statement (.ripref h region rec) := fun _ e => Option.some.inj e ▸ headerOf_pack ..
theorem Sys2Proof.Laws.Header.packetLaunch (slot : Nat) :
    Sys2Proof.Laws.Header.Statement (.packetLaunch slot) := fun _ e => nomatch e
theorem Sys2Proof.Laws.Header.packetCopy (slot : Nat) :
    Sys2Proof.Laws.Header.Statement (.packetCopy slot) := fun _ e => nomatch e
theorem Sys2Proof.Laws.Header.packetHint (slot : Nat) :
    Sys2Proof.Laws.Header.Statement (.packetHint slot) := fun _ e => nomatch e
theorem Sys2Proof.Laws.Header.packetSignal (slot : Nat) :
    Sys2Proof.Laws.Header.Statement (.packetSignal slot) := fun _ e => nomatch e
theorem Sys2Proof.Laws.Header.packetWait (slot : Nat) :
    Sys2Proof.Laws.Header.Statement (.packetWait slot) := fun _ e => nomatch e
theorem Sys2Proof.Laws.Header.packetQueueFence (slot : Nat) :
    Sys2Proof.Laws.Header.Statement (.packetQueueFence slot) := fun _ e => nomatch e
theorem Sys2Proof.Laws.Header.packetMalformed (slot : Nat) :
    Sys2Proof.Laws.Header.Statement (.packetMalformed slot) := fun _ e => nomatch e
theorem Sys2Proof.Laws.Header.packetComplete (f q : Nat) (index : Nat) :
    Sys2Proof.Laws.Header.Statement (.packetComplete f q index) := fun _ e => nomatch e
theorem Sys2Proof.Laws.Header.contextImageLoad (tile : Nat) :
    Sys2Proof.Laws.Header.Statement (.contextImageLoad tile) := fun _ e => nomatch e
theorem Sys2Proof.Laws.Header.localDone (tile : Nat) :
    Sys2Proof.Laws.Header.Statement (.localDone tile) := fun _ e => nomatch e
theorem Sys2Proof.Laws.Header.regionConverge (launch region : Nat) :
    Sys2Proof.Laws.Header.Statement (.regionConverge launch region) := fun _ e => nomatch e
theorem Sys2Proof.Laws.Header.regionStart (launch region : Nat) :
    Sys2Proof.Laws.Header.Statement (.regionStart launch region) := fun _ e => nomatch e
theorem Sys2Proof.Laws.Header.saveImageComplete (tile : Nat) :
    Sys2Proof.Laws.Header.Statement (.saveImageComplete tile) := fun _ e => nomatch e
theorem Sys2Proof.Laws.Header.saveBankFree (tile : Nat) :
    Sys2Proof.Laws.Header.Statement (.saveBankFree tile) := fun _ e => nomatch e
theorem Sys2Proof.Laws.Header.grantStep (stack : Nat) :
    Sys2Proof.Laws.Header.Statement (.grantStep stack) := fun _ e => nomatch e
theorem Sys2Proof.Laws.Header.barrierRelease (launch region barrier : Nat) :
    Sys2Proof.Laws.Header.Statement (.barrierRelease launch region barrier) := fun _ e => nomatch e
theorem Sys2Proof.Laws.Header.blockFetch (tile : Nat) :
    Sys2Proof.Laws.Header.Statement (.blockFetch tile) := fun _ e => nomatch e
theorem Sys2Proof.Laws.Header.blockMap (tile : Nat) :
    Sys2Proof.Laws.Header.Statement (.blockMap tile) := fun _ e => nomatch e
theorem Sys2Proof.Laws.Header.tokenArrival (tile : Nat) (index : Nat) :
    Sys2Proof.Laws.Header.Statement (.tokenArrival tile index) := fun _ e => nomatch e
theorem Sys2Proof.Laws.Header.toyboxReturn (tile : Nat) (cluster set : Nat) :
    Sys2Proof.Laws.Header.Statement (.toyboxReturn tile cluster set) := fun _ e => nomatch e
theorem Sys2Proof.Laws.Header.tagEmit (tile : Nat) :
    Sys2Proof.Laws.Header.Statement (.tagEmit tile) := fun _ e => nomatch e
theorem Sys2Proof.Laws.Header.tagComplete (tile : Nat) (tag : Tag) :
    Sys2Proof.Laws.Header.Statement (.tagComplete tile tag) := fun _ e => nomatch e
theorem Sys2Proof.Laws.Header.tagRetire (tile : Nat) :
    Sys2Proof.Laws.Header.Statement (.tagRetire tile) := fun _ e => nomatch e
theorem Sys2Proof.Laws.Header.blockCommit (tile : Nat) :
    Sys2Proof.Laws.Header.Statement (.blockCommit tile) := fun _ e => nomatch e
theorem Sys2Proof.Laws.Header.quiescenceTrap (tile : Nat) :
    Sys2Proof.Laws.Header.Statement (.quiescenceTrap tile) := fun _ e => nomatch e
theorem Sys2Proof.Laws.Header.trapEntry (tile : Nat) :
    Sys2Proof.Laws.Header.Statement (.trapEntry tile) := fun _ e => nomatch e
theorem Sys2Proof.Laws.Header.engineTrapTaken (tile : Nat) :
    Sys2Proof.Laws.Header.Statement (.engineTrapTaken tile) := fun _ e => nomatch e
theorem Sys2Proof.Laws.Header.loadReturn (id : Nat) :
    Sys2Proof.Laws.Header.Statement (.loadReturn id) := fun _ e => nomatch e
theorem Sys2Proof.Laws.Header.stfwReservation (tile : Nat) (id : Nat) :
    Sys2Proof.Laws.Header.Statement (.stfwReservation tile id) := fun _ e => nomatch e
theorem Sys2Proof.Laws.Header.wfeTimeout (tile : Nat) :
    Sys2Proof.Laws.Header.Statement (.wfeTimeout tile) := fun _ e => nomatch e
theorem Sys2Proof.Laws.Header.streamPrefetch (tile port : Nat) :
    Sys2Proof.Laws.Header.Statement (.streamPrefetch tile port) := fun _ e => nomatch e
theorem Sys2Proof.Laws.Header.vectorCommandPerform (tile : Nat) :
    Sys2Proof.Laws.Header.Statement (.vectorCommandPerform tile) := fun _ e => nomatch e
theorem Sys2Proof.Laws.Header.matrixCommandPerform (tile : Nat) :
    Sys2Proof.Laws.Header.Statement (.matrixCommandPerform tile) := fun _ e => nomatch e
theorem Sys2Proof.Laws.Header.accumulatorRowLand (tile : Nat) :
    Sys2Proof.Laws.Header.Statement (.accumulatorRowLand tile) := fun _ e => nomatch e
theorem Sys2Proof.Laws.Header.queueFenceRelease (tile : Nat) (fence : Nat) :
    Sys2Proof.Laws.Header.Statement (.queueFenceRelease tile fence) := fun _ e => nomatch e
theorem Sys2Proof.Laws.Header.copyStart (tile : Nat) :
    Sys2Proof.Laws.Header.Statement (.copyStart tile) := fun _ e => nomatch e
theorem Sys2Proof.Laws.Header.copyChunk (id : Nat) :
    Sys2Proof.Laws.Header.Statement (.copyChunk id) := fun _ e => nomatch e
theorem Sys2Proof.Laws.Header.followOnEntry (id : Nat) :
    Sys2Proof.Laws.Header.Statement (.followOnEntry id) := fun _ e => nomatch e
theorem Sys2Proof.Laws.Header.copyComplete (id : Nat) :
    Sys2Proof.Laws.Header.Statement (.copyComplete id) := fun _ e => nomatch e
theorem Sys2Proof.Laws.Header.riderLeaveQueue (tile : Nat) :
    Sys2Proof.Laws.Header.Statement (.riderLeaveQueue tile) := fun _ e => nomatch e
theorem Sys2Proof.Laws.Header.legArrival (rider ring : Nat) :
    Sys2Proof.Laws.Header.Statement (.legArrival rider ring) := fun _ e => nomatch e
theorem Sys2Proof.Laws.Header.riderComplete (rider : Nat) :
    Sys2Proof.Laws.Header.Statement (.riderComplete rider) := fun _ e => nomatch e
theorem Sys2Proof.Laws.Header.functionLevelReset (f : Nat) :
    Sys2Proof.Laws.Header.Statement (.functionLevelReset f) := fun _ e => nomatch e
theorem Sys2Proof.Laws.Header.coldReset :
    Sys2Proof.Laws.Header.Statement (.coldReset) := fun _ e => nomatch e
theorem Sys2Proof.Laws.Header.hotReset :
    Sys2Proof.Laws.Header.Statement (.hotReset) := fun _ e => nomatch e
theorem Sys2Proof.Laws.Header.watchdogReset :
    Sys2Proof.Laws.Header.Statement (.watchdogReset) := fun _ e => nomatch e
theorem Sys2Proof.Laws.Header.bootRomCheck :
    Sys2Proof.Laws.Header.Statement (.bootRomCheck) := fun _ e => nomatch e
theorem Sys2Proof.Laws.Header.puppeteerStart :
    Sys2Proof.Laws.Header.Statement (.puppeteerStart) := fun _ e => nomatch e
theorem Sys2Proof.Laws.Header.bringupRunning :
    Sys2Proof.Laws.Header.Statement (.bringupRunning) := fun _ e => nomatch e
theorem Sys2Proof.Laws.Header.thermalForecast :
    Sys2Proof.Laws.Header.Statement (.thermalForecast) := fun _ e => nomatch e
theorem Sys2Proof.Laws.Header.fwactDupgoClear :
    Sys2Proof.Laws.Header.Statement (.fwactDupgoClear) := fun _ e => nomatch e
theorem Sys2Proof.Laws.Header.fwImageLoaded :
    Sys2Proof.Laws.Header.Statement (.fwImageLoaded) := fun _ e => nomatch e
theorem Sys2Proof.Laws.Header.fwActivated :
    Sys2Proof.Laws.Header.Statement (.fwActivated) := fun _ e => nomatch e
theorem Sys2Proof.Laws.Header.attcmdGo :
    Sys2Proof.Laws.Header.Statement (.attcmdGo) := fun _ e => nomatch e
theorem Sys2Proof.Laws.Header.attestReportDone :
    Sys2Proof.Laws.Header.Statement (.attestReportDone) := fun _ e => nomatch e
theorem Sys2Proof.Laws.Header.rellastValidClear :
    Sys2Proof.Laws.Header.Statement (.rellastValidClear) := fun _ e => nomatch e
theorem Sys2Proof.Laws.Header.puppeteerTimerTick :
    Sys2Proof.Laws.Header.Statement (.puppeteerTimerTick) := fun _ e => nomatch e
theorem Sys2Proof.Laws.Header.schedulingDecision :
    Sys2Proof.Laws.Header.Statement (.schedulingDecision) := fun _ e => nomatch e
theorem Sys2Proof.Laws.Header.sweepSlot :
    Sys2Proof.Laws.Header.Statement (.sweepSlot) := fun _ e => nomatch e
theorem Sys2Proof.Laws.Header.tileSelfTest (failing : BitVec 192) :
    Sys2Proof.Laws.Header.Statement (.tileSelfTest failing) := fun _ e => nomatch e
theorem Sys2Proof.Laws.Header.sensorReport (dram : Bool) (stack : Nat) (halfDegrees : Nat) :
    Sys2Proof.Laws.Header.Statement (.sensorReport dram stack halfDegrees) := fun _ e => nomatch e
theorem Sys2Proof.Laws.Header.flitReplay (port : Nat) :
    Sys2Proof.Laws.Header.Statement (.flitReplay port) := fun _ e => nomatch e
theorem Sys2Proof.Laws.Header.volongPortDown (port : Nat) :
    Sys2Proof.Laws.Header.Statement (.volongPortDown port) := fun _ e => nomatch e
theorem Sys2Proof.Laws.Header.leagueRequestServe (r : LeagueRequest) :
    Sys2Proof.Laws.Header.Statement (.leagueRequestServe r) := fun _ e => nomatch e
theorem Sys2Proof.Laws.Header.leagueResponse (id : Nat) (status : Nat) (value : Nat) :
    Sys2Proof.Laws.Header.Statement (.leagueResponse id status value) := fun _ e => nomatch e
theorem Sys2Proof.Laws.Header.leagueTimeout (id : Nat) :
    Sys2Proof.Laws.Header.Statement (.leagueTimeout id) := fun _ e => nomatch e
theorem Sys2Proof.Laws.Header.lgctlWrite (v : Word) :
    Sys2Proof.Laws.Header.Statement (.lgctlWrite v) := fun _ e => nomatch e
theorem Sys2Proof.Laws.Header.tencfgWrite (f : Nat) (v : Word) :
    Sys2Proof.Laws.Header.Statement (.tencfgWrite f v) := fun _ e => nomatch e
theorem Sys2Proof.Laws.Header.tenptWrite (f : Nat) (v : Word) :
    Sys2Proof.Laws.Header.Statement (.tenptWrite f v) := fun _ e => nomatch e
theorem Sys2Proof.Laws.Header.fwactGo (v : Word) :
    Sys2Proof.Laws.Header.Statement (.fwactGo v) := fun _ e => nomatch e
theorem Sys2Proof.Laws.Header.vlogctlHeadWrite (f : Nat) (v : BitVec 4) :
    Sys2Proof.Laws.Header.Statement (.vlogctlHeadWrite f v) := fun _ e => nomatch e
theorem Sys2Proof.Laws.Header.tnstatClear (f : Nat) (v : Word) :
    Sys2Proof.Laws.Header.Statement (.tnstatClear f v) := fun _ e => nomatch e
theorem Sys2Proof.Laws.Header.vlstatDownevClear (port : Nat) :
    Sys2Proof.Laws.Header.Statement (.vlstatDownevClear port) := fun _ e => nomatch e
theorem Sys2Proof.Laws.Header.slewtabWrite (stack : Nat) (v : Word) :
    Sys2Proof.Laws.Header.Statement (.slewtabWrite stack v) := fun _ e => nomatch e
theorem Sys2Proof.Laws.Header.registerWrite (f : Nat) (off size : Nat) (v : Word) :
    Sys2Proof.Laws.Header.Statement (.registerWrite f off size v) := fun _ e => nomatch e
theorem Sys2Proof.Laws.Header.doorbellKick (f q : Nat) (w : BitVec 32) :
    Sys2Proof.Laws.Header.Statement (.doorbellKick f q w) := fun _ e => nomatch e
theorem Sys2Proof.Laws.Header.doorbellCreate (f q : Nat) (desc : Nat) :
    Sys2Proof.Laws.Header.Statement (.doorbellCreate f q desc) := fun _ e => nomatch e
theorem Sys2Proof.Laws.Header.doorbellDestroy (f q : Nat) :
    Sys2Proof.Laws.Header.Statement (.doorbellDestroy f q) := fun _ e => nomatch e
theorem Sys2Proof.Laws.Header.doorbellReserved (f q : Nat) :
    Sys2Proof.Laws.Header.Statement (.doorbellReserved f q) := fun _ e => nomatch e
theorem Sys2Proof.Laws.Header.eventArm (kind : EventKind) (key : Nat) (cookie : BitVec 32) :
    Sys2Proof.Laws.Header.Statement (.eventArm kind key cookie) := fun _ e => nomatch e
theorem Sys2Proof.Laws.Header.eventArrival (kind : EventKind) (key : Nat) :
    Sys2Proof.Laws.Header.Statement (.eventArrival kind key) := fun _ e => nomatch e
theorem Sys2Proof.Laws.Header.map (tile entry : Nat) (source : MapSource) :
    Sys2Proof.Laws.Header.Statement (.map tile entry source) := fun _ e => nomatch e
theorem Sys2Proof.Laws.Header.unmap (tile entry : Nat) :
    Sys2Proof.Laws.Header.Statement (.unmap tile entry) := fun _ e => nomatch e
theorem Sys2Proof.Laws.Header.switch (stack region : Nat) :
    Sys2Proof.Laws.Header.Statement (.switch stack region) := fun _ e => nomatch e
theorem Sys2Proof.Laws.Header.contextResume (tile entry : Nat) (ctxId : Nat) :
    Sys2Proof.Laws.Header.Statement (.contextResume tile entry ctxId) := fun _ e => nomatch e
theorem Sys2Proof.Laws.Header.blockCacheRefetch (tile : Nat) :
    Sys2Proof.Laws.Header.Statement (.blockCacheRefetch tile) := fun _ e => nomatch e
theorem Sys2Proof.Laws.Header.faultRollback (tile : Nat) (kind : FaultKind) :
    Sys2Proof.Laws.Header.Statement (.faultRollback tile kind) := fun _ e => nomatch e
theorem Sys2Proof.Laws.Header.benchLaneGrant (ring : Nat) :
    Sys2Proof.Laws.Header.Statement (.benchLaneGrant ring) := fun _ e => nomatch e
theorem Sys2Proof.Laws.Header.legBoard (rider ring : Nat) :
    Sys2Proof.Laws.Header.Statement (.legBoard rider ring) := fun _ e => nomatch e
theorem Sys2Proof.Laws.Header.legAlight (rider ring : Nat) :
    Sys2Proof.Laws.Header.Statement (.legAlight rider ring) := fun _ e => nomatch e
theorem Sys2Proof.Laws.Header.pageRequest (f : Nat) (leaf : Nat) :
    Sys2Proof.Laws.Header.Statement (.pageRequest f leaf) := fun _ e => nomatch e
theorem Sys2Proof.Laws.Header.fillStart (f : Nat) (leaf : Nat) :
    Sys2Proof.Laws.Header.Statement (.fillStart f leaf) := fun _ e => nomatch e
theorem Sys2Proof.Laws.Header.fillSourceReady (leaf : Nat) :
    Sys2Proof.Laws.Header.Statement (.fillSourceReady leaf) := fun _ e => nomatch e
theorem Sys2Proof.Laws.Header.fillComplete (leaf : Nat) :
    Sys2Proof.Laws.Header.Statement (.fillComplete leaf) := fun _ e => nomatch e
theorem Sys2Proof.Laws.Header.fillFail (leaf : Nat) (status : Nat) :
    Sys2Proof.Laws.Header.Statement (.fillFail leaf status) := fun _ e => nomatch e
theorem Sys2Proof.Laws.Header.pageEvict (leaf : Nat) :
    Sys2Proof.Laws.Header.Statement (.pageEvict leaf) := fun _ e => nomatch e
theorem Sys2Proof.Laws.Header.volongPortUp (port : Nat) :
    Sys2Proof.Laws.Header.Statement (.volongPortUp port) := fun _ e => nomatch e
theorem Sys2Proof.Laws.Header.configurationRequest (f : Nat) (vfEnable : Option Bool) :
    Sys2Proof.Laws.Header.Statement (.configurationRequest f vfEnable) := fun _ e => nomatch e
theorem Sys2Proof.Laws.Header.registerRead (f : Nat) (off size : Nat) :
    Sys2Proof.Laws.Header.Statement (.registerRead f off size) := fun _ e => nomatch e
theorem Sys2Proof.Laws.Header.scaleOutReceive (dest : ScaleOutDest) (addr : Nat) (bytes : List Byte) :
    Sys2Proof.Laws.Header.Statement (.scaleOutReceive dest addr bytes) := fun _ e => nomatch e
end

