-- ==== Sys2Proof/Laws/Sparse.lean ====
section
/-! SUPPORT. Tables and byte memories: what a write changes, and that every operation keeps the canonical form. -/

namespace Sys2Proof.Machine

variable {α : Type}

/-- Reading after an entry is put: the entry itself, or what stood. -/
theorem tget_tput (d : α) (t : Table α) (i j : Nat) (v : α) (lo : Option Nat) (h : tsorted lo t = true) :
    tget d (tput t i v) j = if j = i then v else tget d t j := by
  induction t generalizing lo with
  | nil => simp only [tput, tget]; split <;> split <;> simp_all <;> (intros; omega)
  | cons e t ih =>
    obtain ⟨k, x⟩ := e
    simp only [tsorted, Bool.and_eq_true] at h
    simp only [tput]
    split
    · subst_vars; simp only [tget]; grind
    · split
      · simp only [tget]; grind
      · simp only [tget, ih _ h.2]; grind

/-- Below every key nothing is listed. -/
theorem tget_below (d : α) (t : Table α) (i k : Nat) (h : tsorted (some k) t = true) (hi : i ≤ k) : tget d t i = d := by
  cases t with
  | nil => rfl
  | cons e t =>
    obtain ⟨l, x⟩ := e
    simp only [tsorted, Bool.and_eq_true, decide_eq_true_eq] at h
    simp only [tget]
    grind

/-- Reading after an entry is taken out. -/
theorem tget_terase (d : α) (t : Table α) (i j : Nat) (lo : Option Nat) (h : tsorted lo t = true) :
    tget d (terase t i) j = if j = i then d else tget d t j := by
  induction t generalizing lo with
  | nil => simp [terase, tget]
  | cons e t ih =>
    obtain ⟨k, x⟩ := e
    simp only [tsorted, Bool.and_eq_true] at h
    simp only [terase]
    split
    · subst_vars
      simp only [tget]
      by_cases hj : j = k
      · subst hj; simp [tget_below d t j j h.2 (le_refl _)]
      · simp only [hj, if_false]
        split
        · omega
        · split
          · exact tget_below d t j k h.2 (by omega)
          · rfl
    · split
      · simp only [tget]; grind
      · simp only [tget, ih _ h.2]; grind

/-- A table in canonical form has its keys in order. -/
theorem twf_sorted [DecidableEq α] {d : α} {t : Table α} (h : twf d t = true) : tsorted none t = true := by
  simp only [twf, Bool.and_eq_true] at h; exact h.1

/-- Reading after a write: the value written, or what stood (the law of memory). -/
theorem tget_tset [DecidableEq α] (d : α) (t : Table α) (i j : Nat) (v : α) (h : twf d t = true) :
    tget d (tset d t i v) j = if j = i then v else tget d t j := by
  unfold tset
  split
  · subst_vars; exact tget_terase v t i j none (twf_sorted h)
  · exact tget_tput d t i j v none (twf_sorted h)

/-- Keys above a bound are above a smaller one. -/
theorem tsorted_weaken {lo lo' : Option Nat} {t : Table α} (h : tsorted lo t = true)
    (hl : ∀ m, lo' = some m → ∃ l, lo = some l ∧ m ≤ l) : tsorted lo' t = true := by
  cases t with
  | nil => rfl
  | cons e t =>
    obtain ⟨k, x⟩ := e
    simp only [tsorted, Bool.and_eq_true] at h ⊢
    refine ⟨?_, h.2⟩
    cases lo' with
    | none => rfl
    | some m =>
      obtain ⟨l, rfl, hm⟩ := hl m rfl
      simp only [decide_eq_true_eq] at h ⊢
      omega

/-- Putting an entry keeps the keys in order. -/
theorem tsorted_tput {lo : Option Nat} {t : Table α} (i : Nat) (v : α) (h : tsorted lo t = true)
    (hi : ∀ l, lo = some l → l < i) : tsorted lo (tput t i v) = true := by
  induction t generalizing lo with
  | nil =>
    cases lo with
    | none => rfl
    | some l => simp [tput, tsorted, hi l rfl]
  | cons e t ih =>
    obtain ⟨k, x⟩ := e
    simp only [tsorted, Bool.and_eq_true] at h
    simp only [tput]
    split
    · subst_vars; simp only [tsorted, Bool.and_eq_true]; exact ⟨h.1, h.2⟩
    · split
      · simp only [tsorted, Bool.and_eq_true, decide_eq_true_eq]
        refine ⟨?_, by assumption, h.2⟩
        cases lo with
        | none => rfl
        | some l => simpa using hi l rfl
      · simp only [tsorted, Bool.and_eq_true]
        exact ⟨h.1, ih h.2 (fun l hl => by cases hl; omega)⟩

/-- Taking an entry out keeps the keys in order. -/
theorem tsorted_terase {lo : Option Nat} {t : Table α} (i : Nat) (h : tsorted lo t = true) :
    tsorted lo (terase t i) = true := by
  induction t generalizing lo with
  | nil => rfl
  | cons e t ih =>
    obtain ⟨k, x⟩ := e
    simp only [tsorted, Bool.and_eq_true] at h
    simp only [terase]
    split
    · refine tsorted_weaken h.2 ?_
      intro m hm; subst hm; exact ⟨k, rfl, by simpa using Nat.le_of_lt (of_decide_eq_true h.1)⟩
    · split
      · simp only [tsorted, Bool.and_eq_true]; exact h
      · simp only [tsorted, Bool.and_eq_true]; exact ⟨h.1, ih h.2⟩

/-- What a put table lists. -/
theorem mem_tput {t : Table α} {i : Nat} {v : α} {e : Nat × α} (h : e ∈ tput t i v) : e = (i, v) ∨ e ∈ t := by
  induction t with
  | nil => simpa [tput] using h
  | cons p t ih =>
    obtain ⟨k, x⟩ := p
    simp only [tput] at h
    split at h
    · simp only [List.mem_cons] at h ⊢; tauto
    · split at h
      · simp only [List.mem_cons] at h ⊢; tauto
      · simp only [List.mem_cons] at h ⊢
        rcases h with h | h
        · tauto
        · rcases ih h with h | h <;> tauto

/-- What a table lists after an entry is taken out. -/
theorem mem_terase {t : Table α} {i : Nat} {e : Nat × α} (h : e ∈ terase t i) : e ∈ t := by
  induction t with
  | nil => simp [terase] at h
  | cons p t ih =>
    obtain ⟨k, x⟩ := p
    simp only [terase] at h
    split at h
    · simp [h]
    · split at h
      · exact h
      · simp only [List.mem_cons] at h ⊢
        rcases h with h | h
        · tauto
        · exact .inr (ih h)

/-- A write keeps the canonical form. -/
theorem twf_tset [DecidableEq α] {d : α} {t : Table α} (i : Nat) (v : α) (h : twf d t = true) :
    twf d (tset d t i v) = true := by
  have h' := h
  simp only [twf, Bool.and_eq_true, List.all_eq_true, decide_eq_true_eq] at h ⊢
  unfold tset
  split
  · exact ⟨tsorted_terase i h.1, fun e he => h.2 e (mem_terase he)⟩
  · refine ⟨tsorted_tput i v h.1 (by simp), fun e he => ?_⟩
    rcases mem_tput he with rfl | he
    · assumption
    · exact h.2 e he

/-- A filtered table keeps its keys in order. -/
theorem tsorted_filter {lo : Option Nat} {t : Table α} (p : Nat × α → Bool) (h : tsorted lo t = true) :
    tsorted lo (t.filter p) = true := by
  induction t generalizing lo with
  | nil => rfl
  | cons e t ih =>
    obtain ⟨k, x⟩ := e
    simp only [tsorted, Bool.and_eq_true] at h
    simp only [List.filter_cons]
    split
    · simp only [tsorted, Bool.and_eq_true]; exact ⟨h.1, ih h.2⟩
    · refine ih (tsorted_weaken h.2 ?_)
      intro m hm; subst hm; exact ⟨k, rfl, by simpa using Nat.le_of_lt (of_decide_eq_true h.1)⟩

/-- Clearing a range keeps the canonical form. -/
theorem twf_tclear [DecidableEq α] {d : α} {t : Table α} (lo hi : Nat) (h : twf d t = true) :
    twf d (tclear t lo hi) = true := by
  simp only [twf, Bool.and_eq_true, List.all_eq_true, decide_eq_true_eq, tclear] at h ⊢
  exact ⟨tsorted_filter _ h.1, fun e he => h.2 e (List.mem_of_mem_filter he)⟩

/-! ### Byte memories -/

/-- The empty memory is in canonical form. -/
@[simp] theorem wf_nil : Memory.wf [] = true := rfl

/-- Writing a byte keeps the canonical form. -/
theorem wf_mset {m : Memory} (a : Nat) (b : Byte) (h : m.wf = true) : (mset m a b).wf = true := twf_tset a b h

/-- Reading after a byte is written. -/
theorem mget_mset {m : Memory} (a x : Nat) (b : Byte) (h : m.wf = true) :
    mget (mset m a b) x = if x = a then b else mget m x := tget_tset 0 m a x b h

/-- Writing bytes keeps the canonical form. -/
theorem wf_mwriteBytes {m : Memory} (a : Nat) (bs : List Byte) (h : m.wf = true) : (mwriteBytes m a bs).wf = true := by
  induction bs generalizing m a with
  | nil => exact h
  | cons b bs ih => exact ih _ (wf_mset a b h)

/-- Writing a value keeps the canonical form. -/
theorem wf_mwrite {m : Memory} (a n x : Nat) (h : m.wf = true) : (mwrite m a n x).wf = true := by
  induction n generalizing m a x with
  | zero => exact h
  | succ n ih => exact ih _ _ (wf_mset a _ h)

/-- Clearing a range keeps the canonical form. -/
theorem wf_tclear {m : Memory} (lo hi : Nat) (h : m.wf = true) : Memory.wf (tclear m lo hi) = true := twf_tclear lo hi h

/-- Reading after bytes are written: one of them, or what stood. -/
theorem mget_mwriteBytes {m : Memory} (a x : Nat) (bs : List Byte) (h : m.wf = true) :
    mget (mwriteBytes m a bs) x = if a ≤ x ∧ x < a + bs.length then bs[x - a]?.getD 0 else mget m x := by
  induction bs generalizing m a with
  | nil => simp [mwriteBytes]
  | cons b bs ih =>
    simp only [mwriteBytes, ih (a := a + 1) (wf_mset a b h), mget_mset a x b h, List.length_cons]
    by_cases hx : x = a
    · subst hx; simp
    · by_cases h1 : a + 1 ≤ x ∧ x < a + 1 + bs.length
      · rw [if_pos h1, if_pos (by omega)]
        obtain ⟨k, hk⟩ : ∃ k, x - a = k + 1 := ⟨x - a - 1, by omega⟩
        rw [hk, List.getElem?_cons_succ, show x - (a + 1) = k by omega]
      · rw [if_neg h1, if_neg hx, if_neg (by omega)]

end Sys2Proof.Machine
end

