-- ==== Sys2Proof/Tests/Slice0.lean ====
section
/-! SUPPORT. Tests: words written out from the spec's encodings, results at the borderline, the refusals of WellFormed, and for each
statement with hypotheses a state and operands that meet them. Expected results come from the spec's own tables and examples. -/

namespace Sys2Proof.Tests

open Sys2Proof Sys2Proof.Machine

set_option maxRecDepth 20000
set_option Elab.async false

/-! ### Small states -/

/-- Common fields without predicate or targets. -/
def bare : Hdr := { pm := .always, u := false, w := false, t1 := { d := 0, port := .left }, t2 := { d := 0, port := .left } }

/-- Common fields whose first target is the next slot's left port. -/
def onward : Hdr := { bare with t1 := { d := 1, port := .left } }

/-- A plain token of tag 0. -/
def tokOf (v : Word) : Token :=
  { val := v, hi := 0, cap := false, ctag := false, tag := 0, outer := false, bw := false, eos := false, null := false,
    col := 0, anc := [] }

/-- A firing of slot 0 of tile 0 for tag 0. -/
def firing (l r : Word) : Firing :=
  { tile := 0, slot := 0, key := some 0, outer := false, col := 0, left := some (tokOf l), right := some (tokOf r)
    third := none, off := false, anc := [], taken := [] }

/-- A capability of all permissions. -/
def capOf (space : Nat) : CapReg := CapReg.make space 0 0x3E0000 0xFFF 0 true

/-- A running context with capabilities of spaces L, G, S and C in k0 to k3. -/
def ctxA : Ctx :=
  { blankCtx 1 0 1 0 0 0 0x10000 with
    phase := .running
    k := ((((Vector.replicate 16 CapReg.zero).set 0 (capOf 0)).set 1 (capOf 1)).set 2 (capOf 2)).set 3 (capOf 3) }

/-- A block. -/
def blockOf (words : List Word) (loop supervisor : Bool) : Block :=
  { addr := 0x10000, words := words, loop := loop, supervisor := supervisor, noPrefetch := false, twh := 0 }

/-- A fabric that holds a block. -/
def fabricOf (b : Block) : Fabric := { Fabric.reset with blk := some b }

/-- The machine with a context and a fabric on tile 0, and perhaps a firing. -/
def on (c : Ctx) (x : Fabric) (f : Option Firing) : State :=
  { State.reset.modTile 0 (fun t => { t with ctx := some c, fabric := x, running := some 0 }) with cur := f }

theorem on_tile (c : Ctx) (x : Fabric) (f : Option Firing) :
    (on c x f).tile 0 = { Tile.reset with ctx := some c, fabric := x, running := some 0 } := by
  simp [on, State.modTile, State.setTile, State.tile, State.reset]

theorem on_ctx (c : Ctx) (x : Fabric) (f : Option Firing) : ((on c x f).tile 0).ctx = some c := by rw [on_tile]

theorem on_fabric (c : Ctx) (x : Fabric) (f : Option Firing) : (on c x f).fabric 0 = x := by
  simp only [State.fabric, on_tile]

theorem on_turn (c : Ctx) (x : Fabric) (l r : Word) : Turn (on c x (some (firing l r))) (firing l r) := ⟨rfl, rfl⟩

/-! ### Words from the spec's encodings (chapters 18 to 22) -/

theorem test_word_rd :
    decode 0x0100060000000006 = .ok (.rd { bare with t1 := { d := 3, port := .left } } false false 6) := by rfl
theorem test_word_mov :
    decode 0x0300090580000000 = .ok (.mov { bare with t1 := { d := 4, port := .pred }, t2 := { d := 5, port := .pred } }) := by rfl
theorem test_word_sel :
    decode 0x0704020000000000 = .ok (.sel { bare with pm := .onTrue, t1 := { d := 1, port := .left } }) := by rfl
theorem test_word_addi :
    decode 0x2C0002823FFFFFC8 = .ok (.addi { bare with t1 := { d := 1, port := .right }, t2 := { d := 2, port := .left } } (-56)) := by rfl
theorem test_word_tlti :
    decode 0x3800070100000000 = .ok (.tlti { bare with t1 := { d := 3, port := .pred }, t2 := { d := 1, port := .left } } 0) := by rfl
theorem test_word_fcvt :
    decode 0x4700040000000040 = .ok (.fcvt { bare with t1 := { d := 2, port := .left } } 0 1 false) := by rfl
theorem test_word_br :
    decode 0x5008000000000003 = .ok (.br { bare with pm := .onFalse } 3) := by rfl
theorem test_word_ldw :
    decode 0x6400028201000000 = .ok (.ldw { bare with t1 := { d := 1, port := .right }, t2 := { d := 2, port := .left } } { k := 0, sz := 2, oe := false, scope := 0, off := 0 }) := by rfl
theorem test_word_stf :
    decode 0x7100000201400000 = .ok (.stf { bare with t2 := { d := 2, port := .left } } { k := 0, sz := 2, oe := true, scope := 0, off := 0 }) := by rfl
theorem test_word_feclr :
    decode 0x7400000001800000 = .ok (.feclr bare { k := 0, sz := 3, oe := false, scope := 0, off := 0 }) := by rfl
theorem test_word_aadd :
    decode 0x7805000001000000 = .ok (.aadd { bare with pm := .onTrue, w := true } false false { k := 0, sz := 2, oe := false, scope := 0, off := 0 }) := by rfl
theorem test_word_sparm :
    decode 0x8800000008000003 = .ok (.sparm bare 2 3) := by rfl
theorem test_word_tlbiAll :
    decode 0x9D30000000000000 = .ok (.tlbiAll bare) := by rfl
theorem test_word_vld :
    decode 0xA00000000A000000 = .ok (.vld bare { vd := 5, va := 0, vb := 0, mg := 0, me := false, ty := 0, rm := 0, sat := false, spec := 0 }) := by rfl
theorem test_word_vfma :
    decode 0xAB00000006428030 = .ok (.vfma bare { vd := 3, va := 4, vb := 5, mg := 0, me := false, ty := 8, rm := 0, sat := true, spec := 0 }) := by rfl
theorem test_word_vcmp :
    decode 0xB820000002639E00 = .ok (.vcmp bare 2 { vd := 1, va := 6, vb := 7, mg := 1, me := true, ty := 6, rm := 0, sat := false, spec := 0 }) := by rfl
theorem test_word_vcvt :
    decode 0xB500000010900605 = .ok (.vcvt bare { vd := 8, va := 9, vb := 0, mg := 0, me := false, ty := 6, rm := 0, sat := false, spec := 5 }) := by rfl
theorem test_word_mlws :
    decode 0xC000000000000011 = .ok (.mlws bare 0 17) := by rfl
theorem test_word_mpass :
    decode 0xC2000000007F0000 = .ok (.mpass bare 0 127 0) := by rfl
theorem test_word_mrd :
    decode 0xC500000000031003 = .ok (.mrd bare 0 3 64 0 1 true) := by rfl
theorem test_word_rank :
    decode 0xC800000004000001 = .ok (.rank bare 2 0 0 false false 1) := by rfl
theorem test_word_rkrecon :
    decode 0xCC00000008228000 = .ok (.rkrecon bare 4 2 5 0 false) := by rfl
theorem test_word_cpyz :
    decode 0xD401000000400000 = .ok (.cpyz { bare with w := true } 0 1 0) := by rfl
theorem test_word_cpyfill :
    decode 0xD3000000000C0000 = .ok (.cpyfill bare 0 3) := by rfl
theorem test_word_rired :
    decode 0xDC04000008000000 = .ok (.rired { bare with pm := .onTrue } 2 0) := by rfl
theorem test_word_ripref :
    decode 0xE000000008000000 = .ok (.ripref bare 2 0) := by rfl
theorem test_word_reserved : decode 0x0C00000000000000 = .error .reservedOpcode := by rfl
theorem test_word_bad_fn : decode 0x2C20000000000000 = .error .reservedFn := by rfl
theorem test_word_bad_pm : decode 0x100C000000000000 = .error .reservedPm := by rfl
theorem test_word_bad_port : decode 0x1000018000000000 = .error .reservedPort := by rfl
theorem test_word_bit_set : decode 0x9A00000000000001 = .error .nonzeroField := by rfl

/-! ### States that meet the statements' hypotheses -/

/-- A firing of slot 0 for tag 0 is due in a mapped block of tile 0. -/
def due (b : Block) (l r : Word) : State := on ctxA (fabricOf b) (some (firing l r))

/-- A block of one NUL. -/
def plain : Block := blockOf [0x0600000000000000] false false

/-- The same block, iterating. -/
def looping : Block := blockOf [0x0600000000000000] true false

/-- The same block, as a supervisor block. -/
def super : Block := blockOf [0x0600000000000000] false true

/-- A port armed with a record, at a position. -/
def portAt (record : BitVec 512) (pos : Nat) : SPort :=
  { armed := true, record := record, cap := capOf 0
    com := { pos := pos, ovr := false, last := 0, lastV := false, lastEos := false }
    work := { pos := pos, ovr := false, last := 0, lastV := false, lastEos := false } }

/-- Port 0 is an input with one of two elements to come, port 1 an output, port 2 an input at its end. -/
def ctxP : Ctx :=
  { ctxA with ports := (((Vector.replicate 8 SPort.reset).set 0 (portAt (2 <<< 128 ||| 2 <<< 192 ||| 3 <<< 68) 1)).set 1
      (portAt (1 <<< 71 ||| 1 <<< 128 ||| 1 <<< 192) 0)).set 2 (portAt (1 <<< 128 ||| 1 <<< 192) 1) }

/-- The second element of port 0, read ahead. -/
def readAhead : Prefetch := { tile := 0, port := 0, pos := 1, place := some (.scratch 0 8), size := 8, got := .value 7 }

theorem test_meets_DataflowResults : Turn (due plain 1 2) (firing 1 2) ∧ (firing 1 2).left = some (tokOf 1) ∧
    (firing 1 2).right = some (tokOf 2) ∧ tokVal (firing 1 2).third = 0 ∧
    tokVal ({ firing 1 2 with third := some (tokOf 1) } : Firing).third ≠ 0 := ⟨on_turn .., rfl, rfl, rfl, by decide⟩

theorem test_meets_RegisterReads :
    let s : State := { on ctxP (fabricOf plain) (some (firing 0 0)) with ahead := [readAhead] }
    Turn s (firing 0 0) ∧ (s.tile 0).ctx = some ctxP ∧ armedPort ctxP false 55 = none ∧ armedPort ctxP false 63 = none ∧
    (armedPort ctxP false 58 = some 2 ∧ patOut (ctxP.port 2).record = false ∧
      patTotal (ctxP.port 2).record ≤ (ctxP.port 2).work.pos) ∧
    (armedPort ctxP false 56 = some 0 ∧ patOut (ctxP.port 0).record = false ∧
      (ctxP.port 0).work.pos < patTotal (ctxP.port 0).record ∧
      s.ahead.find? (fun e => e.tile == 0 && e.port == 0 && e.pos == (ctxP.port 0).work.pos) = some readAhead) ∧
    (armedPort ctxP false 57 = some 1 ∧ patOut (ctxP.port 1).record = true) :=
  ⟨⟨rfl, rfl⟩, on_ctx ctxP (fabricOf plain) (some (firing 0 0)), by decide +kernel, by decide +kernel, by decide +kernel,
   by decide +kernel, by decide +kernel⟩

/-- A firing whose left token is EOS. -/
def firingEos : Firing := { firing 0 0 with left := some { tokOf 0 with eos := true } }

theorem test_meets_RegisterWrites :
    (Turn (due plain 0 0) (firing 0 0) ∧ ((due plain 0 0).tile 0).ctx = some ctxA ∧ armedPort ctxA false 63 = none ∧
      armedPort ctxA true 63 = none) ∧
    (((on ctxP (fabricOf looping) (some (firing 0 0))).tile 0).ctx = some ctxP ∧ armedPort ctxP false 57 = some 1 ∧
      patOut (ctxP.port 1).record = true ∧ isLoop (on ctxP (fabricOf looping) (some (firing 0 0))) 0 = true) ∧
    (armedPort ctxP false 56 = some 0 ∧ patOut (ctxP.port 0).record = false) ∧
    (Turn (on ctxA (fabricOf looping) (some firingEos)) firingEos ∧ firingEos.left = some { tokOf 0 with eos := true } ∧
      isLoop (on ctxA (fabricOf looping) (some firingEos)) 0 = true) :=
  ⟨⟨on_turn .., on_ctx .., by decide +kernel, by decide +kernel⟩,
   ⟨on_ctx .., by decide +kernel, by decide +kernel, by decide +kernel⟩, ⟨by decide +kernel, by decide +kernel⟩,
   ⟨⟨rfl, rfl⟩, rfl, by decide +kernel⟩⟩

/-- One WR, and two, of g57, which is port 1. -/
def pushOne : Block := blockOf [0x0200000000000039] false false
def pushTwo : Block := blockOf [0x0200000000000039, 0x0200000000000039] false false

/-- The push of slot 1, which waits for that of slot 0. -/
def laterPush : HeldWr :=
  { slot := 1, key := some 0, tagged := false, kr := false, n := 1, push := true, val := 5, cap := .zero, pos := none, check := none }
def pushing : Fabric :=
  { fabricOf pushTwo with settled := [{ slot := 1, key := some 0, how := .fired }], wrs := [laterPush] }

theorem test_meets_RegisterWrites_pushes :
    let q := ctxP.port 1
    PushLands q q.work.pos ∧ patOut q.record = true ∧ armedPort ctxP false 57 = some 1 ∧
    (Turn (on ctxP (fabricOf pushOne) (some (firing 0 0))) (firing 0 0) ∧ pushSlots pushOne ctxP 1 = [0]) ∧
    (let far := portAt (1 <<< 71 ||| 1 <<< 128 ||| 1 <<< 192 ||| 0x3E0000) 0
     far.work.pos < patTotal far.record ∧ (far.cap.length : Int) < patOffset far.record far.work.pos + patSize far.record) ∧
    (pushSlots pushTwo ctxP 1 = [0, 1] ∧ settledFor (fabricOf pushTwo) 0 (some 0) = false ∧
      settledFor pushing 1 (some 0) = true) ∧
    Turn (on ctxP pushing (some firingEos)) firingEos := by
  refine ⟨by unfold PushLands; decide +kernel, ?_, ?_, ⟨⟨rfl, rfl⟩, ?_⟩, ?_, ?_, ⟨rfl, rfl⟩⟩ <;> decide +kernel

/-- For ArithmeticResults, ShiftResults, DivisionResults, CountAndChoiceResults, TestResults and ConversionResults. -/
theorem test_meets_Computations : Turn (due plain 0x8000000000000000 0xFFFFFFFFFFFFFFFF)
    (firing 0x8000000000000000 0xFFFFFFFFFFFFFFFF) := on_turn ..

theorem test_meets_BitFieldResults : Turn (due plain 1 1) (firing 1 1) ∧ (0 : BitVec 6).toNat + (63 : BitVec 6).toNat + 1 ≤ operandBits false ∧
    (63 : BitVec 6).toNat + (0 : BitVec 6).toNat + 1 ≤ operandBits false ∧
    (31 : BitVec 6).toNat + (0 : BitVec 6).toNat + 1 ≤ operandBits true := ⟨on_turn .., by decide, by decide, by decide⟩

theorem test_meets_FloatResults :
    (Turn (due plain 0x7FC00000 0) (firing 0x7FC00000 0) ∧ fpOperand (firing 0x7FC00000 0).left = .nan) ∧
    (Turn (due plain 0 0x7F800001) (firing 0 0x7F800001) ∧ fpOperand (firing 0 0x7F800001).right = .nan) ∧
    ¬(fpOperand (firing 0x7F800000 0).left = .nan ∨ fpOperand (firing 0x7F800000 0).right = .nan) :=
  ⟨⟨on_turn .., by decide +kernel⟩, ⟨on_turn .., by decide +kernel⟩, by decide +kernel⟩

theorem test_meets_RoundingIsCorrect : (-2 : Int) ≤ 0 ∧ (0 : Int) ≤ 0 := by decide

/-- A firing for no tag, or for outer tag 1. -/
def firingFor (k : Key) (l r : Word) : Firing := { firing l r with key := k, outer := k.isSome }

/-- An iterating block of an LGEN and, in the second, an LGEN2. -/
def genBlock : Block := blockOf [0x0900000000000000, 0x0600000000000000] true false
def gen2Block : Block := blockOf [0x0900000000000000, 0x0A00000000000000] true false

theorem test_meets_GeneratorsStart :
    (Turn (on ctxA (fabricOf genBlock) (some (firingFor none 0xFFFFFFFF 0))) (firingFor none 0xFFFFFFFF 0) ∧
      ((on ctxA (fabricOf genBlock) (some (firingFor none 0xFFFFFFFF 0))).fabric 0).blk = some genBlock ∧
      ((on ctxA (fabricOf genBlock) (some (firingFor none 0xFFFFFFFF 0))).tile 0).ctx = some ctxA ∧
      (lgen2Slot genBlock).isSome = false ∧ (tokVal (firingFor none 0xFFFFFFFF 0).left).toNat ≤ 4294967295 ∧
      4294967295 < (tokVal (firingFor none 0x100000000 0).left).toNat) ∧
    ((lgen2Slot gen2Block).isSome = true ∧ (tokVal (firingFor none 0xFFFF 0).left).toNat ≤ 65535 ∧
      65535 < (tokVal (firingFor none 0x10000 0).left).toNat) ∧
    (Turn (on ctxA (fabricOf gen2Block) (some (firingFor (some 0x1FFFF) 0xFFFF 0))) (firingFor (some 0x1FFFF) 0xFFFF 0) ∧
      (firingFor (some 0x1FFFF) 0xFFFF 0).outer = true) ∧
    ((fabricOf gen2Block).gen.boundOf 1 = none ∧ (fabricOf gen2Block).parked = []) ∧
    ({ Gen.reset with rows := [{ row := 1, m := 5, b := 0, eos := false }] } : Gen).boundOf 1 = some 5 :=
  ⟨⟨⟨rfl, rfl⟩, by rw [on_fabric]; rfl, on_ctx .., by rfl, by decide, by decide⟩, ⟨by rfl, by decide, by decide⟩,
   ⟨⟨rfl, rfl⟩, rfl⟩, ⟨by decide +kernel, by decide +kernel⟩, by decide⟩

/-- A fabric in which an exit has fired. -/
def fabricLeft : Fabric := { fabricOf plain with exit := some { slot := 1, key := none, dest := .halt } }

theorem test_meets_ExitsRecorded :
    (Turn (due plain 0 0) (firing 0 0) ∧ (firing 0 0).eos = false ∧ ((due plain 0 0).fabric 0).blk = some plain ∧
      ((due plain 0 0).fabric 0).exit = none ∧ ((due plain 0 0).tile 0).ctx = some ctxA) ∧
    (((on { ctxA with inh := true } (fabricOf super) (some (firing 0 0))).fabric 0).blk = some super ∧ super.supervisor = true) ∧
    ¬(super.supervisor = true ∧ ctxA.inh = true) ∧
    ((on ctxA fabricLeft (some (firing 0 0))).fabric 0).exit = some { slot := 1, key := none, dest := .halt } ∧
    firingEos.eos = true :=
  ⟨⟨on_turn .., rfl, by rw [due, on_fabric]; rfl, by rw [due, on_fabric]; rfl, on_ctx ..⟩, ⟨by rw [on_fabric]; rfl, rfl⟩,
   by decide, by rw [on_fabric]; rfl, rfl⟩

theorem test_meets_CapabilityChecks :
    CapReg.zero.tag = false ∧
    (let c : CapReg := { capOf 0 with bits := (capOf 0).bits ||| 1 <<< 122 }; c.tag = true ∧ c.rsv ≠ 0) ∧
    (let c := CapReg.make 0 0 8 0xFFF 15 true; c.tag = true ∧ c.rsv = 0 ∧ c.lock ≠ 0) ∧
    (let c := capOf 2; c.tag = true ∧ c.rsv = 0 ∧ c.lock = 0 ∧ c.space = 2) ∧
    (let c := capOf 3; c.tag = true ∧ c.rsv = 0 ∧ c.lock = 0 ∧ c.space = 3) ∧
    (let c := CapReg.make 1 0 8 0xFFE 0 true; c.tag = true ∧ c.rsv = 0 ∧ c.lock = 0 ∧ c.space < 2 ∧ c.perms.getLsbD 0 = false) ∧
    (let c := CapReg.make 0 0 8 1 0 true; c.space < 2 ∧ c.perms.getLsbD 0 = true ∧ c.length < (1 : Word).toNat + 8) ∧
    (let c := CapReg.make 0 1 8 1 0 true; (0 : Word).toNat + 8 ≤ c.length ∧ (c.base + 0).toNat % 8 ≠ 0) ∧
    (let c := CapReg.make 0 0x400000 8 1 0 true; (0 : Word).toNat + 8 ≤ c.length ∧ (c.base + 0).toNat % 8 = 0 ∧
      0x400000 ≤ (c.base + 0).toNat) ∧
    (let c := CapReg.make 0 0x3FFFF8 8 1 0 true; c.tag = true ∧ c.rsv = 0 ∧ c.lock = 0 ∧ c.space = 0 ∧
      c.perms.getLsbD 0 = true ∧ (0 : Word).toNat + 8 ≤ c.length ∧ (c.base + 0).toNat % 8 = 0 ∧
      (c.base + 0).toNat < 0x400000) := by decide +kernel

/-- The fields of a class M form through kn of size 2^sz. -/
def via (n : BitVec 4) (sz : BitVec 3) : MField := { k := n, sz := sz, oe := false, scope := 0, off := 0 }

/-- A firing of offset l is due; the machine after it has taken its turn. -/
def taken (b : Block) (l r : Word) : State := { due b l r with cur := none }

theorem test_meets_AccessTraps :
    (Turn (due plain 8 1) (firing 8 1) ∧ (firing 8 1).eos = false ∧ ((due plain 8 1).tile 0).ctx = some ctxA ∧
      Anew (due plain 8 1) (firing 8 1) ctxA) ∧
    (∀ op, opNeed op = opNeed op → resolve (taken plain 8 1) 0 9 (ctxA.kreg 9) (tokVal (firing 8 1).left + (0 : BitVec 22).signExtend 64) op
      (isSupervisor (due plain 8 1) 0) { bits := (accessData op (firing 8 1)).1, tag := (accessData op (firing 8 1)).2 } =
        (taken plain 8 1, .error ⟨0x20, 8, memInfo1 9 (opSize op) (opWrites op) 0⟩)) ∧
    (Turn (on ctxA (fabricOf plain) (some firingEos)) firingEos ∧ firingEos.eos = true) :=
  ⟨⟨on_turn .., rfl, on_ctx .., rfl, rfl⟩, fun op _ => by cases op <;> rfl, ⟨rfl, rfl⟩, rfl⟩

/-- The context and firing reach byte l of the scratchpad through k0. -/
theorem reaches_scratch_load : Reaches (due plain 256 0) (firing 256 0) ctxA (via 0 3) (.load 8 true) (taken plain 256 0)
    (.scratch 0 256) 256 := rfl

theorem test_meets_LoadsRead_full :
    (Turn (due plain 256 0) (firing 256 0) ∧ Anew (due plain 256 0) (firing 256 0) ctxA ∧ Near (.scratch 0 256) ∧ (firing 256 0).anc = [] ∧ (taken plain 256 0).pend = [] ∧
      reservedByOther (taken plain 256 0) 0 ctxA.id (.scratch 0 256) = false) ∧
    (∀ op ∈ [MemOp.load 1 true, .load 1 false, .load 2 true, .load 2 false, .load 4 true, .load 4 false, .load 8 true],
      Reaches (due plain 256 0) (firing 256 0) ctxA (via 0 3) op (taken plain 256 0) (.scratch 0 256) 256) ∧
    Reaches (due plain 256 0) (firing 256 0) ctxA (via 0 4) .ldk (taken plain 256 0) (.scratch 0 256) 256 ∧
    Reaches (due plain 256 0) (firing 256 0) ctxA (via 0 3) (.feq 8) (taken plain 256 0) (.scratch 0 256) 256 ∧
    targetFull (taken plain 256 0) (.scratch 0 256) = true ∧ readFault (taken plain 256 0) (.scratch 0 256) 16 = none := by
  refine ⟨⟨on_turn .., ⟨rfl, rfl⟩, fun a h => by simp at h, rfl, rfl, rfl⟩, ?_, rfl, rfl, by decide +kernel, by decide +kernel⟩
  intro op h
  simp only [List.mem_cons, List.not_mem_nil, or_false] at h
  rcases h with rfl | rfl | rfl | rfl | rfl | rfl | rfl <;> rfl

/-- The same machine with line 2 of tile 0 empty. -/
def emptied (f : Option Firing) : State :=
  { State.reset.modTile 0 (fun t => { t with ctx := some ctxA, fabric := fabricOf plain, running := some 0
                                             lines := [(2, { full := false, poison := false })] }) with cur := f }

theorem test_meets_LoadsRead_empty :
    Turn (emptied (some (firing 256 0))) (firing 256 0) ∧ ((emptied (some (firing 256 0))).tile 0).ctx = some ctxA ∧
    hasState (.scratch 0 256) = true ∧ targetFull (emptied none) (.scratch 0 256) = false ∧
    Anew (emptied (some (firing 256 0))) (firing 256 0) ctxA ∧ (emptied none).pend = [] ∧
    Reaches (emptied (some (firing 256 0))) (firing 256 0) ctxA (via 0 3) (.load 8 true) (emptied none) (.scratch 0 256) 256 ∧
    Reaches (emptied (some (firing 256 0))) (firing 256 0) ctxA (via 0 3) (.lde 8) (emptied none) (.scratch 0 256) 256 :=
  ⟨⟨rfl, rfl⟩, rfl, rfl, by decide +kernel, ⟨rfl, rfl⟩, rfl, rfl, rfl⟩

/-- A firing chained behind slot 7, which holds a store. -/
def chained : Firing := { firing 256 0 with anc := [7] }
def fabricStoring : Fabric := { fabricOf plain with held :=
  [{ slot := 7, key := some 0, tagged := false, eff := .store (.scratch 0 256) 8 ((5 : Word).setWidth 128) false false, anc := [] }] }

theorem test_meets_LoadsRead_linked :
    let s := on ctxA fabricStoring (some chained)
    let s1 : State := { s with cur := none }
    Turn s chained ∧ Anew s chained ctxA ∧ chained.anc.contains 7 = true ∧ s1.pend = [] ∧
    (s1.fabric 0).held = [{ slot := 7, key := chained.key, tagged := false
                            eff := .store (.scratch 0 256) 8 ((5 : Word).setWidth 128) false false, anc := [] }] ∧
    targetFull s1 (.scratch 0 256) = true ∧ readFault s1 (.scratch 0 256) 8 = none ∧
    Reaches s chained ctxA (via 0 3) (.load 8 true) s1 (.scratch 0 256) 256 :=
  ⟨⟨rfl, rfl⟩, ⟨rfl, rfl⟩, rfl, rfl, rfl, by decide +kernel, by decide +kernel, rfl⟩

/-- The first request of slot 0's ACAS, which an abandoned run of the block has sent. -/
def lostAccess : Pend :=
  { Pend.start State.reset 9 (.lost 1 0 (some 0)) (.atomic 9 8) (.league 0x0100200000000100) 0x0100200000000100 0 1 with sent := true }

theorem test_meets_AtomicsAct_lost :
    lostPend { due plain 256 1 with pend := [lostAccess] } ctxA 0 (some 0) = some lostAccess ∧ replayEntry ctxA 0 (some 0) = none :=
  ⟨by decide +kernel, rfl⟩

/-- A context that has a kept result of slot 0. -/
def ctxKept : Ctx := { ctxA with replay := [{ slot := 0, tag := 0, val := 9 }] }

theorem memories_taken : MemoriesWf (taken plain 256 1) := by
  unfold MemoriesWf; decide +kernel

theorem test_meets_AtomicsAct :
    (∀ fn ∈ [0, 1, 2, 3, 4, 5, 6, 7, 8, 9], Reaches (due plain 256 1) (firing 256 1) ctxA (via 0 3) (.atomic fn 8)
      (taken plain 256 1) (.scratch 0 256) 256) ∧ readFault (taken plain 256 1) (.scratch 0 256) 8 = none ∧
    (Turn (due plain 256 1) (firing 256 1) ∧ Anew (due plain 256 1) (firing 256 1) ctxA ∧ (taken plain 256 1).pend = [] ∧
      reservedByOther (taken plain 256 1) 0 ctxA.id (.scratch 0 256) = false ∧
      targetFull (taken plain 256 1) (.scratch 0 256) = true ∧ MemoriesWf (taken plain 256 1)) ∧
    Reaches (due plain 256 1) (firing 256 1) ctxA (via 0 3) (.lde 8) (taken plain 256 1) (.scratch 0 256) 256 ∧
    (Turn (on ctxKept (fabricOf plain) (some (firing 0 0))) (firing 0 0) ∧
      replayEntry ctxKept 0 (some 0) = some { slot := 0, tag := 0, val := 9 }) := by
  refine ⟨?_, by decide +kernel, ⟨on_turn .., ⟨rfl, rfl⟩, rfl, rfl, by decide +kernel, memories_taken⟩, rfl, on_turn .., rfl⟩
  intro fn h
  simp only [List.mem_cons, List.not_mem_nil, or_false] at h
  rcases h with rfl | rfl | rfl | rfl | rfl | rfl | rfl | rfl | rfl | rfl <;> rfl

theorem test_meets_StoresAreHeld :
    (∀ op ∈ [MemOp.store 1, .store 2, .store 4, .store 8, .stk, .stf 8, .feclr 8, .feset 8],
      Reaches (due plain 256 1) (firing 256 1) ctxA (via 0 3) op (taken plain 256 1) (.scratch 0 256) 256) ∧
    (firing 256 1).right = some (tokOf 1) ∧
    (Anew (due plain 256 1) (firing 256 1) ctxA ∧ (emptied none).pend = [] ∧ (taken plain 256 1).pend = []) ∧
    (Reaches (emptied (some (firing 256 0))) (firing 256 0) ctxA (via 0 3) (.stfw (2 ^ (3 : BitVec 3).toNat)) (emptied none)
      (.scratch 0 256) 256 ∧ targetFull (emptied none) (.scratch 0 256) = false ∧
      (emptied none).reserved.any (fun r => sameTarget r.place (.scratch 0 256)) = false) ∧
    (Reaches (due plain 256 1) (firing 256 1) ctxA (via 0 3) (.stfw (2 ^ (3 : BitVec 3).toNat)) (taken plain 256 1) (.scratch 0 256) 256 ∧
      targetFull (taken plain 256 1) (.scratch 0 256) = true) := by
  refine ⟨?_, rfl, ⟨⟨rfl, rfl⟩, rfl, rfl⟩, ⟨rfl, by decide +kernel, rfl⟩, ⟨rfl, by decide +kernel⟩⟩
  intro op h
  simp only [List.mem_cons, List.not_mem_nil, or_false] at h
  rcases h with rfl | rfl | rfl | rfl | rfl | rfl | rfl | rfl <;> rfl

/-- An LDD through k0 of the next slot, and an STFW. -/
def loader : Block := blockOf [0x6600020001800000] false false
def reserver : Block := blockOf [0x7200000001800000] false false

/-- An access of slot 0 for tag 0. -/
def pendOf (op : MemOp) (p : Place) (got : Option Loaded) : Pend :=
  { id := 1, who := .firing 0 1 0 (some 0), op := op, place := p, addr := 256, info1 := 0, data := 5, dtag := false
    expect := 0, acq := false, rel := false, scope := 0, anc := [], party := 1, tenant := 0, sent := true, port := 0, got := got
    since := 0 }

/-- An access is under way. -/
def under (b : Block) (e : Pend) : State := { on ctxA (fabricOf b) none with pend := [e] }

theorem test_meets_AccessesReturn :
    (let e := pendOf (.load 8 true) (.scratch 0 256) (some (.value (.word 5)))
     (under loader e).pend = [e] ∧ e.who = .firing 0 ((under loader e).ctxId 0) 0 (some 0) ∧
     ((under loader e).fabric 0).blk = some loader ∧ (under loader e).cur = none) ∧
    (∃ h m, instrAt loader 0 = some (.ldd h m)) ∧ (∃ h m, instrAt reserver 0 = some (.stfw h m)) ∧
    (pendOf (.stfw 8) (.scratch 0 256) (some (.value (.word 0)))).got = some (.value (.word 0)) ∧
    (pendOf (.load 8 true) (.scratch 0 256) (some (.failed 0x31 0 0))).got = some (.failed 0x31 0 0) :=
  ⟨⟨rfl, rfl, rfl, rfl⟩, ⟨_, _, rfl⟩, ⟨_, _, rfl⟩, rfl, rfl⟩

/-- Host memory with tables at 0x1000 that map tenant 0's first GiB of G to the same host addresses, for every access; the
byte at 0x8000 is 1. -/
def tables : Memory := [(0x1000, 0x01), (0x1001, 0x20), (0x2000, 0x01), (0x2001, 0x30), (0x3000, 0x3B)]
def paging (s : State) (m : Memory) : State :=
  { s.modTenant 0 (fun x => { x with root := 1, lgon := true, qmax := 4 }) with host := tables ++ m }
def league (s : State) : State := s.modCtl (fun c => { c with lgen := true, mcnt := 2, midx := 0 })

/-- Member 1's request. -/
def askOf (check : Bool) (lasid : BitVec 16) (addr : Word) : LeagueRequest :=
  { member := 1, lasid := lasid, check := check, addr := addr, op := .store 8, data := 5, expect := 0, scope := 0, acq := false
    rel := false }

theorem test_meets_LeagueAccesses :
    (let e := pendOf (.load 8 true) (.league 0x0100200000000100) none
     let s : State := { under loader e with now := 100000 }
     s.pend = [e] ∧ e.who = .firing 0 (s.ctxId 0) 0 (some 0) ∧ e.place = .league 0x0100200000000100 ∧ e.sent = true ∧ linkedStores s e = [] ∧ s.now ≤ e.since + 100000 ∧
     e.since + 100000 < ({ s with now := 100001 } : State).now) ∧
    leagueTenant State.reset 7 = none ∧ State.reset.ctl.lgen = false ∧ leagueTenant State.reset 0 = some 0 ∧
    (let s := league (paging State.reset [])
     leagueTenant s 0 = some 0 ∧ s.ctl.lgen = true ∧ (s.tenant 0).lgon = true ∧
     (∃ s1, servePlace s 0 (askOf false 0 0x40) = (s1, .ok (.host 0x40)) ∧ s1.pend = []) ∧
     (∃ s1, servePlace s 0 (askOf false 0 0x40000000) = (s1, .error 1))) :=
  ⟨⟨rfl, rfl, rfl, rfl, by decide +kernel, by decide, by decide⟩, by decide +kernel, rfl, by decide +kernel,
   by decide +kernel, rfl, by decide +kernel, ⟨_, by rfl, rfl⟩, ⟨_, by rfl⟩⟩

/-- The same machine with a second GiB that maps the start of tile 0's scratchpad, for every access and for reading. -/
def leagueScratch (leaf : Byte) : State := league (paging State.reset [(0x3008, 0x01), (0x3009, 0x40), (0x4000, leaf)])

theorem test_meets_LeagueAccesses_served :
    (∃ s1, translateAccessAs (leagueScratch 0x7B) 0 0 0x40 (opAccess (.store 8)) = (s1, .ok (.host 0x40)) ∧ s1.pend = [] ∧
      hostAnswer s1 0x40 8 = .good ∧ placeFault 192 (.store 8) .zero false (.host 0x40) = none ∧
      placeFault 192 (.lde 8) .zero false (.host 0x40) ≠ none) ∧
    (∃ s1, translateAccessAs (leagueScratch 0x7B) 0 0 0x40000000 (opAccess (.lde 8)) = (s1, .ok (.scratch 0 0)) ∧ s1.pend = [] ∧
      s1.reserved = [] ∧ lineState s1 0 0 = .reset ∧ placeFault 192 (.lde 8) .zero false (.scratch 0 0) = none) ∧
    (∃ s1 level, translateAccessAs (leagueScratch 0x7B) 0 0 0x80000000 .write = (s1, .error (0x21, level))) ∧
    (∃ s1 level, translateAccessAs (leagueScratch 0x6B) 0 0 0x40000000 .write = (s1, .error (0x22, level))) :=
  ⟨⟨_, by rfl, by decide +kernel⟩, ⟨_, by rfl, by decide +kernel⟩, ⟨_, _, by rfl⟩, ⟨_, _, by rfl⟩⟩

/-- A firing whose left token carries a capability. -/
def firingCap (c : CapReg) (r : Word) : Firing :=
  { firing 0 r with left := some { tokOf c.base with hi := c.bits.extractLsb' 64 64, cap := true, ctag := c.tag } }

theorem test_meets_CapabilityForms :
    (∀ c r, Turn (on ctxA (fabricOf plain) (some (firingCap c r))) (firingCap c r)) ∧
    (let c (x : CapReg) : CapReg := match (firingCap x 0).left with
       | some a => a.toCap
       | none => .zero
     (c .zero).tag = false ∧
     (c { capOf 0 with bits := (capOf 0).bits ||| 1 <<< 127 }).rsv ≠ 0 ∧ (c { capOf 0 with bits := (capOf 0).bits ||| 1 <<< 127 }).tag = true ∧
     (c (.make 0 0 8 0xFFF 15 true)).lock ≠ 0 ∧ (c (.make 0 0 8 0xFFF 15 true)).rsv = 0 ∧
     (c (.make 0 0 8 0x100 0 true)).lock = 0 ∧ (8 : Word).toNat ≤ (c (.make 0 0 8 0x100 0 true)).length ∧
     (c (.make 0 0 8 0x100 0 true)).length < (9 : Word).toNat ∧ (c (.make 0 0 8 0x100 0 true)).perms.getLsbD 8 = true ∧
     (c (.make 0 0 8 0xEFF 0 true)).perms.getLsbD 8 = false ∧ (c (.make 0 0 8 0x200 15 true)).perms.getLsbD 9 = true ∧
     (c (.make 0 0 8 0xDFF 15 true)).perms.getLsbD 9 = false) ∧
    ({ ctxA with keys := 0x8002 } : Ctx).keys.getLsbD (15 : Word).toNat = true ∧
    ({ ctxA with keys := 0x8002 } : Ctx).keys.getLsbD (1 : Word).toNat = true ∧ ctxA.keys.getLsbD 15 = false ∧
    isSupervisor (due super 0 0) 0 = true ∧ isSupervisor (due plain 0 0) 0 = false :=
  ⟨fun _ _ => ⟨rfl, rfl⟩, by decide +kernel, by decide, by decide, by decide, by decide +kernel, by decide +kernel⟩

/-- A record for port reads of k0: one dimension of one element. -/
def record1 : BitVec 512 := 1 <<< 128 ||| 1 <<< 192

/-- Tile 0 holds that record at byte 256. -/
def recorded (bytes : Memory) (b : Block) (f : Option Firing) : State :=
  { State.reset.modTile 0 (fun t => { t with ctx := some ctxA, fabric := fabricOf b, running := some 0, mem := bytes }) with cur := f }

theorem test_meets_StreamControl :
    (Turn (recorded [(272, 1), (280, 1)] plain (some (firing 256 0))) (firing 256 0) ∧
      BlockWide (recorded [(272, 1), (280, 1)] plain (some (firing 256 0))) (firing 256 0)) ∧
    resolveRange (recorded [(272, 1), (280, 1)] plain none) 0 0 (ctxA.kreg 0) (tokVal (firing 256 0).left) 64 64 permLD .read
      (isSupervisor (recorded [(272, 1), (280, 1)] plain none) 0) false false =
        (recorded [(272, 1), (280, 1)] plain none, .ok (.scratch 0 256, 256)) ∧
    blockedRead (recorded [(272, 1), (280, 1)] plain none) 0 ctxA.id (.scratch 0 256) = false ∧
    readFault (recorded [(272, 1), (280, 1)] plain none) (.scratch 0 256) 64 = none ∧
    (let r : BitVec 512 := BitVec.ofNat 512 (mread ((recorded [(272, 1), (280, 1)] plain none).tile 0).mem 256 64)
     patMalformed r (ctxA.kreg (patK r)).base = false ∧ patternCapFault (ctxA.kreg (patK r)) (patOut r) = none) ∧
    (let r : BitVec 512 := BitVec.ofNat 512 (mread ((recorded [] plain none).tile 0).mem 256 64)
     patMalformed r (ctxA.kreg (patK r)).base = true) ∧
    ((recorded [] plain none).pend = [] ∧ (firing 256 0).anc = []) ∧
    (let s := on ctxP { fabricOf plain with mapPorts := ctxP.ports } (some (firing 256 0))
     (mappedPort s 0 2).armed = true ∧ (mappedPort s 0 7).armed = false) := by
  refine ⟨⟨⟨rfl, rfl⟩, rfl⟩, rfl, by decide +kernel, by decide +kernel, by decide +kernel, by decide +kernel, ⟨rfl, rfl⟩,
    by decide +kernel⟩

/-- Two dimensions: 3 elements 8 bytes apart in each of 2 rows 100 bytes apart. -/
def record2 : BitVec 512 := 1 <<< 72 ||| 6 <<< 128 ||| 3 <<< 192 ||| 8 <<< 224 ||| 2 <<< 256 ||| 100 <<< 288

theorem test_meets_StreamElements :
    (patNd record1 = 0 ∧ 0 < patCount record1 0) ∧
    (patNd record2 = 1 ∧ 0 < patCount record2 0 ∧ 5 < patCount record2 0 * patCount record2 1) ∧
    (let s := on ctxP (fabricOf plain) none
     let q := ctxP.port 0
     s.pend = [] ∧ q.armed = true ∧ patOut q.record = false ∧ q.work.pos < patTotal q.record ∧ nextAhead s 0 0 q = some q.work.pos ∧
     q.cap.space = 0 ∧ 0 ≤ patOffset q.record q.work.pos ∧
     patOffset q.record q.work.pos + patSize q.record ≤ (q.cap.length : Int) ∧ (elementAddr q q.work.pos).toNat < 0x400000 ∧
     blockedRead s 0 ctxP.id (.scratch 0 (elementAddr q q.work.pos).toNat) = false ∧
     (lineState s 0 ((elementAddr q q.work.pos).toNat / 128)).poison = false) ∧
    (let r : BitVec 512 := 1 <<< 128 ||| 1 <<< 192 ||| 0x3E0000 ; (capOf 0).length < patOffset r 0 + patSize r) := by
  decide +kernel

theorem test_meets_Synchronisation :
    (Turn (due plain 2 0) (firing 2 0) ∧ BlockWide (due plain 2 0) (firing 2 0)) ∧
    (let s := due plain 2 0
     (s.barrierOf ctxA 0).phase ≤ (ctxA.arrival[0]?.getD none).getD (s.barrierOf ctxA 0).phase) ∧
    (let s : State := { due plain 2 0 with launches := [
       { id := 1, tenant := 0, queue := 0, index := 0, lock := false, nodes := [], edges := [], roots := (.zero, .zero)
         signal := none, ended := false
         regions := [{ region := 0, st := .started, stack := 0, nodes := [], seqs := [], done := []
                       bars := (Vector.replicate 4 (Barrier.reset 1)).set 0 { count := 1, phase := 1, arrivals := 0 }, arrived := [] }] }] }
     let c : Ctx := { ctxA with arrival := (Vector.replicate 4 none).set 0 (some 0) }
     (c.arrival[0]?.getD none).getD (s.barrierOf c 0).phase < (s.barrierOf c 0).phase) ∧
    ({ ctxA with ev := true } : Ctx).ev = true ∧ ctxA.ev = false ∧
    ((due plain 2 0).fabric 0).waits = [] ∧ (∀ j, j < 4 → queueQuiet (due plain 2 0) ctxA 0 j = true) ∧
    queueQuiet (on { ctxA with vectorQ := [{ instr := some (.mswap bare), fence := 0, set := 0, blk := 0, slot := 0, tag := 0, left := 0
                                             right := 0, caps := [], record := [], supervisor := false, inst := 7, empties := []
                                             cycle := 0, stamp := 0 }] } (fabricOf plain) none)
      { ctxA with vectorQ := [{ instr := some (.mswap bare), fence := 0, set := 0, blk := 0, slot := 0, tag := 0, left := 0
                                right := 0, caps := [], record := [], supervisor := false, inst := 7, empties := [], cycle := 0, stamp := 0 }] }
      0 1 = false :=
  ⟨⟨on_turn .., rfl⟩, by decide +kernel, by decide +kernel, rfl, rfl, by rw [due, on_fabric]; rfl, by decide +kernel, by decide +kernel⟩

theorem test_meets_RestrictedForms :
    (Turn (due looping 0 0) (firing 0 0) ∧ isLoop (due looping 0 0) 0 = true ∧ (firing 0 0).key.isSome = true) ∧
    isSupervisor (due (blockOf [0x0600000000000000] true true) 0 0) 0 = true ∧ isLoop (due (blockOf [0x0600000000000000] true true) 0 0) 0 = true ∧
    isSupervisor (due plain 0 0) 0 = false :=
  ⟨⟨on_turn .., by decide +kernel, rfl⟩, by decide +kernel, by decide +kernel, by decide +kernel⟩

/-- For SystemForms and TranslationsRemoved. -/
theorem test_meets_SystemForms :
    Turn (due super 256 1) (firing 256 1) ∧ (firing 256 1).eos = false ∧ ((due super 256 1).tile 0).ctx = some ctxA ∧
    isSupervisor (due super 256 1) 0 = true ∧ BlockWide (due super 256 1) (firing 256 1) ∧ MemoriesWf (due super 256 1) :=
  ⟨on_turn .., rfl, on_ctx .., by decide +kernel, rfl, by unfold MemoriesWf; decide +kernel⟩

theorem test_meets_PredicatedOff :
    let f : Firing := { firing 0 0 with off := true }
    let s := on ctxA (fabricOf looping) (some f)
    (s.cur = some f ∧ f.off = true ∧ isLoop s f.tile = true) ∧
    ((hdrOf (.std bare (via 0 3))).isSome = true ∧ (formOf (.std bare (via 0 3))).kind = .tracked) ∧
    (formOf (.add bare)).kind = .plain ∧ (formOf (.br bare 0)).kind = .exit ∧ (formOf (.wr bare false 1)).kind = .wr ∧
    ((on ctxP pushing (some f)).cur = some f ∧ pushSlots pushTwo ctxP 1 = [0, 1] ∧ settledFor pushing 1 f.key = true ∧
      pushing.wrs = [laterPush] ∧ PushLands (ctxP.port 1) (ctxP.port 1).work.pos) :=
  ⟨⟨rfl, rfl, by decide +kernel⟩, ⟨rfl, rfl⟩, rfl, rfl, rfl, rfl, by decide +kernel, by decide +kernel, rfl, by unfold PushLands; decide +kernel⟩

/-- The fields of a vector form on 64-bit lanes. -/
def vf (n : BitVec 5) (me : Bool) : VField :=
  { vd := 0, va := n, vb := 0, mg := 0, me := me, ty := 4, rm := 0, sat := false, spec := 0 }

theorem test_meets_VectorFormsEnter :
    (Turn (due plain 0 8) (firing 0 8) ∧ (firing 0 8).eos = false ∧ ((due plain 0 8).tile 0).ctx = some ctxA) ∧
    (engineCapFault (ctxA.kreg 0) permLD = none ∧ engineCapFault (ctxA.kreg 0) permST = none ∧
      engineCapFault (ctxA.kreg 0) (permLD ||| permST) = none ∧ engineCapFault (ctxA.kreg 9) permLD = some 0x20) ∧
    (∀ i, i < 4096 / (vf 0 false).width →
      laneFault (ctxA.kreg 0) 8 (((0x3E0000 - 512 : Word).toNat : Int) + (i * 8 : Nat)) = none ∧
      laneFault (ctxA.kreg 0) 8 ((0 : Int) + i * (8 : Word).toInt) = none) ∧
    (63 < 4096 / (vf 0 false).width ∧ laneFault (ctxA.kreg 0) 8 (((0x3E0000 - 504 : Word).toNat : Int) + (63 * 8 : Nat)) = some 0x23 ∧
      ∀ j, j < 63 → laneFault (ctxA.kreg 0) 8 (((0x3E0000 - 504 : Word).toNat : Int) + (j * 8 : Nat)) = none) :=
  ⟨⟨on_turn .., rfl, on_ctx ..⟩, by decide +kernel, by decide +kernel, by decide +kernel⟩

theorem test_meets_MatrixAndRankFormsEnter :
    (Turn (due plain 0x0F800100 0x0F800100) (firing 0x0F800100 0x0F800100) ∧ ((due plain 0 0).tile 0).ctx = some ctxA) ∧
    (engineFault (ctxA.kreg 0) (0x3E0000 - tileSize 0) (some (tileSize 0)) 128 permLD = none ∧
      engineFault (ctxA.kreg 0) (0x3E0000 - tileSize 0 + 128) (some (tileSize 0)) 128 permLD = some 0x23 ∧
      engineFault (ctxA.kreg 0) 64 (some (tileSize 0)) 128 permLD = some 0x28 ∧
      engineFault (ctxA.kreg 0) 0 none 128 permLD = none ∧
      engineFault (ctxA.kreg 0) 0 (some (128 * ((127 : BitVec 10).toNat + 1) * mrdBytes 0)) 128 permST = none ∧
      engineFault (ctxA.kreg 0) (0x3E0000 - 32) (some 32) 32 permLD = none ∧
      engineFault (ctxA.kreg 0) (0x3E0000 - 512) (some 512) 128 permLD = none ∧
      engineFault (ctxA.kreg 0) 0 (some (512 * (127 : BitVec 10).toNat + 2 * rankCut 0x0F800100)) 128 permLD = none) ∧
    (baseTokenLegal 128 3968 0x0F800100 = true ∧ baseTokenLegal 128 3968 0x0F800101 = false ∧ baseTokenLegal 128 3968 0x0F800000 = false) ∧
    (rankTokenLegal true 0x0F800001 = true ∧ rankTokenLegal true 0x0F810001 = false ∧ rankTokenLegal false 0x0F000100 = true ∧
      rankTokenLegal false 0x0F010100 = false) ∧
    (mergeTokenLegal 0x00000FFF0FFF0100 = true ∧ mergeTokenLegal 0x0000100000000001 = false) ∧
    (baseTokenLegal 256 3840 0x0F000100 = true ∧ (0xFFFF : Word).toNat < 2 ^ 16 ∧ baseTokenLegal 256 3840 0x0F800100 = false) :=
  ⟨⟨on_turn .., on_ctx ..⟩, by decide +kernel, by decide, by decide, by decide, by decide⟩

/-- A state in which a firing is due whose record stands at byte 256. -/
def fed (bytes : Memory) : State := recorded bytes plain (some (firing 256 0))

theorem test_meets_CopyFormsEnter :
    (∀ m, Turn (fed m) (firing 256 0) ∧ resolveRange (recorded m plain none) 0 0 (ctxA.kreg 0) (tokVal (firing 256 0).left) 64 64
      permLD .read (isSupervisor (fed m) 0) false true = (recorded m plain none, .ok (.scratch 0 256, 256))) ∧
    (blockedRead (recorded [] plain none) 0 ctxA.id (.scratch 0 256) = false ∧ readFault (recorded [] plain none) (.scratch 0 256) 64 = none) ∧
    (∀ m, resolveRange (acquire (recorded m plain none) 0) 0 0 (ctxA.kreg 0) (BitVec.ofNat 64 0) 128 128 permST .write
      (isSupervisor (fed m) 0) true true = (acquire (recorded m plain none) 0, .ok (.scratch 0 0, 0))) ∧
    (recorded [] plain none).pend = [] ∧
    (∀ kind ∈ [CopyKind.cpy, .cpym, .cpy2d, .cpyfill, .cpyz],
      let r := copyRec kind (mbytes ((recorded [] plain none).tile 0).mem 256 64)
      r.cmpl = 0 ∧ copyCapFault (ctxA.kreg 0) r.src (r.sourceSpan kind) permLD = none ∧
      copyCapFault (ctxA.kreg 1) r.dst r.destSpan permST = none) ∧
    (∃ e, followOn (acquire (recorded [(303, 0xC1)] plain none) 0) (firing 256 0)
      (copyRec .cpym (mbytes ((recorded [(303, 0xC1)] plain none).tile 0).mem 256 64)) = .ok e) ∧
    (∃ x, followOn (acquire (recorded [] plain none) 0) (firing 256 0)
      (copyRec .cpym (mbytes ((recorded [] plain none).tile 0).mem 256 64)) = .error x) :=
  ⟨fun _ => ⟨⟨rfl, rfl⟩, rfl⟩, by decide +kernel, fun _ => rfl, rfl, by decide +kernel, ⟨_, rfl⟩, ⟨_, rfl⟩⟩

/-- An RIREAD record: two bytes in a row, to byte 128 of the share. -/
def ride : Memory := [(256, 1), (272, 2), (276, 1), (280, 1), (304, 0x80)]

theorem test_meets_RiderFormsEnter :
    recordMalformed 1 (mbytes ((recorded [] plain none).tile 0).mem 256 64) (firing 256 0).right.isSome = true ∧
    (let bytes := mbytes ((recorded ride plain none).tile 0).mem 256 64
     let r := riderRec bytes
     recordMalformed 1 bytes (firing 256 0).right.isSome = false ∧ regionFault (capOf 2) r = none ∧ r.cmpl = 0 ∧ r.span = 2 ∧
     (let ra := ((capOf 2).base + BitVec.ofNat 64 r.roff).toNat
      ra / 2 ^ 30 % 2 ^ 27 = (ra + (r.span - 1)) % 2 ^ 64 / 2 ^ 30 % 2 ^ 27) ∧
     (let c := CapReg.make 2 (2 ^ 30 - 1) 2 0xFFF 0 true
      let ra := (c.base + BitVec.ofNat 64 r.roff).toNat
      regionFault c r = none ∧ ra / 2 ^ 30 % 2 ^ 27 ≠ (ra + (r.span - 1)) % 2 ^ 64 / 2 ^ 30 % 2 ^ 27)) ∧
    checkShare (acquire (recorded ride plain none) 0) 0 0 (ctxA.kreg 0)
      (riderRec (mbytes ((recorded ride plain none).tile 0).mem 256 64)) = (acquire (recorded ride plain none) 0, none) :=
  ⟨by decide +kernel, by decide +kernel, rfl⟩

/-- Slot 0 is a WR of g1, slot 1 an STD, slot 2 a HALT: words that need one, two and no operands. -/
def mixed (loop : Bool) : Block := blockOf [0x0200000000000001, 0x6B00000001800000, 0x5500000000000000] loop false

/-- A token of tag 0 for a port of slot j, in colour c. -/
def opOn (j : Nat) (p : Port) (c : BitVec 2) (bw : Bool) : Operand :=
  { slot := j, port := p, tok := { tokOf 1 with col := c, bw := bw }, stored := false }

/-- A fabric with tokens on the mesh and one in the toybox. -/
def arriving : Fabric := { fabricOf (mixed false) with
  mesh := [opOn 1 .left 0 false, opOn 1 .left 1 false, opOn 1 .left 0 true, opOn 0 .left 0 false, opOn 2 .left 0 false]
  settled := [{ slot := 2, key := some 0, how := .fired }] }

/-- A fabric with an operand in the toybox. -/
def toyed : Fabric := { arriving with toybox := [(0, opOn 8 .left 0 false)] }

theorem test_meets_TokensArrive :
    let x := arriving
    returnToys (on ctxA x none) 0 = on ctxA x none ∧
    (((on ctxA x none).fabric 0).mesh[0]? = some (opOn 1 .left 0 false) ∧ ((on ctxA x none).fabric 0).blk = some (mixed false)) ∧
    staleToken x (opOn 1 .left 1 false).tok = true ∧
    (staleToken x (opOn 0 .left 0 true).tok = false ∧
      (∃ h, instrAt (blockOf [0x0A00000000000000] true false) 0 = some (.lgen2 h)) ∧ (opOn 0 .left 0 true).tok.bw = true) ∧
    (staleToken x (opOn 2 .left 0 false).tok = false ∧ wrongToken (mixed false) (opOn 2 .left 0 false) = false ∧
      duplicateToken x (opOn 2 .left 0 false) = true) ∧
    (staleToken x (opOn 1 .left 0 true).tok = false ∧ wrongToken (mixed false) (opOn 1 .left 0 true) = false ∧
      duplicateToken x (opOn 1 .left 0 true) = false) ∧
    (duplicateToken x (opOn 0 .left 0 false) = false ∧ completesFiring (mixed false) x (opOn 0 .left 0 false) = true) ∧
    (duplicateToken x (opOn 1 .left 0 false) = false ∧ completesFiring (mixed false) x (opOn 1 .left 0 false) = false ∧
      (waysOf x (opOn 1 .left 0 false)).length < 4) ∧
    (oldestToy toyed 1 0 = some (0, opOn 8 .left 0 false) ∧ (waysOf toyed (opOn 8 .left 0 false)).length < 4) :=
  ⟨by simp only [returnToys, on_fabric]; rfl, ⟨by rw [on_fabric]; rfl, by rw [on_fabric]; rfl⟩, by decide +kernel, ⟨by decide +kernel, ⟨_, by rfl⟩, rfl⟩, by decide +kernel,
   by decide +kernel, by decide +kernel, by decide +kernel, by decide +kernel⟩

/-- The same without the HALT, so that nothing is ready. -/
def waitingBlock (loop : Bool) : Block := blockOf [0x0200000000000001, 0x6B00000001800000] loop false

/-- A generator that has fired for n tags. -/
def genOf (n : Nat) (two : Option Nat) : Gen := { Gen.reset with fired := true, n := n, two := two }

/-- A fabric of an iterating block with a generator, tags in flight and operands. -/
def flying (g : Gen) (tags : List TagRec) (os : List Operand) : Fabric :=
  { fabricOf (waitingBlock true) with gen := g, tags := tags, operands := os }

/-- Tag 0 in flight. -/
def tag0 (done : Bool) : TagRec := { tag := 0, outer := false, col := 0, complete := done }

theorem test_meets_TagsMove :
    (∃ g w, emission (waitingBlock true) (flying (genOf 1 none) [] []) = .inner g w) ∧
    (∃ w, emission (waitingBlock true) (flying (genOf 1 (some 1)) [] []) = .outer w) ∧
    emission (waitingBlock true) (flying (genOf 0 none) [] []) = .ended ∧
    (((on ctxA (flying (genOf 1 none) [tag0 false] [opOn 1 .left 0 false]) none).fabric 0).tags.find? (fun y => y.tag == 0) = some (tag0 false) ∧
      mayComplete (on ctxA (flying (genOf 1 none) [tag0 false] [opOn 1 .left 0 false]) none) 0 (tag0 false) = true ∧
      stuckSlot (waitingBlock true) (flying (genOf 1 none) [tag0 false] [opOn 1 .left 0 false]) 0 = some 1) ∧
    (mayComplete (on ctxA (flying (genOf 1 none) [tag0 false] []) none) 0 (tag0 false) = true ∧
      stuckSlot (waitingBlock true) (flying (genOf 1 none) [tag0 false] []) 0 = none ∧
      heldOf (flying (genOf 1 none) [tag0 false] []) (some 0) true = [] ∧
      pushesOf (flying (genOf 1 none) [tag0 false] []) (some 0) true = []) ∧
    (let x := flying (genOf 1 none) [tag0 true] []
     (0 : Tag) = x.gen.resumeTag ∧ x.gen.isOldest 0 = true ∧ tag0 true ∈ x.tags ∧ x.parked = [] ∧ heldOf x (some 0) false = [] ∧
     pushesOf x (some 0) false = [] ∧ outstanding (on ctxA x none) 0 (fun k => k == some 0) = false ∧
     fencePending (on ctxA x none) ctxA = false) := by
  refine ⟨⟨_, _, rfl⟩, ⟨_, rfl⟩, by decide +kernel, ⟨rfl, ?_, ?_⟩, ?_, ?_⟩ <;> decide +kernel

/-- A store of eight bytes of the block that is held for tag 0, or for the block's own key. -/
def heldStore (tagged : Bool) : Held := { slot := 1, key := some 0, tagged := tagged, eff := .store (.scratch 0 8) 8 5 false false, anc := [] }

theorem test_meets_TagsMove_held :
    (let x := { flying (genOf 1 none) [tag0 false] [] with held := [heldStore true] }
     mayComplete (on ctxA x none) 0 (tag0 false) = true ∧ stuckSlot (waitingBlock true) x 0 = none ∧
     heldOf x (some 0) true = [heldStore true] ∧ pushesOf x (some 0) true = [] ∧ Still (on ctxA x none) ∧
     queuesHaveRoom (on ctxA x none) ctxA [heldStore true] = true) ∧
    (let x := { flying (genOf 1 none) [tag0 true] [] with held := [heldStore false] }
     let s := on ctxA x none
     heldOf x (some 0) false = [heldStore false] ∧ writesToybox 0 (heldStore false) = false ∧ Still s ∧
     outstanding s 0 (fun k => k == some 0) = false ∧ fencePending s ctxA = false ∧ queuesHaveRoom s ctxA [heldStore false] = true ∧
     fenceHolds s 0 ctxA x.inst (fenceKinds [heldStore false]) [heldStore false] = true) := by
  unfold Still MemoriesWf; decide +kernel

/-- Slots 0 and 1 have settled and the HALT of slot 2 has fired. -/
def finished (dest : ExitTo) : Fabric := { fabricOf (mixed false) with
  settled := [{ slot := 0, key := some 0, how := .fired }, { slot := 1, key := some 0, how := .nullified }]
  wrs := [{ slot := 0, key := some 0, tagged := false, kr := false, n := 1, push := false, val := 5, cap := .zero, pos := none
            check := none }]
  exit := some { slot := 2, key := some 0, dest := dest } }

theorem test_meets_BlocksCommit :
    (∀ d ∈ [ExitTo.block 0x20000 none, .block 0x20000 (some 0x10040), .halt, .tret],
      let s := on ctxA (finished d) none
      commitReady s 0 (mixed false) ctxA = true ∧ commitRoom s 0 (mixed false) ctxA = true ∧
      (∀ w ∈ (finished d).wrs, w.push = false) ∧ (finished d).exit = some { slot := 2, key := some 0, dest := d } ∧
      (finished d).held = [] ∧ (finished d).sys = [] ∧ (finished d).waits = []) ∧
    ctxA.inh = false ∧ ctxA.haltedEntry = false ∧
    (let c : Ctx := { ctxA with inh := true, haltedEntry := true }
     c.haltedEntry = true ∧ commitReady (on c (finished .tret) none) 0 (mixed false) c = true ∧
     commitRoom (on c (finished .tret) none) 0 (mixed false) c = true) := by decide +kernel

theorem test_meets_BlocksCommit_effects :
    (∀ h ∈ [heldStore false, { heldStore false with eff := .barr 3 }, { heldStore false with eff := .qfence 1 }],
      let x : Fabric := { finished .halt with wrs := [], held := [h] }
      let s := on ctxA x none
      commitReady s 0 (mixed false) ctxA = true ∧ commitRoom s 0 (mixed false) ctxA = true ∧ h.key = blockKey (mixed false) ∧ Still s) ∧
    (let w : HeldWr := { laterPush with slot := 0, pos := some 0 }
     let x : Fabric := { finished .halt with wrs := [w] }
     let s := on ctxP x none
     commitReady s 0 (mixed false) ctxP = true ∧ commitRoom s 0 (mixed false) ctxP = true ∧ w.key = blockKey (mixed false) ∧ Still s ∧
     0 < patTotal (ctxP.port 1).record ∧ PushLands (ctxP.port 1) 0 ∧ (elementAddr (ctxP.port 1) 0).toNat + 8 ≤ 0x3E0000) := by
  unfold Still MemoriesWf PushLands; decide +kernel

/-- A trap record, and a held engine trap. -/
def trap5 : TrapRec := { cause := 5, blk := 0x10000, slot := 2, tag := 0, info0 := 0, info1 := 0 }
def held5 : AsyncTrap := { source := 1, trap := trap5 }

theorem test_meets_TrapsTaken :
    (let x : Fabric := { flying (genOf 1 none) [tag0 false] [] with parked := [trap5] }
     ((on ctxA x none).fabric 0).parked.find? (trapDue (on ctxA x none) 0) = some trap5) ∧
    (quiescent (on ctxA (fabricOf (waitingBlock false)) none) 0 (waitingBlock false) = true ∧
      commitReady (on ctxA (fabricOf (waitingBlock false)) none) 0 (waitingBlock false) ctxA = false ∧
      stuckTrap (on ctxA (fabricOf (waitingBlock false)) none) 0 (waitingBlock false) ctxA = some (0x06, 0, 0)) ∧
    (firstPending [held5] = some held5 ∧ ctxA.phase = .running ∧ ({ ctxA with phase := .fetching } : Ctx).phase = .fetching ∧
      ({ ctxA with phase := .halted } : Ctx).phase = .halted) ∧
    (({ ctxA with inh := true } : Ctx).inh = true ∧ ctxA.phase.live = true) :=
  ⟨by decide +kernel, by decide +kernel, ⟨by decide +kernel, rfl, rfl, rfl⟩, rfl, rfl⟩

/-- The bytes of a block of one HALT at its line: header words, the instruction, padding. -/
def haltBytes : List Byte :=
  bytesOf 8 0x0101000000000000 ++ bytesOf 8 ((crc16 (bytesOf 8 0x5500000000000000)).toNat * 2 ^ 48) ++
  bytesOf 8 0x5500000000000000 ++ List.replicate 40 0

/-- A context that wants the block at an address, with lines cached. -/
def wanting (pc : Word) (lines : List BlockLine) : State :=
  paging (State.reset.modTile 0 (fun t => { t with
    ctx := some { ctxA with phase := .fetching, pc := pc }, bcache := lines, fresh := true, running := some 0 })) []

/-- A cached line. -/
def lineAt (bytes : List Byte) : BlockLine := { asid := 0, gen := 0, vline := 0x400, bytes := bytes, sig := none, shift := 16 }

theorem test_meets_BlocksMapped :
    targetFault 0x10001 = some (0x02, 0) ∧ targetFault 0x10000 = none ∧
    fetchBlocked (wanting 0x10000 []) 0 { ctxA with phase := .fetching, pc := 0x10000 } = false ∧
    (∃ u, fetchBlock (wanting 0x10000 []) 0 0 0x10000 false = (u, .ok true)) ∧
    (∃ u, fetchBlock (wanting 0x40000000 []) 0 0 0x40000000 false = (u, .error (0x40000000, 0x21, 2))) ∧
    (∃ sig, cachedBlock (wanting 0x10000 [lineAt haltBytes]) 0 0 0x10000 = some (haltBytes, sig)) ∧
    mapFault .node 0x10000 (wordAt haltBytes 0) (wordAt haltBytes 1) (bodyWords haltBytes 1) ((haltBytes.drop 16).take 8) = none ∧
    mapFault .supervisor 0x10000 (wordAt haltBytes 0) (wordAt haltBytes 1) (bodyWords haltBytes 1) ((haltBytes.drop 16).take 8) =
      some (0x04, 0x80, 0x10000, 0) :=
  ⟨by decide, by decide, by decide +kernel, ⟨_, by rfl⟩, ⟨_, by rfl⟩, ⟨_, by rfl⟩, by decide +kernel, by decide +kernel⟩

theorem test_meets_FaultsHandled :
    (faultPossible State.reset 191 (.architectural 8 0) = false ∧ faultPossible State.reset 0 (.uncorrectable 7 3) = false) ∧
    (let s := on ctxA (fabricOf plain) none
     faultPossible s 0 (.architectural 6 3) = true ∧ faultPossible s 0 (.uncorrectable 7 3) = true) ∧
    (let s := on ctxA (fabricOf (blockOf [0x1100020000000000] false false)) none
     faultPossible s 0 (.residue 0 0 none) = true ∧ ∀ u ∈ faultTiles 0 (.residue 0 0 none), (s.tile u).faulted = false) ∧
    (let s := State.reset.modTile 1 (fun x => { x with ctx := some { ctxA with lock := true }, faulted := true })
     let s := s.modTile 0 (fun x => { x with ctx := some { ctxA with lock := true } })
     faultPossible s 1 .lockstep = true ∧ ∃ u ∈ faultTiles 1 .lockstep, (s.tile u).faulted = true) := by decide +kernel

/-- A launch of one node on tile 0, its region, and the queue that it came from. -/
def node1 : NodeRec := { entry := 0x10000, image := 0x8000, imglen := 128, tile := 0, region := 0, args := [] }
def regionIn (st : RegionState) (seqs : List (Nat × List Nat)) (done : List Nat) (arrivals : Nat) : Region :=
  { region := 0, st := st, stack := 0, nodes := [(0, 0)], seqs := seqs, done := done
    bars := (Vector.replicate 4 (Barrier.reset 1)).set 3 { count := 1, phase := 0, arrivals := arrivals }, arrived := [] }
def launch1 (r : Region) : Launch :=
  { id := 1, tenant := 0, queue := 0, index := 0, lock := false, nodes := [node1], edges := [], regions := [r]
    roots := (capOf 1, capOf 2), signal := none, ended := false }
def queue1 : Queue :=
  { tenant := 0, index := 0, ring := 0x9000, log2n := 4, pri := 0, msiv := 0, lock := false, stat := 0xA000, last := 1
    pending := false, ridx := 0, st := .mapped, err := 0, slot := some 0, wsince := 0, mappedAt := 0, started := [], seq := 0
    effpri := 0, savePtr := 0, layout := 0, waits := false, desc := [], sel := false, copyA := newCopy 0, copyB := newCopy 0 }

/-- Tile 0 with a context and entry 7, a launch, its queue and images. -/
def world (r : Region) (c : Option Ctx) (running : Option Nat) (e : Entry) (images : List Image) : State :=
  { paging (State.reset.modTile 0 (fun t => { t with ctx := c, running := running, entries := t.entries.set 7 e })) [] with
    launches := [launch1 r], queues := [queue1], images := images }
def ready7 : Entry := { st := .ready, tenant := 0, launch := 1, region := 0, source := some (.node 1 0) }

/-- A store that context 1 has released and that has not been performed, and that context after its arrival at barrier 3. -/
def waitingStore : Pend :=
  { id := 0, who := .released 0 1, op := .store 8, place := .league 5, addr := 0, info1 := 0, data := 7, dtag := false, expect := 0
    acq := false, rel := false, scope := 0, anc := [], party := 1, tenant := 0, sent := true, port := 0, got := none, since := 0 }
def arrived : Ctx := { ctxA with fenced := true, arrival := (Vector.replicate 4 none).set 3 (some 0) }

theorem test_meets_RegionsRun :
    (let s := world (regionIn .waiting [(0, [7])] [] 0) none none ready7 []
     sourceOf s (.node 1 0) = some (1, 0, 0) ∧ (entryOf s 0 7).st = .ready ∧ (entryOf s 0 6).st = .free ∧ fenced s 0 = false ∧
     (entryOf (world (regionIn .started [] [] 0) none none { ready7 with st := .running } []) 0 7).st = .running) ∧
    (let s := world (regionIn .waiting [(0, [7])] [] 0) (some { ctxA with phase := .loading }) none ready7 []
     ((launchOf s 1).bind (fun l => l.nodes[0]?) = some node1 ∧ node1.imglen ≠ 0) ∧
     ∃ u m, readG s 0 node1.image.toNat node1.imglen = (u, .data m)) ∧
    (let c := { ctxA with phase := Phase.halted }
     let s := world (regionIn .started [(0, [7])] [] 0) (some c) (some 7) { ready7 with st := .running } []
     (s.tile 0).running = some 7 ∧ isDrained s c = true) ∧
    (let r := regionIn .waiting [(0, [7])] [] 0
     let s := world r none none ready7 []
     s.regionOf 1 0 = some r ∧ mayStart s (launch1 r) r = true ∧ r.unfinished = [(0, 0)] ∧ (r.seq 0).head? = some 7 ∧
     (entryOf s 0 7).source = some (.node 1 0) ∧ (launch1 r).nodes[0]? = some node1) ∧
    converged (regionIn .started [] [0] 0) = true ∧
    (let r := regionIn .started [] [] 1
     r.bars[3]? = some { count := 1, phase := 0, arrivals := 1 } ∧ r.st = .started ∧
     arrivalPending (world r (some ctxA) none ready7 []) 1 r 3 0 = false ∧
     arrivalPending { world r (some arrived) none ready7 [] with pend := [waitingStore] } 1 r 3 0 = true) :=
  ⟨by decide +kernel, ⟨by decide +kernel, ⟨_, _, by rfl⟩⟩, by decide +kernel, by decide +kernel, by decide +kernel, by decide +kernel⟩

/-- A save image of the context. -/
def image1 (bank : Option Nat) (done reading : Bool) : Image :=
  { id := 5, ctx := ctxA, mem := [], lines := [], gtags := [], tile := 0, bank := bank, bars := Vector.replicate 4 (Barrier.reset 1)
    complete := done, discard := false, spot := none, reading := reading, restored := false, kept := false, valid := true
    cause := 0, info0 := 0, info1 := 0 }

theorem test_meets_SavesAndResumes :
    (let r := regionIn .started [(0, [7])] [0] 0
     (world r none none ready7 []).regionOf (64 / 64) (64 % 64) = some r ∧ r.stack = 0 ∧ converged r = true) ∧
    (let r := regionIn .started [(0, [7])] [] 0
     converged r = false ∧ banksBusy (world r none none ready7 []) r = false) ∧
    (let r := regionIn .started [(0, [7])] [] 0
     banksBusy { world r none none ready7 [] with images := [image1 (some 0) true false] } r = true) ∧
    (let s := world (regionIn .preempted [] [] 0) none none Entry.reset [image1 (some 0) false false]
     (bankImage s 0).map (·.id) = some 5 ∧ owes s ctxA.id = false ∧ freeSpot s = some 0) ∧
    (let s := world (regionIn .preempted [] [] 0) none none Entry.reset [image1 (some 0) true false]
     (bankImage s 0).map (·.complete) = some true ∧ (bankImage s 0).map (·.reading) = some false ∧ ∀ v ∈ s.services, v.fill = none → v.image = ctxA.id → v.alighted = true) ∧
    (let r := regionIn .preempted [] [] 0
     let s := world r none none Entry.reset [image1 none true false]
     (imageOf s 1).isSome = true ∧ launchOf s 1 = some (launch1 r) ∧ s.regionOf 1 0 = some r ∧
     launchGoes s (launch1 r) = true ∧ bankUsed s 47 = false ∧ mayPlace s (launch1 r) r 47 = true) ∧
    (let r := regionIn .preempted [] [] 0
     let s := world r none none Entry.reset [image1 (some 47) true true]
     (imageOf s 1).isSome = true ∧ launchGoes s (launch1 r) = true ∧ mayPlace s (launch1 r) r 47 = true ∧
     serviceDone s (image1 (some 47) true true) = true ∧ (entryOf s 47 7).st = .free) := by decide +kernel

theorem test_meets_FaultsHandled_bank :
    (let s := world (regionIn .preempted [] [] 0) none none Entry.reset [image1 (some 0) true false]
     faultPossible s 0 (.architectural 8 3) = true ∧ bankImage s 0 = some (image1 (some 0) true false)) := ⟨by decide +kernel, rfl⟩

/-- A command at the head of its queue. -/
def command (i : Option Instr) (caps : List CapReg) (record : List Byte) : QEntry :=
  { instr := i, fence := 3, set := 0, blk := 0x10000, slot := 4, tag := 0, left := 0, right := 0, caps := caps
    record := record, supervisor := false, inst := 0, empties := [], cycle := 0, stamp := 0 }
def landing : Flight := { row := 0, cycle := 0, shadow := false, pass := 0, inst := 0, step := 0, int := false, adds := [] }

set_option exponentiation.threshold 5000 in
theorem test_meets_EnginesTurn :
    (let e := command (some (.mand bare { vf 1 false with ty := 0 })) [] []
     let c : Ctx := { ctxA with vectorQ := [e] }
     c.stopV = false ∧ ∃ u, performVectorQueue (engineView (on c (fabricOf plain) none) 0 c.id 1) 0 c e (.mand bare { vf 1 false with ty := 0 }) = .complete u 0) ∧
    (let e := command (some (.rkrecon bare 0 1 2 0 false)) [] []
     let c : Ctx := { ctxA with vectorQ := [e] }
     let s := on { c with v := c.v.set 1 0xFFFF } (fabricOf plain) none
     ∃ u x i0 i1, performVectorQueue (engineView s 0 c.id 1) 0 { c with v := c.v.set 1 0xFFFF } { e with left := 1 } (.rkrecon bare 0 1 2 0 false) = .traps u x i0 i1) ∧
    (let e := command (some (.mswap bare)) [] []
     let c : Ctx := { ctxA with matrixQ := [e] }
     c.stopM = false ∧ c.pass = none ∧ ∃ u, performMatrix (engineView (on c (fabricOf plain) none) 0 c.id 2) 0 c e (.mswap bare) = some (.complete u 0)) ∧
    (let s := { on ctxA (fabricOf plain) none with tiles := ((on ctxA (fabricOf plain) none).modTile 0 (fun t => { t with
       lines := [(0, { full := true, poison := true })] })).tiles }
     ∃ u x i0 i1, performMatrix (engineView s 0 1 2) 0 ctxA (command (some (.mcbl bare 0)) [capOf 0] []) (.mcbl bare 0) = some (.traps u x i0 i1)) ∧
    (passOf (.mpass bare 0 0 0)).isSome = true ∧
    landing.cycle + 256 < (({ State.reset with grants := State.reset.grants.set 0 { Stack.reset with cycle := 253 } } : State).stack 0).cycle + 4 ∧
    (let c : Ctx := { ctxA with copyQ := [command none [] []], riderQ := [command none [] []] }
     [0, 3] = [0, 1, 2, 3].filter (fun q => (c.queue q).any (fun e => e.instr.isNone && e.fence == 3)) ∧
     ∀ q ∈ [0, 3], reachedFence (on c (fabricOf plain) none) c q 3 = true) ∧
    (({ Stack.reset with write := some 5 } : Stack).write = some 5 ∧ Stack.reset.write = none) :=
  ⟨⟨rfl, _, by rfl⟩, ⟨_, _, _, _, by rfl⟩, ⟨rfl, rfl, _, by rfl⟩, ⟨_, _, _, _, by rfl⟩, rfl, by decide +kernel, by decide +kernel,
   rfl, rfl⟩

theorem test_meets_EnginesTurn_vectors :
    let v : VField := { vf 1 false with ty := 4 }
    let c : Ctx := { ctxA with vectorQ := [command (some (.vld bare v)) [capOf 0] []] }
    let s := on c (fabricOf plain) none
    Still s ∧ c.stopV = false ∧ v.width = 64 ∧
    ∀ i, i < 64 → laneFault (capOf 0) 8 ((i * 8 : Nat) : Int) = none ∧ readable s 0 c.id (i * 8) 8 = true ∧
      poisonedAt s 0 (i * 8) 8 = none := by
  unfold Still MemoriesWf; decide +kernel

/-- A granted pass of two rows of INT8, at its first. -/
def pass1 : Pass :=
  { id := 1, entry := command (some (.mpass bare 0 1 0)) [capOf 0] [], next := 0, first := 0, cycle := 0, start := 0, granted := true
    lists := none, bad := [] }

theorem test_meets_EnginesTurn_matrices :
    (let c : Ctx := { ctxA with matrixQ := [command (some (.mlws bare 0 3)) [capOf 0] []] }
     let s := on c (fabricOf plain) none
     Still s ∧ twf 0 c.acc = true ∧ c.flights = [] ∧ readable s 0 c.id 0 16384 = true ∧ poisonedAt s 0 0 16384 = none) ∧
    (let c : Ctx := { ctxA with matrixQ := [pass1.entry], pass := some pass1, front := { ctxA.front with fmt := 3 } }
     let s := on c (fabricOf plain) none
     Still s ∧ pass1.cycle < (s.stack 0).cycle + 4 ∧
     ∀ m, m < 2 → readable s 0 c.id (128 * m) 128 = true ∧ poisonedAt s 0 (128 * m) 128 = none) ∧
    (let l : Flight := { landing with int := true, adds := List.replicate 128 [3] }
     let c : Ctx := { ctxA with flights := [l] }
     let s := { on c (fabricOf plain) none with grants := State.reset.grants.set 0 { Stack.reset with cycle := 253 } }
     Still s ∧ l.cycle + 256 < (s.stack 0).cycle + 4 ∧ l.adds.length = 128) := by
  unfold Still MemoriesWf; decide +kernel

/-- A copy of the context, of n bytes, of which some have landed, and where it stops. -/
def copyNow (kind : CopyKind) (n landed : Nat) (follow : Option QEntry) (stop : Option CopyStop) : Copy :=
  { id := 9, inst := 0, owner := .ctx 1, tenant := 0, kind := kind
    src := { global := false, base := 0x1000, rlen := n, stride := 0 }
    dst := { global := false, base := 0x2000, rlen := n, stride := 0 }
    total := n, pattern := 7, cmpl := 0x3000, cmplOff := 0x3000, trap := true, follow := follow, blk := 0x10000, slot := 4
    tag := 0, landed := landed, pages := [], input := [], output := none, stop := stop, foin := false }
def copying (k : Copy) : State := { on ctxA (fabricOf plain) none with copies := [k] }
def spoilt : CopyStop := { status := 0x31, erroff := 0, addr := 0x1000, dst := false, poison := false, whole := false }

theorem test_meets_CopiesRun :
    (let e := command (some (.cpy bare 0 0 0)) [capOf 0, capOf 0, capOf 0] (List.replicate 64 0)
     e.instr.bind kindOf = some .cpy ∧ (([] : List Copy).filter (copyOfCtx 1)).length < 4) ∧
    (let k := copyNow .cpyfill 1 0 none none
     (copying k).copies.find? (fun y => y.id == k.id) = some k ∧ k.landed < k.total) ∧
    (let k := copyNow .cpy2d 65 64 none none
     k.landed < k.total ∧ ∃ u bs, readPieces k (piecesFrom k.src 64 1) (copying k) = (u, .bytes bs)) ∧
    (let k := copyNow .cpy 1 0 none none
     let s := (copying k).modTile 0 (fun t => { t with lines := [(32, { full := true, poison := true })] })
     ∃ u z, readPieces k (piecesFrom k.src 0 1) s = (u, .stops z)) ∧
    (let k := copyNow .cpym 1 1 (some (command none [] [])) none
     copyLanded (copying k) k = true ∧ k.foin = false ∧ (contextOf (copying k) 1).isSome = true ∧ queueUsed (copying k) ctxA 2 < 32 ∧
     homeOf (copying k) 1 = .tile 0) ∧
    (let k := copyNow .cpy 1 1 none none
     shareReserved (copying k) 1 (k.cmpl / 128) = false ∧ landingYet (copying k) k = false ∧ k.stop = none ∧
     copyLanded (copying k) k = true ∧ k.follow = none) ∧
    ({ copyNow .cpy 1 0 none (some spoilt) with trap := false } : Copy).trap = false ∧
    (copyNow .cpyz 1 0 none none).total ≠ 0 ∧
    (let k := copyNow .cpy 1 0 none none
     let s := (copying k).modTile 0 (fun t => { t with lines := [(32, { full := false, poison := false })] })
     ∃ u, readPieces k (piecesFrom k.src 0 1) s = (u, .waits)) ∧
    ((copyNow .cpy 1 0 none (some spoilt)).stop = some spoilt ∧ (copyNow .cpy 1 0 none (some spoilt)).trap = true) ∧
    (let k := copyNow .cpy 0 0 none none
     let older := { copyNow .cpy 1 0 none none with id := 8 }
     let s := { copying k with copies := [older, k], pend := [waitingStore] }
     storingBefore s 1 0 = true ∧ storingBefore (copying k) 1 0 = false ∧
     recordWaits s k 1 = true ∧ recordWaits (copying k) k 1 = false) :=
  ⟨by decide +kernel, by decide +kernel, ⟨by decide, _, _, by rfl⟩, ⟨_, _, by rfl⟩, by decide +kernel, by decide +kernel, rfl, by decide,
   ⟨_, by rfl⟩, by decide +kernel, by decide +kernel⟩

/-- A rider of one leg on ring 0. -/
def legOf (arrived boarded : Option Nat) (off : Bool) : Leg :=
  { Leg.start 0 with arrived := arrived, seated := arrived.isSome, boarded := boarded, alighted := off }
def riderWith (l : Leg) (record : List Byte) (status : Bool) : Rider :=
  { id := 3, inst := 0, tile := 0, ctx := 1, tenant := 0, since := 0, region := capOf 2, record := record, recBase := 0, right := 0
    operand := [], blk := 0x10000, slot := 4, tag := 0, legs := [l], kept := [], landed := [], spoilt := [], owed := []
    folded := none, nanSeen := false, count := 0, lowest := none, lapse := false, lcnt := 0, pcnt := 0, first := none
    st54 := status, st53 := false, st52 := false, st55 := false, fillst := 0, defer := false, orphan := false }
def riding (x : Rider) (now : Nat) : State :=
  { on ctxA (fabricOf plain) none with
    riders := [x], now := now, rings := State.reset.rings.map (fun g => { g with running := true }) }
def rideBytes : List Byte := mbytes ride 256 64

theorem test_meets_RidersRun :
    (let e := command (some (.riread bare 2 0)) [capOf 2, capOf 0] rideBytes
     let off := (e.cap 1).base.toNat + (riderRec e.record).opnd
     e.instr.isSome = true ∧ readable (on ctxA (fabricOf plain) none) 0 1 off (riderRec e.record).operandLen = true ∧
     poisonedAt (on ctxA (fabricOf plain) none) 0 off (riderRec e.record).operandLen = none) ∧
    (let s := { on ctxA (fabricOf plain) none with pend := [waitingStore] }
     let r := riderRec rideBytes
     let empty := (on ctxA (fabricOf plain) none).modTile 0 (fun t => { t with lines := [(0, { full := false, poison := false })] })
     storingBefore s 1 0 = true ∧ storingBefore (on ctxA (fabricOf plain) none) 1 0 = false ∧
     readable empty 0 1 ((capOf 0).base.toNat + r.opnd) 8 = false) ∧
    mayArrive (riding (riderWith (legOf none none false) rideBytes false) 0) 3 0 = true ∧
    (let s := riding (riderWith (legOf (some 1) none false) rideBytes false) 2
     (s.ring 0).running = true ∧ mayBoard s 0 (riderWith (legOf (some 1) none false) rideBytes false) (legOf (some 1) none false) = true) ∧
    (let x := riderWith (legOf (some 1) (some 1) false) rideBytes false
     let s := riding x (2 * (1 + turn))
     riderAt s 3 = some x ∧ x.leg 0 = some (legOf (some 1) (some 1) false) ∧ rideOver (legOf (some 1) (some 1) false) (slotNow s) = true) ∧
    (let x := riderWith (legOf (some 1) (some 1) true) rideBytes false
     riderAt (landOwed (riding x 0) 3) 3 = some x ∧ (∀ l ∈ x.legs, l.alighted = true) ∧ x.orphan = false ∧ x.owed = [] ∧
     (riderRec x.record).trap = false ∧
     ∀ l ∈ [0, 1], shareReserved (landOwed (riding x 0) 3) x.ctx l = false) ∧
    (let x := riderWith (legOf (some 1) (some 1) true) (rideBytes.set 1 2) true
     (riderRec x.record).trap = true ∧ x.status ≠ 0) := by decide +kernel

/-- A page that an absent sweep leaf names, and a fill of it. -/
def page1 : PageWant := { va := 0, shift := 16, leaf := 0x3000, desc := 0x8000, raised := false }
def fillNow (st : FillState) : Fill :=
  { tenant := 0, page := page1, frame := 0x10000, src := 0x20000, slen := 65536, zstd := false, zero := true, st := st
    content := [] }
def resident1 : Resident := { tenant := 0, page := { page1 with leaf := 0x3008 }, frame := 0x10000, releasable := true, dirty := false }
def filling (x : Fill) : State := { State.reset with fills := [x], residents := [resident1] }

/-- A legal descriptor of a page of zeros, for a frame above the greatest save pool. -/
def described : State := { filling (fillNow .requested) with host := [(0x800E, 2), (0x8014, 0x7F)] }
def frameOf (r : Except Nat Fill) : Nat :=
  match r with
  | .ok y => y.frame
  | .error _ => 0

theorem described_frame : frameOf (parseDescriptor described (fillNow .requested)) = 0x7F00000000 := by decide +kernel

theorem above_pool {y : Fill} (h : frameOf (.ok y) = 0x7F00000000) (n : Nat) : inSavePool y.frame n = false := by
  have h0 : y.frame = 0x7F00000000 := h
  have h1 : Config.savePoolFrame % 2 ^ 22 < 2 ^ 22 := Nat.mod_lt _ (by decide)
  have h2 : Config.savePoolSize % 2 ^ 15 < 2 ^ 15 := Nat.mod_lt _ (by decide)
  have hn : ¬ y.frame < poolBase + poolSize := by
    unfold poolSize poolImages poolBase
    generalize Config.savePoolFrame % 2 ^ 22 = a at *
    generalize Config.savePoolSize % 2 ^ 15 = b at *
    omega
  exact Bool.and_eq_false_iff.mpr (.inl (decide_eq_false hn))

theorem described_ok : ∃ y, readDescriptor described (fillNow .requested) = .ok y := by
  have h := described_frame
  cases hy : parseDescriptor described (fillNow .requested) with
  | error k => rw [hy] at h; cases h
  | ok y =>
    rw [hy] at h
    exact ⟨y, by rw [readDescriptor, hy]; exact if_neg (Bool.eq_false_iff.mp (above_pool h _))⟩

theorem test_meets_PagesFilled :
    (let x := riderWith { legOf (some 1) none false with deferred := [page1] } rideBytes false
     askingLeg (riding x 0) 0 0x3000 = some (3, 0, page1) ∧
     ∃ u, eventArrives (riding x 0) .pageRequest (pageKey 0 0x3000) = some u) ∧
    (let x := fillNow .requested
     (filling x).fills.find? (fun y => y.page.leaf == 0x3000 && y.tenant == 0) = some x ∧
     ((filling x).fills.find? (fun y => y.st == .requested)).map (fun y => y.page.leaf) = some 0x3000 ∧
     readDescriptor (filling x) x = .error 2) ∧
    (∃ y, readDescriptor described (fillNow .requested) = .ok y) ∧
    (pageContent (filling (fillNow .reading)) (fillNow .reading) = .ok [] ∧ heldBack (filling (fillNow .reading)) (fillNow .reading) = false ∧
      pageContent { filling (fillNow .reading) with hostBad := [(0x20000, 0x20001, true)] } { fillNow .reading with zero := false } = .error 3) ∧
    (fillNow .boarding).st = .boarding ∧ (fillNow (.failed 3)).st = .failed 3 ∧
    ((filling (fillNow .waiting)).residents.find? (fun y => y.page.leaf == 0x3008) = some resident1 ∧
      ∃ y ∈ (filling (fillNow .waiting)).fills, y.st = .waiting ∧ y.page.leaf ≠ 0x3008 ∧
        rangesMeet resident1.frame (2 ^ resident1.page.shift) y.frame (2 ^ y.page.shift) = true) := by
  exact ⟨⟨by decide +kernel, ⟨_, rfl⟩⟩, by decide +kernel, described_ok, by decide +kernel, rfl, rfl, by decide +kernel⟩

/-- An RIFILL of one 8-byte element of row 0 of ring 0 with V0 = 7, in its boarding turn. -/
def fillLeg : Leg := { legOf (some 1) (some 1) false with frames := [{ va := 0, shift := 30, pa := 0 }] }
def filler : Rider :=
  { riderWith fillLeg (bytesOf 8 0x48 ++ bytesOf 8 8 ++ bytesOf 8 0x100000001 ++ bytesOf 8 0x800000008 ++ bytesOf 8 7 ++ List.replicate 24 0) false
    with region := CapReg.make 2 0 0x3E0000 0xFFF 0 true }
def visiting : State :=
  { riding filler 2 with rings := State.reset.rings.set 0 { State.reset.rings[0] with running := true, zeroing := 0, aboard := [.rider 3] } }

theorem test_meets_SlotsAdvance :
    MemoriesWf visiting ∧ twf Lapse.zero visiting.lapse = true ∧ (∀ p, p < 32 → p ≠ 0 → (visiting.ring p).running = false) ∧
    (visiting.ring 0).running = true ∧ (visiting.ring 0).zeroing = 0 ∧ (visiting.ring 0).aboard = [.rider filler.id] ∧
    visiting.services = [] ∧ visiting.riders = [filler] ∧ filler.owed = [] ∧ filler.legs = [fillLeg] ∧
    rideOver fillLeg (slotNow visiting) = false ∧ (riderRec filler.record).kind = 8 ∧ visiting.badChunks = [] ∧
    (tget Lapse.zero visiting.lapse (bitrev 21 (visiting.ring 0).cursor)).d = 0 ∧
    elementsAt filler fillLeg 0 (bitrev 21 (visiting.ring 0).cursor) = [(0, 8)] ∧ 8 + (riderRec filler.record).esz ≤ 8192 := by
  unfold MemoriesWf; decide +kernel

/-- The machine with its firmware running and its queue, and with bytes in host memory above the tables. -/
def active (s : State) : State :=
  s.modCtl (fun c => { c with pup := .running, bringup := 5, enumerated := true, served := true })
/-- Tables that map the second GiB's first 2 MiB to the scratchpad of tile 0. -/
def scratchLeaf : Memory := [(0x3008, 0x01), (0x3009, 0x40), (0x4000, 0x7B)]
def posted (m : Memory) : State := { active (paging State.reset m) with queues := [queue1] }

theorem all_armed (e : MatchEntry) : freeMatch { armed := (List.range 512).map (fun i => (i, e)), ready := [], held := [], waiting := [], cycle := 0, came := [], kept := 0 } = none := by
  simp [freeMatch]

/-- The same machine with line 0 of tile 0 empty. -/
def emptyLine (s : State) : State := setLine s 0 0 { full := false, poison := false }

theorem test_meets_EventsAndDoorbells :
    (let m : Matcher := { armed := [(511, { kind := .kick, key := 0, cookie := 7 })], ready := [], held := [], waiting := [], cycle := 0, came := [], kept := 0 }
     m.armed.any (entryMatches .kick 0) = true ∧ m.armed.any (entryMatches .mailbox 0) = false ∧ freeMatch m = some 0) ∧
    (let m : Matcher := { armed := [], ready := [], held := List.replicate 64 (.mailbox, 3), waiting := [], cycle := 0, came := [], kept := 0 }
     m.armed.any (entryMatches .kick 0) = false ∧ 64 ≤ m.held.length) ∧
    (let e : MatchEntry := { kind := .kick, key := 0, cookie := 7 }
     freeMatch { armed := (List.range 512).map (fun i => (i, e)), ready := [], held := [], waiting := [], cycle := 0, came := [], kept := 0 } = none) ∧
    (let s := posted []
     takesWork s = true ∧ regionsMapped s = true ∧ (s.tenant 0).resetting = false ∧ queueAt s 0 4095 = none ∧ queueAt s 0 0 = some queue1 ∧
     (¬(2 ^ queue1.log2n < ((16 : BitVec 32) - queue1.ridx).toNat ∨ 2 ^ queue1.log2n < ((16 : BitVec 32) - queue1.last).toNat) ∧
       16 ≠ queue1.last ∧ queue1.st ≠ .error) ∧
     2 ^ queue1.log2n < ((17 : BitVec 32) - queue1.ridx).toNat ∧ queue1.slot.isSome = true ∧ ({ queue1 with slot := none } : Queue).slot = none) ∧
    (∃ u m, readG (posted []) 0 0x8000 64 = (u, .data m) ∧ queueOfDesc 0 5 m = none) ∧
    (∃ u m x, readG (posted [(0x8008, 4)]) 0 0x8000 64 = (u, .data m) ∧ queueOfDesc 0 5 m = some x ∧ queueAt u 0 5 = none ∧
      (queuesOf u 0).length < (u.tenant 0).qmax.toNat ∧ (queueAt u 0 0).isSome = true) ∧
    (∃ u, readG (emptyLine (posted scratchLeaf)) 0 0x40000000 64 = (u, .waits)) ∧
    (∃ u a b d, readG (posted []) 0 0x40000000 64 = (u, .fails a b d)) :=
  ⟨by decide +kernel, by decide +kernel, all_armed _, by decide +kernel, ⟨_, _, by rfl, by rfl⟩,
   ⟨_, _, _, by rfl, by rfl, by rfl, by decide +kernel, by rfl⟩, ⟨_, by rfl⟩, ⟨_, _, _, _, by rfl⟩⟩

theorem test_meets_EventsAndDoorbells_held :
    let e : EventKind × Nat := (.mailbox, 3)
    let m : Matcher := { armed := [], ready := [], held := [e], waiting := [], cycle := 0, came := [], kept := 1 }
    freeMatch m = some 0 ∧ (∀ h ∈ m.held, m.armed.any (entryMatches h.1 h.2) = false) ∧ e ∈ m.held ∧ (EventKind.mailbox, 4) ∉ m.held ∧
    (insertEvent e (List.replicate 64 e)).getLast? = some e := by decide +kernel

/-- The head packet of the queue has been fetched and is of a kind. -/
def Posted (m : Memory) (k : PacketKind) : Prop := ∃ u x, HeadPacket (posted m) 0 queue1 x u ∧ packetKind x = k

theorem posted_head {m x : Memory} {u : State} (h : readG (posted m) 0 0x9000 64 = (u, .data x)) :
    HeadPacket (posted m) 0 queue1 x u := by
  have : queue1.ridx ≠ queue1.last := by decide
  exact ⟨rfl, rfl, nofun, this, rfl, h⟩

theorem test_meets_PacketsRun_kinds :
    Posted [(0x9000, 7)] .malformed ∧ Posted [(0x9000, 1), (0x9009, 0xB0)] (.launch 0xB000 none) ∧
    Posted [(0x9000, 2)] (.copy 0 0 0 false) ∧ Posted [(0x9000, 2), (0x9018, 1)] (.copy 0 0 1 false) ∧
    Posted [(0x9000, 3), (0x900F, 2)] (.hint (2 ^ 57) 0 false) ∧ Posted [(0x9000, 4)] (.signal 0 0) ∧
    Posted [(0x9000, 5), (0x9008, 0xFF), (0x9009, 3)] (.wait 1023) ∧ Posted [(0x9000, 6)] .fence := by
  refine ⟨⟨_, _, posted_head (by rfl), by rfl⟩, ⟨_, _, posted_head (by rfl), by rfl⟩, ⟨_, _, posted_head (by rfl), by rfl⟩,
    ⟨_, _, posted_head (by rfl), by rfl⟩, ⟨_, _, posted_head (by rfl), by decide +kernel⟩, ⟨_, _, posted_head (by rfl), by rfl⟩,
    ⟨_, _, posted_head (by rfl), by rfl⟩, ⟨_, _, posted_head (by rfl), by rfl⟩⟩

/-- A descriptor of one node on tile 47, and sweep leaves for the second and third GiB. -/
def graph : Memory := [(0xB000, 1), (0xB002, 1), (0xB009, 0xC0), (0xC002, 1), (0xC014, 47)]
def sweepLeaves : Memory := [(0x3008, 0x87), (0x3010, 0x83), (0x3011, 0x80)]

theorem test_meets_PacketsRun_work :
    (∃ v id, beginLaunch (posted ([(0x9000, 1), (0x9009, 0xB0)] ++ graph)) queue1 0 0xB000 none = (v, .begun id)) ∧
    (∃ v code, beginLaunch (posted [(0x9000, 1), (0x9009, 0xB0)]) queue1 0 0xB000 none = (v, .error code)) ∧
    (sweepLeaf (posted sweepLeaves) 0 0 = .bad ∧ (∃ g, sweepLeaf (posted sweepLeaves) 0 0x40000000 = .resident g) ∧
      ∃ w, sweepLeaf (posted sweepLeaves) 0 0x80000000 = .absent w) ∧
    Posted (sweepLeaves ++ [(0x9000, 3), (0x900B, 0x40), (0x9012, 1)]) (.hint 0x40000000 65536 false) ∧
    queue1.started = [] ∧ ((posted []).ctl.barred = false ∧ ((posted []).modCtl (fun c => { c with barred := true })).ctl.barred = true) ∧
    ∃ v, beginLaunch (emptyLine (posted scratchLeaf)) queue1 0 0x40000000 none = (v, .waits) :=
  ⟨⟨_, _, by rfl⟩, ⟨_, _, by rfl⟩, ⟨by rfl, ⟨_, by rfl⟩, ⟨_, by rfl⟩⟩, ⟨_, _, posted_head (by rfl), by rfl⟩, rfl, ⟨rfl, rfl⟩, ⟨_, by rfl⟩⟩

theorem test_meets_PacketsComplete :
    (let p : PacketRec := { index := 0xFFFFFFFF, irq := false, work := .copy 9 }
     let k := { copyNow .cpy 1 1 none none with owner := .packet 0 0 0xFFFFFFFF }
     let s : State := { posted [] with queues := [{ queue1 with started := [p] }], copies := [k] }
     startedQueue s 0 0 (BitVec.ofNat 32 0xFFFFFFFF) = some ({ queue1 with started := [p] }, p) ∧
     s.copies.find? (fun c => c.id == 9) = some k ∧ landingYet s k = false ∧ k.stop = none ∧ copyLanded s k = true) ∧
    (copyNow .cpy 1 0 none (some spoilt)).stop.isSome = true ∧
    (∀ w ∈ [PacketWork.hint [] true, .wait 4, .signal 4, .launch 1],
      let p : PacketRec := { index := 0, irq := false, work := w }
      let s : State := { posted [] with queues := [{ queue1 with started := [p] }], launches := [launch1 (regionIn .finished [] [] 0)] }
      startedQueue s 0 0 (BitVec.ofNat 32 0) = some ({ queue1 with started := [p] }, p)) ∧
    launchOf { posted [] with launches := [launch1 (regionIn .finished [] [] 0)] } 1 = some (launch1 (regionIn .finished [] [] 0)) ∧
    takesWork (posted []) = true := by decide +kernel

/-- The queue with one packet started, and a launch of its. -/
def started1 (w : PacketWork) (l : Launch) : State :=
  { posted [] with queues := [{ queue1 with started := [{ index := 0, irq := false, work := w }] }], launches := [l] }

theorem test_meets_PacketsComplete_work :
    (let s := { started1 (.wait 4) (launch1 (regionIn .finished [] [] 0)) with
       pend := [{ waitingStore with id := 4, got := some (.run []) }] }
     s.pend.any (fun e => e.id == 4 && e.got.isSome) = true ∧ queueAt s 0 0 = s.queues.head? ∧ queue1.ridx = 0 ∧
     (startedQueue { s with queues := s.queues.map (fun x => { x with ridx := 1 }) } 0 0 0).isSome = true) ∧
    (let l := { launch1 (regionIn .finished [] [] 0) with signal := some (3, 7) }
     launchOf (started1 (.launch 1) l) 1 = some l ∧ l.ended = false ∧ (∀ r ∈ l.regions, r.st = .finished) ∧
     (started1 (.launch 1) l).pend = []) ∧
    (let s := started1 (.launch 1) (launch1 (regionIn .finished [] [] 0))
     takesWork s = true ∧ s.creating = [] ∧ s.pend = [] ∧ (s.queues.map (fun q => (q.tenant, q.index))).Nodup ∧
     (∀ q ∈ s.queues, q.st ≠ .destroyed ∧ q.pri < 8 ∧ ∀ p ∈ q.started, accessOf p = none) ∧
     ∀ l ∈ s.launches, l.ended = false ∧ launchRuns l = false ∧
       ∀ q ∈ s.queues, q.tenant = l.tenant → q.index = l.queue → ∃ p ∈ q.started, p.work = .launch l.id) ∧
    (let r := regionIn .started [(0, [7])] [] 0
     let s := { started1 (.launch 1) (launch1 r) with queues := [{ queue1 with slot := none, st := .error }] }
     takesWork s = true ∧ s.creating = [] ∧ s.pend = [] ∧ s.ctl.pup ≠ .activating ∧ converged r = false ∧ banksBusy s r = false) ∧
    takesWork State.reset = false := by decide +kernel

/-- (The flash image's status rests on firmware: R49's two branches are the two values of one test.) -/
theorem test_meets_ResetsAndBringUp :
    (takesWork (posted []) = true ∧ (posted []).matcher.waiting = [] ∧
      ((posted []).modCtl (fun c => { c with activation := .loading })).ctl.activation = .loading ∧ (sha384 (bankBytes (posted []).ctl) = (posted []).ctl.bankDigest ∨
      sha384 (bankBytes (posted []).ctl) ≠ (posted []).ctl.bankDigest)) ∧
    State.reset.ctl.pup = .reset ∧ (imageStatus Config.flashImage = 0 ∨ imageStatus Config.flashImage ≠ 0) ∧
    (let s := State.reset.modCtl (fun c => { c with pup := .bootrom, bringup := 2 })
     s.ctl.bringup = 2 ∧ s.ctl.pup = .bootrom) ∧
    (let s := State.reset.modCtl (fun c => { c with pup := .bringup, bringup := 3 })
     s.ctl.pup = .bringup ∧ s.ctl.bringup = 3) ∧
    (let s := State.reset.modCtl (fun c => { c with pup := .bringup, bringup := 4 })
     s.ctl.pup = .bringup ∧ s.ctl.bringup = 4) ∧
    (State.reset.modCtl (fun c => { c with activation := .flipped })).ctl.activation = .flipped :=
  ⟨⟨rfl, rfl, rfl, Decidable.em _⟩, rfl, Decidable.em _, ⟨rfl, rfl⟩, ⟨rfl, rfl⟩, ⟨rfl, rfl⟩, rfl⟩

theorem test_meets_RegistersWritten :
    State.reset.ctl.lgen = false ∧ (league State.reset).ctl.lgen = true ∧ (0x800 : Word).getLsbD 11 = true ∧ (0 : Word).getLsbD 11 = false ∧
    ((State.reset.modTenant 1 (fun x => { x with en := true })).tenant 1).en = true ∧ translationFrozen State.reset 0 = false ∧ translationFrozen { State.reset with queues := [queue1] } 0 = true ∧
    (State.reset.ctl.activation = .none ∧ State.reset.ctl.trip = false) ∧ (2 : Word) &&& 6 ≠ 0 ∧
    (State.reset.modCtl (fun c => { c with activation := .loading })).ctl.activation ≠ .none ∧
    ((0x100000001 : Word).extractLsb' 0 4 ≠ 0 ∧ (0x100000001 : Word).extractLsb' 32 4 ≠ 0) ∧ (0x100000010 : Word).extractLsb' 0 4 = 0 ∧
    State.reset.ctl.attBusy = false ∧ (State.reset.modCtl (fun c => { c with attBusy := true })).ctl.attBusy = true := by
  decide +kernel

/-- (An image that passes every check of R47 rests on firmware's keys, so its clauses are the other branch of these tests.) -/
theorem test_meets_FirmwareAndLinks :
    (let s := State.reset.modCtl (fun c => { c with activation := .loading })
     s.ctl.activation = .loading ∧ s.ctl.goLen.toNat ≤ 524288 ∧ stagedImage s = some [] ∧ imageStatus [] ≠ 0) ∧
    524288 < (State.reset.modCtl (fun c => { c with goLen := 524289 })).ctl.goLen.toNat ∧
    stagedImage { State.reset.modCtl (fun c => { c with goLen := 524288 }) with hostBad := [(0, 8, true)] } = none ∧
    layoutsListed State.reset [] = true ∧ layoutsListed { State.reset with queues := [{ queue1 with layout := 3 }] } [] = false ∧
    (let s := State.reset.modCtl (fun c => { c with pup := .activating, activation := .flipped, bringup := 4 })
     s.ctl.pup = .activating ∧ s.ctl.activation = .flipped ∧ 4 ≤ s.ctl.bringup) ∧
    (let s := { State.reset.modCtl (fun c => { c with ports := c.ports.set 17 { VPort.reset with up := true, recent := List.replicate 65 1 } }) with now := 1000000 }
     (vportOf s 17).up = true ∧ 64 < ((vportOf s 17).recent.filter (fun t => decide (s.now < t + 1000000))).length) :=
  ⟨⟨rfl, by decide, by rfl, by decide +kernel⟩, by decide, by decide +kernel, by decide +kernel, by decide +kernel, ⟨rfl, rfl, by decide⟩,
   by decide +kernel⟩

theorem test_meets_HostAccesses :
    let s := posted []
    (functionAnswers s 0 0x60 = true ∧ barSpot s 0 0x60 = .unmapped) ∧
    (functionAnswers s 0 0x7FFFFC = true ∧ barSpot s 0 0x7FFFFC = .unmapped) ∧
    (barSpot s 0 0x1FFC = .control 0x1FFC ∧ alignedAccess 0x1FFC 4 = true ∧ alignedAccess 0x1FFC 8 = false ∧
      (ctlWrite s 0x1FFC 4 0).isSome = true ∧ ctlRegister s (0x1FFC - 0x1FFC % 8) = some 0) ∧
    (functionAnswers s 0 0x400000 = true ∧ barSpot s 0 0x400000 = .region 0 ∧ alignedAccess 0x400000 8 = true ∧
      (tenantRegister s 0 (0 - 0 % 8)).isSome = true) ∧
    configNormal State.reset = false ∧ configNormal s = true ∧ (s.modCtl (fun c => { c with accid := 5 })).ctl.accid ≠ 0xFFFFF := by
  decide +kernel

/-- Both ways in which a step runs an instruction. -/
theorem test_meets_StepRuns :
    (let s := State.reset.withFetchWord 64 0x0400060000000009
     s.agenda = [.fire 0 0] ∧ s.ctl.trip = false ∧
     ∃ a, chooseFiring (returnToys { s with agenda := [], cur := none } 0) 0 0 = some a ∧
       (((returnToys { s with agenda := [], cur := none } 0).fabric 0).blk.bind (fun b => b.words[a.slot]?)) = some 0x0400060000000009) ∧
    survivesTrip .sweepSlot = true ∧ survivesTrip .schedulingDecision = false := by
  refine ⟨⟨rfl, rfl, ?_⟩, rfl, rfl⟩
  exact ⟨_, by rfl, by rfl⟩

theorem test_meets_TestResults :
    let s := State.reset.withFetchWord 64 0x3C00000000000000
    ∃ a b, chooseFiring s 0 0 = some a ∧ (s.fabric 0).blk = some b ∧ instrAt b a.slot = some (.pand bare) :=
  ⟨_, _, by rfl, by rfl, by rfl⟩

theorem test_meets_DecodeEncode : hdrOf (.addi onward (-1)) = some onward ∧ WellFormed (.addi onward (-1)) := by decide

theorem test_meets_WordsRejected : decode 0x4790000000000000 = .ok (.fcvt bare 9 0 false) ∧ decode 0x47A0000000000000 = .error .reservedFn := ⟨rfl, rfl⟩

theorem test_meets_MemoriesKept :
    let s : State := { State.reset with agenda := [.ev .sweepSlot] }
    MemoriesWf s ∧ ∃ t, step s = .next t := ⟨by unfold MemoriesWf; decide +kernel, _, rfl⟩

/-! ### Results at the borderline -/

/-- The value that an instruction delivers on two operands, and the flags it keeps. -/
def gives (i : Instr) (l r : Word) : Option (Word × List Effect) :=
  match exec i (due plain l r) with
  | .next t => ((t.fabric 0).mesh.head?).map (fun o => (o.tok.val, (t.fabric 0).held.map (fun e => e.eff)))
  | _ => none
def narrow : Hdr := { onward with w := true }

/-- R342's wrap, R331's sign extension and R342's shift amounts. -/
theorem test_add_w : gives (.add narrow) 0x7FFFFFFF 1 = some (0xFFFFFFFF80000000, []) := by decide +kernel
theorem test_mulh : gives (.mulh onward) 0x8000000000000000 2 = some (0xFFFFFFFFFFFFFFFF, []) := by decide +kernel
theorem test_shl_amount : gives (.shl onward) 1 65 = some (2, []) := by decide +kernel
theorem test_rol : gives (.rol onward) 0x8000000000000001 1 = some (3, []) := by decide +kernel
theorem test_shadd : gives (.shadd onward 2) 5 0x100 = some (0x128, []) := by decide +kernel
theorem test_clz_w : gives (.clz narrow) 0xFFFFFFFF00000001 0 = some (31, []) := by decide +kernel
theorem test_clz_zero : gives (.clz onward) 0 0 = some (64, []) := by decide +kernel

/-- R343's corners. -/
theorem test_div : gives (.div onward) 7 (-2) = some (-3, []) := by decide +kernel
theorem test_rem : gives (.rem onward) 7 (-2) = some (1, []) := by decide +kernel
theorem test_divu_zero : gives (.divu onward) 5 0 = some (0xFFFFFFFFFFFFFFFF, []) := by decide +kernel
theorem test_remu_zero : gives (.remu onward) 5 0 = some (5, []) := by decide +kernel
theorem test_div_wraps : gives (.div onward) 0x8000000000000000 (-1) = some (0x8000000000000000, []) := by decide +kernel

/-- R344's fields. -/
theorem test_bfx : gives (.bfx onward 4 3) 0xF0 0 = some (-1, []) := by decide +kernel
theorem test_bfxu : gives (.bfxu onward 4 3) 0xF0 0 = some (15, []) := by decide +kernel
theorem test_bfi : gives (.bfi onward 8 7) 0x12345678 0xAB = some (0x1234AB78, []) := by decide +kernel

/-- R345: the immediate is sign-extended before it is read as unsigned. -/
theorem test_tltui : gives (.tltui onward (-1)) 5 0 = some (1, []) := by decide +kernel
theorem test_tlti : gives (.tlti onward (-1)) 5 0 = some (0, []) := by decide +kernel

/-- R347 to R349, with chapter 15's rounding, saturation and flags. -/
theorem test_fadd_inexact : gives (.fadd onward 0 false) 0x3F800000 0x33800000 = some (0x3F800000, [.flags flagNX]) := by decide +kernel
theorem test_fmul_overflow : gives (.fmul onward 0 false) 0x7F7FFFFF 0x40000000 = some (0x7F800000, [.flags (flagOF ||| flagNX)]) := by
  decide +kernel
theorem test_fmul_saturates :
    gives (.fmul onward 0 true) 0x7F7FFFFF 0x40000000 = some (0x7F7FFFFF, [.flags (flagOF ||| flagNX ||| flagSAT)]) := by decide +kernel
theorem test_fdiv_zero : gives (.fdiv onward 0 true) 0x3F800000 0x80000000 = some (0xFF7FFFFF, [.flags (flagDZ ||| flagSAT)]) := by
  decide +kernel
theorem test_fsub_infinities : gives (.fsub onward 0 false) 0x7F800000 0x7F800000 = some (0x7FC00000, [.flags flagNV]) := by decide +kernel
theorem test_fcvt_nearest : gives (.fcvt onward 0 0 false) 0xC0200000 0 = some (-2, [.flags flagNX]) := by decide +kernel
theorem test_fcvt_down : gives (.fcvt onward 0 2 false) 0xC0200000 0 = some (-3, [.flags flagNX]) := by decide +kernel
theorem test_fcvt_clamps : gives (.fcvt onward 0 0 false) 0x4F32D05E 0 = some (0x7FFFFFFF, [.flags flagNV]) := by decide +kernel
theorem test_fcvt_bf16 : gives (.fcvt onward 4 0 false) 0x3F808000 0 = some (0x3F80, [.flags flagNX]) := by decide +kernel
theorem test_ftlt_nan : gives (.ftlt onward) 0x7FC00000 0 = some (0, [.flags flagNV]) := by decide +kernel

/-- A step fetches and runs the word that `withFetchWord` places: MOVI 9 to the next slot. -/
theorem test_step_runs_word :
    (match step (State.reset.withFetchWord 64 0x0400020000000009) with
      | .next t => (t.fabric 0).mesh.map (fun o => (o.slot, o.tok.val))
      | _ => []) = [(1, 9)] := by decide +kernel

/-! ### WellFormed refuses an ill-formed term for each of its checks (R311, R312, R315, R319 to R323, R326, R381) -/

theorem test_ill_w : ¬WellFormed (.mov { bare with w := true }) := by decide
theorem test_ill_target : ¬WellFormed (.mov { bare with t1 := { d := 0, port := .right } }) := by decide
theorem test_ill_twice : ¬WellFormed (.mov { onward with t2 := onward.t1 }) := by decide
theorem test_ill_no_result : ¬WellFormed (.br onward 3) := by decide
theorem test_ill_three_operand : ¬WellFormed (.sel bare) ∧ ¬WellFormed (.ffma bare 0 false) ∧ ¬WellFormed (.acas bare false false (via 0 3)) := by
  decide
theorem test_ill_kreg : ¬WellFormed (.rd bare false true 16) ∧ ¬WellFormed (.wr bare true 16) := by decide
theorem test_ill_field : ¬WellFormed (.bfx bare 63 1) ∧ ¬WellFormed (.bfxu { bare with w := true } 31 1) ∧ ¬WellFormed (.bfi bare 60 4) := by
  decide
theorem test_ill_fcvt : ¬WellFormed (.fcvt bare 10 0 false) := by decide
theorem test_ill_sizes : ¬WellFormed (.ldw bare (via 0 3)) ∧ ¬WellFormed (.ldk bare (via 0 3)) ∧ ¬WellFormed (.lde bare (via 0 4)) ∧
    ¬WellFormed (.aadd bare false false (via 0 4)) := by decide
theorem test_ill_store_target : ¬WellFormed (.std onward (via 0 3)) ∧
    ¬WellFormed (.std { bare with t2 := onward.t1 } (via 0 3)) := by decide
theorem test_ill_fence : ¬WellFormed (.fence bare 1 5) ∧ ¬WellFormed (.qfence bare 0) ∧ ¬WellFormed (.waitq bare 0) := by decide
theorem test_ill_csr : ¬WellFormed (.csrr bare 0x00C) ∧ ¬WellFormed (.csrr bare 0x019) ∧ ¬WellFormed (.csrw bare 0x008) := by decide
theorem test_ill_vector_register : ¬WellFormed (.vld bare { vf 16 false with ty := 0 }) ∧ ¬WellFormed (.mnot bare { vf 8 false with ty := 0 }) ∧
    ¬WellFormed (.vabs bare { vf 1 false with vb := 1 }) := by decide
theorem test_ill_vector_type : ¬WellFormed (.vadd bare { vf 1 false with ty := 10 }) ∧ ¬WellFormed (.vshl bare { vf 1 false with ty := 5 }) ∧
    ¬WellFormed (.vneg bare { vf 1 false with ty := 1 }) ∧ ¬WellFormed (.vexp2 bare { vf 1 false with ty := 8 }) ∧
    ¬WellFormed (.mand bare { vf 1 false with ty := 1 }) := by decide
theorem test_ill_vector_use : ¬WellFormed (.vadd bare { vf 1 false with rm := 1 }) ∧ ¬WellFormed (.vand bare { vf 1 false with sat := true }) ∧
    ¬WellFormed (.vabs bare { vf 1 false with ty := 6, sat := true }) ∧ ¬WellFormed (.vcvt bare { vf 1 false with spec := 10 }) ∧
    ¬WellFormed (.vsel bare { vf 1 false with spec := 8 }) ∧ ¬WellFormed (.vadd bare { vf 1 false with spec := 1 }) ∧
    ¬WellFormed (.vcmp bare 6 (vf 1 false)) ∧ ¬WellFormed (.vcmpr bare (vf 1 true)) := by decide
theorem test_ill_matrix : ¬WellFormed (.mlws bare 0 5) ∧ ¬WellFormed (.mlws bare 0 8) ∧ ¬WellFormed (.mlws bare 0 0x10) ∧
    ¬WellFormed (.mzero bare 1 1023) ∧ ¬WellFormed (.mpass bare 0 127 897) ∧
    ¬WellFormed (.mrd bare 0 0 0 7 0 false) := by decide
theorem test_ill_rank : ¬WellFormed (.rank bare 31 0 0 false false 1) ∧ ¬WellFormed (.rkmerge bare 0 31 0 false 1) ∧
    ¬WellFormed (.rkmerge bare 0 0 31 false 1) ∧ ¬WellFormed (.rkpass bare 0 1 1023) := by decide

/-- A save image's first word holds the layout version, its tenant, VALID and LOCK, and the share stands at 0x18_0000
(R82). -/
def savedImage : Image :=
  { id := 0, ctx := { ctxA with tenant := 5, lock := true }, mem := mwrite [] 3 1 0xAB,
    lines := tset LineState.reset [] 9 { full := false, poison := false },
    gtags := [], bank := none, tile := 0, bars := Vector.replicate 4 (Barrier.reset 0), complete := false, discard := false, spot := none, reading := false,
    restored := false, kept := false, valid := true, cause := 0, info0 := 0, info1 := 0 }
theorem test_image_bytes : [0, 2, 3, 0x160001, 0x180003].map (imageByte savedImage) = [3, 5, 5, 0xFD, 0xAB] := by decide +kernel

/-! ### Further witnesses: what copies, resets, registers, faults and riders leave -/

/-- A zstd frame of one block of 100 equal bytes. -/
def frame100 : List Byte := [0x28, 0xB5, 0x2F, 0xFD, 0x20, 0x64, 0x23, 0x03, 0x00, 0x55]

theorem test_unpack : zstdDecode frame100 100 = (List.replicate 100 0x55, none) := by decide +kernel

theorem test_meets_CopiesRun_lands :
    (let k := copyNow .cpyfill 65 0 none none
     k.owner = .ctx 1 ∧ Standing (copying k) 1 0 ∧ DestOpen (copying k) k 0 64 ∧
     ∀ j < 64, lineState (copying k) 0 (k.src.byteAt j / 128) = { full := true, poison := false }) ∧
    (let k := { copyNow .cpyz 100 0 none none with input := frame100 }
     k.landed + 64 < k.total ∧ k.landed + 64 ≤ (unpacked k).length) ∧
    (let k := { copyNow .cpyz 65 64 none none with output := some (List.replicate 65 0, none) }
     k.landed < k.total ∧ k.landed + 1 ≤ (List.replicate 65 (0 : Byte)).length) ∧
    (let k := copyNow .cpy 1 0 none none
     let s := (copying k).modTile 0 (fun t => { t with lines := [(32, { full := true, poison := true })] })
     ∃ u z, readPieces k (piecesFrom k.src 0 1) s = (u, .stops z) ∧ u.copies = s.copies ∧ Standing u 1 0 ∧ z.poison = true ∧
       z.erroff < k.total) ∧
    (let k := copyNow .cpy 1 1 none none
     Standing (copying k) 1 0 ∧ k.cmpl % 128 = 0 ∧ k.cmpl < 0x3E0000) := by
  unfold Standing Still MemoriesWf DestOpen
  exact ⟨by decide +kernel, by decide +kernel, by decide, ⟨_, _, by rfl, by rfl, by decide +kernel, by rfl, by decide⟩, by decide +kernel⟩

/-- A copy of one byte to the third page of a G window of tile 0's scratchpad. -/
def toPage : QEntry :=
  command (some (.cpy bare 0 0 0)) [capOf 0, capOf 0, CapReg.make 1 0x40020000 0x1000 0xFFF 0 true]
    (List.replicate 24 0 ++ [1] ++ List.replicate 39 0)

theorem test_meets_CopiesRun_page :
    let s := paging (on { ctxA with copyQ := [toPage] } (fabricOf plain) none) scratchLeaf
    let k := copyOf (s.nextId + 1) { ctxA with copyQ := [toPage] } toPage .cpy
    let added := State.modCtx { s with nextId := s.nextId + 1, copies := s.copies ++ [k] } 0 (fun c => { c with copyQ := [] })
    destPages k = [0x4002] ∧ storingBefore s 1 0 = false ∧ (∀ y ∈ s.copies, y.id ≠ k.id) ∧
    (let r := spotOf added k k.dst (max k.dst.base (65536 * 0x4002)) .write
     r.2.toOption = some (.place (.scratch 0 0x20000)) ∧ Still r.1 ∧ r.1.copies = added.copies ∧ ∀ i ∈ r.1.images, i.ctx.id ≠ 1) := by
  unfold Still MemoriesWf
  decide +kernel

theorem test_meets_LeagueAccesses_reserves :
    (let s := (leagueScratch 0x7B).modTile 0 (fun t => { t with lines := [(0, { full := false, poison := false })] })
     ∃ s1, translateAccessAs s 0 0 0x40000000 (opAccess (.stfw 8)) = (s1, .ok (.scratch 0 0)) ∧ s1.pend = [] ∧ s1.reserved = [] ∧
       targetFull s1 (.scratch 0 0) = false ∧ placeFault 192 (.stfw 8) .zero false (.scratch 0 0) = none) ∧
    ({ askOf false 0 0 with cancel := true } : LeagueRequest).cancel = true := ⟨⟨_, by rfl, by decide +kernel⟩, rfl⟩

theorem test_meets_ResetsAndBringUp_quiet :
    State.reset.pend = [] ∧ queuesOf State.reset 5 = [] ∧ resetWaits State.reset 5 = false ∧
    ∀ g < 16, (State.reset.tenant g).resetting = false := by decide +kernel

theorem test_meets_RegistersWritten_log :
    let s := { State.reset.modTenant 0 (fun x => { x with logAt := 7, logFar := 1, count := 16 }) with now := 7, queues := [queue1] }
    translationFrozen s 0 = true ∧ (s.tenant 0).logAt = s.now ∧ 0 < min (s.tenant 0).logFar (s.tenant 0).count ∧
    (s.tenant 0).count ≤ 16 := by decide +kernel

theorem test_meets_HostAccesses_fields :
    let s := (posted []).modCtl (fun c => { c with vfEnable := true })
    (∀ o ∈ [0x0, 0x14, 0x18, 0x38, 0x100, 0x10C, 0x204, 0x400, 0x4F8, 0x82C, 0x1FFC],
      functionAnswers s 0 o = true ∧ barSpot s 0 o = .control o ∧ alignedAccess o 4 = true ∧ (ctlRegister s (o - o % 8)).isSome = true) ∧
    (∀ o ∈ [0x8, 0x14, 0x28, 0x1FC, 0x203F8, 0x21000],
      functionAnswers s 15 o = true ∧ barSpot s 15 o = .region o ∧ (tenantRegister s 15 (o - o % 8)).isSome = true) := by
  decide +kernel

theorem test_meets_FaultsHandled_still :
    (let s := on ctxA (fabricOf plain) none
     Still s ∧ faultPossible s 0 (.uncorrectable 7 3) = true ∧ (s.tile 0).faulted = false ∧ savingTile s 0 = none ∧
     ∀ l ∈ s.launches, ∀ r ∈ l.regions, r.st ≠ .waiting) ∧
    (let s := (on ctxA (fabricOf plain) none).modTile 0 (fun x => { x with faulted := true })
     Still s ∧ faultPossible s 0 (.uncorrectable 7 3) = true ∧ (s.tile 0).faulted = true) ∧
    (let s := world (regionIn .preempted [] [] 0) none none Entry.reset [image1 (some 0) false false]
     faultPossible s 0 (.architectural 6 3) = true ∧ savingTile s 0 = some 0 ∧ (s.tile 0).ctx = none) := by
  unfold Still MemoriesWf; decide +kernel

theorem test_meets_SavesAndResumes_owes :
    let s := world (regionIn .preempted [] [] 0) none none Entry.reset [image1 (some 0) false false]
    (∀ i ∈ s.images, writesImage s i = false) ∧ bankImage s 0 = some (image1 (some 0) false false) := ⟨by decide +kernel, rfl⟩

/-- A rider of RIMATV, whose request for a lane has been made, and one that rides with a lane. -/
def matrixRide : List Byte := rideBytes.set 0 3
def asking : Rider := riderWith { legOf (some 1) none false with laneAsked := some 1 } matrixRide false
def rides (n : Nat) : Rider := { riderWith { legOf (some 1) (some 1) false with lane := true } matrixRide false with id := n }

theorem test_meets_RidersRun_grant :
    (riderRec matrixRide).kind = 3 ∧
    (let s := riding asking 4
     (s.riders.map (·.id)).Nodup ∧ (∀ y ∈ s.riders, y.tile < 192) ∧ s.services = [] ∧ (∀ y ∈ s.riders, slotNow s < y.since + 200) ∧
     (∀ y ∈ ringLegs s 0, rideOver y.2 (slotNow s) = false ∧ mayBoard s 0 y.1 y.2 = false ∧ mayAsk s 0 y.1 y.2 = false) ∧
     ((ringLegs s 0).filter (fun y => y.2.lane)).length = 0 ∧ 1 ≤ slotNow s) ∧
    (let s := { riding asking 4 with riders := (List.range 8).map rides }
     (s.riders.map (·.id)).Nodup ∧ (∀ y ∈ s.riders, slotNow s < y.since + 200) ∧
     (∀ y ∈ ringLegs s 0, rideOver y.2 (slotNow s) = false ∧ mayBoard s 0 y.1 y.2 = false ∧ mayAsk s 0 y.1 y.2 = false) ∧
     8 ≤ ((ringLegs s 0).filter (fun y => y.2.lane)).length) := by decide +kernel

theorem test_meets_RidersRun_boards :
    (let x := riderWith { legOf (some 1) none false with lane := true } matrixRide false
     let s := riding x 2
     (riderRec x.record).kind = 3 ∧ mayBoard s 0 x { legOf (some 1) none false with lane := true } = true ∧
     (∀ w ∈ (s.ring 0).aboard, w ≠ .rider 3 ∧ boardedAt s w 0 ≤ slotNow s ∧ boardRank s w 0 < 2 ^ 192) ∧
     boardRank s (.rider 3) 0 < 2 ^ 192) ∧
    (let x := riderWith (legOf (some 1) none false) rideBytes false
     (riderRec x.record).kind ≠ 3 ∧ (takePages (riding x 2) 3 0).2 = false) ∧
    (let x := riderWith { legOf none none false with seated := false } rideBytes false
     let s := riding x 2
     (riderRec x.record).kind ≠ 3 ∧ mayArrive s 3 0 = true ∧
     ∀ z ∈ (legsOf s 0 0).takeWhile (fun z => z.1.id != 3), z.2.seated = true) := by decide +kernel


end Sys2Proof.Tests
end

section
/-!
Rounding to a multiple of a unit (R16, R259): which modes round a magnitude up, how far each lies from it, and O12.
-/
namespace Sys2Proof.Machine

section Modes
variable (neg : Bool) (n rest k : Nat)

theorem roundUp_rtz : roundUp 1 neg n rest k = false := by
  simp [roundUp]

theorem roundUp_rdn : roundUp 2 neg n rest k = (decide (rest ≠ 0) && neg) := by
  by_cases h : rest = 0 <;> simp [roundUp, h]

theorem roundUp_rup : roundUp 3 neg n rest k = (decide (rest ≠ 0) && !neg) := by
  by_cases h : rest = 0 <;> simp [roundUp, h]

/-- RNE rounds up what lies above the middle, and the middle itself where the multiple below is odd. -/
theorem roundUp_rne_iff :
    roundUp 0 neg n rest k = true ↔ 2 ^ k < 2 * rest ∨ (2 * rest = 2 ^ k ∧ n % 2 = 1) := by
  by_cases h : rest = 0
  · have hpow : 0 < 2 ^ k := Nat.two_pow_pos k
    simp [roundUp, h, hpow.ne]
  · simp [roundUp, h]

end Modes

section Rounding
variable {mode : Nat} {neg : Bool} {m : Nat} {e q : Int}

/-- The branch of `roundMag` for q = e agrees with the one that divides, so one equation says what it gives for e ≤ q. -/
theorem roundMag_of_le (h : e ≤ q) :
    roundMag mode neg m e q =
      (m / 2 ^ (q - e).toNat +
          (roundUp mode neg (m / 2 ^ (q - e).toNat) (m % 2 ^ (q - e).toNat) (q - e).toNat).toNat,
        decide (m % 2 ^ (q - e).toNat = 0)) := by
  obtain rfl | hlt := h.eq_or_lt
  · simp [roundMag, scaleTo, roundUp, Nat.mod_one]
  · rw [roundMag, if_neg (not_le.mpr hlt)]
    cases hup : roundUp mode neg (m / 2 ^ (q - e).toNat) (m % 2 ^ (q - e).toNat) (q - e).toNat <;>
      simp [hup]

theorem roundMag_exact_iff (h : e ≤ q) :
    (roundMag mode neg m e q).2 = true ↔ m % 2 ^ (q - e).toNat = 0 := by
  simp [roundMag_of_le h]

/-- A mode that never rounds this magnitude up gives the greatest multiple not above it. -/
theorem roundMag_below (h : e ≤ q) (hup : ∀ n rest k, roundUp mode neg n rest k = false) :
    (roundMag mode neg m e q).1 * 2 ^ (q - e).toNat ≤ m ∧
      m < (roundMag mode neg m e q).1 * 2 ^ (q - e).toNat + 2 ^ (q - e).toNat := by
  simp only [roundMag_of_le h, hup, Bool.toNat_false, Nat.add_zero]
  exact ⟨Nat.div_mul_le_self m _, Nat.lt_div_mul_add (Nat.two_pow_pos _)⟩

/-- A mode that rounds every inexact magnitude up gives the least multiple not below it. -/
theorem roundMag_above (h : e ≤ q)
    (hup : ∀ n rest k, roundUp mode neg n rest k = decide (rest ≠ 0)) :
    m ≤ (roundMag mode neg m e q).1 * 2 ^ (q - e).toNat ∧
      (roundMag mode neg m e q).1 * 2 ^ (q - e).toNat < m + 2 ^ (q - e).toNat := by
  simp only [roundMag_of_le h, hup]
  generalize hu : 2 ^ (q - e).toNat = u
  have hpos : 0 < u := hu ▸ Nat.two_pow_pos _
  have hsplit : m / u * u + m % u = m := Nat.div_add_mod' m u
  have hrest : m % u < u := Nat.mod_lt m hpos
  by_cases hr : m % u = 0
  · simp only [hr, ne_eq, not_true_eq_false, decide_false, Bool.toNat_false, Nat.add_zero]
    omega
  · simp only [ne_eq, hr, not_false_eq_true, decide_true, Bool.toNat_true, Nat.add_one_mul]
    omega

/-- RNE is at most half a multiple away, and lies on an even one where two are equally near. -/
theorem roundMag_nearest (h : e ≤ q) :
    2 * ((roundMag 0 neg m e q).1 * 2 ^ (q - e).toNat) ≤ 2 * m + 2 ^ (q - e).toNat ∧
      2 * m ≤ 2 * ((roundMag 0 neg m e q).1 * 2 ^ (q - e).toNat) + 2 ^ (q - e).toNat ∧
      (2 * ((roundMag 0 neg m e q).1 * 2 ^ (q - e).toNat) = 2 * m + 2 ^ (q - e).toNat ∨
          2 * m = 2 * ((roundMag 0 neg m e q).1 * 2 ^ (q - e).toNat) + 2 ^ (q - e).toNat →
        (roundMag 0 neg m e q).1 % 2 = 0) := by
  simp only [roundMag_of_le h]
  have hiff := roundUp_rne_iff neg (m / 2 ^ (q - e).toNat) (m % 2 ^ (q - e).toNat) (q - e).toNat
  have hsplit := Nat.div_add_mod' m (2 ^ (q - e).toNat)
  have hrest := Nat.mod_lt m (Nat.two_pow_pos (q - e).toNat)
  cases hup : roundUp 0 neg (m / 2 ^ (q - e).toNat) (m % 2 ^ (q - e).toNat) (q - e).toNat with
  | false =>
    have hlow : ¬(2 ^ (q - e).toNat < 2 * (m % 2 ^ (q - e).toNat) ∨
        (2 * (m % 2 ^ (q - e).toNat) = 2 ^ (q - e).toNat ∧ m / 2 ^ (q - e).toNat % 2 = 1)) := by
      simp [← hiff, hup]
    simp only [Bool.toNat_false, Nat.add_zero]
    omega
  | true =>
    have hhigh := hiff.mp hup
    simp only [Bool.toNat_true, Nat.add_one_mul]
    omega

/-- RDN takes a magnitude away from zero where its sign is negative, and else towards zero. -/
theorem roundMag_rdn (h : e ≤ q) :
    if neg then m ≤ (roundMag 2 neg m e q).1 * 2 ^ (q - e).toNat ∧
      (roundMag 2 neg m e q).1 * 2 ^ (q - e).toNat < m + 2 ^ (q - e).toNat
    else (roundMag 2 neg m e q).1 * 2 ^ (q - e).toNat ≤ m ∧
      m < (roundMag 2 neg m e q).1 * 2 ^ (q - e).toNat + 2 ^ (q - e).toNat := by
  cases neg with
  | true => exact roundMag_above h fun n rest k => by simp [roundUp_rdn]
  | false => exact roundMag_below h fun n rest k => by simp [roundUp_rdn]

/-- RUP is RDN of the opposite sign. -/
theorem roundMag_rup : roundMag 3 neg m e q = roundMag 2 (!neg) m e q := by
  simp only [roundMag, roundUp_rup, roundUp_rdn]

end Rounding

/-- Settles O12: RNE by the position of the remainder about the middle, the directed modes by whether they round every
inexact magnitude up or none. -/
theorem roundingIsCorrect : Obligations.RoundingIsCorrect := by
  intro neg m e q h
  refine ⟨roundMag_nearest h, roundMag_below h fun n rest k => roundUp_rtz neg n rest k,
    roundMag_rdn h, ?_, fun mode => roundMag_exact_iff h⟩
  have hrup := roundMag_rdn (neg := !neg) (m := m) h
  rw [← roundMag_rup] at hrup
  cases neg <;> exact hrup

end Sys2Proof.Machine
end

section
/-!
The device's shared operations (R41 to R46): what an event raised, an MSI-X vector signalled and a violation logged leave
alone, and what the log holds afterwards.
-/
namespace Sys2Proof.Machine

section Raise
variable (s : State) (kind : EventKind) (key : Nat)

/-- An event that arrives changes the matcher, and a kick the pending bits of queues. -/
theorem eventArrives_eq {u : State} (h : eventArrives s kind key = some u) :
    ∃ m qs, u = { s with matcher := m, queues := qs } := by
  unfold eventArrives at h
  simp only at h
  split at h
  · exact ⟨_, _, (Option.some.inj h).symm⟩
  · split at h
    · exact ⟨_, _, (Option.some.inj h).symm⟩
    · obtain ⟨m, -, rfl⟩ := Option.map_eq_some_iff.mp h
      exact ⟨_, _, rfl⟩

/-- An event raised changes nothing but the matcher and the queues. -/
theorem raise_eq : ∃ m qs, raise s kind key = { s with matcher := m, queues := qs } := by
  unfold raise
  split
  case h_1 u h => exact eventArrives_eq s kind key h
  case h_2 => exact ⟨_, _, rfl⟩

@[simp] theorem raise_ctl : (raise s kind key).ctl = s.ctl := by
  obtain ⟨m, qs, h⟩ := raise_eq s kind key; rw [h]

@[simp] theorem raise_dram : (raise s kind key).dram = s.dram := by
  obtain ⟨m, qs, h⟩ := raise_eq s kind key; rw [h]

@[simp] theorem raise_ring (q : Nat) : (raise s kind key).ring q = s.ring q := by
  obtain ⟨m, qs, h⟩ := raise_eq s kind key; rw [h]; rfl

@[simp] theorem raise_tenant (f : Nat) : (raise s kind key).tenant f = s.tenant f := by
  obtain ⟨m, qs, h⟩ := raise_eq s kind key; rw [h]; rfl

end Raise

section Signal
variable (s : State) (f vec : Nat)

/-- A vector signalled changes nothing but tenants and what has been sent. -/
theorem signalMsix_eq : ∃ ts out, signalMsix s f vec = { s with tenants := ts, outbox := out } := by
  unfold signalMsix
  simp only
  split
  · exact ⟨_, _, rfl⟩
  · exact ⟨_, _, rfl⟩

@[simp] theorem signalMsix_ctl : (signalMsix s f vec).ctl = s.ctl := by
  obtain ⟨ts, out, h⟩ := signalMsix_eq s f vec; rw [h]

@[simp] theorem signalMsix_dram : (signalMsix s f vec).dram = s.dram := by
  obtain ⟨ts, out, h⟩ := signalMsix_eq s f vec; rw [h]

@[simp] theorem signalMsix_ring (q : Nat) : (signalMsix s f vec).ring q = s.ring q := by
  obtain ⟨ts, out, h⟩ := signalMsix_eq s f vec; rw [h]; rfl

/-- Of a tenant's registers a vector signalled can change the pending bits (R44). -/
theorem signalMsix_tenant (g : Nat) :
    ∃ p, (signalMsix s f vec).tenant g = { s.tenant g with pba := p } := by
  unfold signalMsix
  simp only
  split
  · rw [State.tenant_modTenant]
    split
    case isTrue h => rw [← h.1]; exact ⟨_, rfl⟩
    case isFalse => exact ⟨(s.tenant g).pba, rfl⟩
  · exact ⟨(s.tenant g).pba, rfl⟩

theorem signalMsix_tenant_ne {g : Nat} (h : f ≠ g) : (signalMsix s f vec).tenant g = s.tenant g := by
  unfold signalMsix
  simp only
  split
  · simp [State.tenant_modTenant, h]
  · rfl

end Signal

section RaiseEvent
variable (s : State) (f : Nat) (g : Tenant → Tenant)

theorem raiseEvent_eq : ∃ ts out, raiseEvent s f g = { s with tenants := ts, outbox := out } := by
  unfold raiseEvent
  simp only
  split
  · exact signalMsix_eq (s.modTenant f g) f 0
  · exact ⟨_, _, rfl⟩

@[simp] theorem raiseEvent_ctl : (raiseEvent s f g).ctl = s.ctl := by
  obtain ⟨ts, out, h⟩ := raiseEvent_eq s f g; rw [h]

theorem raiseEvent_tenant_same (hf : f < 16) :
    ∃ p, (raiseEvent s f g).tenant f = { g (s.tenant f) with pba := p } := by
  have hmod : (s.modTenant f g).tenant f = g (s.tenant f) := by simp [State.tenant_modTenant, hf]
  unfold raiseEvent
  simp only
  split
  · exact hmod ▸ signalMsix_tenant (s.modTenant f g) f 0 f
  · exact ⟨(g (s.tenant f)).pba, hmod⟩

theorem raiseEvent_tenant_ne {f' : Nat} (h : f ≠ f') : (raiseEvent s f g).tenant f' = s.tenant f' := by
  unfold raiseEvent
  simp only
  split
  · simp [signalMsix_tenant_ne, State.tenant_modTenant, h]
  · simp [State.tenant_modTenant, h]

end RaiseEvent

/-! ### The violation log (R43) -/

/-- How many of the newest entries are the Volong side's of this moment (R43, R415). -/
def farEntries (now : Nat) (x : Tenant) : Nat := if x.logAt = now then min x.logFar x.count else 0

theorem farEntries_le (now : Nat) (x : Tenant) : farEntries now x ≤ x.count := by
  unfold farEntries
  split <;> omega

/-- A tenant's registers with a violation logged, as `logViolation` leaves them but for the pending bits. -/
def withEntry (now : Nat) (x : Tenant) (kind : Nat) (addr : Word) (member : Nat) : Tenant :=
  let far := farEntries now x
  if kind < 6 ∧ 0 < far then
    { insertEntry x far kind addr member with logFar := min far (16 - (x.count - far) - 1) }
  else
    { appendEntry x kind addr member with
      logAt := now, logFar := if kind < 6 ∨ 16 ≤ x.count then far else far + 1 }

section LogViolation
variable (s : State) (f kind : Nat) (addr : Word) (member : Nat)

/-- A violation logged changes nothing but the matcher, the queues, tenants and what has been sent. -/
theorem logViolation_eq : ∃ m qs ts out, logViolation s f kind addr member =
    { s with matcher := m, queues := qs, tenants := ts, outbox := out } := by
  obtain ⟨m, qs, h⟩ := raise_eq s .other (Config.violationSource f)
  obtain ⟨ts, out, h'⟩ := raiseEvent_eq (raise s .other (Config.violationSource f)) f
    (fun x => withEntry s.now x kind addr member)
  refine ⟨m, qs, ts, out, h'.trans ?_⟩
  rw [h]

@[simp] theorem logViolation_ctl : (logViolation s f kind addr member).ctl = s.ctl := by
  obtain ⟨m, qs, ts, out, h⟩ := logViolation_eq s f kind addr member; rw [h]

@[simp] theorem logViolation_agenda : (logViolation s f kind addr member).agenda = s.agenda := by
  obtain ⟨m, qs, ts, out, h⟩ := logViolation_eq s f kind addr member; rw [h]

theorem logViolation_tenant_same (hf : f < 16) : ∃ p, (logViolation s f kind addr member).tenant f =
    { withEntry s.now (s.tenant f) kind addr member with pba := p } := by
  have h := raiseEvent_tenant_same (raise s .other (Config.violationSource f)) f
    (fun x => withEntry s.now x kind addr member) hf
  rwa [raise_tenant] at h

theorem logViolation_tenant_ne {g : Nat} (h : f ≠ g) :
    (logViolation s f kind addr member).tenant g = s.tenant g := by
  simp [logViolation, raiseEvent_tenant_ne, h]

end LogViolation

section Entries
variable (kind : Nat) (addr : Word) (member : Nat)

theorem logEntry_addr (seq : BitVec 8) : (logEntry seq kind addr member).extractLsb' 0 64 = addr := by
  apply BitVec.eq_of_getLsbD_eq
  intro i hi
  simp only [logEntry, BitVec.getLsbD_extractLsb', BitVec.getLsbD_append]
  grind

theorem logEntry_kind (seq : BitVec 8) :
    (logEntry seq kind addr member).extractLsb' 64 8 = BitVec.ofNat 8 kind := by
  apply BitVec.eq_of_getLsbD_eq
  intro i hi
  simp only [logEntry, BitVec.getLsbD_extractLsb', BitVec.getLsbD_append]
  grind

theorem laterEntry_low (e : BitVec 128) : (laterEntry e).extractLsb' 0 72 = e.extractLsb' 0 72 := by
  apply BitVec.eq_of_getLsbD_eq
  intro i hi
  simp only [laterEntry, BitVec.getLsbD_extractLsb']
  grind

theorem laterEntry_seq (e : BitVec 128) : (laterEntry e).extractLsb' 72 8 = e.extractLsb' 72 8 + 1 := by
  apply BitVec.eq_of_getLsbD_eq
  intro i hi
  simp only [laterEntry, BitVec.getLsbD_extractLsb']
  grind

end Entries

/-- Entries written at distinct places of a vector stand there. -/
theorem getElem?_foldl_zipIdx {α : Type} {n : Nat} (at_ : Nat → Nat) (es : List α) (v : Vector α n)
    (hlt : ∀ i, at_ i < n) (hinj : ∀ i j, i < es.length → j < es.length → at_ i = at_ j → i = j) :
    ∀ i (hi : i < es.length),
      (es.zipIdx.foldl (fun v e => v.setIfInBounds (at_ e.2) e.1) v)[at_ i]? = some es[i] := by
  induction es using List.reverseRecOn with
  | nil => simp
  | append_singleton es e ih =>
    intro i hi
    simp only [List.length_append, List.length_singleton] at hi hinj
    simp only [List.zipIdx_append, List.zipIdx_singleton, List.foldl_append, List.foldl_cons, List.foldl_nil,
      Nat.zero_add, Vector.getElem?_setIfInBounds]
    by_cases hlast : i = es.length
    · subst hlast; simp [hlt]
    · have hne : at_ es.length ≠ at_ i := fun h => hlast (hinj _ _ (by omega) hi h).symm
      rw [if_neg hne, ih (fun i j hi hj => hinj i j (by omega) (by omega)) i (by omega),
        List.getElem_append_left]


/-- The place in the log of the i-th entry counted from k before the newest (R43). -/
def logSlot (x : Tenant) (k i : Nat) : Nat := (x.head.toNat + x.count - k + i) % 16

/-- The entries that stand last in the log once one has gone before the k newest, a full log's lost one among them. -/
def insertedEntries (x : Tenant) (k kind : Nat) (addr : Word) (member : Nat) : List (BitVec 128) :=
  logEntry (x.seq - BitVec.ofNat 8 k) kind addr member ::
    (List.range k).map (fun i => laterEntry (x.vlog[logSlot x k i]?.getD 0))

section Insert
variable {x : Tenant} {k : Nat} (kind : Nat) (addr : Word) (member : Nat)

theorem insertEntry_of_room (h : x.count < 16) (hk : k ≤ x.count) :
    (insertEntry x k kind addr member).count = x.count + 1 ∧ (insertEntry x k kind addr member).seq = x.seq + 1 ∧
      (insertEntry x k kind addr member).lost = x.lost := by
  have hroom : ¬ min (k + 1) (16 - (x.count - k)) ≤ k := by omega
  simp [insertEntry, hroom]

theorem insertEntry_of_full (h : x.count = 16) (hk : k ≤ 16) :
    (insertEntry x k kind addr member).count = 16 ∧
      (insertEntry x k kind addr member).lost = if x.lost = BitVec.allOnes 32 then x.lost else x.lost + 1 := by
  have hroom : min (k + 1) (16 - (x.count - k)) ≤ k := by omega
  simp only [insertEntry, if_pos hroom, loseEntry]
  exact ⟨h, trivial⟩

/-- The entries inserted stand in their places, as far as the log reaches. -/
theorem insertEntry_vlog (hk : k ≤ x.count) {i : Nat} (hi : i < min (k + 1) (16 - (x.count - k))) :
    (insertEntry x k kind addr member).vlog[logSlot x k i]? = (insertedEntries x k kind addr member)[i]? := by
  have hlen : (insertedEntries x k kind addr member).length = k + 1 := by simp [insertedEntries]
  have htake := getElem?_foldl_zipIdx (logSlot x k)
    ((insertedEntries x k kind addr member).take (min (k + 1) (16 - (x.count - k)))) x.vlog
    (fun i => Nat.mod_lt _ (by omega))
    (fun i j hi hj h => by simp only [List.length_take, logSlot] at hi hj h; omega) i
    (by rw [List.length_take]; omega)
  rw [List.getElem_take, ← List.getElem?_eq_getElem] at htake
  simpa [insertEntry, insertedEntries, loseEntry, apply_ite Tenant.vlog, logSlot, Function.comp_def] using htake

/-- The entry itself stands first of them. -/
theorem insertEntry_vlog_first (hk : k ≤ x.count) (hpos : 0 < k) (hcount : x.count ≤ 16) :
    (insertEntry x k kind addr member).vlog[logSlot x k 0]? =
      some (logEntry (x.seq - BitVec.ofNat 8 k) kind addr member) :=
  insertEntry_vlog kind addr member hk (by omega)

/-- An entry that the new one goes before moves on by one place. -/
theorem insertEntry_vlog_later (hk : k ≤ x.count) {i : Nat} (hi : i < k) (hin : x.count - k + i + 1 < 16) :
    ∃ d, x.vlog[logSlot x k i]? = some d ∧
      (insertEntry x k kind addr member).vlog[logSlot x k (i + 1)]? = some (laterEntry d) := by
  have hslot : logSlot x k i < 16 := Nat.mod_lt _ (by omega)
  refine ⟨x.vlog[logSlot x k i], Vector.getElem?_eq_getElem hslot, ?_⟩
  rw [insertEntry_vlog kind addr member hk (by omega)]
  simp [insertedEntries, hi, hslot]

end Insert

/-- The fields of a tenant's registers of which R43 speaks. -/
def Tenant.log (x : Tenant) : Bool × Vector (BitVec 128) 16 × Nat × BitVec 8 × BitVec 32 :=
  (x.viol, x.vlog, x.count, x.seq, x.lost)

section WithEntry
variable {now : Nat} {x : Tenant} {kind : Nat} (addr : Word) (member : Nat)

/-- A host-side violation goes before the Volong side's of the same moment. -/
theorem log_withEntry_inserted (h : kind < 6 ∧ 0 < farEntries now x) :
    (withEntry now x kind addr member).log = (insertEntry x (farEntries now x) kind addr member).log := by
  simp only [withEntry, if_pos h]
  rfl

/-- Any other goes behind the entries there are. -/
theorem log_withEntry_appended (h : ¬ (kind < 6 ∧ 0 < farEntries now x)) :
    (withEntry now x kind addr member).log = (appendEntry x kind addr member).log := by
  simp only [withEntry, if_neg h]
  rfl

end WithEntry

/-- A state whose log is that with the entry has the violation logged. -/
theorem loggedViolation_of_log {s u : State} {f kind : Nat} {addr : Word} {member : Nat}
    (h : (u.tenant f).log = (withEntry s.now (s.tenant f) kind addr member).log) :
    LoggedViolation s u f kind addr := by
  have hle := farEntries_le s.now (s.tenant f)
  unfold LoggedViolation
  simp only
  change if kind < 6 ∧ 0 < farEntries s.now (s.tenant f) then _ else _
  split
  case isTrue hins =>
    rw [log_withEntry_inserted addr member hins] at h
    simp only [Tenant.log, Prod.mk.injEq] at h
    obtain ⟨hviol, hvlog, hcount, hseq, hlost⟩ := h
    intro hfull
    rw [hviol, hvlog, hcount, hseq, hlost]
    refine ⟨rfl, ⟨_, insertEntry_vlog_first kind addr member hle hins.2 hfull, logEntry_addr .., logEntry_kind ..⟩,
      fun i hi hin => ?_, fun hroom => insertEntry_of_room kind addr member hroom hle,
      fun h16 => insertEntry_of_full kind addr member h16 (by omega)⟩
    obtain ⟨d, hd, hlater⟩ := insertEntry_vlog_later kind addr member hle hi hin
    exact ⟨d, _, hd, hlater, laterEntry_low d, laterEntry_seq d⟩
  case isFalse hins =>
    rw [log_withEntry_appended addr member hins] at h
    simp only [Tenant.log, Prod.mk.injEq] at h
    obtain ⟨hviol, hvlog, hcount, hseq, hlost⟩ := h
    split
    case isTrue hroom =>
      have hroom' : ¬ 16 ≤ (s.tenant f).count := by omega
      simp only [appendEntry, if_neg hroom', ge_iff_le] at hviol hvlog hcount hseq hlost
      exact ⟨hcount, hviol, hseq, hlost, _, hvlog, logEntry_addr .., logEntry_kind ..⟩
    case isFalse hroom =>
      have hroom' : 16 ≤ (s.tenant f).count := by omega
      simp only [appendEntry, if_pos hroom', ge_iff_le] at hvlog hcount hlost
      exact ⟨hcount, hvlog, hlost⟩

end Sys2Proof.Machine
end

section
/-!
Host registers (R24, R25, R39 to R43, R50, R51, R89, R309): what the write of each leaves, and O51.
-/
namespace Sys2Proof.Machine

section Configuration
variable (now : Nat) (x : Tenant) (kind : Nat) (addr : Word) (member : Nat)

theorem insertEntry_config (k : Nat) :
    (insertEntry x k kind addr member).asid = x.asid ∧ (insertEntry x k kind addr member).lasid = x.lasid ∧
      (insertEntry x k kind addr member).root = x.root := by
  simp only [insertEntry, loseEntry]
  split <;> exact ⟨rfl, rfl, rfl⟩

theorem appendEntry_config :
    (appendEntry x kind addr member).asid = x.asid ∧ (appendEntry x kind addr member).lasid = x.lasid ∧
      (appendEntry x kind addr member).root = x.root := by
  simp only [appendEntry, loseEntry]
  split <;> exact ⟨rfl, rfl, rfl⟩

/-- Of the fields that R40 freezes an entry in the log changes nothing. -/
theorem withEntry_config :
    (withEntry now x kind addr member).asid = x.asid ∧ (withEntry now x kind addr member).lasid = x.lasid ∧
      (withEntry now x kind addr member).root = x.root := by
  unfold withEntry
  simp only
  split
  · exact insertEntry_config x kind addr member _
  · exact appendEntry_config x kind addr member

end Configuration

section LoggedTenant
variable (s : State) (f kind : Nat) (addr : Word) (member g : Nat)

theorem tenant_of_ge (h : 16 ≤ g) : s.tenant g = Tenant.reset false := by
  simp [State.tenant, h]

theorem logViolation_config :
    ((logViolation s f kind addr member).tenant g).asid = (s.tenant g).asid ∧
      ((logViolation s f kind addr member).tenant g).lasid = (s.tenant g).lasid ∧
      ((logViolation s f kind addr member).tenant g).root = (s.tenant g).root := by
  by_cases hfg : f = g
  · subst hfg
    by_cases hf : f < 16
    · obtain ⟨p, hp⟩ := logViolation_tenant_same s f kind addr member hf
      rw [hp]
      exact withEntry_config s.now (s.tenant f) kind addr member
    · simp [tenant_of_ge _ f (not_lt.mp hf)]
  · simp [logViolation_tenant_ne, hfg]

@[simp] theorem logViolation_asid : ((logViolation s f kind addr member).tenant g).asid = (s.tenant g).asid :=
  (logViolation_config s f kind addr member g).1

@[simp] theorem logViolation_lasid : ((logViolation s f kind addr member).tenant g).lasid = (s.tenant g).lasid :=
  (logViolation_config s f kind addr member g).2.1

@[simp] theorem logViolation_root : ((logViolation s f kind addr member).tenant g).root = (s.tenant g).root :=
  (logViolation_config s f kind addr member g).2.2

end LoggedTenant

/-- The state that `logViolation` leaves has the violation logged. -/
theorem loggedViolation_logViolation (s : State) (f kind : Nat) (addr : Word) (member : Nat) (hf : f < 16) :
    LoggedViolation s (logViolation s f kind addr member) f kind addr := by
  obtain ⟨p, hp⟩ := logViolation_tenant_same s f kind addr member hf
  exact loggedViolation_of_log (member := member) (by rw [hp]; rfl)

@[simp] theorem tenant_modTenant_same (s : State) (f : Nat) (g : Tenant → Tenant) (h : f < 16) :
    (s.modTenant f g).tenant f = g (s.tenant f) := by
  simp [State.tenant_modTenant, h]

/-- Two changes of one tenant are one. -/
theorem State.modTenant_modTenant (s : State) (f : Nat) (g h : Tenant → Tenant) (hf : f < 16) :
    (s.modTenant f g).modTenant f h = s.modTenant f (fun x => h (g x)) := by
  simp only [State.modTenant, State.tenant, Vector.getElem?_setIfInBounds_self, if_pos hf, Option.getD_some,
    Vector.setIfInBounds_setIfInBounds]

/-! ### TENCFG (R40) -/

/-- The fields of TENCFG that are never frozen, as a write leaves them. -/
def withTencfg (f : Nat) (v : Word) (x : Tenant) : Tenant :=
  { x with en := v.getLsbD 63 || f == 0, qmax := v.extractLsb' 48 13, lgon := v.getLsbD 43, ceil := v.extractLsb' 40 3 }

/-- The fields that R40 freezes, as a write that is accepted leaves them. -/
def withAsids (v : Word) (x : Tenant) : Tenant := { x with asid := v.extractLsb' 0 16, lasid := v.extractLsb' 16 16 }

/-- The happening with which a write of TENCFG tears a tenant down. -/
def tencfgAgenda (s : State) (f : Nat) (v : Word) : List Happening :=
  if (s.tenant f).en && !(v.getLsbD 63 || f == 0) then .ev (.functionLevelReset f) :: s.agenda else s.agenda

/-- What a change of the ASID and the LASID removes from the translation caches. -/
def withoutAsids (s : State) (old : Tenant) (v : Word) : State :=
  let asid := v.extractLsb' 0 16
  let lasid := v.extractLsb' 16 16
  let s := if asid ≠ old.asid then removeAsid (removeAsid s old.asid.toNat) asid.toNat else s
  if lasid ≠ old.lasid then removeAsid (removeAsid s old.lasid.toNat) lasid.toNat else s

/-- Such a removal is seen in the tiles alone. -/
theorem withoutAsids_eq (s : State) (old : Tenant) (v : Word) : ∃ tiles, withoutAsids s old v = { s with tiles := tiles } := by
  unfold withoutAsids
  simp only
  split <;> split <;> exact ⟨_, rfl⟩

section Tencfg
variable (s : State) (f : Nat) (v : Word) (off : Nat)

/-- A write of TENCFG while its ASIDs are frozen. -/
theorem writeTencfg_frozen (h : translationFrozen s f = true) (hoff : off % 8 = 0) :
    writeTencfg s f v off = { (logViolation s 0 2 (BitVec.ofNat 64 off) 0).modTenant f (withTencfg f v) with
      agenda := tencfgAgenda s f v } := by
  simp only [writeTencfg, h, hoff, decide_true, Bool.and_self, if_true, tencfgAgenda]
  split
  · simp only [State.modTenant_agenda, logViolation_agenda]; rfl
  · rw [← logViolation_agenda s 0 2 (BitVec.ofNat 64 off) 0]; rfl

/-- One that does not cover them logs nothing. -/
theorem writeTencfg_frozen_high (h : translationFrozen s f = true) (hoff : off % 8 ≠ 0) :
    writeTencfg s f v off = { s.modTenant f (withTencfg f v) with agenda := tencfgAgenda s f v } := by
  simp only [writeTencfg, h, hoff, decide_false, Bool.and_false, if_true, tencfgAgenda]
  split <;> rfl

/-- A write of TENCFG that is accepted whole. -/
theorem writeTencfg_open (h : translationFrozen s f = false) (hf : f < 16) :
    ∃ tiles, writeTencfg s f v off =
      { s.modTenant f (fun x => withAsids v (withTencfg f v x)) with
        tiles := tiles, agenda := tencfgAgenda s f v } := by
  obtain ⟨T, hT⟩ := withoutAsids_eq (s.modTenant f (withTencfg f v)) (s.tenant f) v
  have hopen : writeTencfg s f v off =
      let u := (withoutAsids (s.modTenant f (withTencfg f v)) (s.tenant f) v).modTenant f (withAsids v)
      if (s.tenant f).en && !(v.getLsbD 63 || f == 0) then { u with agenda := .ev (.functionLevelReset f) :: u.agenda }
      else u := by
    simp only [writeTencfg, h, Bool.false_and, Bool.false_eq_true, if_false]
    rfl
  refine ⟨T, ?_⟩
  rw [hopen, hT, ← State.modTenant_modTenant s f (withTencfg f v) (withAsids v) hf]
  unfold tencfgAgenda
  simp only
  split <;> rfl

end Tencfg

/-! ### O51 -/

section
variable (s : State) (f : Nat) (v : Word)

theorem exec_tencfgWrite (hf : f < 16) :
    exec (.tencfgWrite f v) s = .next (writeTencfg s f v (0x0400 + 16 * f)) :=
  congrArg Host.Outcome.next (if_pos hf)

theorem exec_tenptWrite (hf : f < 16) :
    exec (.tenptWrite f v) s = .next (writeTenpt s f v (0x0408 + 16 * f)) :=
  congrArg Host.Outcome.next (if_pos hf)

theorem exec_tnstatClear (hf : f < 16) : exec (.tnstatClear f v) s = .next (writeTnstat s f v 0) :=
  congrArg Host.Outcome.next (if_pos hf)

end

section RegisterWrites
variable (s : State) (f p k : Nat) (v : Word) (n : BitVec 4)

/-- R24: LGCTL while the league is off, a clear of EN, and any other write while it is on. -/
theorem exec_lgctlWrite_off (h : s.ctl.lgen = false) :
    exec (.lgctlWrite v) s = .next (s.modCtl (fun c => { c with
      mcnt := v.extractLsb' 16 11, midx := v.extractLsb' 0 11
      lgen := v.getLsbD 11 && decide (v.extractLsb' 16 11 ≠ 0) && decide ((v.extractLsb' 16 11).toNat ≤ 1152) &&
        decide ((v.extractLsb' 0 11).toNat < (v.extractLsb' 16 11).toNat) })) := by
  change Host.Outcome.next (writeLgctl s v 0x0100) = _
  simp [writeLgctl, h]

theorem exec_lgctlWrite_on (h : s.ctl.lgen = true) :
    exec (.lgctlWrite v) s =
      .next (if v.getLsbD 11 then logViolation s 0 5 0x0100 0 else s.modCtl (fun c => { c with lgen := false })) := by
  change Host.Outcome.next (writeLgctl s v 0x0100) = _
  simp [writeLgctl, h]

/-- R40: TENCFG while its ASIDs are frozen: they keep their values. -/
theorem writeTencfg_frozen_tenant (hf : f < 16) (h : translationFrozen s f = true) (off : Nat) :
    ∃ x, (writeTencfg s f v off).tenant f = withTencfg f v x ∧ x.asid = (s.tenant f).asid ∧ x.lasid = (s.tenant f).lasid := by
  by_cases hoff : off % 8 = 0
  · rw [writeTencfg_frozen s f v off h hoff]
    exact ⟨_, tenant_modTenant_same _ f _ hf, logViolation_asid .., logViolation_lasid ..⟩
  · rw [writeTencfg_frozen_high s f v off h hoff]
    exact ⟨_, tenant_modTenant_same _ f _ hf, rfl, rfl⟩

/-- R40: a write that covers them is in the PF's log. -/
theorem writeTencfg_frozen_logged (h : translationFrozen s f = true) (off : Nat) (hoff : off % 8 = 0) :
    LoggedViolation s (writeTencfg s f v off) 0 2 (BitVec.ofNat 64 off) := by
  refine loggedViolation_of_log (member := 0) ?_
  obtain ⟨p, hp⟩ := logViolation_tenant_same s 0 2 (BitVec.ofNat 64 off) 0 (by omega)
  rw [writeTencfg_frozen s f v off h hoff]
  change (((logViolation s 0 2 (BitVec.ofNat 64 off) 0).modTenant f (withTencfg f v)).tenant 0).log = _
  rw [State.tenant_modTenant]
  split
  case isTrue h0 => rw [h0.1, hp]; rfl
  case isFalse => rw [hp]; rfl

/-- R40: TENCFG while nothing is frozen: every field is taken, and nothing is logged. -/
theorem writeTencfg_open_leaves (hf : f < 16) (h : translationFrozen s f = false) (off : Nat) :
    (writeTencfg s f v off).tenant f = withTencfg f v (withAsids v (s.tenant f)) ∧
      ((writeTencfg s f v off).tenant 0).count = (s.tenant 0).count := by
  obtain ⟨T, hT⟩ := writeTencfg_open s f v off h hf
  have htenant (g : Nat) : (writeTencfg s f v off).tenant g =
      (s.modTenant f (fun x => withAsids v (withTencfg f v x))).tenant g := by rw [hT]; rfl
  simp only [htenant, State.tenant_modTenant, hf, and_self, if_true]
  refine ⟨rfl, ?_⟩
  split
  case isTrue h0 => rw [h0.1]; rfl
  case isFalse => rfl

/-- A fall of EN tears the tenant down (R40). -/
theorem writeTencfg_agenda (hf : f < 16) (off : Nat) : (writeTencfg s f v off).agenda = tencfgAgenda s f v := by
  cases h : translationFrozen s f with
  | true =>
    by_cases hoff : off % 8 = 0
    · rw [writeTencfg_frozen s f v off h hoff]
    · rw [writeTencfg_frozen_high s f v off h hoff]
  | false =>
    obtain ⟨T, hT⟩ := writeTencfg_open s f v off h hf
    rw [hT]

theorem tencfgWrite_meets (hf : f < 16) :
    ∃ u, exec (.tencfgWrite f v) s = .next u ∧ (u.tenant f).qmax = v.extractLsb' 48 13 ∧
      (u.tenant f).ceil = v.extractLsb' 40 3 ∧ (u.tenant f).lgon = v.getLsbD 43 ∧
      (u.tenant f).en = (v.getLsbD 63 || f == 0) ∧
      ((s.tenant f).en = true → (u.tenant f).en = false → u.agenda = .ev (.functionLevelReset f) :: s.agenda) ∧
      (translationFrozen s f = true → (u.tenant f).asid = (s.tenant f).asid ∧ (u.tenant f).lasid = (s.tenant f).lasid ∧
        LoggedViolation s u 0 2 (BitVec.ofNat 64 (0x0400 + 16 * f))) ∧
      (translationFrozen s f = false → (u.tenant 0).count = (s.tenant 0).count ∧
        (u.tenant f).asid = v.extractLsb' 0 16 ∧ (u.tenant f).lasid = v.extractLsb' 16 16) := by
  refine ⟨_, exec_tencfgWrite s f v hf, ?_⟩
  have hagenda (hen : (s.tenant f).en = true) (hfall : (v.getLsbD 63 || f == 0) = false) :
      (writeTencfg s f v (0x0400 + 16 * f)).agenda = .ev (.functionLevelReset f) :: s.agenda := by
    rw [writeTencfg_agenda s f v hf, tencfgAgenda, hen, hfall]
    rfl
  cases h : translationFrozen s f with
  | true =>
    obtain ⟨x, hx, hasid, hlasid⟩ := writeTencfg_frozen_tenant s f v hf h (0x0400 + 16 * f)
    have hlog := writeTencfg_frozen_logged s f v h (0x0400 + 16 * f) (by omega)
    rw [hx]
    exact ⟨rfl, rfl, rfl, rfl, hagenda, fun _ => ⟨hasid, hlasid, hlog⟩, nofun⟩
  | false =>
    obtain ⟨hx, hcount⟩ := writeTencfg_open_leaves s f v hf h (0x0400 + 16 * f)
    rw [hx]
    exact ⟨rfl, rfl, rfl, rfl, hagenda, nofun, fun _ => ⟨hcount, rfl, rfl⟩⟩

/-- R40: TENPT while it is frozen. -/
theorem tenptWrite_frozen (hf : f < 16) (h : translationFrozen s f = true) :
    ∃ u, exec (.tenptWrite f v) s = .next u ∧ (u.tenant f).root = (s.tenant f).root ∧
      LoggedViolation s u 0 2 (BitVec.ofNat 64 (0x0408 + 16 * f)) := by
  refine ⟨_, exec_tenptWrite s f v hf, ?_⟩
  simp only [writeTenpt, h, if_true]
  exact ⟨logViolation_root .., loggedViolation_logViolation _ _ _ _ _ (by omega)⟩

theorem tenptWrite_open (hf : f < 16) (h : translationFrozen s f = false) :
    exec (.tenptWrite f v) s =
      .next ((removeTenant s f).modTenant f (fun x => { x with root := v.extractLsb' 12 52 })) := by
  rw [exec_tenptWrite s f v hf]
  simp [writeTenpt, h]

/-- R50: DUPGO is cleared or stays. -/
theorem clearDupgo_eq (p : Prop) [Decidable p] :
    ∃ d, (if p then s.modCtl (fun c => { c with dupgo := false }) else s) = s.modCtl (fun c => { c with dupgo := d }) := by
  split
  · exact ⟨false, rfl⟩
  · exact ⟨s.ctl.dupgo, rfl⟩

/-- R50: what a write of FWACT leaves, DUPGO apart. -/
theorem writeFwact_eq : ∃ d,
    let u := s.modCtl (fun c => { c with dupgo := d, fwlen := v.extractLsb' 32 32 })
    writeFwact s v =
      if v.getLsbD 0 then
        if s.ctl.activation ≠ .none then u.modCtl (fun c => { c with dupgo := true })
        else if s.ctl.trip then u
        else u.modCtl (fun c => { c with
          activation := .loading, fwstatus := 0x01, goLen := v.extractLsb' 32 32, goAddr := s.ctl.fwstage })
      else u := by
  obtain ⟨d, hd⟩ := clearDupgo_eq s (v.getLsbD 1 = true)
  refine ⟨d, ?_⟩
  simp only [writeFwact, hd, decide_eq_true_eq]
  rfl

/-- R50: GO takes LEN and, while no activation runs and no trip has stopped the module, starts one; while one runs it sets DUPGO. -/
theorem fwactGo_meets :
    ∃ u, exec (.fwactGo v) s = .next u ∧ u.ctl.fwlen = v.extractLsb' 32 32 ∧
      (s.ctl.activation = .none → s.ctl.trip = false → u.ctl.activation = .loading ∧ u.ctl.fwstatus = 1 ∧
        u.ctl.goLen = v.extractLsb' 32 32 ∧ u.ctl.goAddr = s.ctl.fwstage) ∧
      (s.ctl.activation ≠ .none → u.ctl.activation = s.ctl.activation ∧ u.ctl.dupgo = true) := by
  have hgo : (v ||| 1).getLsbD 0 = true := by simp
  have hlen : (v ||| 1).extractLsb' 32 32 = v.extractLsb' 32 32 := by
    apply BitVec.eq_of_getLsbD_eq
    intro i hi
    simp [hi]
  refine ⟨writeFwact s (v ||| 1), rfl, ?_⟩
  obtain ⟨d, hd⟩ := writeFwact_eq s (v ||| 1)
  rw [hd, hgo, hlen, if_pos rfl]
  by_cases hact : s.ctl.activation = .none
  · rw [if_neg (not_not.mpr hact)]
    refine ⟨?_, fun _ htrip => ?_, fun hne => absurd hact hne⟩
    · split <;> rfl
    · rw [htrip]
      exact ⟨rfl, rfl, rfl, rfl⟩
  · rw [if_pos hact]
    exact ⟨rfl, fun h => absurd h hact, fun _ => ⟨rfl, rfl⟩⟩

theorem tnstatClear_cleared (hf : f < 16) (h : f = 0 ∨ v &&& 6 = 0) :
    exec (.tnstatClear f v) s = .next (s.modTenant f (fun x => { x with
      viol := x.viol && !v.getLsbD 0, fwev := x.fwev && !(v.getLsbD 1 && f == 0)
      linkev := x.linkev && !(v.getLsbD 2 && f == 0) })) := by
  have hno : ¬ (f ≠ 0 ∧ v &&& 6 ≠ 0) := by tauto
  rw [exec_tnstatClear s f v hf, writeTnstat, if_neg hno]
  rfl

/-- An entry in the log never clears VIOL. -/
theorem withEntry_viol {x : Tenant} (hx : x.viol = true) (now kind : Nat) (addr : Word) (member : Nat) :
    (withEntry now x kind addr member).viol = true := by
  unfold withEntry
  simp only
  split
  · rfl
  · simp only [appendEntry, loseEntry]
    split
    · exact hx
    · rfl

theorem tnstatClear_refused (hf : f < 16) (h0 : f ≠ 0) (hv : v &&& 6 ≠ 0) :
    ∃ u, exec (.tnstatClear f v) s = .next u ∧ LoggedViolation s u f 2 0 ∧
      ((s.tenant f).viol = true → (u.tenant f).viol = true) := by
  have haddr : BitVec.ofNat 64 (regionBase f + 0) = 0 := by simp [regionBase, h0]
  refine ⟨logViolation s f 2 0 0, ?_, loggedViolation_logViolation _ _ _ _ _ hf, fun hviol => ?_⟩
  · rw [exec_tnstatClear s f v hf, writeTnstat, if_pos ⟨h0, hv⟩, haddr]
  · obtain ⟨p, hp⟩ := logViolation_tenant_same s f 2 0 0 hf
    rw [hp]
    exact withEntry_viol hviol ..

theorem vportOf_clearDownev (hp : p < 18) : vportOf (clearDownev s p) p = { vportOf s p with downev := false } := by
  simp [vportOf, clearDownev, hp]

/-- R25: one port's DOWNEV is cleared, and the others stay. -/
theorem vlstatDownevClear_meets (hp : p < 18) :
    ∃ u, exec (.vlstatDownevClear p) s = .next u ∧ vportOf u p = { vportOf s p with downev := false } ∧
      ∀ j, j ≠ p → vportOf u j = vportOf s j := by
  refine ⟨clearDownev s p, rfl, vportOf_clearDownev s p hp, fun j hj => ?_⟩
  simp [vportOf, clearDownev, hj.symm]

/-- R43: the entries that HEAD passes over are released. -/
theorem vlogctlHeadWrite_meets (hf : f < 16) :
    ∃ u, exec (.vlogctlHeadWrite f n) s = .next u ∧ (u.tenant f).head = n ∧
      (u.tenant f).count = (s.tenant f).count - min (n - (s.tenant f).head).toNat (s.tenant f).count := by
  refine ⟨writeHead s f n, rfl, ?_⟩
  rw [writeHead, tenant_modTenant_same s f _ hf]
  exact ⟨rfl, rfl⟩

/-- R89: the entry 0 of either direction zero, or a write that waits for the next step boundary. -/
theorem exec_slewtabWrite :
    exec (.slewtabWrite k v) s = .next (if v.extractLsb' 0 4 = 0 ∨ v.extractLsb' 32 4 = 0 then s
      else s.modStack k (fun x => { x with write := some v })) := rfl

/-- R51: GO while no report is being made, and while one is. -/
theorem exec_attcmdGo :
    exec .attcmdGo s = .next (if s.ctl.attBusy then s
      else s.modCtl (fun c => { c with attDone := false, attBusy := true, attGo := c.attnonce })) := by
  change Host.Outcome.next (writeAttcmd s 1) = _
  cases h : s.ctl.attBusy <;> simp [writeAttcmd, h]

end RegisterWrites

/-- Settles O51: each register's write by its own lemma, LGCTL, TENCFG and TENPT by whether they are frozen. -/
theorem registersWritten : Obligations.RegistersWritten := by
  intro s f p k v n
  refine ⟨exec_lgctlWrite_off s v, fun hon hv => ?_, fun hon hv => ?_, tencfgWrite_meets s f v,
    tenptWrite_frozen s f v, tenptWrite_open s f v, fwactGo_meets s v, rfl, vlogctlHeadWrite_meets s f n,
    tnstatClear_cleared s f v, tnstatClear_refused s f v, vlstatDownevClear_meets s p, fun hup hdn => ?_,
    fun h => ?_, rfl, fun h => ?_, fun h => ?_⟩
  · rw [exec_lgctlWrite_on s v hon, hv]; rfl
  · rw [exec_lgctlWrite_on s v hon, hv]; rfl
  · rw [exec_slewtabWrite, if_neg (not_or.mpr ⟨hup, hdn⟩)]
  · rw [exec_slewtabWrite, if_pos h]
  · rw [exec_attcmdGo, h]; rfl
  · rw [exec_attcmdGo, h]; rfl

end Sys2Proof.Machine
end

section
/-!
Reset, firmware activation, sensors and Volong ports (R21, R22, R25, R34, R35, R45 to R51, R90): O54 and O52.
-/
namespace Sys2Proof.Machine

/-! ### The machine after reset -/

section Reset
variable (t : Nat)

/-- Every tile reads as a reset one, those that the module does not have among them. -/
theorem reset_tile : State.reset.tile t = Tile.reset := by
  by_cases h : t < 192 <;> simp [State.tile, State.reset, h]

theorem reset_ring : State.reset.ring t = Ring.reset := by
  by_cases h : t < 32 <;> simp [State.ring, State.reset, h]

theorem reset_vport : vportOf State.reset t = VPort.reset := by
  by_cases h : t < 18 <;> simp [vportOf, State.reset, Control.reset, h]

theorem reset_tenant : ∃ pf, State.reset.tenant t = Tenant.reset pf := by
  by_cases h : t < 16
  · exact ⟨t == 0, by simp [State.tenant, State.reset, h]⟩
  · exact ⟨false, tenant_of_ge _ t (not_lt.mp h)⟩

theorem reset_not_fenced : fenced State.reset t = false := by
  simp [fenced, State.reset, Control.reset]

end Reset

/-- Settles O54: every tile, ring, port and tenant reads as the reset value of its kind. -/
theorem resetState : Obligations.ResetState := by
  refine ⟨fun t => ?_, rfl, rfl, rfl, rfl, rfl, rfl, rfl, rfl, rfl, rfl, fun q => ?_, fun p => ?_, fun f => ?_⟩
  · have htile := reset_tile t
    refine ⟨congrArg Tile.ctx htile, congrArg (·.fabric.blk) htile, reset_not_fenced t, fun l => ?_⟩
    rw [lineState, htile]
    rfl
  · rw [reset_ring]; rfl
  · rw [reset_vport]; rfl
  · obtain ⟨pf, hf⟩ := reset_tenant f
    rw [hf]
    exact ⟨rfl, rfl⟩

/-! ### Firmware activation (R47, R50) -/

section Firmware
variable (s : State)

section Loading
variable {s} (h : s.ctl.activation = .loading)
include h

/-- R50: a LEN that can be no image's is never read (log 85). -/
theorem fwImageLoaded_tooLong (hlen : 524288 < s.ctl.goLen.toNat) :
    exec .fwImageLoaded s = .next (activationFails s 0x10) := by
  change execFwImageLoaded s = _
  simp only [execFwImageLoaded, h, hlen, ne_eq, not_true_eq_false, if_false, if_true]

variable (hlen : s.ctl.goLen.toNat ≤ 524288)
include hlen

theorem fwImageLoaded_unread (himg : stagedImage s = none) :
    exec .fwImageLoaded s = .next (activationFails s 0x16) := by
  change execFwImageLoaded s = _
  simp only [execFwImageLoaded, h, not_lt.mpr hlen, himg, ne_eq, not_true_eq_false, if_false]

variable {img : List Byte} (himg : stagedImage s = some img)
include himg

theorem fwImageLoaded_invalid (hst : imageStatus img ≠ 0) :
    exec .fwImageLoaded s = .next (activationFails s (imageStatus img)) := by
  change execFwImageLoaded s = _
  simp only [execFwImageLoaded, h, not_lt.mpr hlen, himg, if_pos hst, ne_eq, not_true_eq_false, if_false]

variable (hst : imageStatus img = 0)
include hst

theorem fwImageLoaded_unlisted (hlay : layoutsListed s img = false) :
    exec .fwImageLoaded s = .next (activationFails s 0x15) := by
  change execFwImageLoaded s = _
  simp only [execFwImageLoaded, h, not_lt.mpr hlen, himg, hst, hlay, ne_eq, not_true_eq_false, Bool.not_false, if_false,
    if_true]

/-- The control block of an activation past its flip (R45, R50, R51). -/
def flippedTo (c : Control) (img : List Byte) : Control :=
  { activateBank c img (!c.activeBank) with
    m2 := sha384 (digestBytes c.m2 ++ digestBytes (sha384 img)), pup := .activating, activation := .flipped }

theorem exec_fwImageLoaded_flips (hlay : layoutsListed s img = true) :
    exec .fwImageLoaded s = .next (s.modCtl (fun c => flippedTo c img)) := by
  change execFwImageLoaded s = _
  simp only [execFwImageLoaded, h, not_lt.mpr hlen, himg, hst, hlay, ne_eq, not_true_eq_false, Bool.not_true,
    Bool.false_eq_true, if_false]
  rfl

end Loading

/-- The bank that an activation fills is the one it makes active (R45). -/
theorem bankBytes_activateBank (c : Control) (img : List Byte) (bank : Bool) :
    bankBytes (activateBank c img bank) = img := by
  cases bank <;> rfl

theorem fwImageLoaded_flips {img : List Byte} (h : s.ctl.activation = .loading) (hlen : s.ctl.goLen.toNat ≤ 524288)
    (himg : stagedImage s = some img) (hst : imageStatus img = 0) (hlay : layoutsListed s img = true) :
    ∃ u, exec .fwImageLoaded s = .next u ∧
      u.ctl.activeBank = !s.ctl.activeBank ∧ bankBytes u.ctl = img ∧ u.ctl.m0 = sha384 img ∧ u.ctl.pup = .activating ∧
      u.ctl.activation = .flipped ∧ u.ctl.m2 = sha384 (digestBytes s.ctl.m2 ++ digestBytes (sha384 img)) :=
  ⟨_, exec_fwImageLoaded_flips h hlen himg hst hlay, rfl, bankBytes_activateBank s.ctl img (!s.ctl.activeBank),
    rfl, rfl, rfl, rfl⟩

@[simp] theorem firmwareEvent_ctl : (firmwareEvent s).ctl = s.ctl := by
  simp [firmwareEvent]

theorem firmwareEvent_fwev : ((firmwareEvent s).tenant 0).fwev = true := by
  obtain ⟨p, hp⟩ := signalMsix_tenant (s.modTenant 0 (fun x => { x with fwev := true })) 0 0 0
  rw [firmwareEvent, hp, tenant_modTenant_same _ _ _ (by omega)]

/-- R50: the new firmware runs, and the activation is over. -/
theorem fwActivated_meets (hpup : s.ctl.pup = .activating) (hact : s.ctl.activation = .flipped) (hup : 4 ≤ s.ctl.bringup) :
    ∃ u, exec .fwActivated s = .next u ∧ u.ctl.pup = .running ∧ u.ctl.activation = .none ∧ u.ctl.fwstatus = 0 ∧
      (u.tenant 0).fwev = true := by
  refine ⟨activationDone (enterRunning s), if_pos ⟨hpup, hact, hup⟩, ?_⟩
  rw [activationDone, firmwareEvent_ctl]
  exact ⟨rfl, rfl, rfl, firmwareEvent_fwev _⟩

/-- R51: a report that is being made is put in ATTREP, over a number k that is free (log 8). -/
theorem attestReportDone_meets (h : s.ctl.attBusy = true) :
    let drawn : State := { s with freeCtr := s.freeCtr + 1 }
    ∃ n, exec .attestReportDone s = .next (drawn.modCtl (fun c => { c with
      attrep := reportMemory drawn n, attBusy := false, attDone := true })) :=
  ⟨Config.freeNat s.freeCtr, if_pos h⟩

end Firmware

/-! ### Temperature (R34) -/

section Signals
variable (s : State) (fs : List Nat)

/-- Vectors signalled to several functions change nothing but tenants and what has been sent. -/
theorem signalAll_eq : ∃ ts out, fs.foldl (fun s f => signalMsix s f 0) s = { s with tenants := ts, outbox := out } := by
  induction fs generalizing s with
  | nil => exact ⟨_, _, rfl⟩
  | cons f fs ih =>
    obtain ⟨ts, out, h⟩ := signalMsix_eq s f 0
    obtain ⟨ts', out', h'⟩ := ih (signalMsix s f 0)
    exact ⟨ts', out', by rw [List.foldl_cons, h', h]⟩

@[simp] theorem signalAll_ctl : (fs.foldl (fun s f => signalMsix s f 0) s).ctl = s.ctl := by
  obtain ⟨ts, out, h⟩ := signalAll_eq s fs; rw [h]

@[simp] theorem signalAll_dram : (fs.foldl (fun s f => signalMsix s f 0) s).dram = s.dram := by
  obtain ⟨ts, out, h⟩ := signalAll_eq s fs; rw [h]

@[simp] theorem signalAll_ring (q : Nat) : (fs.foldl (fun s f => signalMsix s f 0) s).ring q = s.ring q := by
  obtain ⟨ts, out, h⟩ := signalAll_eq s fs; rw [h]; rfl

end Signals

section Sensors
variable (s : State)

/-- R34, R48: what a thermal trip leaves. -/
theorem thermalTrip_leaves :
    (thermalTrip s).ctl.trip = true ∧ (thermalTrip s).ctl.pup = .tripped ∧ (thermalTrip s).dram = s.dram ∧
      ∀ q, ((thermalTrip s).ring q).running = false := by
  have hring (u : State) (q : Nat) :
      (({ u with rings := u.rings.map (fun g => { g with running := false }) } : State).ring q).running = false := by
    by_cases hq : q < 32 <;> simp [State.ring, Ring.reset, hq]
  have hemit (u : State) (o : Output) (q : Nat) : (u.emit o).ring q = u.ring q := rfl
  refine ⟨?_, ?_, ?_, fun q => ?_⟩
  · simp [thermalTrip]
  · simp [thermalTrip]
  · simp [thermalTrip, State.drawNat]
  · simp only [thermalTrip, hemit, signalAll_ring, raise_ring, hring]

/-- A stack's refresh runs at the double rate from 95 degrees until below 92 (R34). -/
def hotAfter (k half : Nat) : Bool := decide (190 ≤ half) || (s.dram[k]?.getD false && decide (184 ≤ half))

/-- What a sensor's report leaves of the DRAM stacks' rates. -/
def withSensor (dram : Bool) (k half : Nat) : State :=
  if dram then { s with dram := s.dram.setIfInBounds k (hotAfter s k half) } else s

theorem exec_sensorReport (dram : Bool) (k half : Nat) :
    exec (.sensorReport dram k half) s =
      .next (if 220 ≤ half ∧ k < (if dram then 8 else 4) ∧ s.ctl.trip = false then thermalTrip (withSensor s dram k half)
        else withSensor s dram k half) := by
  have hctl : (withSensor s dram k half).ctl = s.ctl := by cases dram <;> rfl
  change Host.Outcome.next (if decide (220 ≤ half) && decide (k < if dram then 8 else 4) &&
    !(withSensor s dram k half).ctl.trip then thermalTrip (withSensor s dram k half) else withSensor s dram k half) = _
  rw [hctl]
  simp [and_assoc]

theorem sensorReport_meets (dram : Bool) (k half : Nat) :
    ∃ u, exec (.sensorReport dram k half) s = .next u ∧
      (dram = true → k < 8 → u.dram[k]? = some (decide (190 ≤ half) || (s.dram[k]?.getD false && decide (184 ≤ half)))) ∧
      (220 ≤ half → k < (if dram then 8 else 4) → u.ctl.trip = true ∧
        (s.ctl.trip = false → u.ctl.pup = .tripped ∧ ∀ q, (u.ring q).running = false)) ∧
      (half < 220 → u.ctl.trip = s.ctl.trip) := by
  have hctl : (withSensor s dram k half).ctl = s.ctl := by cases dram <;> rfl
  have hdram (hd : dram = true) (hk : k < 8) : (withSensor s dram k half).dram[k]? = some (hotAfter s k half) := by
    simp [withSensor, hd, hk]
  refine ⟨_, exec_sensorReport s dram k half, ?_⟩
  by_cases htrips : 220 ≤ half ∧ k < (if dram then 8 else 4) ∧ s.ctl.trip = false
  · obtain ⟨htrip, hpup, hkeeps, hrings⟩ := thermalTrip_leaves (withSensor s dram k half)
    rw [if_pos htrips, hkeeps]
    exact ⟨hdram, fun _ _ => ⟨htrip, fun _ => ⟨hpup, hrings⟩⟩, fun hcool => absurd htrips.1 (not_le.mpr hcool)⟩
  · rw [if_neg htrips, hctl]
    refine ⟨hdram, fun hhot hk => ?_, fun _ => rfl⟩
    have htrip : s.ctl.trip = true := eq_true_of_ne_false fun h => htrips ⟨hhot, hk, h⟩
    exact ⟨htrip, fun h => absurd (htrip.symm.trans h) (by simp)⟩

end Sensors

/-! ### Volong ports (R21, R22, R25) -/

section Ports
variable (s : State) (p : Nat)

theorem vportOf_modVPort (g : VPort → VPort) (hp : p < 18) : vportOf (s.modVPort p g) p = g (vportOf s p) := by
  simp [vportOf, State.modVPort, hp]

/-- A port that has needed one replay more (R21, R25). -/
def withReplay : State := s.modVPort p (fun x => { x with
  replays := if x.replays = BitVec.allOnes 32 then x.replays else x.replays + 1
  recent := s.now :: x.recent.filter (fun t => decide (s.now < t + 1000000)) })

theorem exec_flitReplay : exec (.flitReplay p) s =
    .next (if mustFall (withReplay s p) p then { withReplay s p with agenda := .portFalls p :: s.agenda }
      else withReplay s p) := rfl

/-- R21, R25: a replay is counted, up to the counter's maximum, and a port with one too many falls next. -/
theorem flitReplay_meets (hp : p < 18) :
    ∃ u, exec (.flitReplay p) s = .next u ∧ (vportOf u p).replays =
        (if (vportOf s p).replays = BitVec.allOnes 32 then (vportOf s p).replays else (vportOf s p).replays + 1) ∧
      (mustFall u p = true → u.agenda = .portFalls p :: s.agenda) ∧ (mustFall u p = false → u.agenda = s.agenda) := by
  have hport : (vportOf (withReplay s p) p).replays =
      (if (vportOf s p).replays = BitVec.allOnes 32 then (vportOf s p).replays else (vportOf s p).replays + 1) := by
    rw [withReplay, vportOf_modVPort s p _ hp]
  refine ⟨_, exec_flitReplay s p, ?_⟩
  cases hfall : mustFall (withReplay s p) p with
  | true => exact ⟨hport, fun _ => rfl, fun h => absurd (hfall.symm.trans h) (by simp)⟩
  | false => exact ⟨hport, fun h => absurd (hfall.symm.trans h) (by simp), fun _ => rfl⟩

/-- A request sent again changes nothing but the accesses under way and what has been sent. -/
theorem resend_eq (e : Pend) : ∃ pend out, resend p s e = { s with pend := pend, outbox := out } := by
  unfold resend
  split
  · split
    · unfold sendFar
      split <;> exact ⟨_, _, rfl⟩
    · exact ⟨_, _, rfl⟩
  · exact ⟨_, _, rfl⟩

theorem resendAll_eq (es : List Pend) : ∃ pend out, es.foldl (resend p) s = { s with pend := pend, outbox := out } := by
  induction es generalizing s with
  | nil => exact ⟨_, _, rfl⟩
  | cons e es ih =>
    obtain ⟨pend, out, h⟩ := resend_eq s p e
    obtain ⟨pend', out', h'⟩ := ih (resend p s e)
    exact ⟨pend', out', by rw [List.foldl_cons, h', h]⟩

/-- A port as it is taken down, before the puppeteer and the PF are told (R21, R25). -/
def withPortDown : State := s.modVPort p (fun x => { x with up := false, downev := true })

/-- The PF's LINKEV has been raised for it (R41). -/
def toldPortDown : State :=
  raiseEvent (raise (withPortDown s p) .other (Config.linkSource p)) 0 (fun x => { x with linkev := true })

theorem vportOf_toldPortDown (hp : p < 18) :
    vportOf (toldPortDown s p) p = { vportOf s p with up := false, downev := true } := by
  have hports : vportOf (toldPortDown s p) p = vportOf (withPortDown s p) p := by simp [vportOf, toldPortDown]
  rw [hports, withPortDown, vportOf_modVPort s p _ hp]

theorem toldPortDown_linkev : ((toldPortDown s p).tenant 0).linkev = true := by
  obtain ⟨pba, hpf⟩ := raiseEvent_tenant_same (raise (withPortDown s p) .other (Config.linkSource p)) 0
    (fun x => { x with linkev := true }) (by omega)
  rw [toldPortDown, hpf]

/-- R21, R41: the port is down, and the PF's LINKEV tells of it; what is sent again leaves both as they are. -/
theorem volongPortDown_meets (hp : p < 18) (h : mustFall s p = true) :
    ∃ u, exec (.volongPortDown p) s = .next u ∧ (vportOf u p).up = false ∧ (vportOf u p).downev = true ∧
      (u.tenant 0).linkev = true := by
  obtain ⟨pend, out, hsent⟩ := resendAll_eq (toldPortDown s p) p s.pend
  have hport := vportOf_toldPortDown s p hp
  refine ⟨s.pend.foldl (resend p) (toldPortDown s p), if_pos h, ?_⟩
  rw [hsent]
  exact ⟨congrArg VPort.up hport, congrArg VPort.downev hport, toldPortDown_linkev s p⟩

end Ports

/-- Settles O52: an activation by the first check that fails, a sensor's report by whether it trips the module, a port's fall by
what is sent again leaving registers alone. -/
theorem firmwareAndLinks : Obligations.FirmwareAndLinks := by
  intro s p k half dram
  refine ⟨fun h => ⟨fwImageLoaded_tooLong h, fun hlen himg => fwImageLoaded_unread h hlen himg, fun img hlen himg =>
      ⟨fwImageLoaded_invalid h hlen himg, fwImageLoaded_unlisted h hlen himg, fwImageLoaded_flips s h hlen himg⟩⟩,
    fwActivated_meets s, attestReportDone_meets s, rfl, sensorReport_meets s dram k half, flitReplay_meets s p,
    fun hp hup hmany => volongPortDown_meets s p hp ?_, fun hp => ⟨_, rfl, vportOf_modVPort s p _ hp⟩⟩
  simp [mustFall, recentReplays, hup, hmany]

end Sys2Proof.Machine
end

section
/-!
Host accesses (R31, R32, R37 to R44, R49): what a register reads as after a write, and O53.
-/
namespace Sys2Proof.Machine

/-! ### Partial writes (R38) -/

/-- The low n bits of a word, as a mask. -/
theorem getLsbD_lowMask (n i : Nat) : (BitVec.ofNat 64 (2 ^ n - 1)).getLsbD i = (decide (i < 64) && decide (i < n)) := by
  rw [BitVec.getLsbD_ofNat, Nat.testBit_two_pow_sub_one]

section Written
variable (old v : Word) {off size : Nat}

theorem alignedAccess_iff : alignedAccess off size = true ↔ (size = 4 ∨ size = 8) ∧ off % size = 0 := by
  simp [alignedAccess]

/-- The offset of a part in its register. -/
theorem aligned_part (h : alignedAccess off size = true) : size = 8 ∧ off % 8 = 0 ∨ size = 4 ∧ (off % 8 = 0 ∨ off % 8 = 4) := by
  obtain ⟨rfl | rfl, h⟩ := alignedAccess_iff.mp h <;> omega

/-- The model's merge puts the written bytes there and leaves the others. -/
theorem merged_eq_written (h : alignedAccess off size = true) : merged old off size v = written old off size v := by
  have hmask (i : Nat) : (0xFFFFFFFF#64).getLsbD i = (decide (i < 64) && decide (i < 32)) := getLsbD_lowMask 32 i
  obtain ⟨rfl, -⟩ | ⟨rfl, hpart⟩ := aligned_part h
  · simp only [merged, written, writtenMask, if_true, BitVec.not_allOnes, BitVec.and_zero, BitVec.zero_or,
      BitVec.and_allOnes]
  · apply BitVec.eq_of_getLsbD_eq
    intro i hi
    simp only [merged, written, writtenMask, BitVec.getLsbD_or, BitVec.getLsbD_and, BitVec.getLsbD_not,
      BitVec.getLsbD_shiftLeft, hmask, show ¬ (4 = 8) by decide, if_false]
    obtain hpart | hpart := hpart
    · simp only [hpart, if_true, BitVec.getLsbD_append, BitVec.getLsbD_extractLsb']
      grind
    · simp only [hpart, show ¬ (4 = 0) by decide, if_false, BitVec.getLsbD_append, BitVec.getLsbD_extractLsb']
      grind

/-- The bits that a write sets are among those it leaves set. -/
theorem merged_zero_bit (i : Nat) (h : (merged old off size v).getLsbD i = false) : (merged 0 off size v).getLsbD i = false := by
  simp only [merged, BitVec.getLsbD_or, BitVec.getLsbD_and, Bool.or_eq_false_iff] at h ⊢
  exact ⟨by simp, h.2⟩

/-- A write of the upper half leaves the lower one. -/
theorem written_low (h : alignedAccess off size = true) (hoff : off % 8 ≠ 0) {n : Nat} (hn : n ≤ 32) :
    (written old off size v).extractLsb' 0 n = old.extractLsb' 0 n := by
  obtain ⟨-, hzero⟩ | ⟨rfl, -⟩ := aligned_part h
  · exact absurd hzero hoff
  · apply BitVec.eq_of_getLsbD_eq
    intro i hi
    simp only [written, show ¬ (4 = 8) by decide, hoff, if_false, BitVec.getLsbD_append, BitVec.getLsbD_extractLsb']
    grind

end Written

/-! ### The fields of a register -/

section Fields
variable (w old : Word)

/-- A register whose low n bits are RSV reads as the written word without them. -/
theorem high_append_zero : w.extractLsb' 12 52 ++ 0#12 = w &&& ~~~0xFFF#64 := by
  apply BitVec.eq_of_getLsbD_eq
  intro i hi
  have hmask : (0xFFF#64).getLsbD i = (decide (i < 64) && decide (i < 12)) := getLsbD_lowMask 12 i
  simp only [BitVec.getLsbD_append, BitVec.getLsbD_extractLsb', BitVec.getLsbD_and, BitVec.getLsbD_not, hmask]
  grind

theorem low_setWidth (n : Nat) : (w.extractLsb' 0 n).setWidth 64 = w &&& BitVec.ofNat 64 (2 ^ n - 1) := by
  apply BitVec.eq_of_getLsbD_eq
  intro i hi
  simp only [BitVec.getLsbD_setWidth, BitVec.getLsbD_extractLsb', BitVec.getLsbD_and, getLsbD_lowMask]
  grind

/-- TENCFG's fields as a write leaves them, over the ASIDs that stand (R39, R40). -/
theorem tencfg_of_tenant {u : State} {f : Nat} {x : Tenant} (h : u.tenant f = withTencfg f w x) :
    tencfg u f = ((w &&& 0x9FFF0F0000000000#64) ||| (x.lasid ++ x.asid).setWidth 64) |||
      if f = 0 then 0x8000000000000000#64 else 0 := by
  have hmask : ∀ i < 64, (0x9FFF0F0000000000#64).getLsbD i =
      (decide (i = 63) || (decide (48 ≤ i) && decide (i < 61)) || (decide (40 ≤ i) && decide (i < 44))) := by decide
  have hpf : ∀ i < 64, (if f = 0 then 0x8000000000000000#64 else 0).getLsbD i = (decide (i = 63) && f == 0) := by
    by_cases h0 : f = 0
    · subst h0; decide
    · simp [h0]
  apply BitVec.eq_of_getLsbD_eq
  intro i hi
  simp only [tencfg, h, withTencfg, BitVec.getLsbD_append, BitVec.getLsbD_or, BitVec.getLsbD_and, hmask i hi, hpf i hi,
    BitVec.getLsbD_setWidth, BitVec.getLsbD_extractLsb', BitVec.getLsbD_ofBool, BitVec.getLsbD_zero]
  obtain hlow | hfields | rfl : i < 32 ∨ (32 ≤ i ∧ i < 63) ∨ i = 63 := by omega
  · grind
  · grind
  · grind

theorem asids_low : (w.extractLsb' 16 16 ++ w.extractLsb' 0 16).setWidth 64 = w &&& 0xFFFFFFFF#64 := by
  have hmask (i : Nat) : (0xFFFFFFFF#64).getLsbD i = (decide (i < 64) && decide (i < 32)) := getLsbD_lowMask 32 i
  apply BitVec.eq_of_getLsbD_eq
  intro i hi
  simp only [BitVec.getLsbD_setWidth, BitVec.getLsbD_append, BitVec.getLsbD_extractLsb', BitVec.getLsbD_and, hmask]
  grind

theorem tencfg_low (s : State) (f : Nat) :
    ((s.tenant f).lasid ++ (s.tenant f).asid).setWidth 64 = tencfg s f &&& 0xFFFFFFFF#64 := by
  have hmask (i : Nat) : (0xFFFFFFFF#64).getLsbD i = (decide (i < 64) && decide (i < 32)) := getLsbD_lowMask 32 i
  apply BitVec.eq_of_getLsbD_eq
  intro i hi
  simp only [tencfg, BitVec.getLsbD_setWidth, BitVec.getLsbD_append, BitVec.getLsbD_and, hmask]
  grind

/-- FWACT: LEN, and the bits between it and DUPGO (R50). -/
theorem fwactWord_fields (len : BitVec 32) (st : BitVec 8) (d : Bool) :
    (len ++ 0#8 ++ st ++ 0#14 ++ BitVec.ofBool d ++ 0#1).extractLsb' 32 32 = len ∧
      (len ++ 0#8 ++ st ++ 0#14 ++ BitVec.ofBool d ++ 0#1).extractLsb' 2 30 = 0#8 ++ st ++ 0#14 := by
  constructor
  all_goals
    apply BitVec.eq_of_getLsbD_eq
    intro i hi
    simp only [BitVec.getLsbD_extractLsb', BitVec.getLsbD_append]
    grind

/-- The bits of LGCTL that show which ports are up (R25). -/
def portsUp (ports : Vector VPort 18) : BitVec 18 :=
  (List.range 18).foldl (fun v p => if (ports[p]?.getD VPort.reset).up then v ||| (1#18 <<< p) else v) 0

/-- LGCTL: MCNT, MIDX, and the ports (R25). -/
theorem lgctl_fields (s : State) : (lgctl s).extractLsb' 16 11 = s.ctl.mcnt ∧ (lgctl s).extractLsb' 0 11 = s.ctl.midx ∧
    (lgctl s).extractLsb' 32 32 = 0#14 ++ portsUp s.ctl.ports := by
  have hword : lgctl s = 0#14 ++ portsUp s.ctl.ports ++ 0#5 ++ s.ctl.mcnt ++ 0#4 ++ BitVec.ofBool s.ctl.lgen ++
    s.ctl.midx := rfl
  rw [hword]
  refine ⟨?_, ?_, ?_⟩
  all_goals
    apply BitVec.eq_of_getLsbD_eq
    intro i hi
    simp only [BitVec.getLsbD_extractLsb', BitVec.getLsbD_append]
    grind

/-- RELLAST but for VALID (R309). -/
theorem rellastWord_or (r r' : Bool) (tile cause : BitVec 8) :
    (0#47 ++ BitVec.ofBool r ++ tile ++ cause) ||| 0x10000#64 = (0#47 ++ BitVec.ofBool r' ++ tile ++ cause) ||| 0x10000#64 := by
  have hbit : ∀ i < 64, (0x10000#64).getLsbD i = decide (i = 16) := by decide
  apply BitVec.eq_of_getLsbD_eq
  intro i hi
  simp only [BitVec.getLsbD_or, hbit i hi, BitVec.getLsbD_append]
  grind

/-- VLSTAT but for DOWNEV (R25). -/
theorem vlstat_clearDownev_or (s : State) {p : Nat} (hp : p < 18) : vlstat (clearDownev s p) p ||| 2#64 = vlstat s p ||| 2#64 := by
  have hword (u : State) : vlstat u p = (vportOf u p).replays ++ 0#30 ++ BitVec.ofBool (vportOf u p).downev ++
    BitVec.ofBool (vportOf u p).up := rfl
  have hbit : ∀ i < 64, (2#64).getLsbD i = decide (i = 1) := by decide
  apply BitVec.eq_of_getLsbD_eq
  intro i hi
  simp only [hword, vportOf_clearDownev s p hp, BitVec.getLsbD_or, hbit i hi, BitVec.getLsbD_append]
  grind

/-- A nonce word is read where it has been written (R51). -/
theorem nonceWord_writeNonce (s : State) {i : Nat} (hi : i < 6) :
    (writeNonce s i w).ctl.attnonce.extractLsb' (64 * i) 64 = w := by
  apply BitVec.eq_of_getLsbD_eq
  intro j hj
  simp only [writeNonce, State.modCtl_ctl, BitVec.getLsbD_extractLsb', BitVec.getLsbD_or, BitVec.getLsbD_and,
    BitVec.getLsbD_not, BitVec.getLsbD_shiftLeft, BitVec.getLsbD_setWidth, BitVec.getLsbD_allOnes]
  grind

end Fields

/-! ### The module control block -/

/-- The registers of the module control block that R39 places one by one, not as an array. -/
def singleRegisters : List Nat := [0, 8, 0x10, 0x18, 0x20, 0x28, 0x30, 0x38, 0x40, 0x48, 0x50, 0x100, 0x108]

/-- Every register of the block but TENCFG and TENPT is read from the block alone. -/
theorem ctlRegister_of_ctl_eq (s u : State) {reg : Nat} (hctl : u.ctl = s.ctl) (h : ¬ (0x0400 ≤ reg ∧ reg < 0x0500)) :
    ctlRegister u reg = ctlRegister s reg := by
  simp only [ctlRegister, lgctl, vlstat, hctl, if_neg h]

section Control
variable (s : State) {reg : Nat}

theorem ctlRegister_of_array (h : reg ∉ singleRegisters) : ctlRegister s reg =
    if 0x0200 ≤ reg ∧ reg < 0x0290 then some (vlstat s ((reg - 0x0200) / 8))
    else if 0x0400 ≤ reg ∧ reg < 0x0500 then
      some (if reg % 16 = 0 then tencfg s ((reg - 0x0400) / 16) else tenpt s ((reg - 0x0400) / 16))
    else if 0x0800 ≤ reg ∧ reg < 0x0830 then some (s.ctl.attnonce.extractLsb' (8 * (reg - 0x0800)) 64)
    else if reg = 0x0830 then some (0#61 ++ BitVec.ofBool s.ctl.attBusy ++ BitVec.ofBool s.ctl.attDone ++ 0#1)
    else if 0x1000 ≤ reg ∧ reg < 0x2000 then some (BitVec.ofNat 64 (mread s.ctl.attrep (reg - 0x1000) 8))
    else none := by
  unfold ctlRegister
  simp only
  split
  case h_14 => rfl
  all_goals exact absurd (by decide) h

variable {off size : Nat} {v old : Word} (hold : ctlRegister s (off - off % 8) = some old)
include hold

theorem ctlWrite_of_array (h : off - off % 8 ∉ singleRegisters) : ctlWrite s off size v = some (
    let reg := off - off % 8
    let new := merged old off size v
    let set := merged 0 off size v
    if 0x0200 ≤ reg ∧ reg < 0x0290 then (if set.getLsbD 1 then clearDownev s ((reg - 0x0200) / 8) else s)
    else if 0x0400 ≤ reg ∧ reg < 0x0500 then
      (if reg % 16 = 0 then writeTencfg s ((reg - 0x0400) / 16) new off else writeTenpt s ((reg - 0x0400) / 16) new off)
    else if 0x0800 ≤ reg ∧ reg < 0x0830 then writeNonce s ((reg - 0x0800) / 8) new
    else if reg = 0x0830 then writeAttcmd s set
    else logViolation s 0 2 (BitVec.ofNat 64 off) 0) := by
  unfold ctlWrite
  simp only [hold]
  generalize off - off % 8 = reg at h
  split
  case h_6 => simp only [apply_ite some]
  all_goals exact absurd (by decide) h

/-- R39, R42: a register none of whose fields can be written. -/
theorem ctlWrite_of_readOnly (h : off - off % 8 ∈ [0, 8, 0x20, 0x28, 0x30, 0x40, 0x48, 0x50] ∨ 0x1000 ≤ off - off % 8) :
    ctlWrite s off size v = some (logViolation s 0 2 (BitVec.ofNat 64 off) 0) := by
  obtain h | h := h
  · unfold ctlWrite
    simp only [hold]
    generalize off - off % 8 = reg at h
    simp only [List.mem_cons, List.not_mem_nil, or_false] at h
    obtain rfl | rfl | rfl | rfl | rfl | rfl | rfl | rfl := h <;> rfl
  · have harray : off - off % 8 ∉ singleRegisters := by simp [singleRegisters]; omega
    rw [ctlWrite_of_array s hold harray]
    simp only
    rw [if_neg (by omega), if_neg (by omega), if_neg (by omega), if_neg (by omega)]

/-- A mapped register can be written, whatever comes of it. -/
theorem ctlWrite_isSome : ∃ u, ctlWrite s off size v = some u := by
  unfold ctlWrite
  simp only [hold]
  split
  case h_6 =>
    simp only [← apply_ite some]
    exact ⟨_, rfl⟩
  all_goals exact ⟨_, rfl⟩

theorem ctlWrite_fwstage (h : off - off % 8 = 0x10) : ctlWrite s off size v =
    some (s.modCtl (fun c => { c with fwstage := (merged old off size v).extractLsb' 12 52 })) := by
  simp only [ctlWrite, hold]
  rw [h]
  rfl

theorem ctlWrite_fwact (h : off - off % 8 = 0x18) : ctlWrite s off size v =
    some (writeFwact s ((merged old off size v &&& ~~~3#64) ||| (merged 0 off size v &&& 3#64))) := by
  simp only [ctlWrite, hold]
  rw [h]
  rfl

theorem ctlWrite_rellast (h : off - off % 8 = 0x38) : ctlWrite s off size v =
    some (if (merged 0 off size v).getLsbD 16 then clearRellast s else s) := by
  simp only [ctlWrite, hold]
  rw [h]
  rfl

theorem ctlWrite_lgctl (h : off - off % 8 = 0x100) : ctlWrite s off size v =
    some (writeLgctl s (merged old off size v) off) := by
  simp only [ctlWrite, hold]
  rw [h]
  rfl

theorem ctlWrite_accid (h : off - off % 8 = 0x108) : ctlWrite s off size v =
    some (s.modCtl (fun c => { c with accid := (merged old off size v).extractLsb' 0 20 })) := by
  simp only [ctlWrite, hold]
  rw [h]
  rfl

end Control

/-! ### What the registers of the block read as after a write -/

section Reads
variable {s u : State} {off size : Nat} {v old : Word} (hal : alignedAccess off size = true)
  (hold : ctlRegister s (off - off % 8) = some old) (hu : ctlWrite s off size v = some u)
include hal hold hu

theorem fwstage_reads (h : off - off % 8 = 0x10) :
    ctlRegister u (off - off % 8) = some (written old off size v &&& ~~~0xFFF#64) := by
  rw [ctlWrite_fwstage s hold h, merged_eq_written old v hal] at hu
  obtain rfl := Option.some.inj hu
  rw [h, ← high_append_zero]
  rfl

theorem accid_reads (h : off - off % 8 = 0x108) :
    ctlRegister u (off - off % 8) = some (written old off size v &&& 0xFFFFF) := by
  rw [ctlWrite_accid s hold h, merged_eq_written old v hal] at hu
  obtain rfl := Option.some.inj hu
  rw [h]
  exact congrArg some (low_setWidth _ 20)

theorem nonce_reads (hlo : 0x800 ≤ off - off % 8) (hhi : off - off % 8 < 0x830) :
    ctlRegister u (off - off % 8) = some (written old off size v) := by
  have harray : off - off % 8 ∉ singleRegisters := by simp [singleRegisters]; omega
  rw [ctlWrite_of_array s hold harray, merged_eq_written old v hal] at hu
  simp only at hu
  rw [if_neg (by omega), if_neg (by omega), if_pos ⟨hlo, hhi⟩] at hu
  obtain rfl := Option.some.inj hu
  rw [ctlRegister_of_array _ harray, if_neg (by omega), if_neg (by omega), if_pos ⟨hlo, hhi⟩]
  have hbit : 8 * (off - off % 8 - 0x800) = 64 * ((off - off % 8 - 0x800) / 8) := by omega
  rw [hbit, nonceWord_writeNonce _ _ (by omega)]

/-- FWACT without GO: LEN is taken, and STATUS stays (R50). -/
theorem fwact_reads (h : off - off % 8 = 0x18) (hgo : (written old off size v).getLsbD 0 = false) :
    ∃ x, ctlRegister u (off - off % 8) = some x ∧ x.extractLsb' 32 32 = (written old off size v).extractLsb' 32 32 ∧
      x.extractLsb' 2 30 = old.extractLsb' 2 30 := by
  rw [ctlWrite_fwact s hold h, merged_eq_written old v hal] at hu
  obtain rfl := Option.some.inj hu
  have hset : (merged 0 off size v).getLsbD 0 = false :=
    merged_zero_bit old v 0 (by rwa [merged_eq_written old v hal])
  have hbit : ∀ i < 64, (3#64).getLsbD i = decide (i < 2) := by decide
  have hstart : ((written old off size v &&& ~~~3#64) ||| (merged 0 off size v &&& 3#64)).getLsbD 0 = false := by
    simp only [BitVec.getLsbD_or, BitVec.getLsbD_and, BitVec.getLsbD_not, hgo, hset, Bool.false_and, Bool.or_self]
  have hlen : ((written old off size v &&& ~~~3#64) ||| (merged 0 off size v &&& 3#64)).extractLsb' 32 32 =
      (written old off size v).extractLsb' 32 32 := by
    apply BitVec.eq_of_getLsbD_eq
    intro i hi
    simp only [BitVec.getLsbD_extractLsb', BitVec.getLsbD_or, BitVec.getLsbD_and, BitVec.getLsbD_not,
      hbit (32 + i) (by omega)]
    grind
  obtain ⟨d, hd⟩ := writeFwact_eq s ((written old off size v &&& ~~~3#64) ||| (merged 0 off size v &&& 3#64))
  rw [hd, hstart, hlen, h]
  rw [h] at hold
  obtain rfl := Option.some.inj hold
  refine ⟨_, rfl, (fwactWord_fields ..).1, ?_⟩
  exact (fwactWord_fields ..).2.trans (fwactWord_fields ..).2.symm

omit hal in
theorem rellast_reads (h : off - off % 8 = 0x38) :
    ∃ x, ctlRegister u (off - off % 8) = some x ∧ x ||| 0x10000 = old ||| 0x10000 := by
  rw [ctlWrite_rellast s hold h] at hu
  obtain rfl := Option.some.inj hu
  rw [h] at hold ⊢
  obtain rfl := Option.some.inj hold
  split
  · exact ⟨_, rfl, rellastWord_or ..⟩
  · exact ⟨_, rfl, rfl⟩

omit hal in
theorem vlstat_reads (hlo : 0x200 ≤ off - off % 8) (hhi : off - off % 8 < 0x290) :
    ∃ x, ctlRegister u (off - off % 8) = some x ∧ x ||| 2 = old ||| 2 := by
  have harray : off - off % 8 ∉ singleRegisters := by simp [singleRegisters]; omega
  rw [ctlWrite_of_array s hold harray] at hu
  simp only at hu
  rw [if_pos ⟨hlo, hhi⟩] at hu
  obtain rfl := Option.some.inj hu
  rw [ctlRegister_of_array _ harray, if_pos ⟨hlo, hhi⟩] at hold ⊢
  obtain rfl := Option.some.inj hold
  split
  · exact ⟨_, rfl, vlstat_clearDownev_or s (by omega)⟩
  · exact ⟨_, rfl, rfl⟩

theorem lgctl_reads (h : off - off % 8 = 0x100) (hoff : s.ctl.lgen = false) :
    ∃ x, ctlRegister u (off - off % 8) = some x ∧
      x.extractLsb' 16 11 = (written old off size v).extractLsb' 16 11 ∧
      x.extractLsb' 0 11 = (written old off size v).extractLsb' 0 11 ∧ x.extractLsb' 32 32 = old.extractLsb' 32 32 := by
  rw [ctlWrite_lgctl s hold h, merged_eq_written old v hal] at hu
  obtain rfl := Option.some.inj hu
  rw [h] at hold ⊢
  obtain rfl := Option.some.inj hold
  obtain ⟨hmcnt, hmidx, hports⟩ := lgctl_fields (writeLgctl s (written (lgctl s) off size v) off)
  refine ⟨_, rfl, hmcnt.trans ?_, hmidx.trans ?_, hports.trans ((lgctl_fields s).2.2.trans ?_).symm⟩
  all_goals simp [writeLgctl, hoff]

theorem tencfg_reads {g : Nat} (hg : g < 16) (h : off - off % 8 = 0x400 + 16 * g) :
    (translationFrozen s g = false → ctlRegister u (off - off % 8) =
      some ((written old off size v &&& 0x9FFF0F00FFFFFFFF) ||| if g = 0 then 0x8000000000000000 else 0)) ∧
    (translationFrozen s g = true → ctlRegister u (off - off % 8) =
      some (((written old off size v &&& 0x9FFF0F0000000000) ||| (old &&& 0xFFFFFFFF)) |||
        if g = 0 then 0x8000000000000000 else 0)) := by
  have harray : off - off % 8 ∉ singleRegisters := by simp [singleRegisters]; omega
  have hg' : (off - off % 8 - 0x400) / 16 = g := by omega
  rw [ctlWrite_of_array s hold harray, merged_eq_written old v hal] at hu
  simp only at hu
  rw [if_neg (by omega), if_pos (by omega), if_pos (by omega), hg'] at hu
  obtain rfl := Option.some.inj hu
  rw [ctlRegister_of_array _ harray, if_neg (by omega), if_pos (by omega), if_pos (by omega), hg'] at hold ⊢
  obtain rfl := Option.some.inj hold
  refine ⟨fun hopen => congrArg some ?_, fun hfrozen => congrArg some ?_⟩
  · have htenant := (writeTencfg_open_leaves s g (written (tencfg s g) off size v) hg hopen off).1
    rw [tencfg_of_tenant _ htenant, withAsids, asids_low, ← BitVec.and_or_distrib_left]
    rfl
  · obtain ⟨x, hx, hasid, hlasid⟩ := writeTencfg_frozen_tenant s g (written (tencfg s g) off size v) hg hfrozen off
    rw [tencfg_of_tenant _ hx, hasid, hlasid, tencfg_low]
    rfl

theorem tenpt_reads {g : Nat} (hg : g < 16) (h : off - off % 8 = 0x408 + 16 * g) :
    ctlRegister u (off - off % 8) =
      some (if translationFrozen s g = true then old else written old off size v &&& ~~~0xFFF#64) := by
  have harray : off - off % 8 ∉ singleRegisters := by simp [singleRegisters]; omega
  have hg' : (off - off % 8 - 0x400) / 16 = g := by omega
  rw [ctlWrite_of_array s hold harray, merged_eq_written old v hal] at hu
  simp only at hu
  rw [if_neg (by omega), if_pos (by omega), if_neg (by omega), hg'] at hu
  obtain rfl := Option.some.inj hu
  rw [ctlRegister_of_array _ harray, if_neg (by omega), if_pos (by omega), if_neg (by omega), hg'] at hold ⊢
  obtain rfl := Option.some.inj hold
  refine congrArg some ?_
  by_cases hfrozen : translationFrozen s g = true
  · simp only [writeTenpt, hfrozen, if_true, tenpt, logViolation_root]
  · simp only [writeTenpt, hfrozen, if_false, Bool.false_eq_true, tenpt, tenant_modTenant_same _ g _ hg]
    exact high_append_zero _

omit hal in
theorem readOnly_reads (h : off - off % 8 ∈ [0, 8, 0x20, 0x28, 0x30, 0x40, 0x48, 0x50] ∨ 0x1000 ≤ off - off % 8) :
    ctlRegister u (off - off % 8) = some old ∧ u = logViolation s 0 2 (BitVec.ofNat 64 off) 0 := by
  rw [ctlWrite_of_readOnly s hold h] at hu
  obtain rfl := Option.some.inj hu
  refine ⟨?_, rfl⟩
  rw [← hold]
  refine ctlRegister_of_ctl_eq _ _ (logViolation_ctl ..) ?_
  simp only [List.mem_cons, List.not_mem_nil, or_false] at h
  omega

end Reads

theorem controlReads_of_ctlWrite {s u : State} {off size : Nat} {v old : Word} (hal : alignedAccess off size = true)
    (hold : ctlRegister s (off - off % 8) = some old) (hu : ctlWrite s off size v = some u) :
    ControlReads s u off size v old :=
  ⟨fwstage_reads hal hold hu, accid_reads hal hold hu, nonce_reads hal hold hu, fwact_reads hal hold hu,
    rellast_reads hold hu, vlstat_reads hold hu, lgctl_reads hal hold hu, fun _ hg h => tencfg_reads hal hold hu hg h,
    fun _ hg h => tenpt_reads hal hold hu hg h, readOnly_reads hold hu⟩

/-! ### A function's region (R41) -/

/-- The registers of a region that R41 places one by one, not as an array. -/
def singleTenantRegisters : List Nat := [0, 8, 0x10, 0x18, 0x20, 0x28, 0x21000]

/-- A word of the MSI-X table (R44). -/
def msixWord (m : MsixEntry) (reg : Nat) : Word := if reg % 16 = 0 then m.addr else 0#31 ++ BitVec.ofBool m.mask ++ m.data

/-- A vector as a write of a word of the table leaves it (R44). -/
def withMsixWord (m : MsixEntry) (reg : Nat) (w : Word) : MsixEntry :=
  if reg % 16 = 0 then { m with addr := w } else { m with data := w.extractLsb' 0 32, mask := w.getLsbD 32 }

theorem msixWord_withMsixWord (m : MsixEntry) (reg : Nat) (w : Word) :
    msixWord (withMsixWord m reg w) reg = if reg % 16 = 0 then w else w &&& 0x1FFFFFFFF#64 := by
  have hmask (i : Nat) : (0x1FFFFFFFF#64).getLsbD i = (decide (i < 64) && decide (i < 33)) := getLsbD_lowMask 33 i
  by_cases haddr : reg % 16 = 0
  · simp only [msixWord, withMsixWord, if_pos haddr]
  · simp only [msixWord, withMsixWord, if_neg haddr]
    apply BitVec.eq_of_getLsbD_eq
    intro i hi
    simp only [BitVec.getLsbD_append, BitVec.getLsbD_extractLsb', BitVec.getLsbD_and, hmask]
    grind

/-- VLOGCTL: HEAD and LOST (R43). -/
theorem vlogctl_fields (x : Tenant) : (vlogctl x).extractLsb' 0 4 = x.head ∧ (vlogctl x).extractLsb' 32 32 = x.lost := by
  constructor
  all_goals
    apply BitVec.eq_of_getLsbD_eq
    intro i hi
    simp only [vlogctl, BitVec.getLsbD_extractLsb', BitVec.getLsbD_append]
    grind

section Region
variable (s : State) {f o size : Nat} {v old : Word}

theorem tenantRegister_msix (f : Nat) {reg : Nat} (hlo : 0x20000 ≤ reg) (hhi : reg < 0x20400) :
    tenantRegister s f reg = some (msixWord ((s.tenant f).msix[(reg - 0x20000) / 16]?.getD MsixEntry.reset) reg) := by
  have harray : reg ∉ singleTenantRegisters := by simp [singleTenantRegisters]; omega
  unfold tenantRegister
  simp only
  split
  case h_8 => rw [if_neg (by omega), if_neg (by omega), if_pos ⟨hlo, hhi⟩]; rfl
  all_goals exact absurd (by decide) harray

/-- Signalling a vector whose mask has fallen leaves the table as it is (R44). -/
theorem unmaskVector_msix (vec : Nat) : ((unmaskVector s f vec).tenant f).msix = (s.tenant f).msix := by
  unfold unmaskVector
  simp only
  split
  · obtain ⟨p, hp⟩ := signalMsix_tenant
      (s.modTenant f (fun x => { x with pba := x.pba &&& ~~~(1#64 <<< vec) })) f vec f
    rw [hp, State.tenant_modTenant]
    split <;> rfl
  · rfl

theorem writeMsix_msix (hf : f < 16) {reg : Nat} (hlo : 0x20000 ≤ reg) (hhi : reg < 0x20400) (w : Word) :
    ((writeMsix s f reg w).tenant f).msix[(reg - 0x20000) / 16]?.getD MsixEntry.reset =
      withMsixWord ((s.tenant f).msix[(reg - 0x20000) / 16]?.getD MsixEntry.reset) reg w := by
  have hvec : (reg - 0x20000) / 16 < 64 := by omega
  rw [writeMsix, unmaskVector_msix, tenant_modTenant_same _ f _ hf]
  simp [hvec, withMsixWord]

variable (hold : tenantRegister s f (o - o % 8) = some old)
include hold

theorem tenantWrite_wingb (h : o - o % 8 = 0x10) : tenantWrite s f o size v =
    s.modTenant f (fun x => { x with wingb := merged old o size v }) := by
  simp only [tenantWrite, hold, Option.getD_some]
  rw [h]
  rfl

theorem tenantWrite_winsb (h : o - o % 8 = 0x20) : tenantWrite s f o size v =
    s.modTenant f (fun x => { x with winsb := merged old o size v }) := by
  simp only [tenantWrite, hold, Option.getD_some]
  rw [h]
  rfl

theorem tenantWrite_wingl (h : o - o % 8 = 0x18) : tenantWrite s f o size v =
    s.modTenant f (fun x => { x with wingl := (merged old o size v).extractLsb' 0 40 }) := by
  simp only [tenantWrite, hold, Option.getD_some]
  rw [h]
  rfl

theorem tenantWrite_winsl (h : o - o % 8 = 0x28) : tenantWrite s f o size v =
    s.modTenant f (fun x => { x with winsl := (merged old o size v).extractLsb' 0 40 }) := by
  simp only [tenantWrite, hold, Option.getD_some]
  rw [h]
  rfl

theorem tenantWrite_head (h : o - o % 8 = 8) : tenantWrite s f o size v =
    if o % 8 = 0 then writeHead s f ((merged old o size v).extractLsb' 0 4) else s := by
  simp only [tenantWrite, hold, Option.getD_some]
  rw [h]
  rfl

theorem tenantWrite_of_array (h : o - o % 8 ∉ singleTenantRegisters) : tenantWrite s f o size v =
    let reg := o - o % 8
    if 0x10000 ≤ reg ∧ reg < 0x18000 then
      if size = 8 then doorbellWrite s f ((reg - 0x10000) / 8) v
      else logViolation s f 3 (BitVec.ofNat 64 (regionBase f + o)) 0
    else if 0x20000 ≤ reg ∧ reg < 0x20400 then writeMsix s f reg (merged old o size v)
    else logViolation s f 2 (BitVec.ofNat 64 (regionBase f + o)) 0 := by
  simp only [tenantWrite, hold, Option.getD_some]
  generalize o - o % 8 = reg at h
  split
  case h_7 => rfl
  all_goals exact absurd (by decide) h

theorem tenantWrite_readOnly (h : (0x100 ≤ o - o % 8 ∧ o - o % 8 < 0x200) ∨ o - o % 8 = 0x21000) :
    tenantWrite s f o size v = logViolation s f 2 (BitVec.ofNat 64 (regionBase f + o)) 0 := by
  obtain h | h := h
  · have harray : o - o % 8 ∉ singleTenantRegisters := by simp [singleTenantRegisters]; omega
    rw [tenantWrite_of_array s hold harray]
    simp only
    rw [if_neg (by omega), if_neg (by omega)]
  · simp only [tenantWrite, hold, Option.getD_some]
    rw [h]
    rfl

variable (hf : f < 16) (hal : alignedAccess o size = true)
include hf hal

theorem window_reads (h : o - o % 8 = 0x10 ∨ o - o % 8 = 0x20) :
    tenantRegister (tenantWrite s f o size v) f (o - o % 8) = some (written old o size v) := by
  obtain h | h := h
  · rw [tenantWrite_wingb s hold h, merged_eq_written old v hal, h]
    exact congrArg (fun x => some x.wingb) (tenant_modTenant_same s f _ hf)
  · rw [tenantWrite_winsb s hold h, merged_eq_written old v hal, h]
    exact congrArg (fun x => some x.winsb) (tenant_modTenant_same s f _ hf)

theorem windowLength_reads (h : o - o % 8 = 0x18 ∨ o - o % 8 = 0x28) :
    tenantRegister (tenantWrite s f o size v) f (o - o % 8) = some (written old o size v &&& 0xFFFFFFFFFF) := by
  refine Eq.trans ?_ (congrArg some (low_setWidth (written old o size v) 40))
  obtain h | h := h
  · rw [tenantWrite_wingl s hold h, merged_eq_written old v hal, h]
    exact congrArg (fun x => some (x.wingl.setWidth 64)) (tenant_modTenant_same s f _ hf)
  · rw [tenantWrite_winsl s hold h, merged_eq_written old v hal, h]
    exact congrArg (fun x => some (x.winsl.setWidth 64)) (tenant_modTenant_same s f _ hf)

theorem msix_reads (hlo : 0x20000 ≤ o - o % 8) (hhi : o - o % 8 < 0x20400) :
    tenantRegister (tenantWrite s f o size v) f (o - o % 8) =
      some (if (o - o % 8) % 16 = 0 then written old o size v else written old o size v &&& 0x1FFFFFFFF) := by
  have harray : o - o % 8 ∉ singleTenantRegisters := by simp [singleTenantRegisters]; omega
  rw [tenantWrite_of_array s hold harray, merged_eq_written old v hal]
  simp only
  rw [if_neg (by omega), if_pos ⟨hlo, hhi⟩, tenantRegister_msix _ f hlo hhi, writeMsix_msix s hf hlo hhi,
    msixWord_withMsixWord]
  rfl

theorem vlogctl_reads (h : o - o % 8 = 8) :
    ∃ x, tenantRegister (tenantWrite s f o size v) f (o - o % 8) = some x ∧
      x.extractLsb' 0 4 = (written old o size v).extractLsb' 0 4 ∧ x.extractLsb' 32 32 = old.extractLsb' 32 32 := by
  rw [tenantWrite_head s hold h, merged_eq_written old v hal]
  rw [h] at hold ⊢
  refine ⟨_, rfl, ?_⟩
  obtain rfl := Option.some.inj hold
  by_cases hlow : o % 8 = 0
  · rw [if_pos hlow, writeHead, tenant_modTenant_same s f _ hf]
    exact ⟨(vlogctl_fields _).1, (vlogctl_fields _).2.trans (vlogctl_fields (s.tenant f)).2.symm⟩
  · rw [if_neg hlow]
    exact ⟨(written_low _ v hal hlow (by omega)).symm, rfl⟩

end Region

/-! ### O53 -/

section Accesses
variable (s : State) (f off size : Nat) (v : Word)

/-- R42: the violation of an access that is not carried out. -/
def refusedAccess (kind : Nat) : State := logViolation s f kind (BitVec.ofNat 64 off) 0

variable {f off} (hanswers : functionAnswers s f off = true)
include hanswers

theorem registerAccess_unmapped (hspot : barSpot s f off = .unmapped) :
    exec (.registerWrite f off size v) s = .next (refusedAccess s f off 1) ∧
      exec (.registerRead f off size) s = .next ((refusedAccess s f off 1).emit (.unsupported f)) := by
  constructor
  · change execRegisterWrite f off size v s = _
    simp only [execRegisterWrite, hanswers, hspot]
    rfl
  · change execRegisterRead f off size s = _
    simp only [execRegisterRead, hanswers, hspot]
    rfl

theorem registerAccess_misaligned (hspot : barSpot s f off ≠ .unmapped) (hal : alignedAccess off size = false) :
    exec (.registerWrite f off size v) s = .next (refusedAccess s f off 3) ∧
      exec (.registerRead f off size) s = .next ((refusedAccess s f off 3).emit (.unsupported f)) := by
  cases hs : barSpot s f off with
  | unmapped => exact absurd hs hspot
  | control o | region o =>
    constructor
    · change execRegisterWrite f off size v s = _
      simp only [execRegisterWrite, hanswers, hs, hal]
      rfl
    · change execRegisterRead f off size s = _
      simp only [execRegisterRead, hanswers, hs, hal]
      rfl

section Control
variable {o : Nat} (hspot : barSpot s f off = .control o) (hal : alignedAccess off size = true)
include hspot hal

theorem registerWrite_control {u : State} (hu : ctlWrite s o size v = some u) :
    exec (.registerWrite f off size v) s = .next u := by
  change execRegisterWrite f off size v s = _
  simp only [execRegisterWrite, hanswers, hspot, hal, hu]
  rfl

theorem registerRead_control {x : Word} (hx : ctlRegister s (o - o % 8) = some x) :
    exec (.registerRead f off size) s = .next (s.emit (.readData f (partOf x o size))) := by
  change execRegisterRead f off size s = _
  simp only [execRegisterRead, hanswers, hspot, hal, hx]
  rfl

end Control

section Region
variable {o : Nat} (hspot : barSpot s f off = .region o) (hal : alignedAccess off size = true)
include hspot hal

theorem registerWrite_region : exec (.registerWrite f off size v) s = .next (tenantWrite s f o size v) := by
  change execRegisterWrite f off size v s = _
  simp only [execRegisterWrite, hanswers, hspot, hal]
  rfl

theorem registerRead_region {x : Word} (hx : tenantRegister s f (o - o % 8) = some x) :
    exec (.registerRead f off size) s = .next (s.emit (.readData f (partOf x o size))) := by
  change execRegisterRead f off size s = _
  simp only [execRegisterRead, hanswers, hspot, hal, hx]
  rfl

end Region

theorem functionAnswers_lt : f < 16 := by
  simp only [functionAnswers, Bool.and_eq_true, Bool.or_eq_true, beq_iff_eq, decide_eq_true_eq] at hanswers
  omega

end Accesses

section Spots
variable {s : State} {f off o : Nat}

theorem barSpot_control (h : barSpot s f off = .control o) : o = off := by
  unfold barSpot at h
  simp only at h
  split at h
  · split at h
    · exact (BarSpot.control.inj h).symm
    · exact absurd h (by simp)
  · split at h <;> exact absurd h (by simp)

theorem barSpot_region (h : barSpot s f off = .region o) : off = regionBase f + o := by
  unfold barSpot at h
  simp only at h
  split at h
  · split at h <;> exact absurd h (by simp)
  · split at h
    case isTrue hregion =>
      have ho := BarSpot.region.inj h
      have hbase := hregion.1
      omega
    case isFalse => exact absurd h (by simp)

/-- A region starts on a boundary of every access. -/
theorem alignedAccess_region (h : barSpot s f off = .region o) {size : Nat} (hal : alignedAccess off size = true) :
    alignedAccess o size = true := by
  have hoff := barSpot_region h
  have hbase : regionBase f % 8 = 0 := by unfold regionBase; split <;> rfl
  rw [alignedAccess_iff] at hal ⊢
  obtain ⟨rfl | rfl, hal⟩ := hal <;> exact ⟨by simp, by omega⟩

end Spots

theorem regionReads_tenantWrite {s : State} {f off o size : Nat} {v old : Word} (hf : f < 16)
    (hoff : off = regionBase f + o) (hal : alignedAccess o size = true)
    (hold : tenantRegister s f (o - o % 8) = some old) :
    RegionReads s (tenantWrite s f o size v) f off o size v old :=
  ⟨window_reads s hold hf hal, windowLength_reads s hold hf hal, msix_reads s hold hf hal, vlogctl_reads s hold hf hal,
    fun h => hoff ▸ tenantWrite_readOnly s hold h⟩

/-- Settles O53: an access by where its offset leads; what a written register reads as by what its write leaves. -/
theorem hostAccesses : Obligations.HostAccesses := by
  intro s f off size addr t v bytes vf
  refine ⟨fun hanswers => ?_, fun hno => ?_, fun hyes hvf => ?_, fun hyes b => ?_, fun hacc hwork => ?_, fun hacc d => ?_⟩
  · have hf := functionAnswers_lt s hanswers
    refine ⟨registerAccess_unmapped s size v hanswers, registerAccess_misaligned s size v hanswers,
      fun o hspot hal => ?_, fun o hspot hal => ?_⟩
    · have ho := barSpot_control hspot
      refine ⟨fun u hu => registerWrite_control s size v hanswers hspot hal hu, fun old hold => ?_,
        fun x hx => registerRead_control s size hanswers hspot hal hx⟩
      obtain ⟨u, hu⟩ := ctlWrite_isSome s hold (size := size) (v := v)
      exact ⟨u, registerWrite_control s size v hanswers hspot hal hu,
        controlReads_of_ctlWrite (ho ▸ hal) hold hu⟩
    · exact ⟨registerWrite_region s size v hanswers hspot hal,
        fun old hold => regionReads_tenantWrite hf (barSpot_region hspot) (alignedAccess_region hspot hal) hold,
        fun x hx => registerRead_region s size hanswers hspot hal hx⟩
  · change execConfigurationRequest f vf s = _
    simp only [execConfigurationRequest, hno]
    rfl
  · change execConfigurationRequest f vf s = _
    simp only [execConfigurationRequest, hyes, if_true]
    obtain rfl | hf := hvf
    · rfl
    · cases vf <;> simp [hf]
  · change execConfigurationRequest 0 (some b) s = _
    simp only [execConfigurationRequest, hyes, if_true]
  · have htakes : ¬ (s.ctl.accid = 0xFFFFF ∨ (!takesWork s) = true) :=
      not_or.mpr ⟨hacc, by simp [hwork]⟩
    exact ⟨if_neg htakes, fun hin => (if_neg htakes).trans (congrArg Host.Outcome.next (if_pos hin))⟩
  · exact if_pos (Or.inl hacc)

end Sys2Proof.Machine
end

section
/-!
Accesses at far members (R24, R26 to R29, R42, R363): the return of an answer, the performing of a request, and O21.
-/
namespace Sys2Proof.Machine

/-! ### An answer returns (R27) -/

/-- Sending to one target, an empty one among them. -/
theorem send_eq (s : State) (t j : Nat) (g : Target) (tok : Token) :
    send s t j g tok = s.modFabric t (fun x => { x with mesh := x.mesh ++ sentTo j g tok }) := by
  by_cases h : g.d = 0
  · simp only [send, sentTo, if_pos h, List.append_nil]
    exact (State.setTile_self s t).symm
  · simp only [send, sentTo, if_neg h]

theorem deliverAccess_eq (s : State) (f : Firing) (h : Hdr) (m : MField) (tok : Token) :
    deliverAccess s f h m tok false = s.modFabric f.tile (fun x => { x with
      mesh := x.mesh ++ sentTo f.slot h.t1 tok ++ sentTo f.slot h.t2 (if m.oe then completionToken f false else tok) }) := by
  simp only [deliverAccess, send_eq, State.modFabric_modFabric]

/-- Without linked stores a read brings the bytes that it found. -/
theorem linkedValue_nil (p : Place) (n x : Nat) : linkedValue [] p n x = x % 256 ^ n := by
  have hbyte (i : Nat) (b : Byte) : linkedByte [] p i b = b := rfl
  have hbytes : bytesValue (bytesOf n x) = x % 256 ^ n := by
    induction n generalizing x with
    | zero => simp [bytesOf, bytesValue, Nat.mod_one]
    | succ n ih =>
      rw [bytesOf, bytesValue, ih, Nat.pow_succ', Nat.mod_mul, BitVec.toNat_ofNat]
  simp only [linkedValue, hbyte]
  exact (congrArg bytesValue (List.zipIdx_map_fst 0 _)).trans hbytes

/-- What lies above the bytes read does not matter to what a load delivers (R358). -/
theorem loadExtend_ofNat_mod {n : Nat} (hn : n ≤ 8) (signed : Bool) (x : Nat) :
    loadExtend n signed (BitVec.ofNat 64 (x % 256 ^ n)) = loadExtend n signed (BitVec.ofNat 64 x) := by
  have hpow : 256 ^ n = 2 ^ (8 * n) := by rw [pow_mul]; norm_num
  have hlow : (BitVec.ofNat 64 (x % 256 ^ n)).setWidth (8 * n) = (BitVec.ofNat 64 x).setWidth (8 * n) := by
    apply BitVec.eq_of_toNat_eq
    have hdvd : 2 ^ (8 * n) ∣ 2 ^ 64 := Nat.pow_dvd_pow 2 (by omega)
    simp only [BitVec.toNat_setWidth, BitVec.toNat_ofNat, hpow, Nat.mod_mod_of_dvd _ hdvd, Nat.mod_mod]
  cases signed <;> simp only [loadExtend, zext, sext, hlow]

theorem loadExtend_word (signed : Bool) (v : Word) : loadExtend 8 signed v = v := by
  cases signed <;> simp [loadExtend, zext, sext]

section Returns
variable {s : State} {e : Pend} {t j : Nat} {key : Key} {b : Block} {h : Hdr} {m : MField} {signed : Bool}

/-- The chain of a firing with its own slot in it (R223). -/
def chainOf (f : Firing) (j : Nat) : List Nat := if f.anc.contains j then f.anc else j :: f.anc

theorem returnPend_firing (g : Loaded) (hpend : s.pend = [e]) (hwho : e.who = .firing t (s.ctxId t) j key) :
    returnPend s e g = returnToFiring { s with pend := [] } e t j key g := by
  simp only [returnPend, hpend, hwho, List.filter_cons, beq_self_eq_true, Bool.not_true, Bool.false_eq_true, if_false,
    List.filter_nil]
  exact if_pos rfl

theorem returnToFiring_failed (cause : Nat) (i0 i1 : Word) (hblk : (s.fabric t).blk = some b)
    (hinstr : instrAt b j = some (.ldd h m)) :
    returnToFiring s e t j key (.failed cause i0 i1) = trapSlot s t j key cause i0 i1 := by
  simp only [returnToFiring, slotInstr, hblk, hinstr]

theorem returnToFiring_load (v : Word) (hblk : (s.fabric t).blk = some b) (hinstr : instrAt b j = some (.ldd h m))
    (hop : e.op = .load 8 signed) :
    returnToFiring s e t j key (.value (.word v)) = s.modFabric t (fun x => { x with
      mesh := x.mesh ++
        sentTo j h.t1 { resultToken (pendFiring s e t j key) v false with anc := chainOf (pendFiring s e t j key) j } ++
        sentTo j h.t2 { resultToken (pendFiring s e t j key) (if m.oe then 0 else v) false with
          anc := chainOf (pendFiring s e t j key) j } }) := by
  have htok : (if m.oe then completionToken (pendFiring s e t j key) false
      else resultToken (chained (pendFiring s e t j key)) v false) =
      { resultToken (pendFiring s e t j key) (if m.oe then 0 else v) false with
        anc := chainOf (pendFiring s e t j key) j } := by
    cases m.oe <;> rfl
  simp only [returnToFiring, slotInstr, hblk, hinstr, mfieldOf, hdrOf, hop, opReturns, if_true, MemValue.word,
    deliverAccess_eq, htok]
  rfl

/-- An acquire of a context that has read nothing ahead discards nothing. -/
theorem acquire_quiet (hahead : s.ahead = []) (hpend : s.pend = [e]) {c : Nat} (hwho : e.who = .firing t c j key) (u : Nat) :
    acquire s u = s := by
  simp only [acquire, dropAhead, hahead, hpend, hwho, List.filter_nil, List.filter_cons, if_true]
  rw [← hahead, ← hpend]

end Returns

section Answers
variable {s : State} {e : Pend} {t j : Nat} {key : Key} {b : Block} {h : Hdr} {m : MField} {signed : Bool} {a : Word}

theorem farPend_alone (hpend : s.pend = [e]) (hplace : e.place = .league a) (hgot : e.got = none) (hsent : e.sent = true) :
    farPend s e.id = some e := by
  simp [farPend, hpend, hplace, hgot, hsent]

theorem farLoaded_load (hop : e.op = .load 8 signed) (hlinked : linkedStores s e = []) (value : Nat) :
    farLoaded s e value = .value (.word (BitVec.ofNat 64 value)) := by
  have hvalue : loadExtend 8 signed (BitVec.ofNat 64 (linkedValue [] e.place 8 value)) = BitVec.ofNat 64 value := by
    rw [linkedValue_nil, loadExtend_ofNat_mod (by omega), loadExtend_word]
  simp only [farLoaded, hlinked, hop, show ¬ (8 < 8) by omega, if_false, farValue, hvalue]

theorem exec_leagueResponse_answer (hfar : farPend s e.id = some e) (hin : s.now ≤ e.since + 100000)
    (hpend : s.pend = [e]) (hwho : e.who = .firing t (s.ctxId t) j key) (hop : e.op = .load 8 signed)
    (hlinked : linkedStores s e = []) (hahead : s.ahead = []) (value : Nat) :
    exec (.leagueResponse e.id 0 value) s =
      .next (returnToFiring { s with pend := [] } e t j key (.value (.word (BitVec.ofNat 64 value)))) := by
  change execLeagueResponse e.id 0 value s = _
  simp only [execLeagueResponse, hfar, leagueLimit, not_lt.mpr hin, if_false, if_true,
    farLoaded_load hop hlinked, hop, hwho, farAcquires, Bool.or_true, acquire_quiet hahead hpend hwho, farReserved,
    returnPend_firing _ hpend hwho]

theorem exec_leagueResponse_refusal (hfar : farPend s e.id = some e) (hin : s.now ≤ e.since + 100000)
    (hpend : s.pend = [e]) (hwho : e.who = .firing t (s.ctxId t) j key) {status : Nat} (hlo : 1 ≤ status) (hhi : status ≤ 3)
    (value : Nat) : exec (.leagueResponse e.id status value) s =
      .next (returnToFiring { s with pend := [] } e t j key (.failed 0x2F e.addr (leagueInfo1 e.addr status))) := by
  change execLeagueResponse e.id status value s = _
  simp only [execLeagueResponse, hfar, leagueLimit, not_lt.mpr hin, if_false, if_true,
    show ¬ (status = 0) by omega, hhi, returnPend_firing _ hpend hwho]

theorem exec_leagueTimeout (hfar : farPend s e.id = some e) (hout : e.since + 100000 < s.now)
    (hpend : s.pend = [e]) (hwho : e.who = .firing t (s.ctxId t) j key) (hop : e.op = .load 8 signed) :
    exec (.leagueTimeout e.id) s =
      .next (returnToFiring { s with pend := [] } e t j key (.failed 0x2E e.addr (leagueInfo1 e.addr 0))) := by
  change execLeagueTimeout e.id s = _
  have hasks : e.asksReserve = none := by simp only [Pend.asksReserve, hwho, hop]
  simp only [execLeagueTimeout, hfar, leagueLimit, hout, if_true, hasks, returnPend_firing _ hpend hwho]

theorem leagueInfo1_zero (x : Word) : leagueInfo1 x 0 = (x.extractLsb' 45 11).setWidth 64 := by
  simp [leagueInfo1]

end Answers

/-! ### A request is refused (R24, R26, R27, R42) -/

section Refusals
variable {s s1 : State} {r : LeagueRequest} {f : Nat}

/-- The state in which a request has been answered with a status and no value. -/
def answered (u : State) (r : LeagueRequest) (status : Nat) : State := u.emit (.leagueAnswer r.member.toNat status 0)

/-- A request refused with a violation of a kind in a function's log (R42). -/
def refusedRequest (u : State) (r : LeagueRequest) (f kind status : Nat) : State :=
  answered (logViolation u f kind r.addr r.member.toNat) r status

/-- Where no access is under way nothing is released. -/
theorem wake_of_pend_nil (u : State) (h : u.pend = []) : wake u = u := by
  simp only [wake, h, List.length_nil, wakeFrom]

/-- What a far member's context keeps of the reservations when it takes one back (R363). -/
def keptReservations (s : State) (r : LeagueRequest) : List Reservation :=
  s.reserved.filter (fun x => !(x.tile == 256 + r.member.toNat && x.ctx == r.party && x.addr == r.addr))

theorem exec_serve_cancel (hcancel : r.cancel = true) (hpend : s.pend = []) :
    exec (.leagueRequestServe r) s = .next { s with reserved := keptReservations s r } := by
  change execLeagueRequestServe r s = _
  simp only [execLeagueRequestServe, hcancel, if_true, serveCancel, hpend, List.filter_nil]
  rw [wake_of_pend_nil _ rfl, ← hpend]
  rfl

variable (hcancel : r.cancel = false)
include hcancel

theorem exec_serve_noHolder (hholder : leagueTenant s r.lasid = none) :
    exec (.leagueRequestServe r) s = .next (refusedRequest s r 0 7 3) := by
  change execLeagueRequestServe r s = _
  simp only [execLeagueRequestServe, hcancel, hholder]
  rfl

variable (hholder : leagueTenant s r.lasid = some f)
include hholder

theorem exec_serve_off (hoff : s.ctl.lgen = false ∨ (s.tenant f).lgon = false) :
    exec (.leagueRequestServe r) s = .next (refusedRequest s r f 7 3) := by
  have hno : (s.ctl.lgen && (s.tenant f).lgon) = false := by
    obtain h | h := hoff <;> simp [h]
  change execLeagueRequestServe r s = _
  simp only [execLeagueRequestServe, hcancel, hholder, hno]
  rfl

variable (hlg : s.ctl.lgen = true) (hon : (s.tenant f).lgon = true)
include hlg hon

theorem exec_serve_refused {status : Nat} (hplace : servePlace s f r = (s1, .error status)) :
    exec (.leagueRequestServe r) s =
      .next (if status = 2 then refusedRequest s1 r f 6 2 else answered s1 r 1) := by
  change execLeagueRequestServe r s = _
  simp only [execLeagueRequestServe, hcancel, hholder, hlg, hon, hplace, Bool.and_self, Bool.false_eq_true, if_true, if_false]
  exact (apply_ite Host.Outcome.next ..).symm

theorem exec_serve_placed {p : Place} (hplace : servePlace s f r = (s1, .ok p)) :
    exec (.leagueRequestServe r) s = .next (serveAt s1 r p) := by
  change execLeagueRequestServe r s = _
  simp only [execLeagueRequestServe, hcancel, hholder, hlg, hon, hplace]
  rfl

end Refusals

section Place
variable {s s1 : State} {f : Nat} {r : LeagueRequest}

theorem servePlace_fault {cause level : Nat}
    (htr : translateAccessAs s f r.lasid.toNat (r.addr.toNat % 2 ^ 45) (opAccess r.op) = (s1, .error (cause, level))) :
    servePlace s f r = (s1, .error (if cause = 0x21 then 1 else 2)) := by
  simp only [servePlace, htr]

variable {p : Place}
  (htr : translateAccessAs s f r.lasid.toNat (r.addr.toNat % 2 ^ 45) (opAccess r.op) = (s1, .ok p))
include htr

theorem servePlace_denied (hfault : placeFault 192 r.op .zero false p ≠ none) : servePlace s f r = (s1, .error 2) := by
  obtain ⟨x, hx⟩ := Option.ne_none_iff_exists'.mp hfault
  simp only [servePlace, htr, hx]

theorem servePlace_ok (hfault : placeFault 192 r.op .zero false p = none) : servePlace s f r = (s1, .ok p) := by
  simp only [servePlace, htr, hfault]

end Place

/-! ### An access is performed where it stands alone (R26, R28, R146, R363) -/

/-- A place that is no far member's. -/
def Place.here (p : Place) : Bool :=
  match p with
  | .league _ => false
  | _ => true

/-- A state in which one access is under way. -/
def underWay (s : State) (e : Pend) : State := { s with pend := [e] }

section Alone
variable (s : State) (e : Pend)

theorem behindWrite_underWay : behindWrite (underWay s e) e = false := by
  simp [behindWrite, underWay]

theorem performPend_here (h : e.place.here = true) : performPend s e = performHere s e := by
  unfold performPend
  split
  case h_1 a ha => simp [ha, Place.here] at h
  case h_2 => rfl

theorem wake_underWay (hgot : e.got = none) (hgo : canGo (underWay s e) e = true) :
    wake (underWay s e) = performPend (underWay s e) e := by
  have hfind : (underWay s e).pend.find? (fun x => x.got.isNone && canGo (underWay s e) x) = some e := by
    simp only [underWay] at hgo ⊢
    simp [hgot, hgo]
  have hlen : (underWay s e).pend.length = 1 := rfl
  simp only [wake, hlen, wakeFrom, hfind]

/-- What the condition of an access at this module asks beyond the reservations (R61, R145, R363). -/
def opGoes (s : State) (e : Pend) : Prop :=
  (∃ n, e.op = .store n) ∨
  (targetFull s e.place = true ∧ ((∃ n signed, e.op = .load n signed) ∨ (∃ n, e.op = .lde n) ∨ ∃ fn n, e.op = .atomic fn n)) ∨
  (s.reserved = [] ∧ targetFull s e.place = false ∧ ∃ n, e.op = .stfw n)

theorem canGo_underWay (hhere : e.place.here = true)
    (hfree : reservedByOther (underWay s e) e.who.party.1 e.who.party.2 e.place = false) (hop : opGoes (underWay s e) e) :
    canGo (underWay s e) e = true := by
  unfold canGo
  rw [behindWrite_underWay, Bool.not_false, Bool.true_and]
  split
  case h_1 a ha => simp [ha, Place.here] at hhere
  case h_2 =>
    rw [hfree, Bool.not_false, Bool.true_and]
    obtain ⟨n, hop⟩ | ⟨hfull, ⟨n, signed, hop⟩ | ⟨n, hop⟩ | ⟨fn, n, hop⟩⟩ | ⟨hnone, hempty, n, hop⟩ := hop
    · simp [hop]
    · simp [hop, hfull]
    · simp [hop, hfull]
    · simp [hop, hfull]
    · simp [hop, hempty, hnone]

/-- An access submitted while none is under way, whose condition holds, is performed at once. -/
theorem submit_alone (hpend : s.pend = []) (hhere : e.place.here = true) (hgot : e.got = none)
    (hgo : ∀ acq, canGo (underWay s { e with acq := acq }) { e with acq := acq } = true) :
    ∃ acq, submit s e = performHere (underWay s { e with acq := acq }) { e with acq := acq } := by
  refine ⟨e.acq || (!canGo s e && hasState e.place), ?_⟩
  rw [← performPend_here _ _ (by exact hhere), ← wake_underWay _ _ (by exact hgot) (hgo _)]
  simp only [submit, hpend, List.nil_append, underWay]

end Alone

section FarServed
variable {s : State} {e : Pend} {m c : Nat}

/-- A performed access leaves the list (R146). -/
def finished (u : State) (e : Pend) : State := { u with pend := u.pend.filter (fun x => !(x.id == e.id)) }

theorem performHere_farReserve (hwho : e.who = .farReserve m c) (hstate : hasState e.place = true) :
    performHere s e = (finished { s with reserved := s.reserved ++
      [{ tile := 256 + m, ctx := c, slot := 0, key := none, place := e.place, addr := e.addr, firm := true }] } e).emit
        (.leagueAnswer m 0 0) := by
  simp only [performHere, hwho, hstate, if_true]
  rfl

theorem performHere_far_store {n : Nat} (hwho : e.who = .far m c) (hop : e.op = .store n) :
    performHere s e = (finished (performWrite s none (.store n) e.place e.data e.dtag) e).emit (.leagueAnswer m 0 0) := by
  simp only [performHere, hwho, hop, opReturns, endReserve]
  rfl

theorem performHere_far_load {n : Nat} {signed : Bool} {s' : State} {w : MemValue} (hwho : e.who = .far m c)
    (hop : e.op = .load n signed) (hn : n ≤ 8)
    (hread : performRead s none (.load n signed) e.place 0 0 [] = (s', .ok w)) :
    performHere s e = (finished s' e).emit (.leagueAnswer m 0 w.val.toNat) := by
  simp only [performHere, hwho, hop, opReturns, not_lt.mpr hn, if_true, if_false, hread]
  rfl

theorem performHere_far_lde {n : Nat} {s' : State} {w : MemValue} (hwho : e.who = .far m c) (hop : e.op = .lde n)
    (hread : performRead s none (.lde n) e.place (e.data.extractLsb' 0 64) e.expect [] = (s', .ok w)) :
    performHere s e = (finished s' e).emit (.leagueAnswer m 0 (w.hi ++ w.val).toNat) := by
  simp only [performHere, hwho, hop, opReturns, if_true, hread]
  rfl

theorem performHere_far_atomic {fn : BitVec 4} {n : Nat} {s' : State} {w : MemValue} (hwho : e.who = .far m c)
    (hop : e.op = .atomic fn n)
    (hread : performRead s none (.atomic fn n) e.place (e.data.extractLsb' 0 64) e.expect [] = (s', .ok w)) :
    performHere s e = (finished s' e).emit (.leagueAnswer m 0 (w.hi ++ w.val).toNat) := by
  simp only [performHere, hwho, hop, opReturns, if_true, hread]
  rfl

end FarServed

section Reads
variable (s : State) (p : Place) (n : Nat)

theorem performRead_load (signed : Bool) (hn : n ≤ 8) (hgood : readFault s p n = none) :
    performRead s none (.load n signed) p 0 0 [] = (s, .ok (.word (loadExtend n signed (readPlace s p n)))) := by
  unfold performRead
  simp only [hgood, linkedValue_nil, loadExtend_ofNat_mod hn, BitVec.ofNat_toNat, BitVec.setWidth_eq]

theorem performRead_lde (data expect : Word) (hgood : readFault s p n = none) :
    performRead s none (.lde n) p data expect [] = (emptyRaw s p, .ok (.word (loadExtend n true (readPlace s p n)))) := by
  unfold performRead
  simp only [hgood]

/-- The state in which an atomic of no context has written, where it writes (R364). -/
def atomicWritten (fn : BitVec 4) (data expect : Word) : State :=
  match atomicNew fn n (readPlace s p n) data expect with
  | some v => storePlace s p n v
  | none => s

theorem performRead_atomic (fn : BitVec 4) (data expect : Word) (hgood : readFault s p n = none) :
    performRead s none (.atomic fn n) p data expect [] =
      (atomicWritten s p n fn data expect, .ok (.word (atomicResult fn n (readPlace s p n)))) := by
  unfold performRead
  simp only [hgood]
  rfl

theorem word_hi_val (v : Word) : ((MemValue.word v).hi ++ (MemValue.word v).val).toNat = v.toNat := by
  refine BitVec.toNat_append _ _ |>.trans ?_
  simp [MemValue.word]

/-- A plain store of no context of at most a word (R359). -/
theorem performWrite_store (hn : n ≤ 8) (data : BitVec 128) (tag : Bool) :
    performWrite s none (.store n) p data tag = storePlace s p n (data.extractLsb' 0 64) :=
  if_pos hn

end Reads

/-! ### A request is performed (R26 to R28, R363) -/

section Served
variable (s1 : State) (r : LeagueRequest) (p : Place)

/-- The access of a request, for whom it is performed here (R26, R363). -/
def requestPend (who : Waiter) : Pend :=
  { Pend.start s1 (s1.nextId + 1) who r.op p r.addr 0 0 with
    data := r.data, expect := r.expect, rel := r.rel, scope := r.scope }

/-- The state in which the number of that access has been given out. -/
def numbered : State := { s1 with nextId := s1.nextId + 1 }

theorem serveAt_check (hcheck : r.check = true) (hop : ∀ n, r.op ≠ .stfw n) : serveAt s1 r p = answered s1 r 0 := by
  have hreserves : reservesTarget r = false := by
    simp only [reservesTarget, hcheck, Bool.true_and]
  simp only [serveAt, hcheck, hreserves]
  rfl

theorem serveAt_reserve {n : Nat} (hcheck : r.check = true) (hop : r.op = .stfw n) :
    serveAt s1 r p = submit (numbered s1) (requestPend s1 r p (.farReserve r.member.toNat r.party)) := by
  have hreserves : reservesTarget r = true := by simp [reservesTarget, hcheck, hop]
  simp only [serveAt, hcheck, hreserves, Bool.not_true, Bool.and_false, Bool.false_eq_true, if_false, if_true]
  rfl

theorem serveAt_access (hcheck : r.check = false) :
    serveAt s1 r p = submit (numbered s1) (requestPend s1 r p (.far r.member.toNat r.party)) := by
  simp only [serveAt, hcheck, Bool.false_and, Bool.false_eq_true, if_false]
  rfl

/-- The access of a request as it goes to its place, where `acq` says whether it has had to wait. -/
def servedPend (who : Waiter) (acq : Bool) : Pend := { requestPend s1 r p who with acq := acq }

/-- The state in which it is performed. -/
def serving (who : Waiter) (acq : Bool) : State := underWay (numbered s1) (servedPend s1 r p who acq)

theorem finished_serving_pend (who : Waiter) (acq : Bool) (u : State) (hu : u.pend = (serving s1 r p who acq).pend) :
    (finished u (servedPend s1 r p who acq)).pend = [] := by
  simp [finished, hu, serving, underWay]

variable {s1 r p} (hpend : s1.pend = [])
include hpend

/-- R363: a check that finds its line or word empty and free reserves it, and is answered. -/
theorem serveAt_reserves {n : Nat} (hcheck : r.check = true) (hop : r.op = .stfw n) (hstate : hasState p = true)
    (hempty : targetFull s1 p = false) (hfree : s1.reserved = []) :
    ∃ acq, serveAt s1 r p = (finished { serving s1 r p (.farReserve r.member.toNat r.party) acq with reserved :=
      [{ tile := 256 + r.member.toNat, ctx := r.party, slot := 0, key := none, place := p, addr := r.addr, firm := true }] }
      (servedPend s1 r p (.farReserve r.member.toNat r.party) acq)).emit (.leagueAnswer r.member.toNat 0 0) := by
  have hhere : p.here = true := by cases p <;> simp [hasState, Place.here] at hstate ⊢
  have hgo (acq : Bool) : canGo (underWay (numbered s1) (servedPend s1 r p (.farReserve r.member.toNat r.party) acq))
      (servedPend s1 r p (.farReserve r.member.toNat r.party) acq) = true := by
    refine canGo_underWay _ _ hhere ?_ (.inr (.inr ⟨hfree, hempty, n, hop⟩))
    simp [reservedByOther, underWay, numbered, hfree]
  obtain ⟨acq, hacq⟩ := submit_alone (numbered s1) (requestPend s1 r p (.farReserve r.member.toNat r.party)) hpend hhere rfl hgo
  refine ⟨acq, (serveAt_reserve s1 r p hcheck hop).trans (hacq.trans ?_)⟩
  rw [performHere_farReserve rfl hstate]
  simp only [serving, servedPend, underWay, numbered, hfree, List.nil_append]
  rfl

theorem serveAt_performs (hcheck : r.check = false) (hhere : p.here = true)
    (hfree : reservedByOther s1 (256 + r.member.toNat) r.party p = false)
    (hop : (∃ n, r.op = .store n) ∨ targetFull s1 p = true ∧
      ((∃ n signed, r.op = .load n signed) ∨ (∃ n, r.op = .lde n) ∨ ∃ fn n, r.op = .atomic fn n)) :
    ∃ acq, serveAt s1 r p = performHere (serving s1 r p (.far r.member.toNat r.party) acq)
      (servedPend s1 r p (.far r.member.toNat r.party) acq) := by
  rw [serveAt_access s1 r p hcheck]
  exact submit_alone _ _ hpend hhere rfl fun acq => canGo_underWay _ _ hhere hfree (hop.imp_right .inl)

end Served

/-- A request has been performed: it is answered with a value, nothing is under way, and the state is one that P says. -/
def Served (s s1 : State) (r : LeagueRequest) (P : State → Prop) (v : Nat) : Prop :=
  ∃ u, exec (.leagueRequestServe r) s = .next u ∧ u.outbox = s1.outbox ++ [.leagueAnswer r.member.toNat 0 v] ∧
    u.pend = [] ∧ P u

section Answer
variable {s s1 : State} {r : LeagueRequest} {p : Place} {who : Waiter} {acq : Bool} {P : State → Prop}

theorem served_of_finished {w : State} {v : Nat} (hexec : exec (.leagueRequestServe r) s = .next (serveAt s1 r p))
    (h : serveAt s1 r p = (finished w (servedPend s1 r p who acq)).emit (.leagueAnswer r.member.toNat 0 v))
    (hpend : w.pend = (serving s1 r p who acq).pend) (hout : w.outbox = s1.outbox)
    (hP : P ((finished w (servedPend s1 r p who acq)).emit (.leagueAnswer r.member.toNat 0 v))) : Served s s1 r P v := by
  refine ⟨_, hexec.trans (congrArg Host.Outcome.next h), ?_, finished_serving_pend s1 r p who acq w hpend, hP⟩
  rw [State.emit_outbox]
  exact congrArg (· ++ [Output.leagueAnswer r.member.toNat 0 v]) hout

end Answer

/-- A place in host memory is nobody's reservation (R363). -/
theorem reservedByOther_host (u : State) (t c b : Nat) : reservedByOther u t c (.host b) = false := by
  have hno (q : Place) : sameTarget q (.host b) = false := by cases q <;> rfl
  simp [reservedByOther, hno]

theorem readFault_host {u v : State} {b n : Nat} (hbad : v.hostBad = u.hostBad) (hgood : hostAnswer u b n = .good) :
    readFault v (.host b) n = none := by
  have h : hostAnswer v b n = .good := by simpa only [hostAnswer, hbad] using hgood
  simp only [readFault, h]

/-- What an atomic of no context leaves of host memory, and that it leaves what is under way (R364). -/
theorem atomicWritten_host (u : State) (b n : Nat) (fn : BitVec 4) (data expect : Word) :
    (atomicWritten u (.host b) n fn data expect).pend = u.pend ∧
      (atomicWritten u (.host b) n fn data expect).outbox = u.outbox ∧
      (atomicWritten u (.host b) n fn data expect).host =
        (match atomicNew fn n (BitVec.ofNat 64 (mread u.host b n)) data expect with
          | some v => mwrite u.host b n v.toNat
          | none => u.host) := by
  unfold atomicWritten readPlace
  cases atomicNew fn n (BitVec.ofNat 64 (mread u.host b n)) data expect <;> exact ⟨rfl, rfl, rfl⟩

section HostPlace
variable {s s1 : State} {r : LeagueRequest} {b n : Nat}
  (hexec : exec (.leagueRequestServe r) s = .next (serveAt s1 r (.host b)))
  (hpend : s1.pend = []) (hcheck : r.check = false) (hn : n ≤ 8)
include hexec hpend hcheck

include hn in
theorem served_host_store (hop : r.op = .store n) :
    Served s s1 r (fun u => u.host = mwrite s1.host b n (r.data.extractLsb' 0 64).toNat) 0 := by
  obtain ⟨acq, h⟩ := serveAt_performs (p := .host b) hpend hcheck rfl (reservedByOther_host s1 _ _ b) (.inl ⟨n, hop⟩)
  rw [performHere_far_store rfl hop, performWrite_store _ _ _ hn] at h
  exact served_of_finished hexec h rfl rfl rfl

variable (hgood : hostAnswer s1 b n = .good)
include hgood

include hn in
theorem served_host_load {signed : Bool} (hop : r.op = .load n signed) :
    Served s s1 r (fun u => u.host = s1.host) (loadExtend n signed (BitVec.ofNat 64 (mread s1.host b n))).toNat := by
  obtain ⟨acq, h⟩ := serveAt_performs (p := .host b) hpend hcheck rfl (reservedByOther_host s1 _ _ b)
    (.inr ⟨rfl, .inl ⟨n, signed, hop⟩⟩)
  have hread := performRead_load (serving s1 r (.host b) (.far r.member.toNat r.party) acq) (.host b) n signed hn
    (readFault_host rfl hgood)
  rw [performHere_far_load rfl hop hn hread] at h
  exact served_of_finished hexec h rfl rfl rfl

theorem served_host_atomic {fn : BitVec 4} (hop : r.op = .atomic fn n) :
    let old : Word := BitVec.ofNat 64 (mread s1.host b n)
    Served s s1 r (fun u => u.host = (match atomicNew fn n old (r.data.extractLsb' 0 64) r.expect with
      | some v => mwrite s1.host b n v.toNat
      | none => s1.host)) (atomicResult fn n old).toNat := by
  obtain ⟨acq, h⟩ := serveAt_performs (p := .host b) hpend hcheck rfl (reservedByOther_host s1 _ _ b)
    (.inr ⟨rfl, .inr (.inr ⟨fn, n, hop⟩)⟩)
  have hread := performRead_atomic (serving s1 r (.host b) (.far r.member.toNat r.party) acq) (.host b) n fn
    (r.data.extractLsb' 0 64) r.expect (readFault_host rfl hgood)
  rw [performHere_far_atomic rfl hop hread, word_hi_val] at h
  obtain ⟨hpend', hout, hhost⟩ := atomicWritten_host (serving s1 r (.host b) (.far r.member.toNat r.party) acq) b n fn
    (r.data.extractLsb' 0 64) r.expect
  exact served_of_finished hexec h hpend' hout hhost

end HostPlace

/-! #### Scratchpads -/

/-- A write to the toybox changes of a block's tile only what its fabric holds (R120). -/
theorem disturb_eq (u : State) (t : Nat) : ∃ g n, disturb u t = { u.modFabric t g with freeCtr := n } := by
  unfold disturb
  simp only
  split
  · exact ⟨id, u.freeCtr, (State.setTile_self u t).symm⟩
  · exact ⟨_, _, rfl⟩

theorem putScratch_mem (u : State) {t : Nat} (ht : t < 192) (off : Nat) (bs : List Byte) :
    ((putScratch u t off bs).tile t).mem = mwriteBytes (u.tile t).mem off bs := by
  rw [putScratch, State.tile_modTile_same _ _ _ ht]

/-- Bytes written to a scratchpad, and what their write leaves alone (R143). -/
theorem writeScratch_leaves (u : State) {t : Nat} (ht : t < 192) (off : Nat) (bs : List Byte) :
    (writeScratch u t off bs).pend = u.pend ∧ (writeScratch u t off bs).outbox = u.outbox ∧
      ((writeScratch u t off bs).tile t).mem = mwriteBytes (u.tile t).mem off bs := by
  unfold writeScratch
  split
  · obtain ⟨g, n, hd⟩ := disturb_eq u t
    rw [hd]
    refine ⟨rfl, rfl, ?_⟩
    rw [putScratch_mem _ ht]
    exact congrArg (mwriteBytes · off bs) (State.mem_modFabric u t t g)
  · exact ⟨rfl, rfl, putScratch_mem u ht off bs⟩

/-- An entry put is found, whatever the order of the others. -/
theorem tget_tput_same {α : Type} (d : α) (tab : Table α) (i : Nat) (v : α) : tget d (tput tab i v) i = v := by
  induction tab with
  | nil => simp [tput, tget]
  | cons e tab ih =>
    obtain ⟨k, x⟩ := e
    by_cases hk : k = i
    · simp [tput, tget, hk]
    · by_cases hlt : i < k
      · simp [tput, tget, hk, hlt]
      · simp [tput, tget, hk, hlt, ih]

/-- The state of a line that has just been set to another than the reset state (R145). -/
theorem lineState_setLine (u : State) {t : Nat} (ht : t < 192) (i : Nat) {l : LineState} (hl : l ≠ .reset) :
    lineState (setLine u t i l) t i = l := by
  rw [lineState, setLine, State.tile_modTile_same _ _ _ ht, tset, if_neg hl, tget_tput_same]

theorem setLine_mem (u : State) {t : Nat} (ht : t < 192) (i : Nat) (l : LineState) :
    ((setLine u t i l).tile t).mem = (u.tile t).mem := by
  rw [setLine, State.tile_modTile_same _ _ _ ht]

/-- A line emptied where no element read ahead is under way (R145). -/
theorem emptyRaw_scratch (u : State) {t : Nat} (ht : t < 192) (off : Nat) :
    ((emptyRaw u (.scratch t off)).tile t).mem = (u.tile t).mem ∧
      lineState (emptyRaw u (.scratch t off)) t (off / 128) = { full := false, poison := false } ∧
      (emptyRaw u (.scratch t off)).outbox = u.outbox := by
  exact ⟨setLine_mem u ht (off / 128) _, lineState_setLine u ht (off / 128) (by decide), rfl⟩

theorem emptyRaw_serving_pend (s1 : State) (r : LeagueRequest) (t off m c : Nat) (acq : Bool) :
    (emptyRaw (serving s1 r (.scratch t off) (.far m c) acq) (.scratch t off)).pend =
      (serving s1 r (.scratch t off) (.far m c) acq).pend := rfl

theorem readFault_scratch {u v : State} {t off : Nat} (htiles : v.tiles = u.tiles)
    (hline : lineState u t (off / 128) = .reset) (n : Nat) : readFault v (.scratch t off) n = none := by
  have hclean : poisonedPlace v (.scratch t off) = false := by
    have hpoison : (lineState u t (off / 128)).poison = false := by rw [hline]; rfl
    simpa only [poisonedPlace, lineState, State.tile, htiles] using hpoison
  simp only [readFault, hclean]
  rfl

section ScratchPlace
variable {s s1 : State} {r : LeagueRequest} {t off n : Nat}
  (hexec : exec (.leagueRequestServe r) s = .next (serveAt s1 r (.scratch t off)))
  (hpend : s1.pend = []) (hcheck : r.check = false) (hfree : s1.reserved = [])
include hexec hpend hcheck hfree

theorem served_scratch_store (hn : n ≤ 8) (ht : t < 192) (hop : r.op = .store n) :
    Served s s1 r (fun u => (u.tile t).mem = mwriteBytes (s1.tile t).mem off (bytesOf n (r.data.extractLsb' 0 64).toNat)) 0 := by
  obtain ⟨acq, h⟩ := serveAt_performs (p := .scratch t off) hpend hcheck rfl (by simp [reservedByOther, hfree]) (.inl ⟨n, hop⟩)
  rw [performHere_far_store rfl hop, performWrite_store _ _ _ hn] at h
  obtain ⟨hpend', hout, hmem⟩ := writeScratch_leaves (serving s1 r (.scratch t off) (.far r.member.toNat r.party) acq) ht off
    (bytesOf n (r.data.extractLsb' 0 64).toNat)
  exact served_of_finished hexec h hpend' hout hmem

variable (hline : lineState s1 t (off / 128) = .reset)
include hline

theorem served_scratch_load (hn : n ≤ 8) {signed : Bool} (hop : r.op = .load n signed) :
    Served s s1 r (fun u => (u.tile t).mem = (s1.tile t).mem)
      (loadExtend n signed (BitVec.ofNat 64 (mread (s1.tile t).mem off n))).toNat := by
  obtain ⟨acq, h⟩ := serveAt_performs (p := .scratch t off) hpend hcheck rfl (by simp [reservedByOther, hfree])
    (.inr ⟨congrArg LineState.full hline, .inl ⟨n, signed, hop⟩⟩)
  have hread := performRead_load (serving s1 r (.scratch t off) (.far r.member.toNat r.party) acq) (.scratch t off) n signed hn
    (readFault_scratch rfl hline n)
  rw [performHere_far_load rfl hop hn hread] at h
  exact served_of_finished hexec h rfl rfl rfl

theorem served_scratch_lde (ht : t < 192) (hop : r.op = .lde n) :
    Served s s1 r (fun u => (u.tile t).mem = (s1.tile t).mem ∧ lineState u t (off / 128) = { full := false, poison := false })
      (loadExtend n true (BitVec.ofNat 64 (mread (s1.tile t).mem off n))).toNat := by
  obtain ⟨acq, h⟩ := serveAt_performs (p := .scratch t off) hpend hcheck rfl (by simp [reservedByOther, hfree])
    (.inr ⟨congrArg LineState.full hline, .inr (.inl ⟨n, hop⟩)⟩)
  have hread := performRead_lde (serving s1 r (.scratch t off) (.far r.member.toNat r.party) acq) (.scratch t off) n
    (r.data.extractLsb' 0 64) r.expect (readFault_scratch rfl hline n)
  rw [performHere_far_lde rfl hop hread, word_hi_val] at h
  obtain ⟨hmem, hempty, hout⟩ := emptyRaw_scratch (serving s1 r (.scratch t off) (.far r.member.toNat r.party) acq) ht off
  exact served_of_finished hexec h (emptyRaw_serving_pend ..) hout ⟨hmem, hempty⟩

end ScratchPlace

/-! ### O21 -/

/-- R27: what a far load of a firing, alone under way, has from an answer of status 0, from a refusal, and at the timeout. -/
theorem farLoad_returns (s : State) (t j : Nat) (key : Key) (e : Pend) (b : Block) (h : Hdr) (m : MField) (a : Word)
    (n : Nat) (signed : Bool) (value status : Nat) (hpend : s.pend = [e]) (hwho : e.who = .firing t (s.ctxId t) j key)
    (hblk : (s.fabric t).blk = some b) (hinstr : instrAt b j = some (.ldd h m)) (hplace : e.place = .league a)
    (hgot : e.got = none) (hsent : e.sent = true) (hlinked : linkedStores s e = []) (hop : e.op = .load 8 signed)
    (hahead : s.ahead = []) :
    let f := pendFiring s e t j key
    let s0 := { s with pend := [] }
    (s.now ≤ e.since + 100000 → exec (.leagueResponse e.id 0 value) s = .next (s0.modFabric t (fun x => { x with
      mesh := x.mesh ++ sentTo j h.t1 { resultToken f (BitVec.ofNat 64 value) false with anc := chainOf f j } ++
        sentTo j h.t2 { resultToken f (if m.oe then 0 else BitVec.ofNat 64 value) false with anc := chainOf f j } }))) ∧
    (s.now ≤ e.since + 100000 → 1 ≤ status → status ≤ 3 → exec (.leagueResponse e.id status n) s =
      .next (trapSlot s0 t j key 0x2F e.addr (leagueInfo1 e.addr status))) ∧
    (e.since + 100000 < s.now → exec (.leagueTimeout e.id) s =
      .next (trapSlot s0 t j key 0x2E e.addr ((e.addr.extractLsb' 45 11).setWidth 64))) := by
  have hfar := farPend_alone hpend hplace hgot hsent
  refine ⟨fun hin => ?_, fun hin hlo hhi => ?_, fun hout => ?_⟩
  · rw [exec_leagueResponse_answer hfar hin hpend hwho hop hlinked hahead]
    exact congrArg Host.Outcome.next (returnToFiring_load _ hblk hinstr hop)
  · rw [exec_leagueResponse_refusal hfar hin hpend hwho hlo hhi]
    exact congrArg Host.Outcome.next (returnToFiring_failed _ _ _ hblk hinstr)
  · rw [exec_leagueTimeout hfar hout hpend hwho hop, leagueInfo1_zero]
    exact congrArg Host.Outcome.next (returnToFiring_failed _ _ _ hblk hinstr)

/-- Settles O21: the answer of a far load by the time and its status; a request by what refuses it, and where nothing does
by its operation at its place. -/
theorem leagueAccesses : Obligations.LeagueAccesses := by
  refine ⟨fun s t j key e b h m a n signed value status hpend hwho hblk hinstr hplace hgot hsent hlinked hop hahead _ =>
      farLoad_returns s t j key e b h m a n signed value status hpend hwho hblk hinstr hplace hgot hsent hlinked hop hahead,
    fun s r hcancel hpend => exec_serve_cancel hcancel hpend,
    fun s r hcancel => ⟨exec_serve_noHolder hcancel, fun f hholder => exec_serve_off hcancel hholder,
      fun f s1 hholder hlg hon => ⟨fun cause level htr => ?_, fun p htr => ⟨fun hfault => ?_, fun hfault hcheck hop => ?_,
        fun n hfault hcheck hop hstate hpend hempty hfree => ?_, fun hfault hcheck hpend n hn => ?_⟩⟩⟩⟩
  · have hexec := exec_serve_refused hcancel hholder hlg hon (servePlace_fault htr)
    refine ⟨fun hcause => ?_, fun hcause => ?_⟩
    · rw [hexec, if_pos hcause]; rfl
    · rw [hexec, if_neg hcause]; rfl
  · exact exec_serve_refused hcancel hholder hlg hon (servePlace_denied htr hfault)
  all_goals have hexec := exec_serve_placed hcancel hholder hlg hon (servePlace_ok htr hfault)
  · rw [hexec, serveAt_check s1 r p hcheck hop]; rfl
  · obtain ⟨acq, hserve⟩ := serveAt_reserves hpend hcheck hop hstate hempty hfree
    exact ⟨_, hexec.trans (congrArg Host.Outcome.next hserve), rfl, finished_serving_pend s1 r p _ acq _ rfl,
      _, rfl, rfl, rfl, rfl, rfl⟩
  · refine ⟨?_, ?_⟩
    · rintro b rfl
      exact ⟨served_host_store hexec hpend hcheck hn, fun hgood =>
        ⟨fun signed => served_host_load hexec hpend hcheck hn hgood, fun fn => served_host_atomic hexec hpend hcheck hgood⟩⟩
    · rintro t off rfl ht hfree hline
      exact ⟨served_scratch_store hexec hpend hcheck hfree hn ht,
        fun signed => served_scratch_load hexec hpend hcheck hfree hline hn,
        served_scratch_lde hexec hpend hcheck hfree hline ht⟩

end Sys2Proof.Machine
end

section
/-!
What runs at the head of a queue (R57 to R61): each packet, once it has been fetched, and O48; with O60.
-/
namespace Sys2Proof.Machine

/-- Settles O60: every memory is empty at reset. -/
theorem memoriesAtReset : Obligations.MemoriesAtReset := by
  refine ⟨rfl, fun x hx => ?_, rfl, rfl, rfl, fun x hx => ?_, by simp [State.reset], by simp [State.reset], by simp [State.reset]⟩
  · obtain ⟨i, -, rfl⟩ := Vector.mem_ofFn.mp hx
    exact ⟨rfl, rfl⟩
  · rw [(Vector.mem_replicate.mp hx).2]
    rfl

/-! ### Fetched packets -/

section Packets
variable {s u : State} {n : Nat} {q : Queue} {m : Memory}

/-- The work of a slot whose head packet has been fetched is done on that packet (R54, R59). -/
theorem withPacket_of_headPacket (h : HeadPacket s n q m u) (k : Queue → Memory → State → State) :
    withPacket s n k = k q m u := by
  obtain ⟨hslot, hruns, herr, hleft, hnone, hread⟩ := h
  simp only [withPacket, hslot, hruns, herr, hleft, hnone, hread, Bool.not_true, decide_false, Bool.or_self,
    Bool.false_eq_true, if_false]

variable (h : HeadPacket s n q m u)
include h

theorem exec_packetMalformed (hm : packetKind m = .malformed) :
    exec (.packetMalformed n) s = .next (queueError u q.tenant q.index 1 (some q.ridx)) := by
  refine congrArg Host.Outcome.next ((withPacket_of_headPacket h _).trans ?_)
  rw [hm]

section Launches
variable {desc : Word} {sig : Option (Nat × Word)} (hm : packetKind m = .launch desc sig)
include hm

theorem exec_packetLaunch_barred (hbar : u.ctl.barred = true) : exec (.packetLaunch n) s = .next u := by
  refine congrArg Host.Outcome.next ((withPacket_of_headPacket h _).trans ?_)
  rw [hm]
  exact if_pos hbar

section Begins
variable (hbar : u.ctl.barred = false) {v : State}
include hbar

theorem exec_packetLaunch_begun {id : Nat} (hbegin : beginLaunch u q q.ridx desc sig = (v, .begun id)) :
    exec (.packetLaunch n) s =
      .next (consume v q (some { index := q.ridx, irq := packetIrq m, work := .launch id })) := by
  refine congrArg Host.Outcome.next ((withPacket_of_headPacket h _).trans ?_)
  simp only [hm, hbar, hbegin, Bool.false_eq_true, if_false]

theorem exec_packetLaunch_waits (hbegin : beginLaunch u q q.ridx desc sig = (v, .waits)) :
    exec (.packetLaunch n) s = .next v := by
  refine congrArg Host.Outcome.next ((withPacket_of_headPacket h _).trans ?_)
  simp only [hm, hbar, hbegin, Bool.false_eq_true, if_false]

theorem exec_packetLaunch_error {code : Nat} (hbegin : beginLaunch u q q.ridx desc sig = (v, .error code)) :
    exec (.packetLaunch n) s = .next (queueError v q.tenant q.index code (some q.ridx)) := by
  refine congrArg Host.Outcome.next ((withPacket_of_headPacket h _).trans ?_)
  simp only [hm, hbar, hbegin, Bool.false_eq_true, if_false]

end Begins

end Launches

theorem exec_packetCopy_empty {src dst : Word} {z : Bool} (hm : packetKind m = .copy src dst 0 z) :
    exec (.packetCopy n) s = .next (packetDone (consume u q none) q (packetIrq m)) := by
  refine congrArg Host.Outcome.next ((withPacket_of_headPacket h _).trans ?_)
  rw [hm]
  rfl

theorem exec_packetCopy {src dst : Word} {len : Nat} {z : Bool} (hm : packetKind m = .copy src dst len z) (hlen : len ≠ 0) :
    exec (.packetCopy n) s = .next (consume (openPages { u with
        nextId := u.nextId + 1, copies := u.copies ++ [packetCopyOf (u.nextId + 1) q src dst len z] } (u.nextId + 1)) q
      (some { index := q.ridx, irq := packetIrq m, work := .copy (u.nextId + 1) })) := by
  refine congrArg Host.Outcome.next ((withPacket_of_headPacket h _).trans ?_)
  rw [hm]
  exact if_neg hlen

section Hints
variable {va : Nat} {rel : Bool}

theorem exec_packetHint_empty (hm : packetKind m = .hint va 0 rel) (hva : va ≤ 2 ^ 57) :
    exec (.packetHint n) s = .next (packetDone (consume (markFrames u [] rel) q none) q (packetIrq m)) := by
  refine congrArg Host.Outcome.next ((withPacket_of_headPacket h _).trans ?_)
  simp [-Nat.reducePow, hm, not_lt.mpr hva]

variable (hm : packetKind m = .hint va 65536 rel) (hva : va + 65536 ≤ 2 ^ 57)
include hm

theorem exec_packetHint_bad (hleaf : sweepLeaf u q.tenant (va % 2 ^ 64) = .bad) :
    exec (.packetHint n) s = .next (queueError u q.tenant q.index 3 (some q.ridx)) := by
  refine congrArg Host.Outcome.next ((withPacket_of_headPacket h _).trans ?_)
  simp [-Nat.reducePow, hm, hleaf]

include hva

theorem exec_packetHint_resident {g : Frame} (hleaf : sweepLeaf u q.tenant (va % 2 ^ 64) = .resident g) :
    exec (.packetHint n) s = .next (packetDone (consume (markFrames u [g] rel) q none) q (packetIrq m)) := by
  refine congrArg Host.Outcome.next ((withPacket_of_headPacket h _).trans ?_)
  simp [-Nat.reducePow, hm, hleaf, not_lt.mpr hva]

/-- A hint over one page that is not resident marks nothing (R182), and waits for the page unless it is to be released. -/
theorem exec_packetHint_absent {w : PageWant} (hleaf : sweepLeaf u q.tenant (va % 2 ^ 64) = .absent w) :
    exec (.packetHint n) s = .next (if rel then packetDone (consume (markFrames u [] rel) q none) q (packetIrq m)
      else consume (markFrames u [] rel) q (some { index := q.ridx, irq := packetIrq m, work := .hint [w] false })) := by
  have hone : [w].eraseDups = [w] := rfl
  refine congrArg Host.Outcome.next ((withPacket_of_headPacket h _).trans ?_)
  simp [-Nat.reducePow, hm, hleaf, not_lt.mpr hva, hone]

end Hints

theorem exec_packetSignal {b : Nat} {v : Word} (hm : packetKind m = .signal b v) (hfirst : q.started = []) :
    exec (.packetSignal n) s = .next (startHead (mailboxAccess u q b (.stfw 8) v).2 q (packetIrq m)
      (.signal (mailboxAccess u q b (.stfw 8) v).1)) := by
  refine congrArg Host.Outcome.next ((withPacket_of_headPacket h _).trans ?_)
  simp [hm, hfirst]

theorem exec_packetWait {b : Nat} (hm : packetKind m = .wait b) :
    exec (.packetWait n) s = .next (startHead (mailboxAccess u q b (.lde 8) 0).2 q (packetIrq m)
      (.wait (mailboxAccess u q b (.lde 8) 0).1)) := by
  refine congrArg Host.Outcome.next ((withPacket_of_headPacket h _).trans ?_)
  rw [hm]

theorem exec_packetQueueFence (hm : packetKind m = .fence) (hfirst : q.started = []) :
    exec (.packetQueueFence n) s = .next (packetDone (consume u q none) q (packetIrq m)) := by
  refine congrArg Host.Outcome.next ((withPacket_of_headPacket h _).trans ?_)
  simp [hm, hfirst]

end Packets

/-- Settles O48: each packet by what its words ask for. -/
theorem packetsRun : Obligations.PacketsRun := by
  intro s u n q m h
  refine ⟨exec_packetMalformed h, fun desc sig hm => ⟨exec_packetLaunch_barred h hm, fun hbar =>
      ⟨fun v id => exec_packetLaunch_begun h hm hbar, fun v => exec_packetLaunch_waits h hm hbar,
        fun v code => exec_packetLaunch_error h hm hbar⟩⟩,
    fun src dst z => exec_packetCopy_empty h, fun src dst len z => exec_packetCopy h, fun va rel => exec_packetHint_empty h,
    fun va rel hm hva => ⟨exec_packetHint_bad h hm, fun g => exec_packetHint_resident h hm hva,
      fun w hleaf => ⟨fun hrel => ?_, fun hrel => ?_⟩⟩,
    fun b v => exec_packetSignal h, fun b => exec_packetWait h, exec_packetQueueFence h⟩
  · rw [exec_packetHint_absent h hm hva hleaf, if_pos hrel]
  · rw [exec_packetHint_absent h hm hva hleaf, hrel, if_neg (by decide)]

end Sys2Proof.Machine
end

section
/-!
The event matcher (R46, R64, R415) and the doorbells (R42, R46, R48, R52 to R56): what an arrival, an arming and each doorbell
leave, and O47.
-/
namespace Sys2Proof.Machine

/-! ### Arrivals -/

section At
variable (m : Matcher) (now : Nat)

@[simp] theorem Matcher.at_armed : (m.at_ now).armed = m.armed := by unfold Matcher.at_; split <;> rfl

@[simp] theorem Matcher.at_ready : (m.at_ now).ready = m.ready := by unfold Matcher.at_; split <;> rfl

@[simp] theorem Matcher.at_held : (m.at_ now).held = m.held := by unfold Matcher.at_; split <;> rfl

@[simp] theorem Matcher.at_waiting : (m.at_ now).waiting = m.waiting := by unfold Matcher.at_; split <;> rfl

theorem Matcher.at_came : (m.at_ now).came = if m.cycle = now then m.came else [] := by unfold Matcher.at_; split <;> rfl

theorem Matcher.at_kept : (m.at_ now).kept = if m.cycle = now then m.kept else 0 := by unfold Matcher.at_; split <;> rfl

end At

section Arrival
variable {s : State} {kind : EventKind} {key : Nat}

theorem exec_eventArrival (hkind : kind ≠ .kick) : exec (.eventArrival kind key) s = .next (raise s kind key) := by
  cases kind with
  | kick => exact absurd rfl hkind
  | timer | graphDone | mailbox | pageRequest | other => rfl

theorem exec_eventArrival_kick : exec (.eventArrival .kick key) s = .next (demandDecision (raise s .kick key)) := rfl

/-- An event that matches armed entries goes to the matcher alone (R46). -/
theorem raise_of_hit (hit : s.matcher.armed.any (entryMatches kind key) = true) :
    raise s kind key = { s with matcher := matchArrival (s.matcher.at_ s.now) (kind, key) } := by
  simp only [raise, eventArrives, Matcher.at_armed, hit, if_true]

/-- A kick that matches no entry sets its queue's pending bit (R46, R64). -/
theorem raise_kick_of_miss (miss : s.matcher.armed.any (entryMatches .kick key) = false) :
    raise s .kick key = { s with
      queues := s.queues.map (fun q => if kickKey q.tenant q.index = key then { q with pending := true } else q) } := by
  simp only [raise, eventArrives, Matcher.at_armed, miss, Bool.false_eq_true, if_false, if_true]

section Held
variable (miss : s.matcher.armed.any (entryMatches kind key) = false) (hkind : kind ≠ .kick)
include miss hkind

/-- Another event that matches no entry enters the hold queue, or its source is held back (R46). -/
theorem raise_of_miss {m : Matcher} (h : holdArrival (s.matcher.at_ s.now) (kind, key) = some m) :
    raise s kind key = { s with matcher := m } := by
  simp only [raise, eventArrives, Matcher.at_armed, miss, hkind, h, Bool.false_eq_true, if_false, Option.map_some]

theorem raise_of_full (h : holdArrival (s.matcher.at_ s.now) (kind, key) = none) :
    raise s kind key = { s with matcher := { s.matcher with waiting := s.matcher.waiting ++ [(kind, key)] } } := by
  simp only [raise, eventArrives, Matcher.at_armed, miss, hkind, h, Bool.false_eq_true, if_false, Option.map_none]

end Held

/-- The hold queue of a matcher with an event in its place among those of its cycle (R46, R415). -/
def heldWith (m : Matcher) (kept : Nat) (e : EventKind × Nat) : List (EventKind × Nat) :=
  m.held.take (m.held.length - kept) ++ insertEvent e (m.held.drop (m.held.length - kept))

theorem insertEvent_ne_nil (e : EventKind × Nat) (l : List (EventKind × Nat)) : insertEvent e l ≠ [] := by
  cases l with
  | nil => exact List.cons_ne_nil _ _
  | cons x rest =>
    rw [insertEvent]
    split <;> exact List.cons_ne_nil _ _

section Hold
variable {m : Matcher} {e y : EventKind × Nat}

theorem holdArrival_of_room (h : m.held.length < 64) :
    holdArrival m e = some { m with held := heldWith m m.kept e, kept := m.kept + 1 } := if_pos h

variable (h : 64 ≤ m.held.length) (hlast : (heldWith m m.kept e).getLast? = some y)
include h hlast

theorem holdArrival_of_full_last (hy : y = e) : holdArrival m e = none := by
  rw [heldWith] at hlast
  simp only [holdArrival, not_lt.mpr h, hlast, hy, if_false, if_true]

theorem holdArrival_of_full (hy : y ≠ e) : holdArrival m e =
    some { m with held := (heldWith m m.kept e).dropLast, waiting := m.waiting ++ [y] } := by
  rw [heldWith] at hlast
  simp only [holdArrival, not_lt.mpr h, hlast, hy, if_false, heldWith]

end Hold

/-- R46, R415: the cookies of an event that matches stand ahead of those of the events of its cycle that come after it. -/
theorem matchArrival_ready (m : Matcher) (now : Nat) (e : EventKind × Nat) (n : Nat)
    (hn : n = if m.cycle = now then ((m.came.filter (fun y => !eventBefore y.1 e)).map (fun y => y.2)).sum else 0) :
    (matchArrival (m.at_ now) e).ready = m.ready.take (m.ready.length - n) ++
      (m.armed.filter (entryMatches e.1 e.2)).map (fun e => e.2.cookie) ++ m.ready.drop (m.ready.length - n) := by
  subst hn
  simp only [matchArrival, Matcher.at_armed, Matcher.at_ready, Matcher.at_came]
  split <;> rfl

/-- R46: an arrival that matches. -/
theorem eventArrival_hit (hit : s.matcher.armed.any (entryMatches kind key) = true) :
    ∃ u, exec (.eventArrival kind key) s = .next u ∧
      u.matcher = matchArrival (s.matcher.at_ s.now) (kind, key) := by
  by_cases hkind : kind = .kick
  · subst hkind
    exact ⟨_, exec_eventArrival_kick, congrArg State.matcher (raise_of_hit hit)⟩
  · exact ⟨_, exec_eventArrival hkind, congrArg State.matcher (raise_of_hit hit)⟩

/-- R64: a kick makes the puppeteer decide; one that matches no entry sets its queue's pending bit. -/
theorem eventArrival_kick :
    ∃ u, exec (.eventArrival .kick key) s = .next u ∧ u.agenda = .ev .schedulingDecision :: s.agenda ∧
      (s.matcher.armed.any (entryMatches .kick key) = false → u.matcher = s.matcher ∧
        ∀ q ∈ u.queues, kickKey q.tenant q.index = key → q.pending = true) := by
  refine ⟨_, exec_eventArrival_kick, ?_, fun miss => ?_⟩
  · obtain ⟨m, qs, h⟩ := raise_eq s .kick key
    rw [h]
    rfl
  · rw [raise_kick_of_miss miss]
    refine ⟨rfl, fun q hq hkey => ?_⟩
    obtain ⟨x, -, rfl⟩ := List.mem_map.mp hq
    by_cases hx : kickKey x.tenant x.index = key
    · rw [if_pos hx]
    · rw [if_neg hx] at hkey
      exact absurd hkey hx

/-- R46: another event that matches no entry is held, in its place; of a full hold queue the last event waits at its source. -/
theorem eventArrival_held (miss : s.matcher.armed.any (entryMatches kind key) = false) (hkind : kind ≠ .kick) :
    let placed := heldWith s.matcher (if s.matcher.cycle = s.now then s.matcher.kept else 0) (kind, key)
    ∃ u, exec (.eventArrival kind key) s = .next u ∧ u.queues = s.queues ∧
      u.matcher.armed = s.matcher.armed ∧ u.matcher.ready = s.matcher.ready ∧
      (s.matcher.held.length < 64 → u.matcher.held = placed ∧ u.matcher.waiting = s.matcher.waiting) ∧
      (64 ≤ s.matcher.held.length → ∀ y, placed.getLast? = some y → u.matcher.waiting = s.matcher.waiting ++ [y] ∧
        (y = (kind, key) → u.matcher.held = s.matcher.held) ∧ (y ≠ (kind, key) → u.matcher.held = placed.dropLast)) := by
  intro placed
  have hplaced : heldWith (s.matcher.at_ s.now) (s.matcher.at_ s.now).kept (kind, key) = placed := by
    simp only [heldWith, Matcher.at_held, Matcher.at_kept, placed]
  refine ⟨_, exec_eventArrival hkind, ?_⟩
  by_cases hroom : s.matcher.held.length < 64
  · rw [raise_of_miss miss hkind (holdArrival_of_room (by rwa [Matcher.at_held])), hplaced]
    exact ⟨rfl, Matcher.at_armed _ _, Matcher.at_ready _ _, fun _ => ⟨rfl, Matcher.at_waiting _ _⟩,
      fun hfull => absurd hroom (not_lt.mpr hfull)⟩
  · have hfull : 64 ≤ (s.matcher.at_ s.now).held.length := by rw [Matcher.at_held]; exact not_lt.mp hroom
    obtain ⟨y, hy⟩ : ∃ y, placed.getLast? = some y := by
      refine Option.ne_none_iff_exists'.mp fun hnone => ?_
      exact insertEvent_ne_nil _ _ (List.append_eq_nil_iff.mp (List.getLast?_eq_none_iff.mp hnone)).2
    by_cases hself : y = (kind, key)
    · rw [raise_of_full miss hkind (holdArrival_of_full_last hfull (hplaced.symm ▸ hy) hself)]
      refine ⟨rfl, rfl, rfl, fun h => absurd h hroom, fun _ z hz => ?_⟩
      obtain rfl : y = z := Option.some.inj (hy.symm.trans hz)
      exact ⟨by rw [hself], fun _ => rfl, fun h => absurd hself h⟩
    · rw [raise_of_miss miss hkind (holdArrival_of_full hfull (hplaced.symm ▸ hy) hself), hplaced]
      refine ⟨rfl, Matcher.at_armed _ _, Matcher.at_ready _ _, fun h => absurd h hroom, fun _ z hz => ?_⟩
      obtain rfl : y = z := Option.some.inj (hy.symm.trans hz)
      exact ⟨congrArg (· ++ [y]) (Matcher.at_waiting _ _), fun h => absurd h hself, fun _ => rfl⟩

end Arrival

/-! ### Arming -/

section Arming
variable {kind : EventKind} {key : Nat} {cookie : BitVec 32}

theorem exec_eventArm_full {s : State} (h : freeMatch s.matcher = none) :
    exec (.eventArm kind key cookie) s = .next (s.emit .armRefused) := by
  change execEventArm kind key cookie s = _
  unfold execEventArm
  split
  case h_1 => rfl
  case h_2 i hi => exact absurd (h.symm.trans hi) (by simp)

/-- The matcher with an entry armed, before the held events are matched again. -/
def armedWith (m : Matcher) (i : Nat) (kind : EventKind) (key : Nat) (cookie : BitVec 32) : Matcher :=
  { m with armed := armEntry i { kind := kind, key := key, cookie := cookie } m.armed }

theorem exec_eventArm {s : State} {i : Nat} (h : freeMatch s.matcher = some i) :
    exec (.eventArm kind key cookie) s =
      .next (letIn { s with matcher := rematch (armedWith s.matcher i kind key cookie) }) := by
  change execEventArm kind key cookie s = _
  unfold execEventArm
  split
  case h_1 hnone => exact absurd (h.symm.trans hnone) (by simp)
  case h_2 j hj => rw [Option.some.inj (h.symm.trans hj)]; rfl

/-- The entry that an arming takes is one of the 512, and free (R46). -/
theorem freeMatch_free {m : Matcher} {i : Nat} (h : freeMatch m = some i) : i < 512 ∧ ∀ x ∈ m.armed, x.1 ≠ i := by
  rw [freeMatch] at h
  refine ⟨List.mem_range.mp (List.mem_of_find?_eq_some h), fun x hx hi => ?_⟩
  have hfree : m.armed.any (fun e => e.1 == i) = false := by simpa using List.find?_some h
  exact List.any_eq_false.mp hfree x hx (by simp [hi])

theorem armEntry_perm (i : Nat) (x : MatchEntry) (es : List (Nat × MatchEntry)) : (armEntry i x es).Perm ((i, x) :: es) := by
  induction es with
  | nil => exact .refl _
  | cons e es ih =>
    rw [armEntry]
    split
    · exact .refl _
    · exact (ih.cons e).trans (.swap _ _ _)

theorem armEntry_filter_out (i : Nat) (x : MatchEntry) (es : List (Nat × MatchEntry)) (p : Nat × MatchEntry → Bool)
    (hx : p (i, x) = false) : (armEntry i x es).filter p = es.filter p := by
  induction es with
  | nil => simp [armEntry, hx]
  | cons e es ih =>
    rw [armEntry]
    split
    · simp [hx]
    · simp [List.filter_cons, ih]

/-- What matching a held event again does to the matcher (R46). -/
def rematchHeld (m : Matcher) (h : EventKind × Nat) : Matcher :=
  if m.armed.any (entryMatches h.1 h.2) then takeMatches m h.1 h.2 else { m with held := m.held ++ [h] }

theorem rematch_eq (m : Matcher) : rematch m = m.held.foldl rematchHeld { m with held := [], came := [], kept := 0 } := rfl

/-- Held events that match nothing are held again. -/
theorem foldl_rematchHeld_of_miss (hs : List (EventKind × Nat)) (m : Matcher)
    (miss : ∀ h ∈ hs, m.armed.any (entryMatches h.1 h.2) = false) :
    hs.foldl rematchHeld m = { m with held := m.held ++ hs } := by
  induction hs generalizing m with
  | nil => simp
  | cons h hs ih =>
    have hh : rematchHeld m h = { m with held := m.held ++ [h] } := by
      rw [rematchHeld, miss h List.mem_cons_self]
      rfl
    rw [List.foldl_cons, hh, ih { m with held := m.held ++ [h] } fun x hx => miss x (List.mem_cons_of_mem h hx)]
    simp

section Rematch
variable {m : Matcher} {i : Nat} (miss : ∀ h ∈ m.held, m.armed.any (entryMatches h.1 h.2) = false)
include miss

theorem armedWith_any (h : EventKind × Nat) (hh : h ∈ m.held) :
    (armedWith m i kind key cookie).armed.any (entryMatches h.1 h.2) = decide ((kind, key) = h) := by
  rw [armedWith, (armEntry_perm i _ m.armed).any_eq, List.any_cons, miss h hh, Bool.or_false]
  obtain ⟨k, n⟩ := h
  simp [entryMatches, Prod.mk.injEq, beq_eq_decide]

/-- R46: an arming that no held event matches leaves them held. -/
theorem rematch_armedWith_of_miss (hnone : (kind, key) ∉ m.held) :
    rematch (armedWith m i kind key cookie) = { armedWith m i kind key cookie with came := [], kept := 0 } := by
  rw [rematch_eq, foldl_rematchHeld_of_miss]
  · rfl
  · intro h hh
    refine (armedWith_any miss h hh).trans (decide_eq_false fun he => hnone (he ▸ hh))

/-- R46: the oldest held event that the new entry matches disarms it. -/
theorem rematch_armedWith_of_hit (hheld : (kind, key) ∈ m.held) :
    rematch (armedWith m i kind key cookie) =
      { m with ready := m.ready ++ [cookie], held := m.held.erase (kind, key), came := [], kept := 0 } := by
  obtain ⟨pre, post, hsplit, hpre⟩ := List.eq_append_cons_of_mem hheld
  have hmem (h : EventKind × Nat) (hh : h ∈ pre ∨ h ∈ post) : h ∈ m.held := by
    rw [hsplit, List.mem_append, List.mem_cons]
    exact hh.imp_right .inr
  have hmiss : ∀ h ∈ pre, (armedWith m i kind key cookie).armed.any (entryMatches h.1 h.2) = false := fun h hh =>
    (armedWith_any miss h (hmem h (.inl hh))).trans (decide_eq_false fun he => hpre (he ▸ hh))
  have hhit : (armedWith m i kind key cookie).armed.any (entryMatches kind key) = true :=
    (armedWith_any miss (kind, key) hheld).trans (decide_eq_true rfl)
  have hself : entryMatches kind key (i, { kind := kind, key := key, cookie := cookie }) = true := by simp [entryMatches]
  have hothers : m.armed.filter (entryMatches kind key) = [] :=
    List.filter_eq_nil_iff.mpr (by simpa using List.any_eq_false.mp (miss _ hheld))
  have htaken : (armedWith m i kind key cookie).armed.filter (fun e => !entryMatches kind key e) = m.armed := by
    rw [armedWith, armEntry_filter_out _ _ _ _ (by rw [hself]; rfl)]
    exact List.filter_eq_self.mpr (by simpa using List.any_eq_false.mp (miss _ hheld))
  have hcookies : ((armedWith m i kind key cookie).armed.filter (entryMatches kind key)).map (fun e => e.2.cookie) = [cookie] := by
    have hone := (armEntry_perm i { kind := kind, key := key, cookie := cookie } m.armed).filter (entryMatches kind key)
    rw [List.filter_cons_of_pos hself, hothers, List.perm_singleton] at hone
    rw [armedWith, hone]
    rfl
  have herase : m.held.erase (kind, key) = pre ++ post := by
    rw [hsplit, List.erase_append_right _ hpre, List.erase_cons_head]
  have hpart : pre.foldl rematchHeld { armedWith m i kind key cookie with held := [], came := [], kept := 0 } =
      { armedWith m i kind key cookie with held := pre, came := [], kept := 0 } :=
    foldl_rematchHeld_of_miss pre _ hmiss
  have hfirst : (pre ++ (kind, key) :: post).foldl rematchHeld
        { armedWith m i kind key cookie with held := [], came := [], kept := 0 } =
      post.foldl rematchHeld { m with ready := m.ready ++ [cookie], held := pre, came := [], kept := 0 } := by
    rw [List.foldl_append, hpart, List.foldl_cons, rematchHeld, if_pos hhit, takeMatches, htaken, hcookies]
    rfl
  rw [rematch_eq, herase, armedWith, hsplit, ← foldl_rematchHeld_of_miss post
    { m with ready := m.ready ++ [cookie], held := pre, came := [], kept := 0 } fun h hh => miss h (hmem h (.inr hh))]
  exact hfirst

end Rematch

/-- Where no source is held back, none comes in. -/
theorem letIn_of_none {s : State} (h : s.matcher.waiting = []) : letIn s = s := by
  have hself : ({ s with matcher := { s.matcher with waiting := [] } } : State) = s := by rw [← h]
  simp only [letIn, h, List.foldl_nil, hself]

/-- R46: an arming takes the lowest free entry, and the oldest held event that matches it disarms it at once. -/
theorem eventArm_meets {s : State} {i : Nat} (hi : freeMatch s.matcher = some i) (hwait : s.matcher.waiting = [])
    (miss : ∀ h ∈ s.matcher.held, s.matcher.armed.any (entryMatches h.1 h.2) = false) :
    ∃ u, exec (.eventArm kind key cookie) s = .next u ∧ i < 512 ∧ (∀ x ∈ s.matcher.armed, x.1 ≠ i) ∧
      ((kind, key) ∈ s.matcher.held → u.matcher.armed = s.matcher.armed ∧ u.matcher.ready = s.matcher.ready ++ [cookie] ∧
        u.matcher.held = s.matcher.held.erase (kind, key)) ∧
      ((kind, key) ∉ s.matcher.held →
        u.matcher.armed = armEntry i { kind := kind, key := key, cookie := cookie } s.matcher.armed ∧
        u.matcher.ready = s.matcher.ready ∧ u.matcher.held = s.matcher.held) := by
  obtain ⟨hlt, hfree⟩ := freeMatch_free hi
  refine ⟨_, exec_eventArm hi, hlt, hfree, fun hheld => ?_, fun hnone => ?_⟩
  · rw [rematch_armedWith_of_hit miss hheld, letIn_of_none (by exact hwait)]
    exact ⟨rfl, rfl, rfl⟩
  · rw [rematch_armedWith_of_miss miss hnone, letIn_of_none (by exact hwait)]
    exact ⟨rfl, rfl, rfl⟩

end Arming

/-! ### Doorbells -/

section Doorbells
variable {s : State} {f q : Nat} (hf : f < 16) (hq : q < 4096) (hreset : (s.tenant f).resetting = false)
include hf hq hreset

section Owned
variable (hmapped : regionsMapped s = true)
include hmapped

/-- A doorbell to an index that its tenant does not own is logged (R42, R52). -/
theorem ownedDoorbell_none (hnone : queueAt s f q = none) (k : Queue → State) :
    ownedDoorbell s f q k = logViolation s f 4 (BitVec.ofNat 64 (regionBase f + 0x10000 + 8 * q)) 0 := by
  simp [ownedDoorbell, hmapped, hreset, hnone, not_le.mpr hf, not_le.mpr hq]

variable (hwork : takesWork s = true) {x : Queue} (hx : queueAt s f q = some x)
include hwork hx

theorem ownedDoorbell_some (k : Queue → State) : ownedDoorbell s f q k = k x := by
  simp [ownedDoorbell, hmapped, hreset, hx, hwork, not_le.mpr hf, not_le.mpr hq]

variable {w : BitVec 32}

/-- R54: a kick too far ahead. -/
theorem doorbellKick_far (hfar : 2 ^ x.log2n < (w - x.ridx).toNat ∨ 2 ^ x.log2n < (w - x.last).toNat) :
    exec (.doorbellKick f q w) s = .next (queueError s f q 2 none) := by
  refine congrArg Host.Outcome.next ((ownedDoorbell_some hf hq hreset hmapped hwork hx _).trans ?_)
  exact if_pos hfar

variable (hnear : ¬ (2 ^ x.log2n < (w - x.ridx).toNat ∨ 2 ^ x.log2n < (w - x.last).toNat))
include hnear

theorem doorbellKick_same (hw : w = x.last) : exec (.doorbellKick f q w) s = .next s := by
  refine congrArg Host.Outcome.next ((ownedDoorbell_some hf hq hreset hmapped hwork hx _).trans ?_)
  exact (if_neg hnear).trans (if_pos hw)

variable (hw : w ≠ x.last)
include hw

theorem doorbellKick_mapped (hslot : x.slot.isSome = true) :
    exec (.doorbellKick f q w) s = .next (s.modQueue f q (fun x => { x with last := w })) := by
  refine congrArg Host.Outcome.next ((ownedDoorbell_some hf hq hreset hmapped hwork hx _).trans ?_)
  exact (if_neg hnear).trans ((if_neg hw).trans (if_pos hslot))

/-- R54, R56, R64: a kick of a queue without a slot. -/
theorem doorbellKick_unmapped (hslot : x.slot = none) :
    exec (.doorbellKick f q w) s = .next (refreshQueue (demandDecision
      (raise ((s.modQueue f q (fun x => { x with last := w })).modQueue f q (fun x => { x with pending := true })) .kick
        (kickKey f q))) f q) := by
  refine congrArg Host.Outcome.next ((ownedDoorbell_some hf hq hreset hmapped hwork hx _).trans ?_)
  exact (if_neg hnear).trans ((if_neg hw).trans (if_neg (by simp [hslot])))

end Owned

section Creation
variable (hwork : takesWork s = true) {desc : Nat} {u : State}
include hwork

/-- A creation is what its descriptor's read comes to (R52, R53). -/
theorem doorbellCreate_waits (hread : readG s f desc 64 = (u, .waits)) :
    exec (.doorbellCreate f q desc) s = .next { u with creating := u.creating ++ [(f, q, desc)] } := by
  change Host.Outcome.next (createQueue s f q desc) = _
  simp [createQueue, hwork, hreset, hread, not_le.mpr hf, not_le.mpr hq]

theorem doorbellCreate_fails {a b d : Nat} (hread : readG s f desc 64 = (u, .fails a b d)) :
    exec (.doorbellCreate f q desc) s = .next u := by
  change Host.Outcome.next (createQueue s f q desc) = _
  simp [createQueue, hwork, hreset, hread, not_le.mpr hf, not_le.mpr hq]

variable {m : Memory} (hread : readG s f desc 64 = (u, .data m))
include hread

/-- A descriptor that breaks a rule of R53 is refused. -/
theorem doorbellCreate_broken (hbad : queueOfDesc f q m = none) : exec (.doorbellCreate f q desc) s =
    .next (storeG u f q (memWord m 16) (BitVec.ofNat 64 (6 * 2 ^ 32))) := by
  change Host.Outcome.next (createQueue s f q desc) = _
  simp [createQueue, hwork, hreset, hread, hbad, not_le.mpr hf, not_le.mpr hq]

variable {x : Queue} (hx : queueOfDesc f q m = some x)
include hx

theorem doorbellCreate_owned (hfree : queueAt u f q = none) (hown : (queuesOf u f).length < (u.tenant f).qmax.toNat)
    (htotal : (u.queues.filter (fun x => decide (x.st ≠ .destroyed))).length < 4096) :
    exec (.doorbellCreate f q desc) s =
      .next (storeG { u with queues := u.queues ++ [x] } f q x.stat (statusWord x)) := by
  change Host.Outcome.next (createQueue s f q desc) = _
  simp only [createQueue, hwork, hreset, hread, hx, hfree, not_le.mpr hf, not_le.mpr hq, not_le.mpr hown, not_le.mpr htotal,
    Bool.not_true, Bool.false_eq_true, or_self, if_false, Option.isSome_none, decide_false, Bool.or_self]

theorem doorbellCreate_refused (hfull : (queueAt u f q).isSome = true ∨ (u.tenant f).qmax.toNat ≤ (queuesOf u f).length ∨
      4096 ≤ (u.queues.filter (fun x => decide (x.st ≠ .destroyed))).length) :
    exec (.doorbellCreate f q desc) s = .next (storeG u f q x.stat (BitVec.ofNat 64 (6 * 2 ^ 32))) := by
  change Host.Outcome.next (createQueue s f q desc) = _
  simp only [createQueue, hwork, hreset, hread, hx, not_le.mpr hf, not_le.mpr hq, Bool.not_true, Bool.false_eq_true, or_self,
    if_false]
  rw [if_pos (by simpa only [Bool.or_eq_true, decide_eq_true_eq] using hfull)]

end Creation
end Doorbells

/-- Settles O47: an event by what it matches, an arming by what is held, a doorbell by who owns its index. -/
theorem eventsAndDoorbells : Obligations.EventsAndDoorbells := by
  refine ⟨fun s kind key cookie => ⟨fun hit => ?_, ?_, eventArrival_held, exec_eventArm_full, fun i => eventArm_meets,
    fun i => exec_eventArm⟩, fun s f q desc w hf hq hreset => ⟨fun hmapped hnone => ?_, fun hmapped hwork x hx => ?_,
    fun hwork u => ⟨doorbellCreate_waits hf hq hreset hwork, fun a b d => doorbellCreate_fails hf hq hreset hwork, fun m hread =>
      ⟨doorbellCreate_broken hf hq hreset hwork hread, fun x hx => ⟨doorbellCreate_owned hf hq hreset hwork hread hx,
        doorbellCreate_refused hf hq hreset hwork hread hx⟩⟩⟩⟩⟩
  · obtain ⟨u, hexec, hu⟩ := eventArrival_hit hit
    refine ⟨u, hexec, ?_⟩
    rw [hu]
    exact ⟨congrArg _ (Matcher.at_armed _ _), matchArrival_ready s.matcher s.now (kind, key), Matcher.at_held _ _,
      Matcher.at_waiting _ _⟩
  · rintro rfl
    exact eventArrival_kick
  · have hlog := ownedDoorbell_none hf hq hreset hmapped hnone
    exact ⟨congrArg Host.Outcome.next (hlog _), congrArg Host.Outcome.next (hlog _), congrArg Host.Outcome.next (hlog _)⟩
  · have hdone := ownedDoorbell_some hf hq hreset hmapped hwork hx
    exact ⟨doorbellKick_far hf hq hreset hmapped hwork hx, doorbellKick_same hf hq hreset hmapped hwork hx,
      doorbellKick_mapped hf hq hreset hmapped hwork hx, doorbellKick_unmapped hf hq hreset hmapped hwork hx, 
      congrArg Host.Outcome.next (hdone _), congrArg Host.Outcome.next (hdone _)⟩

end Sys2Proof.Machine
end

section
/-!
Page fills and evictions (R46, R175 to R182, R201): what each step of a fill leaves, and O45.
-/
namespace Sys2Proof.Machine

/-! ### Requests (R177) -/

/-- A request that a leg makes next reaches the event matcher, and begins a fill or joins the one in progress. -/
theorem exec_pageRequest_leg {s u : State} {f leaf id q : Nat} {w : PageWant} (hleg : askingLeg s f leaf = some (id, q, w))
    (harrive : eventArrives s .pageRequest (pageKey f leaf) = some u) :
    exec (.pageRequest f leaf) s = .next (requestFill (u.modRider id (fun x => x.modLeg q (fun l => { l with
      deferred := markRaised leaf l.deferred }))) f leaf w) := by
  change execPageRequest f leaf s = _
  simp only [execPageRequest, hleg, harrive]

/-! ### Fills (R176, R178) -/

section Fills
variable {s : State} {f leaf : Nat} {x y : Fill}

/-- The fills after one is changed. -/
theorem mem_modFill {g : Fill → Fill} {z : Fill} (hz : z ∈ (s.modFill leaf g).fills) :
    ∃ x ∈ s.fills, z = if x.page.leaf = leaf then g x else x := by
  obtain ⟨x, hx, rfl⟩ := List.mem_map.mp hz
  exact ⟨x, hx, by simp only [beq_iff_eq]⟩

/-- A fill put in the place of those of its page. -/
theorem eq_of_mem_modFill_const {z : Fill} (hz : z ∈ (s.modFill leaf (fun _ => y)).fills)
    (hleaf : z.page.leaf = leaf) : z = y := by
  obtain ⟨x, -, rfl⟩ := mem_modFill hz
  by_cases hx : x.page.leaf = leaf
  · exact if_pos hx
  · rw [if_neg hx] at hleaf
    exact absurd hleaf hx

/-- A change of a fill that is put in the place of those of its page. -/
theorem eq_of_mem_modFill_modFill_const {g : Fill → Fill} {z : Fill}
    (hz : z ∈ ((s.modFill leaf (fun _ => y)).modFill leaf g).fills) (hleaf : z.page.leaf = leaf) : z = g y := by
  obtain ⟨x, hx, rfl⟩ := mem_modFill hz
  by_cases hxl : x.page.leaf = leaf
  · rw [if_pos hxl, eq_of_mem_modFill_const hx hxl]
  · rw [if_neg hxl] at hleaf
    exact absurd hleaf hxl

section Start
variable (hfind : s.fills.find? (fun y => y.page.leaf == leaf && y.tenant == f) = some x) (hst : x.st = .requested)
  (hfirst : (s.fills.find? (fun y => y.st == .requested)).map (fun y => y.page.leaf) = some leaf)
include hfind hst hfirst

theorem exec_fillStart_error {n : Nat} (hread : readDescriptor s x = .error n) :
    exec (.fillStart f leaf) s = .next (s.modFill leaf (fun y => { y with st := .failed n })) := by
  change execFillStart f leaf s = _
  simp only [execFillStart, hfind, hst, hfirst, hread, if_true]

theorem exec_fillStart_ok (hread : readDescriptor s x = .ok y) :
    exec (.fillStart f leaf) s = .next (if (holders s leaf y.frame (2 ^ y.page.shift)).isEmpty then
      (s.modFill leaf (fun _ => y)).modFill leaf (fun y => { y with st := .reading }) else s.modFill leaf (fun _ => y)) := by
  change execFillStart f leaf s = _
  simp only [execFillStart, hfind, hst, hfirst, hread, if_true]
  rfl

/-- R176, R178: a descriptor that breaks no rule gives the fill its fields; the source is read where no other resident page
holds the frame. -/
theorem fillStart_meets (hread : readDescriptor s x = .ok y) :
    ∃ u, exec (.fillStart f leaf) s = .next u ∧ ∀ z ∈ u.fills, z.page.leaf = leaf →
      z.frame = y.frame ∧ z.src = y.src ∧ z.slen = y.slen ∧
      z.st = (if (holders s leaf y.frame (2 ^ y.page.shift)).isEmpty then .reading else y.st) := by
  refine ⟨_, exec_fillStart_ok hfind hst hfirst hread, fun z hz hleaf => ?_⟩
  cases hheld : (holders s leaf y.frame (2 ^ y.page.shift)).isEmpty with
  | true =>
    rw [hheld, if_pos rfl] at hz
    obtain rfl := eq_of_mem_modFill_modFill_const hz hleaf
    exact ⟨rfl, rfl, rfl, rfl⟩
  | false =>
    rw [hheld, if_neg (by decide)] at hz
    obtain rfl := eq_of_mem_modFill_const hz hleaf
    exact ⟨rfl, rfl, rfl, rfl⟩

end Start

theorem sendService_fills (u : State) (fill : Option Nat) (image set base : Nat) (bytes : List Byte) (rings : List Nat) :
    (sendService u fill image set base bytes rings).fills = u.fills := by
  unfold sendService
  induction rings generalizing u with
  | nil => rfl
  | cons q rings ih => rw [List.foldl_cons, ih]; rfl

section Source
variable (hfind : s.fills.find? (fun y => y.page.leaf == leaf) = some x) (hst : x.st = .reading)
include hfind hst

theorem exec_fillSourceReady_error {n : Nat} (hread : pageContent s x = .error n) :
    exec (.fillSourceReady leaf) s = .next (s.modFill leaf (fun y => { y with st := .failed n })) := by
  change execFillSourceReady leaf s = _
  simp only [execFillSourceReady, hfind, hst, hread]

/-- R178, R182: a source that has been read is boarded where no leg holds the translation of an evicted page. -/
theorem fillSourceReady_meets {m : Memory} (hread : pageContent s x = .ok m) (hheld : heldBack s x = false) :
    ∃ u, exec (.fillSourceReady leaf) s = .next u ∧ ∀ z ∈ u.fills, z.page.leaf = leaf → z.st = .boarding ∧ z.content = m := by
  have hback : heldBack (s.modFill leaf (fun _ => { x with content := m, st := .ready }))
      { x with content := m, st := .ready } = false := hheld
  have hexec : execFillSourceReady leaf s = .next (sendService
      { (s.modFill leaf (fun _ => { x with content := m, st := .ready })).modFill leaf (fun y => { y with st := .boarding }) with
        evicted := s.evicted.filter (fun e => !x.meets e) } (some leaf) 0 0 0 [] (frameRings x.frame x.page.shift)) := by
    simp only [execFillSourceReady, hfind, hst, hread, hback, Bool.false_eq_true, if_false]
    rfl
  refine ⟨_, hexec, fun z hz hleaf => ?_⟩
  rw [sendService_fills] at hz
  obtain rfl := eq_of_mem_modFill_modFill_const hz hleaf
  exact ⟨rfl, rfl⟩

end Source
end Fills

/-! ### A leaf rewritten as resident (R175, R178) -/

/-- An entry stands in a table, behind entries of lower keys alone: it is what its key reads as, whatever comes behind. -/
def Listed {α : Type} (t : Table α) (i : Nat) (v : α) : Prop := ∃ pre rest, t = pre ++ (i, v) :: rest ∧ ∀ e ∈ pre, e.1 < i

section Listed
variable {α : Type} {t : Table α} {i j : Nat} {v w : α}

theorem listed_cons {k : Nat} {x : α} (hk : k < i) (h : Listed t i v) : Listed ((k, x) :: t) i v := by
  obtain ⟨pre, rest, rfl, hpre⟩ := h
  exact ⟨(k, x) :: pre, rest, rfl, List.forall_mem_cons.mpr ⟨hk, hpre⟩⟩

theorem tget_of_listed (d : α) (h : Listed t i v) : tget d t i = v := by
  obtain ⟨pre, rest, rfl, hpre⟩ := h
  induction pre with
  | nil => simp [tget]
  | cons e pre ih =>
    have he : e.1 < i := hpre e List.mem_cons_self
    rw [List.cons_append, tget, if_neg he.ne, if_neg he.not_gt]
    exact ih fun x hx => hpre x (List.mem_cons_of_mem e hx)

theorem listed_tput (t : Table α) (i : Nat) (v : α) : Listed (tput t i v) i v := by
  induction t with
  | nil => exact ⟨[], [], rfl, by simp⟩
  | cons e t ih =>
    obtain ⟨k, x⟩ := e
    rw [tput]
    split
    · exact ⟨[], t, rfl, by simp⟩
    · split
      · exact ⟨[], (k, x) :: t, rfl, by simp⟩
      · exact listed_cons (by omega) ih

/-- A write above an entry leaves it standing. -/
theorem listed_tset_above [DecidableEq α] (d : α) (h : Listed t i v) (hij : i < j) : Listed (tset d t j w) i v := by
  obtain ⟨pre, rest, rfl, hpre⟩ := h
  unfold tset
  induction pre with
  | nil =>
    split
    · exact ⟨[], terase rest j, by simp [terase, hij.ne, hij.not_gt], by simp⟩
    · exact ⟨[], tput rest j w, by simp [tput, hij.ne, hij.not_gt], by simp⟩
  | cons e pre ih =>
    obtain ⟨k, x⟩ := e
    have hk : k < i := hpre (k, x) List.mem_cons_self
    have hkj : k ≠ j := by omega
    have hjk : ¬ j < k := by omega
    have hin := ih fun x hx => hpre x (List.mem_cons_of_mem _ hx)
    split
    · next hw =>
      rw [if_pos hw] at hin
      rw [List.cons_append, terase, if_neg hkj, if_neg hjk]
      exact listed_cons hk hin
    · next hw =>
      rw [if_neg hw] at hin
      rw [List.cons_append, tput, if_neg hkj, if_neg hjk]
      exact listed_cons hk hin

end Listed

theorem listed_mwrite_above {m : Memory} {i a : Nat} {b : Byte} (h : Listed m i b) (ha : i < a) (n x : Nat) :
    Listed (mwrite m a n x) i b := by
  induction n generalizing m a x with
  | zero => exact h
  | succ n ih => exact ih (listed_tset_above 0 h ha) (by omega) _

/-- The lowest byte of a value written, where it is not zero, is read again, whatever the form of the memory. -/
theorem mget_mwrite_first (m : Memory) (a n x : Nat) (hx : BitVec.ofNat 8 x ≠ 0) :
    mget (mwrite m a (n + 1) x) a = BitVec.ofNat 8 x := by
  refine tget_of_listed 0 (listed_mwrite_above ?_ (Nat.lt_succ_self a) n _)
  rw [mset, tset, if_neg hx]
  exact listed_tput m a _

/-- The leaf at a host address is marked resident (R175). -/
def LeafResident (s : State) (leaf : Nat) : Prop := pteRes (BitVec.ofNat 64 (mread s.host leaf 8)) = true

theorem rewriteLeaf_resident (s : State) (leaf pa : Nat) : LeafResident (rewriteLeaf s leaf pa true) leaf := by
  set new : Word := (BitVec.ofNat 64 (mread s.host leaf 8) &&& 0xFF000000000000FB#64) |||
    (BitVec.ofNat 64 (pa / 256) <<< 8) ||| 4 with hnew
  have hbit : (BitVec.ofNat 8 new.toNat).getLsbD 2 = true := by simp [hnew]
  have hbyte : mget (rewriteLeaf s leaf pa true).host leaf = BitVec.ofNat 8 new.toNat := by
    refine mget_mwrite_first s.host leaf 7 new.toNat fun hzero => ?_
    rw [hzero] at hbit
    exact absurd hbit (by decide)
  have hread : mread (rewriteLeaf s leaf pa true).host leaf 8 =
      (BitVec.ofNat 8 new.toNat).toNat + 256 * mread (rewriteLeaf s leaf pa true).host (leaf + 1) 7 := by rw [← hbyte]; rfl
  rw [BitVec.getLsbD, Nat.testBit_eq_decide_div_mod_eq, decide_eq_true_iff] at hbit
  rw [LeafResident, pteRes, BitVec.getLsbD_ofNat, hread, Nat.testBit_eq_decide_div_mod_eq, Bool.and_eq_true,
    decide_eq_true_iff, decide_eq_true_iff]
  omega

/-! ### Walks beside a resident leaf (R199 to R201) -/

/-- The leaf that a walk without a cache finds is the entry that stands at its address (R150). -/
theorem walkFrom_pte {s : State} {asid gen va fuel table level : Nat} {l : Leaf} {ws : List WalkEntry}
    (h : walkFrom s [] asid gen va fuel table level = .ok (l, ws)) : l.pte = BitVec.ofNat 64 (mread s.host l.at_ 8) := by
  induction fuel generalizing table level ws with
  | zero => cases h
  | succ fuel ih =>
    rw [walkFrom] at h
    simp only [List.find?_nil] at h
    split at h
    · cases h
    split at h
    · cases h
    split at h
    · cases h
    split at h
    · obtain ⟨rfl, -⟩ := Prod.mk.inj (Except.ok.inj h)
      rfl
    split at h
    · cases h
    · next hrest =>
      obtain ⟨rfl, -⟩ := Prod.mk.inj (Except.ok.inj h)
      exact ih hrest

/-- A page that a walk finds absent is not that of a resident leaf (R175). -/
theorem sweepLeaf_absent_leaf_ne {s : State} {f va leaf : Nat} {w : PageWant} (hres : LeafResident s leaf)
    (h : sweepLeaf s f va = .absent w) : w.leaf ≠ leaf := by
  unfold sweepLeaf at h
  split at h
  · cases h
  next l ws hwalk =>
    dsimp only at h
    split at h
    · cases h
    split at h
    · split at h <;> cases h
    next hnot =>
      obtain rfl := SweepLeaf.absent.inj h
      rintro rfl
      exact hnot (by rw [walkFrom_pte hwalk]; exact hres)

section Walks
variable {s : State} {leaf : Nat} (hres : LeafResident s leaf)
include hres

theorem walkRows_wants_ne (f : Nat) (g : Region2) (rows : List Nat) (w : Walked) (hw : ∀ p ∈ w.wants, p.leaf ≠ leaf) :
    ∀ p ∈ (walkRows s f g rows w).wants, p.leaf ≠ leaf := by
  induction rows generalizing w with
  | nil => exact hw
  | cons va rows ih =>
    rw [walkRows]
    split
    · exact ih w hw
    · split
      · exact ih _ hw
      · exact ih _ hw
      · next p hp =>
        refine ih _ fun x hx => ?_
        rcases List.mem_append.mp hx with hx | hx
        · exact hw x hx
        · rw [List.mem_singleton.mp hx]
          exact sweepLeaf_absent_leaf_ne hres hp

end Walks

/-- A page is resident, and no fill of it is in progress. -/
structure Filled (s : State) (x : Fill) (leaf : Nat) : Prop where
  resident : LeafResident s leaf
  ended : ∀ y ∈ s.fills, y.page.leaf ≠ leaf
  listed : ∃ y ∈ s.residents, y.tenant = x.tenant ∧ y.page = x.page ∧ y.frame = x.frame

section Filled
variable {s : State} {x : Fill} {leaf : Nat}

theorem Filled.of_eq {u : State} (h : Filled s x leaf) (hhost : u.host = s.host) (hfills : u.fills = s.fills)
    (hres : u.residents = s.residents) : Filled u x leaf := by
  obtain ⟨h1, h2, h3⟩ := h
  exact ⟨by rwa [LeafResident, hhost], by rwa [hfills], by rwa [hres]⟩

theorem Filled.raise (h : Filled s x leaf) (kind : EventKind) (key : Nat) : Filled (raise s kind key) x leaf := by
  obtain ⟨m, qs, hr⟩ := raise_eq s kind key
  exact h.of_eq (by rw [hr]) (by rw [hr]) (by rw [hr])

theorem Filled.requestFill (h : Filled s x leaf) (f : Nat) {w : PageWant} (hw : w.leaf ≠ leaf) :
    Filled (requestFill s f w.leaf w) x leaf := by
  unfold Machine.requestFill
  split
  · exact h
  · refine ⟨h.resident, fun y hy => ?_, h.listed⟩
    rcases List.mem_append.mp hy with hy | hy
    · exact h.ended y hy
    · rw [List.mem_singleton.mp hy]
      exact hw

theorem Filled.issueWants (h : Filled s x leaf) (f : Nat) (ws : List PageWant) (hws : ∀ w ∈ ws, w.leaf ≠ leaf) :
    Filled (issueWants s f ws) x leaf := by
  unfold Machine.issueWants
  have hfew : ∀ w ∈ ws.filter (fun w => !w.raised), w.leaf ≠ leaf := fun w hw => hws w (List.mem_of_mem_filter hw)
  generalize ws.filter (fun w => !w.raised) = few at hfew
  induction few generalizing s with
  | nil => exact h
  | cons w few ih =>
    exact ih ((h.raise _ _).requestFill f (hfew w List.mem_cons_self)) fun v hv => hfew v (List.mem_cons_of_mem w hv)

theorem Filled.markFrames (h : Filled s x leaf) (fs : List Frame) (rel : Bool) : Filled (markFrames s fs rel) x leaf := by
  obtain ⟨y, hy, ht, hp, hf⟩ := h.listed
  refine ⟨h.resident, h.ended, _, List.mem_map_of_mem hy, ?_⟩
  split <;> exact ⟨ht, hp, hf⟩

theorem Filled.modRider (h : Filled s x leaf) (id : Nat) (g : Rider → Rider) : Filled (s.modRider id g) x leaf :=
  h.of_eq rfl rfl rfl

theorem Filled.takePages (h : Filled s x leaf) (id q : Nat) : Filled (takePages s id q).1 x leaf := by
  unfold Machine.takePages
  split
  · exact h
  next r hr =>
    have hwants : ∀ w ∈ (walkRows s r.tenant r.geo (r.geo.rowsOn q)
        { bad := false, frames := [], wants := [], first := none }).wants, w.leaf ≠ leaf :=
      walkRows_wants_ne h.resident _ _ _ _ (by simp)
    generalize walkRows s r.tenant r.geo (r.geo.rowsOn q) { bad := false, frames := [], wants := [], first := none } = w at hwants
    have hasked : ∀ p ∈ (if (riderRec r.record).kind = 9 ∧ (riderRec r.record).res = false then [] else w.wants),
        p.leaf ≠ leaf := by
      split
      · simp
      · exact hwants
    dsimp only
    generalize (if (riderRec r.record).kind = 9 ∧ (riderRec r.record).res = false then [] else w.wants) = wants at hasked ⊢
    have hbad : Filled (if (riderRec r.record).await_ = true then Machine.issueWants s r.tenant wants else s) x leaf := by
      split
      · exact h.issueWants _ _ hasked
      · exact h
    have hmarked : Filled (if (riderRec r.record).kind = 9 ∧ ((riderRec r.record).rel = true ∨ (riderRec r.record).res = true) then
        Machine.markFrames s w.frames (riderRec r.record).rel else s) x leaf := by
      split
      · exact h.markFrames _ _
      · exact h
    obtain hw | hw := Bool.eq_false_or_eq_true w.bad
    · rw [if_pos hw]
      exact hbad.modRider _ _
    · rw [if_neg (by rw [hw]; decide)]
      generalize (if (riderRec r.record).kind = 9 ∧ ((riderRec r.record).rel = true ∨ (riderRec r.record).res = true) then
        Machine.markFrames s w.frames (riderRec r.record).rel else s) = u at hmarked ⊢
      split
      · exact hmarked.modRider _ _
      split
      · exact hmarked.modRider _ _
      split <;> exact hmarked.modRider _ _

theorem Filled.giveSeats (h : Filled s x leaf) (tile q : Nat) : Filled (giveSeats s tile q) x leaf := by
  unfold Machine.giveSeats
  generalize legsOf s tile q = ls
  dsimp only
  generalize (ls.filter (fun l => l.2.seated)).length = n
  induction ls generalizing s n with
  | nil => exact h
  | cons l ls ih =>
    rw [seatFrom]
    split_ifs
    · exact ih h n
    · exact h
    · exact ih (h.modRider _ _) (n + 1)

theorem Filled.rewalk (h : Filled s x leaf) (id q : Nat) : Filled (rewalk s id q) x leaf := by
  unfold Machine.rewalk
  split
  · exact h
  · exact ((h.modRider _ _).takePages id q).giveSeats _ q

end Filled

/-! ### The end of a fill (R178, R180) -/

section Ends
variable {s : State} {leaf : Nat} {x : Fill}
  (hfind : s.fills.find? (fun y => y.page.leaf == leaf) = some x)
include hfind

/-- The page of a fill as it becomes resident, before the legs that waited for it walk again (R178, R201). -/
def filledState (s : State) (x : Fill) (leaf : Nat) : State :=
  let f : Frame := { va := x.page.va, shift := x.page.shift, pa := x.frame }
  let u := settleHints (rewriteLeaf (raiseRequests s leaf) leaf x.frame true) leaf false
  { u with
    services := u.services.filter (fun v => !(v.fill == some leaf))
    fills := u.fills.filter (fun y => !(y.page.leaf == leaf))
    residents := u.residents.filter (fun r => !(r.page.leaf == leaf)) ++
      [{ tenant := x.tenant, page := x.page, frame := x.frame, releasable := false, dirty := false }]
    riders := u.riders.map (fun r => { r with legs := r.legs.map (pageArrives leaf f (slotNow u)) }) }

omit hfind in
theorem filledState_filled (s : State) (x : Fill) (leaf : Nat) : Filled (filledState s x leaf) x leaf := by
  refine ⟨rewriteLeaf_resident (raiseRequests s leaf) leaf x.frame, fun y hy => ?_,
    _, List.mem_append_right _ (List.mem_singleton_self _), rfl, rfl, rfl⟩
  simpa using (List.mem_filter.mp hy).2

/-- R178, R201: a fill whose legs have alighted makes its page resident. -/
theorem fillComplete_meets (hst : x.st = .boarding) (hlegs : ∀ v ∈ s.services, v.fill = some leaf → v.alighted = true) :
    ∃ u, exec (.fillComplete leaf) s = .next u ∧ (∀ y ∈ u.fills, y.page.leaf ≠ leaf) ∧
      ∃ y ∈ u.residents, y.tenant = x.tenant ∧ y.page = x.page ∧ y.frame = x.frame := by
  have hall : s.services.all (fun v => !(v.fill == some leaf) || v.alighted) = true := by
    simpa [imp_iff_not_or] using hlegs
  have hexec : execFillComplete leaf s =
      .next ((rewalkers s leaf).foldl (fun s y => rewalk s y.1 y.2) (filledState s x leaf)) := by
    simp only [execFillComplete, hfind, hst, hall, and_self, if_true]
    rfl
  have hfilled : Filled ((rewalkers s leaf).foldl (fun s y => rewalk s y.1 y.2) (filledState s x leaf)) x leaf := by
    generalize rewalkers s leaf = again
    have h := filledState_filled s x leaf
    generalize filledState s x leaf = u at h
    induction again generalizing u with
    | nil => exact h
    | cons y again ih => exact ih _ (h.rewalk y.1 y.2)
  exact ⟨_, hexec, hfilled.ended, hfilled.listed⟩

omit hfind in
theorem giveSeats_fills (u : State) (tile q : Nat) : (giveSeats u tile q).fills = u.fills := by
  unfold giveSeats
  generalize legsOf u tile q = ls
  dsimp only
  generalize (ls.filter (fun l => l.2.seated)).length = n
  induction ls generalizing u n with
  | nil => rfl
  | cons l ls ih =>
    rw [seatFrom]
    split_ifs
    · exact ih u n
    · rfl
    · exact ih _ (n + 1)

/-- R180, R201: a failed fill ends. -/
theorem fillFail_meets {n : Nat} (hst : x.st = .failed n) :
    ∃ u, exec (.fillFail leaf n) s = .next u ∧ ∀ y ∈ u.fills, y.page.leaf ≠ leaf := by
  have hseats (ts : List (Nat × Nat)) (u : State) : (ts.foldl (fun s t => giveSeats s t.1 t.2) u).fills = u.fills := by
    induction ts generalizing u with
    | nil => rfl
    | cons t ts ih => exact (ih _).trans (giveSeats_fills u t.1 t.2)
  have hexec : ∃ (ts : List (Nat × Nat)) (u : State), execFillFail leaf n s = .next (ts.foldl (fun s t => giveSeats s t.1 t.2) u) ∧
      ∃ v : State, u.fills = v.fills.filter (fun y => !(y.page.leaf == leaf)) := by
    simp only [execFillFail, hfind, hst, if_true]
    exact ⟨_, _, rfl, _, rfl⟩
  obtain ⟨ts, u, hexec, v, hu⟩ := hexec
  refine ⟨_, hexec, fun y hy => ?_⟩
  rw [hseats, hu] at hy
  simpa using (List.mem_filter.mp hy).2

end Ends

/-! ### Evictions (R182) -/

/-- R377: what a removal of a page leaves holds no translation of its granule under the ASID. -/
theorem removePage_tlb {s : State} {asid va : Nat} {x : Tile} (hx : x ∈ (removePage s asid va).tiles) {e : TlbEntry}
    (he : e ∈ x.tlb) : (∃ y ∈ s.tiles, e ∈ y.tlb) ∧ (e.asid = asid → e.vpage ≠ va / 65536 / 2 ^ (e.shift - 16)) := by
  obtain ⟨y, hy, rfl⟩ := Vector.mem_map.mp hx
  obtain ⟨hin, hkept⟩ := List.mem_filter.mp he
  refine ⟨⟨y, hy, hin⟩, fun hasid hpage => ?_⟩
  simp [hasid, hpage] at hkept

theorem removeTenantPage_tlb {s : State} {f va : Nat} {x : Tile} (hx : x ∈ (removeTenantPage s f va).tiles) {e : TlbEntry}
    (he : e ∈ x.tlb) (hasid : e.asid = asidOf s f ∨ e.asid = (s.tenant f).lasid.toNat) :
    e.vpage ≠ va / 65536 / 2 ^ (e.shift - 16) := by
  obtain ⟨⟨y, hy, hey⟩, hleague⟩ := removePage_tlb hx he
  rcases hasid with hlocal | hfar
  · exact (removePage_tlb hy hey).2 hlocal
  · exact hleague hfar

/-- R182: a clean releasable page whose frame a fill needs is evicted, and its translations are gone. -/
theorem pageEvict_meets {s : State} {leaf : Nat} {r : Resident}
    (hfind : s.residents.find? (fun y => y.page.leaf == leaf) = some r) (hrel : r.releasable = true) (hclean : r.dirty = false)
    (hneed : ∃ y ∈ s.fills, y.st = .waiting ∧ y.page.leaf ≠ leaf ∧
      rangesMeet r.frame (2 ^ r.page.shift) y.frame (2 ^ y.page.shift) = true) :
    ∃ u, exec (.pageEvict leaf) s = .next u ∧ (∀ y ∈ u.residents, y.page.leaf ≠ leaf) ∧
      ∀ x ∈ u.tiles, ∀ e ∈ x.tlb, e.asid = asidOf s r.tenant ∨ e.asid = (s.tenant r.tenant).lasid.toNat →
        e.vpage ≠ r.page.va / 65536 / 2 ^ (e.shift - 16) := by
  have hany : s.fills.any (fun x => x.st == .waiting && x.page.leaf != leaf &&
      rangesMeet r.frame (2 ^ r.page.shift) x.frame (2 ^ x.page.shift)) = true := by
    obtain ⟨y, hy, hst, hne, hmeet⟩ := hneed
    exact List.any_eq_true.mpr ⟨y, hy, by simp [hst, hne, hmeet]⟩
  have hexec : execPageEvict leaf s =
      let u := removeTenantPage (rewriteLeaf s leaf r.page.desc false) r.tenant r.page.va
      .next { u with
        residents := u.residents.filter (fun x => !(x.page.leaf == leaf))
        evicted := u.evicted ++ [(r.tenant, { va := r.page.va, shift := r.page.shift, pa := r.frame })] } := by
    simp only [execPageEvict, hfind, hrel, hclean, hany, Bool.not_false, Bool.and_self, if_true]
  refine ⟨_, hexec, fun y hy => ?_, fun x hx e he hasid => removeTenantPage_tlb hx he hasid⟩
  simpa using (List.mem_filter.mp hy).2

/-- Settles O45: a request by the leg that makes it, a fill by its state, an eviction by the fill that needs the frame. -/
theorem pagesFilled : Obligations.PagesFilled := by
  intro s f leaf x r
  refine ⟨fun id q w u => exec_pageRequest_leg, fun hfind hst hfirst => ⟨fun n => exec_fillStart_error hfind hst hfirst,
      fun y => fillStart_meets hfind hst hfirst⟩,
    fun hfind => ⟨fun hst => ⟨fun n => exec_fillSourceReady_error hfind hst, fun m => fillSourceReady_meets hfind hst⟩,
      fillComplete_meets hfind, fun n => fillFail_meets hfind⟩, pageEvict_meets⟩

end Sys2Proof.Machine
end
section
/-! ## What accesses, stores and engines leave alone

The queues, launches, riders, copies and context-store entries are the firmware's: no access changes them. An access that does not
lie in space C changes no control register either, and of a tenant's registers only its mailbox and its pending bits. -/

namespace Sys2Proof.Machine

/-! ### The books of the firmware, and the registers -/

/-- What the firmware keeps of queues, riders and copies, with the time. -/
structure Books where
  queues : List Queue
  creating : List (Nat × Nat × Nat)
  riders : List Rider
  copies : List Copy
  now : Nat

def State.books (s : State) : Books :=
  { queues := s.queues, creating := s.creating, riders := s.riders, copies := s.copies, now := s.now }

/-- A save image without the contents that writes to its share and answers to its context change. -/
def Image.face (i : Image) : Image := { i with ctx := { i.ctx with replay := [] }, mem := [], lines := [], gtags := [] }

/-- The books, the launches, and what tiles and save banks hold of them. -/
structure Outline where
  books : Books
  launches : List Launch
  entries : Vector (Vector Entry 8) 192
  images : List Image

def State.outline (s : State) : Outline :=
  { books := s.books, launches := s.launches, entries := s.tiles.map Tile.entries, images := s.images.map Image.face }

/-- A tenant's registers but for its mailbox and its pending bits. -/
def Tenant.face (x : Tenant) : Tenant := { x with pba := 0, mbox := [], mfull := [] }

def State.registers (s : State) : Control × Vector Tenant 16 := (s.ctl, s.tenants.map Tenant.face)

/-- A place outside space C. -/
def Place.calm (p : Place) : Prop := ∀ o, p ≠ .control o

/-- No access under way lies in space C. -/
def State.calm (s : State) : Prop := ∀ p ∈ s.pend, p.place.calm

/-- A part of the outline stays, and where `c` holds and no access lies in space C, the registers stay and none comes to lie there. -/
structure Keeps {α : Type} (part : Outline → α) (c : Prop) (s u : State) : Prop where
  outline : part u.outline = part s.outline
  calm : c → s.calm → u.calm
  registers : c → s.calm → u.registers = s.registers

/-- The whole outline stays. -/
abbrev KeepsBooks (c : Prop) (s u : State) : Prop := Keeps id c s u

namespace Keeps

variable {α : Type} {part : Outline → α} {c d : Prop} {s u v : State}

theorem refl (s : State) : Keeps part c s s := ⟨rfl, fun _ h => h, fun _ _ => rfl⟩

theorem trans (h : Keeps part c s u) (k : Keeps part c u v) : Keeps part c s v :=
  ⟨k.outline.trans h.outline, fun hc hs => k.calm hc (h.calm hc hs),
    fun hc hs => (k.registers hc (h.calm hc hs)).trans (h.registers hc hs)⟩

theorem mono (h : Keeps part d s u) (hcd : c → d) : Keeps part c s u :=
  ⟨h.outline, fun hc => h.calm (hcd hc), fun hc => h.registers (hcd hc)⟩

/-- Of a change that keeps the outline, a part of it that stays. -/
theorem of_books (h : KeepsBooks c s u) : Keeps part c s u := ⟨congrArg part h.outline, h.calm, h.registers⟩

/-- A change of what is no register. -/
theorem of_eq (ho : part u.outline = part s.outline) (hr : u.registers = s.registers)
    (hp : ∀ p ∈ u.pend, ∃ q ∈ s.pend, p.place = q.place) : Keeps part c s u :=
  ⟨ho, fun _ hs p hp' => by obtain ⟨q, hq, h⟩ := hp p hp'; exact h ▸ hs q hq, fun _ _ => hr⟩

theorem of_pend_eq (ho : part u.outline = part s.outline) (hr : u.registers = s.registers) (hp : u.pend = s.pend) :
    Keeps part c s u :=
  of_eq ho hr (fun p h => ⟨p, hp ▸ h, rfl⟩)

theorem foldl {α : Type} (f : State → α → State) (l : List α) (s : State) (h : ∀ x ∈ l, ∀ u, Keeps part c u (f u x)) :
    Keeps part c s (l.foldl f s) := by
  induction l generalizing s with
  | nil => exact refl s
  | cons x xs ih => exact (h x (by simp) s).trans (ih _ (fun y hy => h y (by simp [hy])))

theorem ite {p : Prop} [Decidable p] {a b : State} (ha : p → Keeps part c s a) (hb : ¬ p → Keeps part c s b) :
    Keeps part c s (if p then a else b) := by
  split
  · exact ha ‹_›
  · exact hb ‹_›

end Keeps

variable {c : Prop}

/-! ### Changes of one part of the state -/

theorem entries_modTile (s : State) (t : Nat) (g : Tile → Tile) (h : ∀ x, (g x).entries = x.entries) :
    (s.modTile t g).tiles.map Tile.entries = s.tiles.map Tile.entries := by
  ext i hi j hj
  simp only [State.modTile, State.setTile, State.tile, Vector.getElem_map, Vector.getElem_setIfInBounds]
  split
  · subst_vars; simp [h, hi]
  · rfl

theorem modTile_keeps (s : State) (t : Nat) (g : Tile → Tile) (h : ∀ x, (g x).entries = x.entries) : KeepsBooks c s (s.modTile t g) :=
  .of_pend_eq (congrArg (fun e => ({ s.outline with entries := e } : Outline)) (entries_modTile s t g h)) rfl rfl

theorem modCtx_keeps (s : State) (t : Nat) (g : Ctx → Ctx) : KeepsBooks c s (s.modCtx t g) := modTile_keeps s t _ (fun _ => rfl)

theorem modFabric_keeps (s : State) (t : Nat) (g : Fabric → Fabric) : KeepsBooks c s (s.modFabric t g) :=
  modTile_keeps s t _ (fun _ => rfl)

theorem faces_modTenant (s : State) (f : Nat) (g : Tenant → Tenant) (h : ∀ x, (g x).face = x.face) :
    (s.modTenant f g).tenants.map Tenant.face = s.tenants.map Tenant.face := by
  apply Vector.ext
  intro i hi
  simp only [State.modTenant, State.tenant, Vector.getElem_map, Vector.getElem_setIfInBounds]
  split
  · subst_vars; simp [h, hi]
  · rfl

theorem modTenant_keeps (s : State) (f : Nat) (g : Tenant → Tenant) (h : ∀ x, (g x).face = x.face) : KeepsBooks c s (s.modTenant f g) :=
  .of_pend_eq rfl (congrArg (Prod.mk s.ctl) (faces_modTenant s f g h)) rfl

theorem pendFilter_keeps (s : State) (p : Pend → Bool) : KeepsBooks c s { s with pend := s.pend.filter p } :=
  .of_eq rfl rfl (fun q hq => ⟨q, (List.mem_filter.mp hq).1, rfl⟩)

theorem pendMap_keeps (s : State) (g : Pend → Pend) (h : ∀ p, (g p).place = p.place) : KeepsBooks c s { s with pend := s.pend.map g } :=
  .of_eq rfl rfl (fun q hq => by obtain ⟨p, hp, rfl⟩ := List.mem_map.mp hq; exact ⟨p, hp, h p⟩)

theorem pendAppend_keeps (s : State) (e : Pend) (h : c → e.place.calm) : KeepsBooks c s { s with pend := s.pend ++ [e] } := by
  refine ⟨rfl, fun hc hs p hp => ?_, fun _ _ => rfl⟩
  obtain hp | rfl := List.mem_append.mp hp |>.imp_right List.mem_singleton.mp
  · exact hs p hp
  · exact h hc

theorem eventArrives_queues {s u : State} {kind : EventKind} {key : Nat} (h : eventArrives s kind key = some u) (hk : kind ≠ .kick) :
    u.queues = s.queues := by
  unfold eventArrives at h
  simp only [hk, if_false] at h
  split at h
  · cases h; rfl
  · obtain ⟨m, -, rfl⟩ := Option.map_eq_some_iff.mp h
    rfl

theorem raise_queues (s : State) (kind : EventKind) (key : Nat) (hk : kind ≠ .kick) : (raise s kind key).queues = s.queues := by
  unfold raise
  split
  case h_1 u h => exact eventArrives_queues h hk
  case h_2 => rfl

/-- An event of any kind but a kick changes the matcher alone. -/
theorem raise_eq_matcher (s : State) (kind : EventKind) (key : Nat) (hk : kind ≠ .kick) :
    ∃ m, raise s kind key = { s with matcher := m } := by
  obtain ⟨m, qs, h⟩ := raise_eq s kind key
  have hq : qs = s.queues := by simpa [h] using raise_queues s kind key hk
  exact ⟨m, hq ▸ h⟩

theorem raise_keeps (s : State) (kind : EventKind) (key : Nat) (hk : kind ≠ .kick) : KeepsBooks c s (raise s kind key) := by
  obtain ⟨m, h⟩ := raise_eq_matcher s kind key hk
  exact h ▸ .of_pend_eq rfl rfl rfl

theorem signalMsix_keeps (s : State) (f vec : Nat) : KeepsBooks c s (signalMsix s f vec) :=
  .ite (fun _ => modTenant_keeps s f _ (fun _ => rfl)) (fun _ => .of_pend_eq rfl rfl rfl)

/-! ### Space C (R39, R149) -/

theorem registers_only {s u : State} (h : u.outline = s.outline) : KeepsBooks False s u := ⟨h, False.elim, False.elim⟩

theorem modTenant_registers (s : State) (f : Nat) (g : Tenant → Tenant) : KeepsBooks False s (s.modTenant f g) := registers_only rfl

theorem raiseEvent_keeps (s : State) (f : Nat) (g : Tenant → Tenant) : KeepsBooks False s (raiseEvent s f g) :=
  .ite (fun _ => (modTenant_registers s f g).trans (signalMsix_keeps _ f 0)) (fun _ => modTenant_registers s f g)

theorem logViolation_keeps (s : State) (f kind : Nat) (addr : Word) (member : Nat) :
    KeepsBooks False s (logViolation s f kind addr member) :=
  (raise_keeps s .other (Config.violationSource f) (by decide)).trans (raiseEvent_keeps _ f _)

theorem removeCached_keeps (s : State) (tlb : TlbEntry → Bool) (walk : WalkEntry → Bool) (blk : BlockLine → Bool) :
    KeepsBooks c s (removeCached s tlb walk blk) := by
  refine .of_pend_eq (congrArg (fun e => ({ s.outline with entries := e } : Outline)) ?_) rfl rfl
  simp [removeCached, Vector.map_map, Function.comp_def]

theorem removeAsid_keeps (s : State) (asid : Nat) : KeepsBooks c s (removeAsid s asid) := removeCached_keeps s _ _ _

theorem writeTencfg_keeps (s : State) (f : Nat) (v : Word) (off : Nat) : KeepsBooks False s (writeTencfg s f v off) := by
  have hmoved (s : State) (old new : Nat) (p : Prop) [Decidable p] :
      KeepsBooks False s (if p then removeAsid (removeAsid s old) new else s) :=
    .ite (fun _ => (removeAsid_keeps s old).trans (removeAsid_keeps _ new)) (fun _ => .refl s)
  have hlogged (p : Prop) [Decidable p] : KeepsBooks False s (if p then logViolation s 0 2 (BitVec.ofNat 64 off) 0 else s) :=
    .ite (fun _ => logViolation_keeps s 0 2 _ 0) (fun _ => .refl s)
  unfold writeTencfg
  exact (hlogged _).trans ((modTenant_registers _ f _).trans (.trans (.ite (fun _ => .refl _) fun _ =>
    (hmoved _ _ _ _).trans ((hmoved _ _ _ _).trans (modTenant_registers _ f _)))
      (.ite (fun _ => registers_only rfl) fun _ => .refl _)))

theorem writeTenpt_keeps (s : State) (f : Nat) (v : Word) (off : Nat) : KeepsBooks False s (writeTenpt s f v off) :=
  .ite (fun _ => logViolation_keeps s 0 2 _ 0) (fun _ =>
    ((removeAsid_keeps s _).trans (removeAsid_keeps _ _)).trans (modTenant_registers _ f _))

theorem writeFwact_keeps (s : State) (v : Word) : KeepsBooks False s (writeFwact s v) := by
  unfold writeFwact
  dsimp only
  split_ifs <;> exact registers_only rfl

theorem writeLgctl_keeps (s : State) (v : Word) (off : Nat) : KeepsBooks False s (writeLgctl s v off) :=
  .ite (fun _ => .ite (fun _ => logViolation_keeps s 0 5 _ 0) fun _ => registers_only rfl) (fun _ => registers_only rfl)

theorem ctlWrite_keeps {s u : State} {off size : Nat} {v : Word} (h : ctlWrite s off size v = some u) : KeepsBooks False s u := by
  unfold ctlWrite at h
  dsimp only at h
  split at h
  · exact absurd h (by simp)
  · split at h
    · obtain rfl := Option.some.inj h; exact registers_only rfl
    · obtain rfl := Option.some.inj h; exact writeFwact_keeps s _
    · obtain rfl := Option.some.inj h; exact .ite (fun _ => registers_only rfl) (fun _ => .refl s)
    · obtain rfl := Option.some.inj h; exact writeLgctl_keeps s _ off
    · obtain rfl := Option.some.inj h; exact registers_only rfl
    · split_ifs at h <;> obtain rfl := Option.some.inj h
      · exact registers_only rfl
      · exact .refl s
      · exact writeTencfg_keeps s _ _ off
      · exact writeTenpt_keeps s _ _ off
      · exact registers_only rfl
      · exact .ite (fun _ => registers_only rfl) (fun _ => .refl s)
      · exact logViolation_keeps s 0 2 _ 0

theorem modStack_keeps (s : State) (k : Nat) (g : Stack → Stack) : KeepsBooks c s (s.modStack k g) := .of_pend_eq rfl rfl rfl

theorem writeSlewtab_keeps (s : State) (k : Nat) (v : Word) : KeepsBooks c s (writeSlewtab s k v) :=
  .ite (fun _ => .refl s) (fun _ => modStack_keeps s k _)

theorem controlWrite_keeps (s : State) (off size : Nat) (v : Word) : KeepsBooks False s (controlWrite s off size v) := by
  unfold controlWrite
  dsimp only
  split_ifs
  · cases h : ctlWrite s off size v with
    | none => exact logViolation_keeps s 0 1 _ 0
    | some u => exact ctlWrite_keeps h
  · exact writeSlewtab_keeps s _ _
  · exact .refl s

/-! ### Places (R61, R143, R145) -/

theorem disturb_keeps (s : State) (t : Nat) : KeepsBooks c s (disturb s t) := by
  obtain ⟨g, n, h⟩ := disturb_eq s t
  exact h ▸ (modFabric_keeps s t g).trans (.of_pend_eq rfl rfl rfl)

theorem putScratch_keeps (s : State) (t off : Nat) (bs : List Byte) : KeepsBooks c s (putScratch s t off bs) :=
  modTile_keeps s t _ (fun _ => rfl)

theorem writeScratch_keeps (s : State) (t off : Nat) (bs : List Byte) : KeepsBooks c s (writeScratch s t off bs) :=
  .trans (.ite (fun _ => disturb_keeps s t) fun _ => .refl s) (putScratch_keeps _ t off bs)

theorem setLine_keeps (s : State) (t i : Nat) (l : LineState) : KeepsBooks c s (setLine s t i l) := modTile_keeps s t _ (fun _ => rfl)

theorem setEv_keeps (s : State) (t : Nat) : KeepsBooks c s (setEv s t) :=
  .ite (fun _ => modFabric_keeps s t _) (fun _ => modCtx_keeps s t _)

theorem setGranule_keeps (s : State) (t i : Nat) (b : Bool) : KeepsBooks c s (setGranule s t i b) := modTile_keeps s t _ (fun _ => rfl)

theorem dropAhead_keeps (s : State) (hit : Prefetch → Bool) : KeepsBooks c s (dropAhead s hit) := .of_pend_eq rfl rfl rfl

theorem acquire_keeps (s : State) (t : Nat) : KeepsBooks c s (acquire s t) := (dropAhead_keeps s _).trans (pendFilter_keeps _ _)

theorem fillLine_keeps (s : State) (t i : Nat) (poison : Bool) : KeepsBooks c s (fillLine s t i poison) :=
  (setLine_keeps s t i _).trans (.ite (fun _ => setEv_keeps _ t) fun _ => .refl _)

theorem emptyLine_keeps (s : State) (t i : Nat) : KeepsBooks c s (emptyLine s t i) :=
  (setLine_keeps s t i _).trans ((dropAhead_keeps _ _).trans (pendFilter_keeps _ _))

theorem setMailboxFull_keeps (s : State) (f m : Nat) (b : Bool) : KeepsBooks c s (setMailboxFull s f m b) :=
  .trans (.ite (fun _ => .refl s) fun _ => raise_keeps s .mailbox _ (by decide))
    (modTenant_keeps _ f (fun x => { x with mfull := tset false x.mfull m b }) (fun _ => rfl))

theorem fillRaw_keeps (s : State) (p : Place) : KeepsBooks c s (fillRaw s p) := by
  cases p with
  | scratch t off => exact fillLine_keeps s t _ false
  | mailbox f m => exact setMailboxFull_keeps s f m true
  | mailboxHole | host | league | control => exact .refl s

theorem emptyRaw_keeps (s : State) (p : Place) : KeepsBooks c s (emptyRaw s p) := by
  cases p with
  | scratch t off => exact emptyLine_keeps s t _
  | mailbox f m => exact setMailboxFull_keeps s f m false
  | mailboxHole | host | league | control => exact .refl s

theorem lineRaw_keeps (s : State) (p : Place) (full poison : Bool) : KeepsBooks c s (lineRaw s p full poison) := by
  cases p with
  | scratch t off => exact .ite (fun _ => fillLine_keeps s t _ poison) (fun _ => emptyLine_keeps s t _)
  | mailbox | mailboxHole | host | league | control => exact .refl s

theorem storePlace_keeps (s : State) (p : Place) (n : Nat) (v : Word) : KeepsBooks p.calm s (storePlace s p n v) := by
  cases p with
  | scratch t off => exact writeScratch_keeps s t off _
  | mailbox f m => exact modTenant_keeps s f (fun x => { x with mbox := tset 0 x.mbox m v }) (fun _ => rfl)
  | mailboxHole => exact .refl s
  | host a => exact .of_pend_eq rfl rfl rfl
  | league a => exact .refl s
  | control off => exact (controlWrite_keeps s off n v).mono (fun h => h off rfl)

theorem Place.above_calm {p : Place} {d : Nat} (h : p.calm) : (p.above d).calm := by
  cases p with
  | control off => exact absurd rfl (h off)
  | scratch | host | league | mailbox | mailboxHole => exact fun _ => Place.noConfusion

theorem storeRun_keeps (s : State) (p : Place) (n : Nat) (data : BitVec 128) : KeepsBooks p.calm s (storeRun s p n data) :=
  .ite (fun _ => storePlace_keeps s p n _) (fun _ =>
    (storePlace_keeps s p 8 _).trans ((storePlace_keeps _ (p.above 8) _ _).mono Place.above_calm))

theorem storeCap_keeps (s : State) (p : Place) (v : BitVec 128) (tag : Bool) : KeepsBooks p.calm s (storeCap s p v tag) := by
  refine (storePlace_keeps s p 8 (v.extractLsb' 0 64)).trans ?_
  cases p with
  | scratch t off => exact (writeScratch_keeps _ t (off + 8) _).trans (setGranule_keeps _ t _ tag)
  | host a => exact .of_pend_eq rfl rfl rfl
  | mailbox | mailboxHole | league | control => exact .refl _

theorem dropWritten_keeps (s : State) (tile : Nat) (p : Place) (n : Nat) : KeepsBooks c s (dropWritten s tile p n) :=
  (dropAhead_keeps s _).trans (pendFilter_keeps _ _)

/-! ### Accesses (R146, R358 to R365) -/

/-- What a write of a context discards of the elements read ahead; none of another party. -/
theorem own_keeps (s : State) (tile : Option Nat) (p : Place) (n : Nat) :
    KeepsBooks c s (match tile with
      | some t => dropWritten s t p n
      | none => s) := by
  cases tile with
  | none => exact .refl s
  | some t => exact dropWritten_keeps s t p n

theorem performWrite_keeps (s : State) (tile : Option Nat) (op : MemOp) (p : Place) (data : BitVec 128) (tag : Bool) :
    KeepsBooks p.calm s (performWrite s tile op p data tag) := by
  cases op with
  | store n => exact (storeRun_keeps s p n data).trans (own_keeps _ tile p n)
  | stk => exact (storeCap_keeps s p data tag).trans (own_keeps _ tile p 16)
  | stf n | stfw n => exact (storePlace_keeps s p n _).trans ((own_keeps _ tile p n).trans (fillRaw_keeps _ p))
  | feclr n => exact emptyRaw_keeps s p
  | feset n => exact fillRaw_keeps s p
  | line full poison => exact lineRaw_keeps s p full poison
  | load | peek | ldk | lde | feq | atomic => exact .refl s

theorem performRead_keeps (s : State) (tile : Option Nat) (op : MemOp) (p : Place) (data expect : Word) (hs : List Held) :
    KeepsBooks p.calm s (performRead s tile op p data expect hs).1 := by
  cases op with
  | load | ldk | peek => unfold performRead; dsimp only; split <;> exact .refl s
  | lde n =>
    unfold performRead
    dsimp only
    split
    · exact .refl s
    · exact emptyRaw_keeps s p
  | feq n =>
    unfold performRead
    dsimp only
    split
    · exact .of_pend_eq rfl rfl rfl
    · exact .refl s
  | atomic fn n =>
    unfold performRead
    dsimp only
    split
    · exact .refl s
    · dsimp only
      split
      · exact (storePlace_keeps s p n _).trans (own_keeps _ tile p n)
      · exact .refl s
  | store | stk | stf | stfw | feclr | feset | line => exact .refl s

theorem performRead_keeps_eq {s u : State} {tile : Option Nat} {op : MemOp} {p : Place} {data expect : Word} {hs : List Held}
    {r : Except Nat MemValue} (h : performRead s tile op p data expect hs = (u, r)) : KeepsBooks p.calm s u := by
  simpa [h] using performRead_keeps s tile op p data expect hs

theorem bring_keeps (s : State) (e : Pend) (g : Loaded) : KeepsBooks c s (bring s e g) :=
  pendMap_keeps s _ (fun p => by split <;> rfl)

theorem emit_keeps (s : State) (o : Output) : KeepsBooks c s (s.emit o) := .of_pend_eq rfl rfl rfl

theorem keepReplay_keeps (s : State) (e : Pend) (v : Word) : KeepsBooks c s (keepReplay s e v) := by
  unfold keepReplay
  split
  · exact modCtx_keeps s _ _
  · exact .refl s

theorem sendFar_keeps (s : State) (e : Pend) (a : Word) : KeepsBooks c s (sendFar s e a) := by
  unfold sendFar
  split
  · exact (pendMap_keeps s _ (fun p => by split <;> rfl)).trans (emit_keeps _ _)
  · exact bring_keeps s e _
  · exact bring_keeps s e _
  · exact bring_keeps s e _

theorem endReserve_keeps (s : State) (e : Pend) : KeepsBooks c s (endReserve s e) := by
  unfold endReserve
  split
  · exact .of_pend_eq rfl rfl rfl
  · exact .refl s

theorem dropRead_keeps (s : State) (tile : Nat) (op : MemOp) (p : Place) : KeepsBooks c s (dropRead s tile op p) := by
  unfold dropRead
  split
  · exact .refl s
  · exact dropWritten_keeps s tile p _

theorem releaseSignals_keeps (s : State) (f q : Nat) : KeepsBooks c s (releaseSignals s f q) :=
  .ite (fun _ => .refl s) (fun _ => .trans (u := { s with signals := s.signals.filter (fun x => !(x.1 == f && x.2.1 == q)) })
    (.of_pend_eq rfl rfl rfl) (.foldl _ _ _ (fun (x : Nat × Nat × Nat) _ u => signalMsix_keeps u f x.2.2)))

theorem demandDecision_keeps (s : State) : KeepsBooks c s (demandDecision s) := .of_pend_eq rfl rfl rfl

theorem released_keeps (s : State) (e : Pend) : KeepsBooks c s (released s e) := by
  unfold released
  split
  · exact .ite (fun _ => demandDecision_keeps s) (fun _ => .refl s)
  · exact .ite (fun _ => demandDecision_keeps s) (fun _ => .refl s)
  all_goals exact .refl s

theorem imageWrite_face (op : MemOp) (off : Nat) (data : BitVec 128) (tag : Bool) (i : Image) :
    (imageWrite op off data tag i).face = i.face := by
  cases op <;> rfl

theorem mapImages_keeps (s : State) (g : Image → Image) (h : ∀ i, (g i).face = i.face) :
    KeepsBooks c s { s with images := s.images.map g } := by
  refine .of_pend_eq (congrArg (fun i => ({ s.outline with images := i } : Outline)) ?_) rfl rfl
  simp [List.map_map, Function.comp_def, h]

theorem performOwn_keeps (s : State) (tile : Option Nat) (e : Pend) : KeepsBooks e.place.calm s (performOwn s tile e) := by
  unfold performOwn
  split
  · refine mapImages_keeps s _ (fun i => ?_)
    split
    · exact imageWrite_face ..
    · rfl
  · exact performWrite_keeps s tile e.op e.place e.data e.dtag

/-- A read that is over: what it acquires, or discards of the elements read ahead, and what becomes known of it. -/
theorem answered_keeps {s u : State} {e : Pend} {g : Loaded} (h : KeepsBooks c s u) : KeepsBooks c s (released (bring u e g) e) :=
  h.trans ((bring_keeps u e g).trans (released_keeps _ e))

/-- What a firing's access acquires, or discards. -/
theorem take_keeps (s : State) (who : Waiter) (p : Prop) [Decidable p] (t : Nat) (op : MemOp) (q : Place) :
    KeepsBooks c s (match who with
      | .firing _ _ _ _ => if p then acquire s t else dropRead s t op q
      | _ => s) := by
  split
  · exact .ite (fun _ => acquire_keeps s t) (fun _ => dropRead_keeps s t op q)
  · exact .refl s

theorem performHere_keeps (s : State) (e : Pend) : KeepsBooks e.place.calm s (performHere s e) := by
  have hdone (u : State) : KeepsBooks e.place.calm u { u with pend := u.pend.filter (fun x => !(x.id == e.id)) } := pendFilter_keeps u _
  have hreserve (u : State) (rs : List Reservation) : KeepsBooks e.place.calm u { u with reserved := rs } := .of_pend_eq rfl rfl rfl
  unfold performHere
  extract_lets tile done take
  split
  · exact (performOwn_keeps s _ e).trans ((endReserve_keeps _ e).trans (hdone _))
  · exact (performOwn_keeps s _ e).trans ((endReserve_keeps _ e).trans (hdone _))
  · exact (performWrite_keeps s tile _ e.place e.data e.dtag).trans ((hdone _).trans (releaseSignals_keeps _ _ _))
  · exact .trans (.trans (.ite (fun _ => hreserve s _) fun _ => .refl s) (hdone _)) (emit_keeps _ _)
  · split
    · split
      case h_1 | h_2 =>
        split
        · split
          · exact (hdone s).trans (emit_keeps _ _)
          · exact (hdone s).trans (emit_keeps _ _)
        · split
          case h_1 h => exact (performRead_keeps_eq h).trans ((hdone _).trans (emit_keeps _ _))
          case h_2 h => exact (performRead_keeps_eq h).trans ((hdone _).trans (emit_keeps _ _))
      case h_3 =>
        split
        case h_1 h => exact (performRead_keeps_eq h).trans ((hdone _).trans (emit_keeps _ _))
        case h_2 h => exact (performRead_keeps_eq h).trans ((hdone _).trans (emit_keeps _ _))
    · exact (performWrite_keeps s none _ e.place e.data e.dtag).trans
        ((endReserve_keeps _ e).trans ((hdone _).trans (emit_keeps _ _)))
  · exact answered_keeps (performWrite_keeps s none _ e.place e.data e.dtag)
  · dsimp only
    exact .trans (.trans (.ite (fun _ => hreserve s _) fun _ => .refl s) (.ite (fun _ => acquire_keeps _ _) fun _ => .refl _))
      (bring_keeps _ e _)
  · dsimp only
    split
    · split
      · exact answered_keeps (.refl s)
      · exact answered_keeps (take_keeps ..)
    · split
      case h_1 h => exact answered_keeps (performRead_keeps_eq h)
      case h_2 h =>
        refine answered_keeps ((performRead_keeps_eq h).trans (.trans ?_ (take_keeps ..)))
        split
        · exact keepReplay_keeps _ e _
        · exact keepReplay_keeps _ e _
        · exact .refl _

theorem performPend_keeps (s : State) (e : Pend) : KeepsBooks e.place.calm s (performPend s e) := by
  unfold performPend
  split
  · exact sendFar_keeps s e _
  · exact performHere_keeps s e

/-- No waiter's release changes the books, and where none of them lies in space C none changes a register. -/
theorem wakeFrom_keeps (n : Nat) (s : State) : KeepsBooks c s (wakeFrom n s) := by
  induction n generalizing s with
  | zero => exact .refl s
  | succ n ih =>
    unfold wakeFrom
    split
    · exact .refl s
    · rename_i e he
      have hmem : e ∈ s.pend := List.mem_of_find?_eq_some he
      have hstep : KeepsBooks c s (performPend s e) :=
        ⟨(performPend_keeps s e).outline, fun _ hs => (performPend_keeps s e).calm (hs e hmem) hs,
          fun _ hs => (performPend_keeps s e).registers (hs e hmem) hs⟩
      exact hstep.trans (ih _)

theorem wake_keeps (s : State) : KeepsBooks c s (wake s) := wakeFrom_keeps _ s

theorem submit_keeps (s : State) (e : Pend) (h : c → e.place.calm) : KeepsBooks c s (submit s e) := by
  unfold submit
  dsimp only
  exact (pendAppend_keeps s _ (by exact h)).trans (wake_keeps _)

theorem fresh_keeps (s : State) : KeepsBooks c s s.fresh.2 := .of_pend_eq rfl rfl rfl

theorem mailboxAccess_keeps (s : State) (q : Queue) (m : Nat) (op : MemOp) (v : Word) : KeepsBooks c s (mailboxAccess s q m op v).2 :=
  (fresh_keeps s).trans (submit_keeps _ _ (fun _ _ => Place.noConfusion))

/-! ### Stores of status words (R55) -/

theorem tlbInstall_keeps (s : State) (slice : Nat) (e : TlbEntry) : KeepsBooks c s (tlbInstall s slice e) := by
  have hdraw : KeepsBooks c s s.drawNat.2 := .of_pend_eq rfl rfl rfl
  unfold tlbInstall
  dsimp only
  split
  · exact modTile_keeps s slice _ (by intro; rfl)
  · exact hdraw.trans (modTile_keeps _ slice _ (by intro; rfl))

theorem translateAs_keeps (s : State) (f asid va : Nat) : KeepsBooks c s (translateAs s f asid va).1 := by
  unfold translateAs
  dsimp only
  split
  · dsimp only
    exact modTile_keeps s _ _ (by intro; rfl)
  · split
    · exact .refl s
    · split
      · dsimp only
        exact modTile_keeps s _ _ (by intro; rfl)
      · dsimp only
        exact (modTile_keeps s _ _ (by intro; rfl)).trans (tlbInstall_keeps _ _ _)

theorem devicePlace_calm (pa : Nat) : (devicePlace pa).calm := by
  intro o
  unfold devicePlace
  dsimp only
  split_ifs <;> exact Place.noConfusion

/-- A translation changes translation caches alone, and no page reaches space C. -/
theorem translateAccess_keeps (s : State) (f va : Nat) (a : Access) :
    KeepsBooks c s (translateAccess s f va a).1 ∧ ∀ p, (translateAccess s f va a).2 = .ok p → p.calm := by
  have h : KeepsBooks c s (translateAs s f (asidOf s f) va).1 := translateAs_keeps s f _ va
  unfold translateAccess translateAccessAs
  generalize translateAs s f (asidOf s f) va = r at h
  obtain ⟨u, r⟩ := r
  cases r with
  | error x => exact ⟨h, fun p hp => nomatch hp⟩
  | ok l =>
    dsimp only
    split_ifs
    · exact ⟨h, fun p hp => nomatch hp⟩
    · exact ⟨h, fun p hp => nomatch hp⟩
    · exact ⟨h, fun p hp => by cases hp; exact fun _ => Place.noConfusion⟩
    · have hcalm := devicePlace_calm (ptePa l.pte + va % 2 ^ l.shift)
      split
      · split_ifs
        · exact ⟨h, fun p hp => nomatch hp⟩
        · exact ⟨h, fun p hp => by cases hp; exact fun _ => Place.noConfusion⟩
      · exact ⟨h, fun p hp => by cases hp; exact hcalm⟩

/-- A store of a status word, at a place. -/
def putStatus (s : State) (f q : Nat) (addr v : Word) (p : Place) : State :=
  let far := match p with
    | .league _ => true
    | _ => false
  let e : Pend := { Pend.start s s.fresh.1 (.status f q) (.store 8) p addr f 0 with data := v.setWidth 128 }
  if far || !canGo s e then submit s.fresh.2 e else performWrite s none (.store 8) p (v.setWidth 128) false

theorem putStatus_keeps (s : State) (f q : Nat) (addr v : Word) {p : Place} (h : p.calm) : KeepsBooks c s (putStatus s f q addr v p) := by
  exact .ite (fun _ => (fresh_keeps s).trans (submit_keeps _ _ (fun _ => h)))
    (fun _ => (performWrite_keeps s none (.store 8) p _ false).mono (fun _ => h))

/-- The device's store of a status word changes neither the books nor a register. -/
theorem storeG_keeps (s : State) (f q : Nat) (addr v : Word) : KeepsBooks c s (storeG s f q addr v) := by
  have hhere (va : Nat) : KeepsBooks c s (match translateAccess s f va .write with
      | (s, .error _) => s
      | (s, .ok p) => putStatus s f q addr v p) := by
    obtain ⟨hk, hp⟩ := translateAccess_keeps (c := c) s f va .write
    generalize translateAccess s f va .write = r at hk hp
    obtain ⟨u, r⟩ := r
    cases r with
    | error x => exact hk
    | ok p => exact hk.trans (putStatus_keeps u f q addr v (hp p rfl))
  unfold storeG
  refine .ite (fun _ => .refl s) (fun _ => .ite (fun _ => hhere _) (fun _ => ?_))
  split
  · exact .refl s
  · exact .refl s
  · exact putStatus_keeps s f q addr v (p := .league addr) (fun _ => Place.noConfusion)
  · exact hhere _

end Sys2Proof.Machine
end
section
/-! ## What a save of a context leaves alone (R75 to R80, R242)

Stopping a pass, abandoning a block and landing released stores are work of the tile: no queue, launch or entry changes. -/

namespace Sys2Proof.Machine

variable {c : Prop}

/-! ### Passes (R78, R86, R242) -/

theorem dropRequests_keeps (s : State) (tile : Nat) (starts stops : Bool) : KeepsBooks c s (s.dropRequests tile starts stops) := by
  unfold State.dropRequests
  exact modStack_keeps s _ _

theorem endDraw_keeps (s : State) (tile due : Nat) : KeepsBooks c s (s.endDraw tile due) := by
  unfold State.endDraw
  exact (dropRequests_keeps s tile true false).trans (modStack_keeps _ _ _)

theorem askStop_keeps (s : State) (tile due : Nat) : KeepsBooks c s (s.askStop tile due) := by
  unfold State.askStop
  exact modStack_keeps s _ _

theorem resolveWaits_keeps (s : State) (tile : Nat) : KeepsBooks c s (resolveWaits s tile) := by
  unfold resolveWaits
  split
  · exact .refl s
  · exact .ite (fun _ => (acquire_keeps s tile).trans (modFabric_keeps _ tile _)) (fun _ => .refl s)

theorem reportEngine_keeps (s : State) (t source : Nat) (r : TrapRec) : KeepsBooks c s (reportEngine s t source r) :=
  (modCtx_keeps s t _).trans (setEv_keeps _ t)

theorem trapPass_keeps (s : State) (t : Nat) (p : Pass) (cause : Nat) (i0 i1 : Word) : KeepsBooks c s (trapPass s t p cause i0 i1) :=
  (endDraw_keeps s t _).trans ((modCtx_keeps _ t _).trans ((reportEngine_keeps _ t 1 _).trans (resolveWaits_keeps _ t)))

theorem leaveView_keeps (s : State) (t ctx q : Nat) : KeepsBooks c s (leaveView s s t ctx q) := by
  refine .ite (fun _ => .refl s) (fun _ => .trans (modTile_keeps s t (fun x => { x with mem := (s.tile t).mem, lines := (s.tile t).lines })
    (fun _ => rfl)) (.of_eq rfl rfl fun p hp => ⟨p, (List.mem_filter.mp hp).1, rfl⟩))

theorem joinLines_keeps (s : State) (t : Nat) (x : Ctx) (q : Nat) (ls : List Nat) : KeepsBooks c s (joinLines s t x q ls) :=
  .foldl _ ls s (fun _ _ u => .ite (fun _ => .refl u) (fun _ =>
    (fresh_keeps u).trans (submit_keeps _ _ (fun _ _ => Place.noConfusion))))

theorem enterRow_keeps (s : State) (t : Nat) (x : Ctx) (p : Pass) (adds : List (List Acc)) : KeepsBooks c s (enterRow s t x p adds) :=
  (modCtx_keeps s t _).trans (.ite (fun _ => (modCtx_keeps _ t _).trans (askStop_keeps _ t _)) fun _ => .refl _)

theorem tryRow_keeps (s : State) (t : Nat) (x : Ctx) (p : Pass) : KeepsBooks c s (tryRow s t x p) := by
  refine .ite (fun _ => .refl s) (fun _ => ?_)
  split
  · exact (leaveView_keeps s t _ 2).trans (trapPass_keeps ..)
  · exact .ite (fun _ => joinLines_keeps ..) (fun _ => (leaveView_keeps s t _ 2).trans (enterRow_keeps ..))

theorem finishStep_keeps (t n : Nat) (s : State) : KeepsBooks c s (finishStep t n s) := by
  induction n generalizing s with
  | zero => exact .refl s
  | succ n ih =>
    unfold finishStep
    split
    · exact .refl s
    · split
      · exact .refl s
      · exact .ite (fun _ => .refl s) (fun _ => .ite (fun _ => .refl s) fun _ => (tryRow_keeps ..).trans (ih _))

theorem stopPass_keeps (s : State) (t : Nat) : KeepsBooks c s (stopPass s t) := by
  refine (finishStep_keeps t 32 s).trans ?_
  unfold stopPass
  generalize finishStep t 32 s = s
  dsimp only
  split
  · exact .refl s
  · refine .trans ?_ (modCtx_keeps _ t _)
    split
    · exact .ite (fun _ => endDraw_keeps ..) (fun _ => dropRequests_keeps ..)
    · exact .refl s

/-! ### Abandoning a block (R105, R109, R146) -/

theorem freeToys_keeps (s : State) (tile : Nat) (gone : Operand → Bool) : KeepsBooks c s (freeToys s tile gone) :=
  .trans (.foldl _ _ s (fun _ _ u => putScratch_keeps u tile _ _)) (modFabric_keeps _ tile _)

theorem cancelFar_keeps (s : State) (tenant ctx : Nat) (a : Word) : KeepsBooks c s (cancelFar s tenant ctx a) := by
  unfold cancelFar
  split
  · exact emit_keeps s _
  · exact .refl s
  · exact .refl s
  · exact .refl s

theorem dropReserved_keeps (s : State) (tile ctx : Nat) (gone : Key → Bool) : KeepsBooks c s (dropReserved s tile ctx gone) := by
  unfold dropReserved
  dsimp only
  refine .trans ?_ (.foldl _ _ _ (fun r _ u => ?_))
  · exact .of_pend_eq rfl rfl rfl
  · split
    · exact cancelFar_keeps ..
    · exact .refl u

theorem strand_place {ctx : Nat} {inh : Bool} {e p : Pend} (h : strand ctx inh e = some p) : p.place = e.place := by
  unfold strand at h
  split at h
  · split_ifs at h
    obtain rfl := Option.some.inj h
    rfl
  · exact nomatch h

theorem dropFirings_keeps (s : State) (tile ctx : Nat) (inh : Bool) (gone : Key → Bool) :
    KeepsBooks c s (dropFirings s tile ctx inh gone) := by
  unfold dropFirings
  dsimp only
  refine .trans ?_ (.foldl _ _ _ (fun e _ u => ?_))
  · refine .of_eq rfl rfl (fun p hp => ?_)
    obtain ⟨e, he, hs⟩ := List.mem_filterMap.mp hp
    refine ⟨e, he, ?_⟩
    split_ifs at hs
    · exact strand_place hs
    · exact congrArg Pend.place (Option.some.inj hs).symm
  · split
    · exact cancelFar_keeps ..
    · exact .refl u

theorem abandon_keeps (s : State) (t : Nat) : KeepsBooks c s (abandon s t) :=
  (modCtx_keeps s t _).trans ((freeToys_keeps _ t _).trans ((modFabric_keeps _ t _).trans ((dropFirings_keeps ..).trans
    ((dropReserved_keeps ..).trans ((acquire_keeps _ t).trans (wake_keeps _))))))

theorem forgetFaults_keeps (s : State) (t : Nat) : KeepsBooks c s (s.forgetFaults t) := by
  have hforget (s : State) (t : Nat) : KeepsBooks c s (s.modTile t Tile.forget) := modTile_keeps s t Tile.forget (fun _ => rfl)
  unfold State.forgetFaults
  dsimp only
  split
  · exact .ite (fun _ => (hforget s t).trans (hforget _ _)) (fun _ => hforget s t)
  · exact hforget s t

/-! ### The save (R76 to R80) -/

theorem inShare_calm {t : Nat} {p : Place} (h : inShare t p = true) : p.calm := by
  intro o
  rintro rfl
  exact nomatch h

theorem landReleased_keeps (s : State) (t ctx : Nat) : KeepsBooks c s (landReleased s t ctx) := by
  refine .trans (.foldl _ _ s (fun e he u => .ite (fun _ => .refl u) fun _ => ?_)) (.of_pend_eq rfl rfl rfl)
  have hshare : inShare t e.place = true := by
    have h := (List.mem_filter.mp he).2
    simp only [Bool.and_eq_true] at h
    exact h.2
  exact (pendFilter_keeps u _).trans ((performWrite_keeps _ _ _ _ _ _).mono (fun _ => inShare_calm hshare))

theorem dropReads_keeps (s : State) (t ctx : Nat) : KeepsBooks c s (dropReads s t ctx) := pendFilter_keeps s _

/-- What a save of a context leaves of the outline: its image is new, and nothing else. -/
def Outline.records (o : Outline) : Books × List Launch × Vector (Vector Entry 8) 192 := (o.books, o.launches, o.entries)

theorem saveContext_keeps (s : State) (t : Nat) (bars : Vector Barrier 4) (discard : Bool) :
    Keeps Outline.records c s (saveContext s t bars discard) := by
  have hstopped : KeepsBooks c s ((abandon (stopPass s t) t).forgetFaults t) :=
    (stopPass_keeps s t).trans ((abandon_keeps _ t).trans (forgetFaults_keeps _ t))
  refine .trans (.of_books hstopped) ?_
  unfold saveContext
  generalize (abandon (stopPass s t) t).forgetFaults t = u
  dsimp only
  split
  · exact .refl u
  · rename_i x _
    refine .trans (.of_books ((landReleased_keeps u t x.id).trans ((dropReads_keeps _ t x.id).trans (fresh_keeps _)))) ?_
    refine .trans (.of_books (modTile_keeps _ t (fun x => { x with ctx := none, fabric := Fabric.reset }) (fun _ => rfl))) ?_
    exact .of_pend_eq rfl rfl rfl

end Sys2Proof.Machine
end
section
/-! ## What the end of a launch leaves alone (R48, R56, R302)

An end of a launch takes contexts off tiles. Queues, creations, riders and copies stay, no launch is new, and none that has been given
up comes back. -/

namespace Sys2Proof.Machine

variable {c : Prop}

/-- A part of the outline stays, and every launch was one before, given up if it was so then. -/
structure Withdraws {α : Type} (part : Outline → α) (c : Prop) (s u : State) : Prop where
  keeps : Keeps part c s u
  follows : ∀ x ∈ u.launches, ∃ y ∈ s.launches, x.id = y.id ∧ x.tenant = y.tenant ∧ (y.ended = true → x.ended = true)

namespace Withdraws

variable {α β : Type} {part : Outline → α} {s u v : State}

theorem refl (s : State) : Withdraws part c s s := ⟨.refl s, fun x hx => ⟨x, hx, rfl, rfl, id⟩⟩

theorem trans (h : Withdraws part c s u) (k : Withdraws part c u v) : Withdraws part c s v := by
  refine ⟨h.keeps.trans k.keeps, fun x hx => ?_⟩
  obtain ⟨y, hy, hid, hten, hend⟩ := k.follows x hx
  obtain ⟨z, hz, hid', hten', hend'⟩ := h.follows y hy
  exact ⟨z, hz, hid.trans hid', hten.trans hten', hend ∘ hend'⟩

/-- Of what keeps a part of the outline, a smaller part. -/
theorem narrow (g : α → β) (h : Withdraws part c s u) : Withdraws (fun o => g (part o)) c s u :=
  ⟨⟨congrArg g h.keeps.outline, h.keeps.calm, h.keeps.registers⟩, h.follows⟩

theorem of_launches_eq (h : Keeps part c s u) (hl : u.launches = s.launches) : Withdraws part c s u :=
  ⟨h, fun x hx => ⟨x, hl ▸ hx, rfl, rfl, id⟩⟩

theorem of_books (h : KeepsBooks c s u) : Withdraws part c s u :=
  .of_launches_eq (.of_books h) (congrArg Outline.launches h.outline)

theorem of_records (h : Keeps Outline.records c s u) : Withdraws Outline.books c s u :=
  .of_launches_eq ⟨congrArg Prod.fst h.outline, h.calm, h.registers⟩ (congrArg (fun r => r.2.1) h.outline)

theorem foldl {γ : Type} (f : State → γ → State) (l : List γ) (s : State) (h : ∀ x ∈ l, ∀ u, Withdraws part c u (f u x)) :
    Withdraws part c s (l.foldl f s) := by
  induction l generalizing s with
  | nil => exact refl s
  | cons x xs ih => exact (h x (by simp) s).trans (ih _ (fun y hy => h y (by simp [hy])))

theorem ite {p : Prop} [Decidable p] {a b : State} (ha : p → Withdraws part c s a) (hb : ¬ p → Withdraws part c s b) :
    Withdraws part c s (if p then a else b) := by
  split
  · exact ha ‹_›
  · exact hb ‹_›

end Withdraws

theorem mapLaunches_withdraws (s : State) (g : Launch → Launch)
    (h : ∀ x, (g x).id = x.id ∧ (g x).tenant = x.tenant ∧ (x.ended = true → (g x).ended = true)) :
    Withdraws Outline.books c s { s with launches := s.launches.map g } := by
  refine ⟨.of_pend_eq rfl rfl rfl, fun x hx => ?_⟩
  obtain ⟨y, hy, rfl⟩ := List.mem_map.mp hx
  exact ⟨y, hy, h y⟩

theorem modRegion_withdraws (s : State) (l r : Nat) (g : Region → Region) : Withdraws Outline.books c s (s.modRegion l r g) :=
  mapLaunches_withdraws s _ (fun x => by split <;> exact ⟨rfl, rfl, id⟩)

theorem modLaunch_withdraws (s : State) (l : Nat) : Withdraws Outline.books c s (s.modLaunch l (fun x => { x with ended := true })) :=
  mapLaunches_withdraws s _ (fun x => by split <;> simp)

theorem images_withdraws (s : State) (is : List Image) : Withdraws Outline.books c s { s with images := is } :=
  .of_launches_eq (.of_pend_eq rfl rfl rfl) rfl

/-- A tile's context and entries go. -/
theorem modTile_withdraws (s : State) (t : Nat) (g : Tile → Tile) : Withdraws Outline.books c s (s.modTile t g) :=
  .of_launches_eq (.of_pend_eq rfl rfl rfl) rfl

theorem dropEntry_withdraws (s : State) (t i : Nat) : Withdraws Outline.books c s (dropEntry s t i) := by
  unfold dropEntry
  dsimp only
  refine .trans ?_ ((modTile_withdraws _ t _).trans (modRegion_withdraws _ _ _ _))
  split
  · exact images_withdraws s _
  · exact .refl s

theorem dropIdleEntries_withdraws (s : State) (l r t : Nat) : Withdraws Outline.books c s (dropIdleEntries s l r t) := by
  refine .foldl _ _ s (fun i _ u => .ite (fun _ => ?_) fun _ => .refl u)
  split
  · exact dropEntry_withdraws u t i
  · exact (dropEntry_withdraws u t i).trans (modTile_withdraws _ t _)
  · exact .refl u
  · exact .refl u

theorem withdrawRegion_withdraws (s : State) (l : Nat) (r : Region) (discard : Bool) :
    Withdraws Outline.books c s (withdrawRegion s l r discard) :=
  .trans (.trans (.foldl _ _ s (fun t _ u => .of_records (saveContext_keeps u t _ discard))) (modRegion_withdraws _ l _ _))
    (.foldl _ _ _ (fun t _ u => dropIdleEntries_withdraws u l _ t))

theorem clearEnded_withdraws (s : State) (l t : Nat) : Withdraws Outline.books c s (clearEnded s l t) := by
  unfold clearEnded
  split
  · exact .ite (fun _ => (dropEntry_withdraws s t _).trans (modTile_withdraws _ t _)) (fun _ => .refl s)
  · exact .refl s

theorem endRegion_withdraws (s : State) (l : Nat) (r : Region) : Withdraws Outline.books c s (endRegion s l r) := by
  refine .trans (.foldl (fun s t => clearEnded s l t) (r.nodes.map (·.2)) s (fun t _ u => clearEnded_withdraws u l t)) ?_
  unfold endRegion
  dsimp only
  split
  · exact .refl _
  · exact .refl _
  · exact .foldl _ _ _ (fun t _ u => dropIdleEntries_withdraws u l _ t)
  · exact .ite (fun _ => .refl _) (fun _ => withdrawRegion_withdraws _ l r true)

/-- The launch ends, and is gone or to be ended again. -/
theorem endLaunch_withdraws (s : State) (l : Nat) :
    Withdraws Outline.books c s (endLaunch s l) ∧ ∀ x ∈ (endLaunch s l).launches, x.id = l → x.ended = true := by
  have hmarked : ∀ x ∈ (s.modLaunch l (fun x => { x with ended := true })).launches, x.id = l → x.ended = true := by
    intro x hx hid
    obtain ⟨y, hy, rfl⟩ := List.mem_map.mp hx
    by_cases h : y.id = l
    · simp [h]
    · simp [h] at hid
  have hrest : Withdraws Outline.books c (s.modLaunch l (fun x => { x with ended := true })) (endLaunch s l) := by
    unfold endLaunch
    generalize s.modLaunch l (fun x => { x with ended := true }) = u
    dsimp only
    split
    · exact .refl u
    · rename_i x _
      refine .trans (.foldl (fun s r => endRegion s l r) x.regions u (fun r _ u => endRegion_withdraws u l r)) ?_
      split
      · exact .refl _
      · refine .ite (fun _ => .refl _) (fun _ => .trans (images_withdraws _ _) (.ite (fun _ => .refl _) fun _ => ?_))
        exact ⟨.of_pend_eq rfl rfl rfl, fun y hy => ⟨y, (List.mem_filter.mp hy).1, rfl, rfl, id⟩⟩
  refine ⟨(modLaunch_withdraws s l).trans hrest, fun x hx hid => ?_⟩
  obtain ⟨y, hy, hid', -, hend⟩ := hrest.follows x hx
  exact hend (hmarked y hy (hid' ▸ hid))

/-- Of launches that are ended one after another each that is left is given up. -/
theorem endLaunches_withdraws (ls : List Launch) (s : State) :
    Withdraws Outline.books c s (ls.foldl (fun s l => endLaunch s l.id) s) ∧
      ∀ x ∈ (ls.foldl (fun s l => endLaunch s l.id) s).launches, x.id ∈ ls.map (fun l => l.id) → x.ended = true := by
  induction ls generalizing s with
  | nil => exact ⟨.refl s, fun x _ h => nomatch h⟩
  | cons l ls ih =>
    obtain ⟨hfirst, hended⟩ := endLaunch_withdraws (c := c) s l.id
    obtain ⟨hrest, hothers⟩ := ih (endLaunch s l.id)
    refine ⟨hfirst.trans hrest, fun x hx hid => ?_⟩
    obtain hid | hid := List.mem_cons.mp hid
    · obtain ⟨y, hy, hxy, -, hend⟩ := hrest.follows x hx
      exact hend (hended y hy (hxy ▸ hid))
    · exact hothers x hx hid

end Sys2Proof.Machine
end
section
/-! ## Changes of a queue (R55, R56, R65) -/

namespace Sys2Proof.Machine

variable {c : Prop}

/-! ### A change of a queue's state (R55, R65) -/

/-- A queue as a change leaves it: the copies of its control block are flipped where they have to show it. -/
def controlled (old new : Queue) : Queue := if controlCopy new = currentCopy old then new else flipControl new

/-- A flip touches the control block's copies alone. -/
theorem controlled_eq (old new : Queue) :
    ∃ a b sel seq, controlled old new = { new with copyA := a, copyB := b, sel := sel, seq := seq } := by
  unfold controlled flipControl
  split_ifs
  · exact ⟨_, _, _, _, rfl⟩
  · exact ⟨_, _, _, _, rfl⟩
  · exact ⟨_, _, _, _, rfl⟩

section Controlled
variable (old new : Queue)

@[simp] theorem controlled_tenant : (controlled old new).tenant = new.tenant := by
  obtain ⟨_, _, _, _, h⟩ := controlled_eq old new; rw [h]

@[simp] theorem controlled_index : (controlled old new).index = new.index := by
  obtain ⟨_, _, _, _, h⟩ := controlled_eq old new; rw [h]

@[simp] theorem controlled_st : (controlled old new).st = new.st := by
  obtain ⟨_, _, _, _, h⟩ := controlled_eq old new; rw [h]

@[simp] theorem controlled_started : (controlled old new).started = new.started := by
  obtain ⟨_, _, _, _, h⟩ := controlled_eq old new; rw [h]

@[simp] theorem controlled_ridx : (controlled old new).ridx = new.ridx := by
  obtain ⟨_, _, _, _, h⟩ := controlled_eq old new; rw [h]

@[simp] theorem controlled_last : (controlled old new).last = new.last := by
  obtain ⟨_, _, _, _, h⟩ := controlled_eq old new; rw [h]

@[simp] theorem controlled_err : (controlled old new).err = new.err := by
  obtain ⟨_, _, _, _, h⟩ := controlled_eq old new; rw [h]

@[simp] theorem controlled_slot : (controlled old new).slot = new.slot := by
  obtain ⟨_, _, _, _, h⟩ := controlled_eq old new; rw [h]

@[simp] theorem controlled_pri : (controlled old new).pri = new.pri := by
  obtain ⟨_, _, _, _, h⟩ := controlled_eq old new; rw [h]

@[simp] theorem controlled_wsince : (controlled old new).wsince = new.wsince := by
  obtain ⟨_, _, _, _, h⟩ := controlled_eq old new; rw [h]

@[simp] theorem controlled_mappedAt : (controlled old new).mappedAt = new.mappedAt := by
  obtain ⟨_, _, _, _, h⟩ := controlled_eq old new; rw [h]

@[simp] theorem controlled_waits : (controlled old new).waits = new.waits := by
  obtain ⟨_, _, _, _, h⟩ := controlled_eq old new; rw [h]

end Controlled

/-- The outline but for the queues. -/
def Outline.rest (o : Outline) : Outline := { o with books := { o.books with queues := [] } }

theorem modQueue_rest (s : State) (f q : Nat) (g : Queue → Queue) : Keeps Outline.rest c s (s.modQueue f q g) :=
  .of_pend_eq rfl rfl rfl

theorem updateQueue_none {s : State} {f q : Nat} (h : queueAt s f q = none) (g : Queue → Queue) : updateQueue s f q g = s := by
  unfold updateQueue
  rw [h]

/-- A change of a queue that is owned writes it, and at most stores its status word. -/
theorem updateQueue_some {s : State} {f q : Nat} {old : Queue} (h : queueAt s f q = some old) (g : Queue → Queue) :
    KeepsBooks c (s.modQueue f q (fun _ => controlled old (g old))) (updateQueue s f q g) := by
  unfold updateQueue
  rw [h]
  exact .ite (fun _ => .refl _) (fun _ => storeG_keeps ..)

theorem updateQueue_rest (s : State) (f q : Nat) (g : Queue → Queue) : Keeps Outline.rest c s (updateQueue s f q g) := by
  cases h : queueAt s f q with
  | none => rw [updateQueue_none h g]; exact .refl s
  | some old => exact (modQueue_rest s f q _).trans (.of_books (updateQueue_some h g))

theorem updateQueue_queues {s : State} {f q : Nat} {old : Queue} (h : queueAt s f q = some old) (g : Queue → Queue) :
    (updateQueue s f q g).queues = (s.modQueue f q (fun _ => controlled old (g old))).queues :=
  congrArg (fun o => o.books.queues) (updateQueue_some (c := True) h g).outline

/-! ### Interrupts (R60, R232) -/

theorem signalQueue_keeps (s : State) (q : Queue) : KeepsBooks c s (signalQueue s q) :=
  .ite (fun _ => .refl s) (fun _ => .ite (fun _ => .of_pend_eq rfl rfl rfl) (fun _ => signalMsix_keeps s _ _))

theorem packetDone_keeps (s : State) (q : Queue) (irq : Bool) : KeepsBooks c s (packetDone s q irq) :=
  .trans (.ite (fun _ => signalQueue_keeps s q) fun _ => .refl s) (demandDecision_keeps _)

theorem dropAccesses_keeps (s : State) (ps : List PacketRec) : KeepsBooks c s (dropAccesses s ps) := pendFilter_keeps s _

/-! ### A destroyed queue (R56) -/

/-- Queues that some tenant owns, but for those of an index of a tenant. -/
def ownedBesides (s : State) (f q : Nat) : List Queue :=
  s.queues.filter (fun x => decide (x.st ≠ .destroyed) && !decide (x.tenant = f ∧ x.index = q))

/-- A change of the queues of an index of a tenant leaves the other owned queues as they are. -/
theorem modQueue_ownedBesides (s : State) (f q : Nat) (g : Queue → Queue)
    (h : ∀ x, x.tenant = f → x.index = q → (g x).tenant = f ∧ (g x).index = q) :
    ownedBesides (s.modQueue f q g) f q = ownedBesides s f q := by
  unfold ownedBesides State.modQueue
  induction s.queues with
  | nil => rfl
  | cons x xs ih =>
    by_cases hx : x.tenant = f ∧ x.index = q ∧ x.st ≠ .destroyed
    · obtain ⟨hf, hq, hst⟩ := hx
      simp_all
    · simp only [List.map_cons, if_neg hx, List.filter_cons, ih]

/-- Queues that some tenant owns. -/
def ownedQueues (s : State) : List Queue := s.queues.filter (fun x => decide (x.st ≠ .destroyed))

theorem queuesOf_eq (s : State) (f : Nat) : queuesOf s f = (ownedQueues s).filter (fun x => x.tenant == f) := by
  simp only [queuesOf, ownedQueues, List.filter_filter]

theorem ownedBesides_eq (s : State) (f q : Nat) :
    ownedBesides s f q = (ownedQueues s).filter (fun x => !decide (x.tenant = f ∧ x.index = q)) := by
  simp only [ownedBesides, ownedQueues, List.filter_filter, Bool.and_comm]

theorem queueAt_eq_find (s : State) (f q : Nat) :
    queueAt s f q = s.queues.find? (fun x => decide (x.tenant = f ∧ x.index = q ∧ x.st ≠ .destroyed)) := by
  unfold queueAt queuesOf
  rw [List.find?_filter]
  congr 1
  funext x
  rw [Bool.eq_iff_iff]
  simp
  tauto

theorem updateQueue_destroys (s : State) (f q : Nat) (g : Queue → Queue) (h : ∀ x, (g x).st = .destroyed) :
    ownedQueues (updateQueue s f q g) = ownedBesides s f q := by
  cases hat : queueAt s f q with
  | none =>
    rw [updateQueue_none hat, ownedBesides_eq, eq_comm, List.filter_eq_self]
    intro x hx
    obtain ⟨hmem, hst⟩ := List.mem_filter.mp hx
    rw [queueAt_eq_find, List.find?_eq_none] at hat
    have hnot := hat x hmem
    simp only [decide_eq_true_eq] at hst hnot ⊢
    simp only [Bool.not_eq_true', decide_eq_false_iff_not]
    exact fun hx => hnot ⟨hx.1, hx.2, hst⟩
  | some old =>
    unfold ownedQueues ownedBesides
    rw [updateQueue_queues hat]
    unfold State.modQueue
    induction s.queues with
    | nil => rfl
    | cons x xs ih =>
      by_cases hx : x.tenant = f ∧ x.index = q ∧ x.st ≠ .destroyed
      · simp_all
      · simp only [List.map_cons, if_neg hx, List.filter_cons, ih]
        by_cases hst : x.st = .destroyed
        · simp [hst]
        · have : ¬(x.tenant = f ∧ x.index = q) := fun h => hx ⟨h.1, h.2, hst⟩
          simp [hst, this]

/-- What the end of a queue's launches, and the end of the queue, leave besides the queues and launches themselves. -/
def Outline.guests (o : Outline) : List (Nat × Nat × Nat) × List Rider × List Copy × Nat :=
  (o.books.creating, o.books.riders, o.books.copies, o.books.now)

theorem releaseKept_withdraws (s : State) (l : Nat) : Withdraws Outline.books c s (releaseKept s l) := images_withdraws s _

/-- The launches of a queue end, with the images that were kept. -/
theorem endQueueLaunches_withdraws (ls : List Launch) (s : State) :
    Withdraws Outline.books c s (ls.foldl (fun s l => endLaunch (releaseKept s l.id) l.id) s) :=
  .foldl _ ls s (fun l _ u => (releaseKept_withdraws u l.id).trans (endLaunch_withdraws _ l.id).1)

theorem Withdraws.of_rest {s u : State} (h : Keeps Outline.rest c s u) : Withdraws Outline.guests c s u :=
  .of_launches_eq ⟨(congrArg Outline.guests h.outline : u.outline.rest.guests = s.outline.rest.guests), h.calm, h.registers⟩
    (congrArg Outline.launches h.outline)

/-- R56: a destroyed queue is no longer owned, every other one stays as it is, and nobody's riders or creations change. -/
theorem destroyQueue_meets (s : State) (x : Queue) :
    Withdraws Outline.guests c s (destroyQueue s x) ∧ ownedQueues (destroyQueue s x) = ownedBesides s x.tenant x.index := by
  unfold destroyQueue
  extract_lets done graphs consumed s0 mine s1 s2 s3 s4 s5
  have h0 : KeepsBooks c s s0 := dropAccesses_keeps s _
  have h1 : Withdraws Outline.books c s0 s1 := endQueueLaunches_withdraws mine s0
  have h4 : KeepsBooks c s3 s4 := .foldl _ graphs s3 (fun l _ u => raise_keeps u .graphDone _ (by decide))
  have h5 : KeepsBooks c s4 s5 := .foldl _ done s4 (fun p _ u => packetDone_keeps u x p.irq)
  have h45 : s5.queues = s3.queues := congrArg (fun o => o.books.queues) (h4.trans h5).outline
  have h01 : s1.queues = s.queues := congrArg Books.queues (Keeps.trans (.of_books h0) h1.keeps).outline
  constructor
  · have h3 : Keeps Outline.rest c s1 s3 := (modQueue_rest ..).trans (updateQueue_rest ..)
    have hlast : Keeps Outline.rest c s5 { s5 with
        queues := s5.queues.filter (fun y => !(decide (y.st = .destroyed) && y.started.isEmpty)) } :=
      .of_pend_eq rfl rfl rfl
    exact ((Withdraws.of_books h0).trans (h1.narrow fun b => (b.creating, b.riders, b.copies, b.now))).trans
      ((Withdraws.of_rest h3).trans ((Withdraws.of_books (h4.trans h5)).trans (.of_rest hlast)))
  · calc ownedQueues { s5 with queues := s5.queues.filter (fun y => !(decide (y.st = .destroyed) && y.started.isEmpty)) }
        = ownedQueues s5 := by
          simp only [ownedQueues, List.filter_filter]
          refine List.filter_congr (fun y _ => ?_)
          cases y.st <;> simp
      _ = ownedQueues s3 := by simp only [ownedQueues, h45]
      _ = ownedBesides s2 x.tenant x.index := updateQueue_destroys s2 _ _ _ (fun _ => rfl)
      _ = ownedBesides s1 x.tenant x.index := modQueue_ownedBesides s1 _ _ _ (fun y hf hq => ⟨hf, hq⟩)
      _ = ownedBesides s x.tenant x.index := by simp only [ownedBesides, h01]

end Sys2Proof.Machine
end
section
/-! ## Resets and bring-up (R45, R48 to R50, R65) -/

namespace Sys2Proof.Machine

/-! ### A function-level reset (R48, R56, R61) -/

/-- The registers of a function whose reset has begun. -/
def Tenant.cleared (x : Tenant) : Tenant :=
  { x with
    linkev := false, fwev := false, viol := false, lost := 0, count := 0, head := 0, seq := 0
    vlog := Vector.replicate 16 0, wingb := 0, wingl := 0, winsb := 0, winsl := 0
    msix := Vector.replicate 64 .reset, pba := 0, mbox := [], mfull := [], resetting := true }

theorem destroyQueues_owned (l : List Queue) (s : State) :
    ownedQueues (l.foldl destroyQueue s) =
      (ownedQueues s).filter (fun x => l.all (fun y => !decide (x.tenant = y.tenant ∧ x.index = y.index))) := by
  induction l generalizing s with
  | nil => simp
  | cons y ys ih =>
    rw [List.foldl_cons, ih, (destroyQueue_meets (c := True) s y).2, ownedBesides_eq, List.filter_filter]
    refine List.filter_congr (fun x _ => ?_)
    rw [List.all_cons, Bool.and_comm]

theorem destroyQueues_withdraws {c : Prop} (l : List Queue) (s : State) : Withdraws Outline.guests c s (l.foldl destroyQueue s) :=
  .foldl _ l s (fun x _ u => (destroyQueue_meets u x).1)

/-- With all its queues destroyed a function owns none, and others own what they did. -/
theorem destroyAll_owned (s : State) (f : Nat) :
    ownedQueues ((queuesOf s f).foldl destroyQueue s) = (ownedQueues s).filter (fun x => !(x.tenant == f)) := by
  rw [destroyQueues_owned]
  refine List.filter_congr (fun x hx => ?_)
  rw [Bool.eq_iff_iff, List.all_eq_true]
  simp only [queuesOf_eq, List.mem_filter, Bool.not_eq_true', decide_eq_false_iff_not, beq_iff_eq, beq_eq_false_iff_ne]
  constructor
  · exact fun h hf => h x ⟨hx, hf⟩ ⟨rfl, rfl⟩
  · rintro hf y ⟨-, hy⟩ ⟨ht, -⟩
    exact hf (ht.trans hy)

/-- A rider of a function that is reset rides on without a record. -/
def leaveRider (f : Nat) (r : Rider) : Rider := if r.tenant = f then { r with orphan := true } else r

/-- R48: what the beginning of a function-level reset does. -/
structure ResetBegins (s u : State) (f : Nat) : Prop where
  creating : u.creating = s.creating.filter (fun c => !(c.1 == f))
  owned : ownedQueues u = (ownedQueues s).filter (fun x => !(x.tenant == f))
  riders : u.riders = s.riders.map (leaveRider f)
  follows : ∀ x ∈ u.launches, ∃ y ∈ s.launches, x.id = y.id ∧ x.tenant = y.tenant ∧ (y.ended = true → x.ended = true)
  ended : ∀ x ∈ u.launches, x.tenant = f → x.ended = true
  calm : s.calm → u.calm
  registers : s.calm → u.registers = (s.modTenant f Tenant.cleared).registers

theorem tenant_face_eq {s u : State} (h : u.registers = s.registers) (f : Nat) : (u.tenant f).face = (s.tenant f).face := by
  have hface (s : State) : (s.tenant f).face = ((s.tenants.map Tenant.face)[f]?).getD (Tenant.reset false).face := by
    unfold State.tenant
    by_cases hf : f < 16
    · simp [hf]
    · simp [hf]
  have htenants : u.tenants.map Tenant.face = s.tenants.map Tenant.face := congrArg Prod.snd h
  rw [hface, hface, htenants]

theorem ctl_eq_of_registers {s u : State} (h : u.registers = s.registers) : u.ctl = s.ctl := congrArg Prod.fst h

theorem cleared_registers {s u : State} (h : u.registers = s.registers) (f : Nat) :
    (u.modTenant f Tenant.cleared).registers = (s.modTenant f Tenant.cleared).registers := by
  have hcleared : (u.tenant f).cleared.face = (s.tenant f).cleared.face :=
    congrArg (fun x => x.cleared.face) (tenant_face_eq h f)
  have hmap (s : State) : (s.modTenant f Tenant.cleared).tenants.map Tenant.face =
      (s.tenants.map Tenant.face).setIfInBounds f (s.tenant f).cleared.face := Vector.map_setIfInBounds
  have htenants : u.tenants.map Tenant.face = s.tenants.map Tenant.face := congrArg Prod.snd h
  exact Prod.ext (show u.ctl = s.ctl from ctl_eq_of_registers h) (by rw [State.registers, State.registers, hmap, hmap, hcleared, htenants])

theorem resetFunction_begins (s : State) (f : Nat) : ResetBegins s (resetFunction s f) f := by
  unfold resetFunction
  extract_lets s1 s2 s3 leave s4
  change ResetBegins s (wake (s4.modTenant f Tenant.cleared)) f
  have h2 : Withdraws Outline.guests True s1 s2 := destroyQueues_withdraws _ s1
  obtain ⟨h3, hended⟩ := endLaunches_withdraws (c := True) (s2.launches.filter (fun l => l.tenant == f)) s2
  have h3' : s3.books = s2.books := h3.keeps.outline
  have h13 : Withdraws Outline.guests True s1 s3 := h2.trans (h3.narrow fun b => (b.creating, b.riders, b.copies, b.now))
  have hguests : s3.outline.guests = s1.outline.guests := h13.keeps.outline
  have h6 : KeepsBooks True (s4.modTenant f Tenant.cleared) (wake (s4.modTenant f Tenant.cleared)) := wake_keeps _
  have hbooks : (wake (s4.modTenant f Tenant.cleared)).books = s4.books := congrArg Outline.books h6.outline
  have hlaunches : (wake (s4.modTenant f Tenant.cleared)).launches = s3.launches := congrArg Outline.launches h6.outline
  refine ⟨?_, ?_, ?_, ?_, ?_, ?_, ?_⟩
  · calc (wake (s4.modTenant f Tenant.cleared)).creating
        = s4.creating := congrArg Books.creating hbooks
      _ = s1.creating := congrArg Prod.fst hguests
  · calc ownedQueues (wake (s4.modTenant f Tenant.cleared))
        = ownedQueues s2 := by
          have hq : (wake (s4.modTenant f Tenant.cleared)).queues = s2.queues :=
            (congrArg Books.queues hbooks).trans (congrArg Books.queues h3')
          simp only [ownedQueues, hq]
      _ = (ownedQueues s).filter (fun x => !(x.tenant == f)) := destroyAll_owned s1 f
  · calc (wake (s4.modTenant f Tenant.cleared)).riders
        = s3.riders.map (leaveRider f) := congrArg Books.riders hbooks
      _ = s.riders.map (leaveRider f) := congrArg (fun g => g.2.1.map (leaveRider f)) hguests
  · exact hlaunches ▸ h13.follows
  · rw [hlaunches]
    intro x hx hten
    obtain ⟨y, hy, hid, hten', -⟩ := h3.follows x hx
    exact hended x hx (hid ▸ List.mem_map_of_mem (List.mem_filter.mpr ⟨hy, by simp [← hten', hten]⟩))
  · exact fun hs => h6.calm trivial (h13.keeps.calm trivial hs)
  · intro hs
    exact (h6.registers trivial (h13.keeps.calm trivial hs)).trans (cleared_registers (h13.keeps.registers trivial hs) f)

/-! ### The end of a reset (R48, R61) -/

theorem resetWaits_congr {s u : State} (h : u.outline = s.outline) (f : Nat) : resetWaits u f = resetWaits s f := by
  have hof (s : State) : resetWaits s f =
      (s.outline.entries.toList.any (fun es => es.toList.any (fun e => decide (e.st ≠ .free) && e.tenant == f)) ||
        s.outline.images.any (fun i => i.ctx.tenant == f && i.discard) || s.outline.launches.any (fun l => l.tenant == f)) := by
    simp only [resetWaits, tenantHasEntry, State.outline, Vector.toList_map, List.any_map, Function.comp_def, Image.face]
  rw [hof, hof, h]

/-- A reset of a function that is in progress and for which nothing is left to wait. -/
def resetDone (s : State) (f : Nat) : Bool := (s.tenant f).resetting && !resetWaits s f

/-- A function's registers as its reset ends. -/
def Tenant.settled (x : Tenant) : Tenant := { x with resetting := false, mbox := [], mfull := [] }

def closeResets (s : State) : State :=
  { s with tenants := Vector.ofFn (fun f : Fin 16 => if resetDone s f.val then (s.tenant f.val).settled else s.tenant f.val) }

theorem closeResets_pend (s : State) : (closeResets s).pend = s.pend := by simp only [closeResets]

theorem closeResets_calm {s : State} (h : s.calm) : (closeResets s).calm := by
  unfold State.calm
  rwa [closeResets_pend]

theorem closeResets_ctl (s : State) : (closeResets s).ctl = s.ctl := by simp only [closeResets]

theorem closeResets_outline (s : State) : (closeResets s).outline = s.outline := by
  simp only [State.outline, State.books, closeResets]

theorem settleResets_eq (s : State) : settleResets s = if (List.range 16).any (resetDone s) then wake (closeResets s) else s := rfl

theorem closeResets_tenant (s : State) {f : Nat} (hf : f < 16) :
    (closeResets s).tenant f = if resetDone s f then (s.tenant f).settled else s.tenant f := by
  simp [closeResets, State.tenant, hf]

theorem settleResets_outline (s : State) : (settleResets s).outline = s.outline := by
  rw [settleResets_eq]
  split
  · exact (wake_keeps (c := True) (closeResets s)).outline.trans (closeResets_outline s)
  · rfl

theorem settleResets_ctl {s : State} (h : s.calm) : (settleResets s).ctl = s.ctl := by
  rw [settleResets_eq]
  split
  · rw [ctl_eq_of_registers ((wake_keeps (closeResets s)).registers trivial (closeResets_calm h)), closeResets_ctl]
  · rfl

theorem settleResets_face {s : State} (h : s.calm) {f : Nat} (hf : f < 16) :
    ((settleResets s).tenant f).face = { (s.tenant f).face with resetting := (s.tenant f).resetting && resetWaits s f } := by
  have hclosed : ((closeResets s).tenant f).face =
      { (s.tenant f).face with resetting := (s.tenant f).resetting && resetWaits s f } := by
    rw [closeResets_tenant s hf]
    by_cases hdone : resetDone s f = true
    · obtain ⟨-, hwaits⟩ := Bool.and_eq_true_iff.mp hdone
      rw [if_pos hdone, (Bool.not_eq_true' _).mp hwaits, Bool.and_false]
      rfl
    · have hresetting : ((s.tenant f).resetting && resetWaits s f) = (s.tenant f).resetting := by
        rw [Bool.and_eq_left_iff_imp]
        intro hr
        simpa [resetDone, hr] using hdone
      rw [if_neg hdone, hresetting]
      rfl
  rw [settleResets_eq]
  split
  · rw [tenant_face_eq ((wake_keeps (closeResets s)).registers trivial (closeResets_calm h)) f, hclosed]
  · rename_i hnone
    have hdone : resetDone s f = false := by simp_all
    rw [← hclosed, closeResets_tenant s hf, hdone]
    rfl

/-! ### What is left of a function (R48) -/

/-- What holds of a function from the beginning of its reset on. -/
structure ResetUnderWay (s : State) (f : Nat) : Prop where
  owned : ∀ x ∈ ownedQueues s, x.tenant ≠ f
  creating : ∀ c ∈ s.creating, c.1 ≠ f
  ended : ∀ l ∈ s.launches, l.tenant = f → l.ended = true
  riders : ∀ r ∈ s.riders, r.tenant = f → r.orphan = true
  cleared : ∃ y : Tenant, (s.tenant f).face = y.cleared.face

theorem leaveRider_tenant (f : Nat) (r : Rider) : (leaveRider f r).tenant = r.tenant := by unfold leaveRider; split <;> rfl

theorem ResetBegins.underWay {s u : State} {f : Nat} (h : ResetBegins s u f) (hs : s.calm) (hf : f < 16) : ResetUnderWay u f where
  owned x hx := by
    rw [h.owned] at hx
    simpa using (List.mem_filter.mp hx).2
  creating x hx := by
    rw [h.creating] at hx
    simpa using (List.mem_filter.mp hx).2
  ended := h.ended
  riders r hr hten := by
    rw [h.riders] at hr
    obtain ⟨y, -, rfl⟩ := List.mem_map.mp hr
    rw [leaveRider_tenant] at hten
    simp [leaveRider, hten]
  cleared := ⟨s.tenant f, by rw [tenant_face_eq (h.registers hs) f, tenant_modTenant_same s f _ hf]⟩

/-- A reset that begins leaves those of other functions under way. -/
theorem ResetUnderWay.of_begins {s u : State} {f g : Nat} (hg : ResetUnderWay s g) (h : ResetBegins s u f) (hs : s.calm)
    (hne : g ≠ f) : ResetUnderWay u g where
  owned x hx := by
    rw [h.owned] at hx
    exact hg.owned x (List.mem_filter.mp hx).1
  creating x hx := by
    rw [h.creating] at hx
    exact hg.creating x (List.mem_filter.mp hx).1
  ended x hx hten := by
    obtain ⟨y, hy, -, hten', hend⟩ := h.follows x hx
    exact hend (hg.ended y hy (hten' ▸ hten))
  riders r hr hten := by
    rw [h.riders] at hr
    obtain ⟨y, hy, rfl⟩ := List.mem_map.mp hr
    rw [leaveRider_tenant] at hten
    unfold leaveRider
    split
    · rfl
    · exact hg.riders y hy hten
  cleared := by
    obtain ⟨y, hy⟩ := hg.cleared
    exact ⟨y, by rw [tenant_face_eq (h.registers hs) g, State.tenant_modTenant, if_neg (fun h => hne h.1.symm), hy]⟩

theorem settleResets_clears {s : State} {f : Nat} (h : ResetUnderWay s f) (hs : s.calm) (hf : f < 16) :
    FunctionCleared (settleResets s) f := by
  have ho := settleResets_outline s
  have hqueues : (settleResets s).queues = s.queues := congrArg (fun o => o.books.queues) ho
  obtain ⟨y, hy⟩ := h.cleared
  have hface : ((settleResets s).tenant f).face = { y.cleared.face with resetting := resetWaits (settleResets s) f } := by
    have hresetting : (s.tenant f).resetting = true := congrArg Tenant.resetting hy
    rw [settleResets_face hs hf, hy, hresetting, Bool.true_and, resetWaits_congr ho]
  refine ⟨congrArg Tenant.viol hface, congrArg Tenant.lost hface, congrArg Tenant.count hface, congrArg Tenant.head hface,
    congrArg Tenant.seq hface, congrArg Tenant.vlog hface, congrArg Tenant.linkev hface, congrArg Tenant.fwev hface,
    congrArg Tenant.wingb hface, congrArg Tenant.wingl hface, congrArg Tenant.winsb hface, congrArg Tenant.winsl hface,
    congrArg Tenant.msix hface, congrArg Tenant.resetting hface, ?_, ?_, ?_, ?_⟩
  · rw [queuesOf_eq, ownedQueues, hqueues, List.filter_eq_nil_iff]
    exact fun x hx => by simpa using h.owned x hx
  · rw [show (settleResets s).creating = s.creating from congrArg (fun o => o.books.creating) ho]
    exact h.creating
  · rw [show (settleResets s).launches = s.launches from congrArg Outline.launches ho]
    exact h.ended
  · rw [show (settleResets s).riders = s.riders from congrArg (fun o => o.books.riders) ho]
    exact h.riders

/-! ### The reset of one function, and of all (R48) -/

theorem Tenant.eq_of_face {x y : Tenant} (h : x.face = y.face) : { x with pba := y.pba, mbox := y.mbox, mfull := y.mfull } = y := by
  cases x
  cases y
  simp_all [Tenant.face]

/-- Functions other than the one that is reset keep their queues, and their registers but for what a wait or a signal writes. -/
theorem functionLevelReset_others (s : State) {f g : Nat} (hs : s.calm) (hg : g < 16) (hne : g ≠ f) :
    let u := settleResets (resetFunction s f)
    queuesOf u g = queuesOf s g ∧
      { s.tenant g with pba := (u.tenant g).pba, mbox := (u.tenant g).mbox, mfull := (u.tenant g).mfull,
                        resetting := (u.tenant g).resetting } = u.tenant g := by
  have hb := resetFunction_begins s f
  intro u
  have hqueues : u.queues = (resetFunction s f).queues := congrArg (fun o => o.books.queues) (settleResets_outline _)
  constructor
  · rw [queuesOf_eq, ownedQueues, hqueues, ← ownedQueues, hb.owned, List.filter_filter, queuesOf_eq]
    refine List.filter_congr (fun x _ => ?_)
    rw [Bool.and_eq_left_iff_imp]
    intro hx
    simpa [beq_iff_eq.mp hx] using hne
  · refine Tenant.eq_of_face (x := { s.tenant g with resetting := (u.tenant g).resetting }) ?_
    have hkept : ((resetFunction s f).tenant g).face = (s.tenant g).face := by
      rw [tenant_face_eq (hb.registers hs) g, State.tenant_modTenant, if_neg (fun h => hne h.1.symm)]
    have hu : (u.tenant g).face = { (s.tenant g).face with resetting := (u.tenant g).resetting } := by
      have h := settleResets_face (hb.calm hs) hg
      rw [hkept] at h
      exact h.trans (congrArg (fun r => { (s.tenant g).face with resetting := r }) (congrArg Tenant.resetting h).symm)
    exact hu.symm

/-- Functions that are reset one after another, and those whose reset is under way already, are under way. -/
theorem resetFunctions_underWay (l : List Nat) (s : State) (hs : s.calm) (hl : ∀ f ∈ l, f < 16) :
    (l.foldl resetFunction s).calm ∧ (l.foldl resetFunction s).ctl = s.ctl ∧
      ∀ g, g ∈ l ∨ ResetUnderWay s g → ResetUnderWay (l.foldl resetFunction s) g := by
  induction l generalizing s with
  | nil => exact ⟨hs, rfl, fun g h => h.resolve_left List.not_mem_nil⟩
  | cons f fs ih =>
    have hb := resetFunction_begins s f
    obtain ⟨hcalm, hctl, hrest⟩ := ih (resetFunction s f) (hb.calm hs) (fun g hg => hl g (by simp [hg]))
    refine ⟨hcalm, hctl.trans (congrArg Prod.fst (hb.registers hs)), fun g hg => hrest g ?_⟩
    by_cases hgf : g = f
    · subst hgf
      exact .inr (hb.underWay hs (hl g (by simp)))
    · rcases hg with hmem | hway
      · exact .inl ((List.mem_cons.mp hmem).resolve_left hgf)
      · exact .inr (hway.of_begins hb hs hgf)

/-- R48: a hot reset leaves every function cleared. -/
theorem hotReset_meets {s : State} (hs : s.calm) :
    let u := settleResets ((List.range 16).foldl resetFunction s)
    (∀ g < 16, FunctionCleared u g) ∧ u.ctl = s.ctl := by
  obtain ⟨hcalm, hctl, hway⟩ := resetFunctions_underWay (List.range 16) s hs (fun f hf => List.mem_range.mp hf)
  exact ⟨fun g hg => settleResets_clears (hway g (.inl (List.mem_range.mpr hg))) hcalm hg, (settleResets_ctl hcalm).trans hctl⟩

/-! ### A reset that has nothing to wait for (R48) -/

/-- The queues and the launches of a function end. -/
def endWork (s : State) (f : Nat) : State :=
  let s := (queuesOf s f).foldl destroyQueue s
  (s.launches.filter (fun l => l.tenant == f)).foldl (fun s l => endLaunch s l.id) s

/-- The creations of a function that wait are gone. -/
def dropCreations (s : State) (f : Nat) : State := { s with creating := s.creating.filter (fun c => !(c.1 == f)) }

/-- The riders and the registers of a function are cleared. -/
def clearFunction (s : State) (f : Nat) : State :=
  State.modTenant { s with riders := s.riders.map (leaveRider f) } f Tenant.cleared

theorem resetFunction_eq (s : State) (f : Nat) : resetFunction s f = wake (clearFunction (endWork (dropCreations s f) f) f) := rfl

theorem endWork_idle {s : State} {f : Nat} (hqueues : queuesOf s f = []) (hwaits : resetWaits s f = false) : endWork s f = s := by
  have hlaunches : s.launches.filter (fun l => l.tenant == f) = [] := by
    simp only [resetWaits, Bool.or_eq_false_iff] at hwaits
    exact List.filter_eq_nil_iff.mpr (List.any_eq_false.mp hwaits.2)
  simp only [endWork, hqueues, List.foldl_nil, hlaunches]

/-- The state as the reset of a function that has no queue and no launch begins. -/
def quietReset (s : State) (f : Nat) : State := clearFunction (dropCreations s f) f

theorem quietReset_tenant (s : State) {f : Nat} (hf : f < 16) (g : Nat) :
    (quietReset s f).tenant g = if g = f then (s.tenant f).cleared else s.tenant g := by
  unfold quietReset clearFunction
  rw [State.tenant_modTenant]
  by_cases hg : g = f
  · subst hg
    rw [if_pos ⟨rfl, hf⟩, if_pos rfl]
    rfl
  · rw [if_neg (fun h => hg h.1.symm), if_neg hg]
    rfl

theorem quietReset_waits (s : State) (f g : Nat) : resetWaits (quietReset s f) g = resetWaits s g := rfl

section Quiet
variable {s : State} {f : Nat} (hpend : s.pend = []) (hqueues : queuesOf s f = []) (hwaits : resetWaits s f = false)
include hpend hqueues hwaits

theorem resetFunction_quiet : resetFunction s f = quietReset s f := by
  have hidle : endWork (dropCreations s f) f = dropCreations s f := endWork_idle hqueues hwaits
  rw [resetFunction_eq, hidle]
  exact wake_of_pend_nil _ hpend

/-- The reset is over at once, and the function's mailbox is empty. -/
theorem functionLevelReset_quiet (hf : f < 16) (hnone : ∀ g < 16, (s.tenant g).resetting = false) :
    let u := settleResets (resetFunction s f)
    (u.tenant f).pba = 0 ∧ (u.tenant f).mbox = [] ∧ (u.tenant f).mfull = [] ∧
      (∀ g, g < 16 → g ≠ f → u.tenant g = s.tenant g) ∧
      u = { s with tenants := u.tenants, creating := u.creating, riders := u.riders } := by
  have hdone (g : Nat) (hg : g < 16) : resetDone (quietReset s f) g = decide (g = f) := by
    unfold resetDone
    rw [quietReset_tenant s hf, quietReset_waits]
    by_cases hgf : g = f
    · subst hgf
      simp [hwaits, Tenant.cleared]
    · simp [hgf, hnone g hg]
  have hsettled : settleResets (quietReset s f) = closeResets (quietReset s f) := by
    have hany : (List.range 16).any (resetDone (quietReset s f)) = true :=
      List.any_eq_true.mpr ⟨f, List.mem_range.mpr hf, by simp [hdone f hf]⟩
    have hnone : (closeResets (quietReset s f)).pend = [] := (closeResets_pend _).trans hpend
    rw [settleResets_eq, if_pos hany, wake_of_pend_nil _ hnone]
  rw [resetFunction_quiet hpend hqueues hwaits, hsettled]
  intro u
  have htenant (g : Nat) (hg : g < 16) : u.tenant g = if g = f then (s.tenant f).cleared.settled else s.tenant g := by
    rw [closeResets_tenant _ hg, hdone g hg, quietReset_tenant s hf]
    by_cases hgf : g = f <;> simp [hgf]
  have hsame : u.tenant f = (s.tenant f).cleared.settled := by rw [htenant f hf, if_pos rfl]
  refine ⟨congrArg Tenant.pba hsame, congrArg Tenant.mbox hsame, congrArg Tenant.mfull hsame, fun g hg hne => ?_, rfl⟩
  rw [htenant g hg, if_neg hne]

end Quiet

/-! ### The watchdog (R45, R50, R65) -/

theorem firmwareEvent_eq (s : State) : ∃ ts out, firmwareEvent s = { s with tenants := ts, outbox := out } := by
  obtain ⟨ts, out, h⟩ := signalMsix_eq (s.modTenant 0 (fun x => { x with fwev := true })) 0 0
  exact ⟨ts, out, h⟩

theorem letIn_ctl (s : State) : (letIn s).ctl = s.ctl := by
  have hfold (ws : List (EventKind × Nat)) (u : State) : (ws.foldl (fun s e => raise s e.1 e.2) u).ctl = u.ctl := by
    induction ws generalizing u with
    | nil => rfl
    | cons w ws ih => exact (ih _).trans (raise_ctl u w.1 w.2)
  exact hfold _ _

theorem restartFirmware_ctl (s : State) : (restartFirmware s).ctl = s.ctl := letIn_ctl _

theorem restartFirmware_of_none {s : State} (h : s.matcher.waiting = []) :
    restartFirmware s = { s with matcher := Matcher.reset, queues := s.queues.map recoverQueue } := by
  unfold restartFirmware
  rw [letIn_of_none (by exact h), h]
  rfl

/-- The machine after the watchdog has restarted the firmware and has counted, and an activation before its flip is aborted. -/
def watchdogRestart (s : State) : State :=
  let s := (restartFirmware s).modCtl (fun c => { c with wdcnt := if c.wdcnt = BitVec.allOnes 16 then c.wdcnt else c.wdcnt + 1 })
  if s.ctl.activation = .loading then activationFails s 0x17 else s

theorem exec_watchdogReset {s : State} (h : takesWork s = true ∨ s.ctl.pup = .bringup) :
    exec .watchdogReset s = .next (firmwareEvent
      (if sha384 (bankBytes s.ctl) = s.ctl.bankDigest then watchdogRestart s else barLaunches (watchdogRestart s))) := by
  have hruns : (!(takesWork s || decide (s.ctl.pup = .bringup))) = false := by rcases h with h | h <;> simp [h]
  change execWatchdogReset s = _
  unfold execWatchdogReset
  rw [hruns]
  simp only [Bool.false_eq_true, if_false, decide_eq_true_eq]
  rfl

/-- The control block after the restart. -/
theorem watchdogRestart_ctl (s : State) :
    (watchdogRestart s).ctl = { s.ctl with
      wdcnt := if s.ctl.wdcnt = BitVec.allOnes 16 then s.ctl.wdcnt else s.ctl.wdcnt + 1
      activation := if s.ctl.activation = .loading then .none else s.ctl.activation
      fwstatus := if s.ctl.activation = .loading then 0x17 else s.ctl.fwstatus } := by
  unfold watchdogRestart activationFails
  dsimp only [State.modCtl]
  rw [restartFirmware_ctl]
  split
  · rfl
  · rfl

/-- A failed re-check bars launches, and ends an activation that is left. -/
theorem barLaunches_eq (s : State) : ∃ n status, barLaunches s =
    { s with freeCtr := n, ctl := { s.ctl with pup := .failed, barred := true, served := false
                                               activation := .none, fwstatus := status } } ∧
      (s.ctl.activation = .none → status = s.ctl.fwstatus) := by
  unfold barLaunches
  dsimp only [State.drawNat]
  split
  · rename_i h
    have hnone : s.ctl.activation = .none := h
    exact ⟨s.freeCtr + 1, s.ctl.fwstatus, by rw [← hnone]; rfl, fun _ => rfl⟩
  · rename_i h
    exact ⟨s.freeCtr + 1, _, rfl, fun hnone => absurd hnone h⟩

/-- What a watchdog reset leaves (R45, R50, R65). -/
theorem watchdogReset_meets {s : State} (h : takesWork s = true ∨ s.ctl.pup = .bringup) : ∃ u, exec .watchdogReset s = .next u ∧
    (s.matcher.waiting = [] → u.matcher = Matcher.reset ∧ u.queues = s.queues.map recoverQueue) ∧ (u.tenant 0).fwev = true ∧
    u.ctl.wdcnt = (if s.ctl.wdcnt = BitVec.allOnes 16 then s.ctl.wdcnt else s.ctl.wdcnt + 1) ∧
    (s.ctl.activation = .loading → u.ctl.activation = .none ∧ u.ctl.fwstatus = 0x17) ∧
    (sha384 (bankBytes s.ctl) = s.ctl.bankDigest → u.ctl.pup = s.ctl.pup) ∧
    (sha384 (bankBytes s.ctl) ≠ s.ctl.bankDigest → u.ctl.pup = .failed ∧ u.ctl.barred = true ∧ regionsMapped u = false) := by
  have hctl := watchdogRestart_ctl s
  have hrestart (hnone : s.matcher.waiting = []) :
      (watchdogRestart s).matcher = Matcher.reset ∧ (watchdogRestart s).queues = s.queues.map recoverQueue := by
    unfold watchdogRestart
    rw [restartFirmware_of_none hnone]
    dsimp only
    split <;> exact ⟨rfl, rfl⟩
  refine ⟨_, exec_watchdogReset h, ?_⟩
  by_cases hgood : sha384 (bankBytes s.ctl) = s.ctl.bankDigest
  · rw [if_pos hgood]
    refine ⟨fun hnone => ?_, firmwareEvent_fwev _, ?_, fun hload => ?_, fun _ => ?_, fun hbad => absurd hgood hbad⟩
    · obtain ⟨ts, out, he⟩ := firmwareEvent_eq (watchdogRestart s)
      rw [he]
      exact hrestart hnone
    · rw [firmwareEvent_ctl, hctl]
    · simp [hctl, hload]
    · rw [firmwareEvent_ctl, hctl]
  · rw [if_neg hgood]
    obtain ⟨n, status, hbar, hstatus⟩ := barLaunches_eq (watchdogRestart s)
    obtain ⟨ts, out, he⟩ := firmwareEvent_eq (barLaunches (watchdogRestart s))
    refine ⟨fun hnone => ?_, firmwareEvent_fwev _, ?_, fun hload => ?_, fun hg => absurd hg hgood, fun _ => ?_⟩
    · rw [he, hbar]
      exact hrestart hnone
    · rw [firmwareEvent_ctl, hbar, hctl]
    · have hzero : status = 0x17 := (hstatus (by simp [hctl, hload])).trans (by simp [hctl, hload])
      rw [firmwareEvent_ctl, hbar]
      exact ⟨rfl, hzero⟩
    · rw [regionsMapped, firmwareEvent_ctl, hbar]
      exact ⟨rfl, rfl, rfl⟩

/-! ### Bring-up (R39, R49, R164) -/

theorem bootRomCheck_meets {s : State} (h : s.ctl.pup = .reset) : ∃ u, exec .bootRomCheck s = .next u ∧ u.ctl.bringup = 2 ∧
    (imageStatus Config.flashImage = 0 → u.ctl.pup = .bootrom ∧ u.ctl.bank0 = Config.flashImage ∧ u.ctl.activeBank = false) ∧
    (imageStatus Config.flashImage ≠ 0 → u.ctl.pup = .failed ∧ configNormal u = true) := by
  have hexec : exec .bootRomCheck s = execBootRomCheck s := rfl
  rw [hexec, execBootRomCheck, if_neg (fun hne => hne h)]
  by_cases himage : imageStatus Config.flashImage = 0
  · exact ⟨_, if_pos himage, rfl, fun _ => ⟨rfl, rfl, rfl⟩, fun hne => absurd himage hne⟩
  · exact ⟨_, if_neg himage, rfl, fun h0 => absurd h0 himage, fun _ => ⟨rfl, rfl⟩⟩

theorem puppeteerStart_meets {s : State} (hstep : s.ctl.bringup = 2) (hpup : s.ctl.pup = .bootrom ∨ s.ctl.pup = .activating) :
    ∃ u, exec .puppeteerStart s = .next u ∧ u.ctl.pup = .bringup ∧ u.ctl.bringup = 3 ∧
      ∀ q, q < 32 → (u.ring q).running = true ∧ (u.ring q).zeroing = turn := by
  refine ⟨_, (if_pos ⟨hstep, hpup⟩ : execPuppeteerStart s = _), rfl, rfl, fun q hq => ?_⟩
  simp [State.ring, hq, startRing]

theorem countTiles_le (m : BitVec 192) : countTiles m ≤ 192 := by
  simpa [countTiles] using List.length_filter_le (fun t => m.getLsbD t) (List.range 192)

theorem tileSelfTest_meets {s : State} (hpup : s.ctl.pup = .bringup) (hstep : s.ctl.bringup = 3) (failing : BitVec 192) :
    ∃ u, exec (.tileSelfTest failing) s = .next u ∧ u.ctl.tfence = failing ∧
      u.ctl.tserv.toNat = 192 - countTiles failing ∧ u.ctl.bringup = 4 := by
  refine ⟨_, (if_pos ⟨hpup, hstep⟩ : execTileSelfTest failing s = _), rfl, ?_, rfl⟩
  have hle := countTiles_le failing
  change (BitVec.ofNat 8 (192 - countTiles failing)).toNat = _
  rw [BitVec.toNat_ofNat, Nat.mod_eq_of_lt (by omega)]

theorem bringupRunning_meets {s : State} (hpup : s.ctl.pup = .bringup) (hstep : s.ctl.bringup = 4) :
    ∃ u, exec .bringupRunning s = .next u ∧ u.ctl.pup = .running ∧ regionsMapped u = true ∧ configNormal u = true ∧
      (s.ctl.activation = .flipped → u.ctl.activation = .none ∧ u.ctl.fwstatus = 0) := by
  refine ⟨_, (if_pos ⟨hpup, hstep⟩ : execBringupRunning s = _), ?_⟩
  by_cases hflip : s.ctl.activation = .flipped
  · rw [if_pos (show (enterRunning s).ctl.activation = .flipped from hflip)]
    unfold regionsMapped configNormal activationDone
    rw [firmwareEvent_ctl]
    exact ⟨rfl, rfl, rfl, fun _ => ⟨rfl, rfl⟩⟩
  · rw [if_neg (show ¬(enterRunning s).ctl.activation = .flipped from hflip)]
    exact ⟨rfl, rfl, rfl, fun h => absurd h hflip⟩

theorem exec_functionLevelReset {f : Nat} (hf : f < 16) (s : State) :
    exec (.functionLevelReset f) s = .next (settleResets (resetFunction s f)) := by
  change execFunctionLevelReset f s = _
  rw [execFunctionLevelReset, if_pos hf]

/-- Settles O50: each reset by what its start and its end leave of a function, and bring-up step by step. -/
theorem resetsAndBringUp : Obligations.ResetsAndBringUp := by
  refine ⟨fun s f => ⟨rfl, fun hf => ⟨_, exec_functionLevelReset hf s, rfl,
      fun hs => ⟨?_, fun g hg hne => functionLevelReset_others s hs hg hne⟩,
      fun hpend hqueues hwaits hnone => functionLevelReset_quiet hpend hqueues hwaits hf hnone⟩,
    ⟨_, rfl, rfl, fun hs => hotReset_meets hs⟩, fun h => ?_⟩,
    fun s failing => ⟨bootRomCheck_meets, puppeteerStart_meets, fun hpup hstep => tileSelfTest_meets hpup hstep failing,
      bringupRunning_meets⟩⟩
  · have hb := resetFunction_begins s f
    exact settleResets_clears (hb.underWay hs hf) (hb.calm hs) hf
  · obtain ⟨u, hexec, hmatcher, hrest⟩ := watchdogReset_meets h
    refine ⟨u, hexec, fun hnone => ?_, hrest⟩
    obtain ⟨hm, hq⟩ := hmatcher hnone
    rw [hm]
    exact ⟨rfl, rfl, rfl, rfl, hq⟩

end Sys2Proof.Machine
end
section
/-! ## Completion of packets (R55, R57, R59, R60) -/

namespace Sys2Proof.Machine

variable {c : Prop}

/-! ### The queue at an index (R52) -/

theorem queueAt_congr {s u : State} (h : u.queues = s.queues) (f q : Nat) : queueAt u f q = queueAt s f q := by
  rw [queueAt_eq_find, queueAt_eq_find, h]

theorem KeepsBooks.queues {s u : State} (h : KeepsBooks c s u) : u.queues = s.queues := congrArg (fun o => o.books.queues) h.outline

theorem KeepsBooks.launches {s u : State} (h : KeepsBooks c s u) : u.launches = s.launches := congrArg Outline.launches h.outline

theorem queueAt_some {s : State} {f q : Nat} {x : Queue} (h : queueAt s f q = some x) :
    x ∈ s.queues ∧ x.tenant = f ∧ x.index = q ∧ x.st ≠ .destroyed := by
  rw [queueAt_eq_find] at h
  exact ⟨List.mem_of_find?_eq_some h, by simpa using List.find?_some h⟩

/-- After a change that keeps what a queue is known by, its index holds the changed queue. -/
theorem queueAt_modQueue {s : State} {f q : Nat} {x : Queue} (h : queueAt s f q = some x) (g : Queue → Queue)
    (hg : ∀ y, y.tenant = f → y.index = q → y.st ≠ .destroyed → (g y).tenant = f ∧ (g y).index = q ∧ (g y).st ≠ .destroyed) :
    queueAt (s.modQueue f q g) f q = some (g x) := by
  obtain ⟨-, hf, hq, hst⟩ := queueAt_some h
  rw [queueAt_eq_find] at h ⊢
  unfold State.modQueue
  rw [List.find?_map, show (s.queues.find? ((fun x => decide (x.tenant = f ∧ x.index = q ∧ x.st ≠ .destroyed)) ∘
      fun x => if x.tenant = f ∧ x.index = q ∧ x.st ≠ .destroyed then g x else x)) = some x from ?_]
  · simp [hf, hq, hst]
  · rw [← h]
    congr 1
    funext y
    by_cases hy : y.tenant = f ∧ y.index = q ∧ y.st ≠ .destroyed
    · simp [hy, hg y hy.1 hy.2.1 hy.2.2]
    · simp only [Function.comp_apply, if_neg hy]

/-- What a change of a queue leaves at its index. -/
theorem queueAt_updateQueue {s : State} {f q : Nat} {x : Queue} (h : queueAt s f q = some x) (g : Queue → Queue)
    (hg : (g x).tenant = x.tenant ∧ (g x).index = x.index ∧ (g x).st ≠ .destroyed) :
    queueAt (updateQueue s f q g) f q = some (controlled x (g x)) := by
  obtain ⟨-, hf, hq, -⟩ := queueAt_some h
  rw [queueAt_congr (updateQueue_queues h g)]
  exact queueAt_modQueue h _ (fun y _ _ _ => by simp [hg, hf, hq])

/-- What a change writes, where the queue at the index is known. -/
theorem updateQueue_to {s : State} {f q : Nat} {old new : Queue} (h : queueAt s f q = some old) (g : Queue → Queue) (hg : g old = new) :
    KeepsBooks c (s.modQueue f q (fun _ => controlled old new)) (updateQueue s f q g) :=
  hg ▸ updateQueue_some h g

/-! ### A queue's STATE is brought up to date (R55, R63, R65) -/

theorem sendService_keeps (s : State) (fill : Option Nat) (image set base : Nat) (bytes : List Byte) (rings : List Nat) :
    KeepsBooks c s (sendService s fill image set base bytes rings) :=
  .foldl _ rings s (fun _ _ _ => .of_pend_eq rfl rfl rfl)

theorem writeSaveSet_keeps (s : State) (l : Launch) : KeepsBooks c s (writeSaveSet s l) := sendService_keeps ..

theorem queueState_live (s : State) (x : Queue) : queueState s x ≠ .error ∧ queueState s x ≠ .destroyed := by
  unfold queueState
  split_ifs <;> exact ⟨QState.noConfusion, QState.noConfusion⟩

/-- A queue as it is brought up to date, in some STATE. -/
def refreshedTo (s : State) (x : Queue) (st : QState) (ptr layout : Nat) : Queue :=
  { x with
    st := st, wsince := if isWaiting s x && !x.waits then s.now else x.wsince, waits := isWaiting s x, savePtr := ptr
    layout := layout }

theorem refreshQueue_none {s : State} {f q : Nat} (h : queueAt s f q = none) : refreshQueue s f q = s := by
  unfold refreshQueue
  rw [h]

theorem modQueue_mono {s u : State} (h : KeepsBooks c s u) (f q : Nat) (g : Queue → Queue) :
    KeepsBooks c (s.modQueue f q g) (u.modQueue f q g) := by
  refine ⟨?_, h.calm, h.registers⟩
  have hmod (s : State) : (s.modQueue f q g).outline = { s.outline with books := { s.outline.books with
      queues := s.outline.books.queues.map (fun x => if x.tenant = f ∧ x.index = q ∧ x.st ≠ .destroyed then g x else x) } } := rfl
  have ho : u.outline = s.outline := h.outline
  change (u.modQueue f q g).outline = (s.modQueue f q g).outline
  rw [hmod, hmod, ho]

/-- The save set of a pre-empted launch is written first, where the queue names none yet. -/
def withSaveSet (s : State) (x : Queue) : State :=
  match savedLaunch s x with
  | some l => if x.savePtr = 0 then writeSaveSet s l else s
  | none => s

theorem withSaveSet_keeps (s : State) (x : Queue) : KeepsBooks c s (withSaveSet s x) := by
  unfold withSaveSet
  split
  · exact .ite (fun _ => writeSaveSet_keeps s _) (fun _ => .refl s)
  · exact .refl s

theorem refreshQueue_eq {s : State} {f q : Nat} {x : Queue} (h : queueAt s f q = some x) :
    refreshQueue s f q = updateQueue (withSaveSet s x) f q (fun y => { y with
      st := if y.st = .error then y.st else queueState (withSaveSet s x) y
      wsince := if isWaiting s x && !y.waits then (withSaveSet s x).now else y.wsince, waits := isWaiting s x
      savePtr := saveSet s x, layout := if saveSet s x = 0 then 0 else layoutVersion }) := by
  unfold refreshQueue
  rw [h]
  rfl

/-- Bringing a queue up to date leaves its place in line and its packets. -/
theorem refreshQueue_some {s : State} {f q : Nat} {x : Queue} (h : queueAt s f q = some x) :
    ∃ st ptr layout, (x.st = .error → st = .error) ∧ (x.st ≠ .error → st ≠ .error) ∧ st ≠ .destroyed ∧
      ∀ c, KeepsBooks c (s.modQueue f q (fun _ => controlled x (refreshedTo s x st ptr layout))) (refreshQueue s f q) := by
  have hsaved (c : Prop) : KeepsBooks c s (withSaveSet s x) := withSaveSet_keeps s x
  have hat : queueAt (withSaveSet s x) f q = some x := by rw [queueAt_congr (hsaved True).queues, h]
  have hnow : (withSaveSet s x).now = s.now := congrArg (fun o => o.books.now) (hsaved True).outline
  rw [refreshQueue_eq h, hnow]
  generalize withSaveSet s x = u at hsaved hat
  refine ⟨if x.st = .error then x.st else queueState u x, saveSet s x, if saveSet s x = 0 then 0 else layoutVersion, fun he => ?_,
    fun he => ?_, ?_, fun c => ?_⟩
  · rw [if_pos he, he]
  · rw [if_neg he]
    exact (queueState_live u x).1
  · split
    · exact (queueAt_some h).2.2.2
    · exact (queueState_live u x).2
  · exact (modQueue_mono (hsaved c) f q _).trans (updateQueue_to hat _ rfl)

theorem queueAt_refreshQueue {s : State} {f q : Nat} {x : Queue} (h : queueAt s f q = some x) :
    ∃ y, queueAt (refreshQueue s f q) f q = some y ∧ y.started = x.started ∧ y.ridx = x.ridx ∧ y.last = x.last := by
  obtain ⟨st, ptr, layout, -, -, hst, hk⟩ := refreshQueue_some h
  obtain ⟨-, hf, hq, -⟩ := queueAt_some h
  refine ⟨controlled x (refreshedTo s x st ptr layout), ?_, by simp [refreshedTo], by simp [refreshedTo], by simp [refreshedTo]⟩
  rw [queueAt_congr (hk True).queues]
  exact queueAt_modQueue h _ (fun _ _ _ _ => ⟨by simp [refreshedTo, hf], by simp [refreshedTo, hq], by simpa [refreshedTo] using hst⟩)

/-! ### A queue in ERROR (R55, R60) -/

/-- A queue enters ERROR with a code at a packet. -/
theorem queueError_some {s : State} {f q code : Nat} {index : BitVec 32} {x : Queue} (h : queueAt s f q = some x) (hst : x.st ≠ .error) :
    ∃ ps, (∀ r ∈ ps, r ∈ x.started) ∧
      ∀ c, KeepsBooks c (s.modQueue f q (fun _ => controlled x { x with
        st := .error, err := code, ridx := index, started := ps, pending := false, waits := false }))
        (queueError s f q code (some index)) := by
  unfold queueError
  rw [h]
  dsimp only
  rw [if_neg hst]
  refine ⟨x.started.filter (fun p => !((accessOf p).isSome && decide (p.index = x.ridx))), fun r hr => (List.mem_filter.mp hr).1,
    fun c => ?_⟩
  refine .trans (.trans (modQueue_mono (dropAccesses_keeps s _) f q _) (updateQueue_to ?_ _ rfl))
    (.trans (.foldl _ _ _ fun p _ u => packetDone_keeps u x p.irq) (signalQueue_keeps _ x))
  exact h

/-! ### A packet leaves the started ones (R56, R60) -/

/-- A queue without one of its started packets. -/
def Queue.without (x : Queue) (i : BitVec 32) : Queue := { x with started := x.started.filter (fun p => decide (p.index ≠ i)) }

theorem queueAt_unstart {s : State} {f q : Nat} {x : Queue} (h : queueAt s f q = some x) (i : BitVec 32) :
    queueAt (unstart s x i) f q = some (x.without i) := by
  obtain ⟨-, hf, hq, hst⟩ := queueAt_some h
  rw [queueAt_eq_find] at h ⊢
  unfold unstart
  dsimp only
  rw [List.find?_filter, List.find?_map, show s.queues.find? _ = some x from ?_]
  · simp [hf, hq, hst, Queue.without]
  · rw [← h]
    congr 1
    funext y
    by_cases hy : y.tenant = f ∧ y.index = q ∧ y.st ≠ .destroyed
    · simp [hy, hf, hq, hst]
    · by_cases hdead : y.st = .destroyed
      · simp [hdead, hst]
      · have hother : ¬(y.tenant = f ∧ y.index = q) := fun h => hy ⟨h.1, h.2, hdead⟩
        simpa [hdead, hst, hf, hq, hother] using not_and.mp hother

theorem unstart_rest (s : State) (x : Queue) (i : BitVec 32) : Keeps Outline.rest c s (unstart s x i) := .of_pend_eq rfl rfl rfl

theorem refreshQueue_rest (s : State) (f q : Nat) : Keeps Outline.rest c s (refreshQueue s f q) := by
  cases h : queueAt s f q with
  | none => rw [refreshQueue_none h]; exact .refl s
  | some x =>
    obtain ⟨st, ptr, layout, -, -, -, hk⟩ := refreshQueue_some h
    exact (modQueue_rest s f q _).trans (.of_books (hk c))

theorem queueError_rest (s : State) (f q code : Nat) (index : BitVec 32) : Keeps Outline.rest c s (queueError s f q code (some index)) := by
  cases h : queueAt s f q with
  | none => rw [queueError, h]; exact .refl s
  | some x =>
    by_cases hst : x.st = .error
    · simp only [queueError, h, hst, if_true]
      exact .refl s
    · obtain ⟨ps, -, hk⟩ := queueError_some (code := code) (index := index) h hst
      exact (modQueue_rest s f q _).trans (.of_books (hk c))

/-! ### The end of a packet (R56, R60) -/

theorem endPacket_rest (s : State) (x : Queue) (p : PacketRec) (failed : Bool) : Keeps Outline.rest c s (endPacket s x p failed) := by
  refine (unstart_rest s x p.index).trans (.ite (fun _ => .ite (fun _ => .refl _) fun _ => .of_books (packetDone_keeps ..)) fun _ => ?_)
  exact .ite (fun _ => queueError_rest ..) (fun _ => (refreshQueue_rest ..).trans (.of_books (packetDone_keeps ..)))

theorem decision_after_packetDone (s : State) (x : Queue) (irq : Bool) : .ev .schedulingDecision ∈ (packetDone s x irq).agenda :=
  List.mem_cons_self

theorem endPacket_ends {s : State} {x : Queue} (h : queueAt s x.tenant x.index = some x) (p : PacketRec) :
    PacketEnds (endPacket s x p false) x p x.ridx := by
  have hst := (queueAt_some h).2.2.2
  have hend : endPacket s x p false =
      packetDone (refreshQueue (unstart s x p.index) x.tenant x.index) x p.irq := by
    simp [endPacket, hst]
  obtain ⟨y, hy, hstarted, hridx, hlast⟩ := queueAt_refreshQueue (queueAt_unstart h p.index)
  rw [hend]
  refine ⟨decision_after_packetDone _ _ _, y, ?_, hstarted, hridx, hlast⟩
  rw [queueAt_congr (packetDone_keeps (c := True) _ _ _).queues, hy]

/-- A packet ends beside an event of its launch. -/
theorem endPacket_raised {s : State} {x : Queue} (h : queueAt s x.tenant x.index = some x) (p : PacketRec) (key : Nat) :
    PacketEnds (endPacket (raise s .graphDone key) x p false) x p x.ridx :=
  endPacket_ends ((queueAt_congr (raise_queues s .graphDone key (by decide)) _ _).trans h) p

theorem endPacket_fails {s : State} {x : Queue} (h : queueAt s x.tenant x.index = some x) (hne : x.st ≠ .error) (p : PacketRec) :
    PacketFails (endPacket s x p true) x p := by
  have hst := (queueAt_some h).2.2.2
  have hend : endPacket s x p true = queueError (unstart s x p.index) x.tenant x.index 3 (some p.index) := by
    simp [endPacket, hst]
  have hat := queueAt_unstart h p.index
  obtain ⟨ps, hps, hk⟩ := queueError_some (code := 3) (index := p.index) hat hne
  have hnew := (queueAt_congr (hk True).queues x.tenant x.index).trans
    (queueAt_modQueue hat _ (fun _ _ _ _ => by simp [Queue.without]))
  refine ⟨_, hend ▸ hnew, by simp, by simp, by simp, fun r hr => ?_⟩
  have hmem := hps r (by simpa using hr)
  simpa [Queue.without] using hmem

/-- Of a destroyed queue no record is left that has the packet among its started ones. -/
theorem endPacket_destroyed {s : State} {x : Queue} (h : x.st = .destroyed) (p : PacketRec) (failed : Bool) :
    ∀ y ∈ (endPacket s x p failed).queues, y.tenant = x.tenant → y.index = x.index → y.st = .destroyed →
      ∀ r ∈ y.started, r.index ≠ p.index := by
  have hqueues : (endPacket s x p failed).queues = (unstart s x p.index).queues := by
    unfold endPacket
    dsimp only
    rw [if_pos h]
    split
    · rfl
    · exact (packetDone_keeps (c := True) _ _ _).queues
  rw [hqueues]
  intro y hy hten hidx hst r hr
  obtain ⟨z, -, rfl⟩ := List.mem_map.mp (List.mem_filter.mp hy).1
  split at hr
  · simpa using (List.mem_filter.mp hr).2
  · rename_i hother
    rw [if_neg hother] at hten hidx hst
    exact absurd ⟨hten, hidx, by simp [hst, h]⟩ hother

/-! ### The queue that has a packet started (R56) -/

theorem startedQueue_some {s : State} {f q : Nat} {i : BitVec 32} {x : Queue} {p : PacketRec}
    (h : startedQueue s f q i = some (x, p)) : x.tenant = f ∧ x.index = q ∧ p.index = i := by
  unfold startedQueue at h
  dsimp only at h
  set hits := (s.queues.filter (fun x => x.tenant == f && x.index == q)).filterMap (fun x =>
    (x.started.find? (fun p => decide (p.index = i))).map (fun p => (x, p))) with hhits
  have hmem : (x, p) ∈ hits := by
    split at h
    · rename_i hit hfind
      exact Option.some.inj h ▸ List.mem_of_find?_eq_some hfind
    · exact List.mem_of_mem_head? (Option.mem_def.mpr h)
  obtain ⟨y, hy, hyp⟩ := List.mem_filterMap.mp hmem
  obtain ⟨r, hr, hrp⟩ := Option.map_eq_some_iff.mp hyp
  obtain ⟨rfl, rfl⟩ := Prod.mk.inj hrp
  have hname := (List.mem_filter.mp hy).2
  have hidx := List.find?_some hr
  simp only [Bool.and_eq_true, beq_iff_eq] at hname
  exact ⟨hname.1, hname.2, of_decide_eq_true hidx⟩

section Completes
variable {s : State} {f q i : Nat} {x : Queue} {p : PacketRec} (hs : startedQueue s f q (BitVec.ofNat 32 i) = some (x, p))
include hs

/-! ### Copies and hints (R57, R59) -/

/-- The state without a copy that is over. -/
def copyOver (s : State) (id : Nat) : State := { dropFar s id with copies := s.copies.filter (fun k => !(k.id == id)) }

omit hs in
theorem copyOver_copies (s : State) (x : Queue) (p : PacketRec) (id : Nat) (failed : Bool) :
    ∀ k ∈ (endPacket (copyOver s id) x p failed).copies, k.id ≠ id := by
  intro k hk
  rw [show (endPacket (copyOver s id) x p failed).copies = (copyOver s id).copies from
    congrArg (fun o => o.books.copies) (endPacket_rest (c := True) ..).outline] at hk
  simpa using (List.mem_filter.mp hk).2

theorem exec_packetComplete_copy {id : Nat} {k : Copy} (hwork : p.work = .copy id)
    (hfind : s.copies.find? (fun c => c.id == id) = some k) :
    exec (.packetComplete f q i) s =
      .next (if landingYet s k then s
        else if k.stop.isSome then endPacket (copyOver s id) x p true
        else if copyLanded s k then endPacket (copyOver s id) x p false
        else s) := by
  change execPacketComplete f q i s = _
  simp only [execPacketComplete, hs, hwork, hfind]
  split_ifs <;> rfl

theorem exec_packetComplete_hint {w : List PageWant} {bad : Bool} (hwork : p.work = .hint w bad) :
    exec (.packetComplete f q i) s = .next (if w.isEmpty then endPacket s x p bad else s) := by
  change execPacketComplete f q i s = _
  simp only [execPacketComplete, hs, hwork]
  split_ifs <;> rfl

theorem exec_packetComplete_access {id : Nat} (hwork : p.work = .wait id ∨ p.work = .signal id) :
    exec (.packetComplete f q i) s = .next (endAccess s x p id) := by
  change execPacketComplete f q i s = _
  rcases hwork with hwork | hwork <;> simp only [execPacketComplete, hs, hwork]

theorem exec_packetComplete_launch {id : Nat} {l : Launch} (hwork : p.work = .launch id) (hl : launchOf s id = some l) :
    exec (.packetComplete f q i) s = .next (endLaunchPacket s x p l) := by
  change execPacketComplete f q i s = _
  simp only [execPacketComplete, hs, hwork, hl]

end Completes

/-! ### Waits and signals (R59, R61) -/

/-- The accesses under way without one that is over. -/
def forgetAccess (s : State) (id : Nat) : State := { s with pend := s.pend.filter (fun e => !(e.id == id)) }

section Access
variable {s : State} {x : Queue} {p : PacketRec} {id : Nat} (h : queueAt s x.tenant x.index = some x)
  (hperformed : s.pend.any (fun e => e.id == id && e.got.isSome) = true)

theorem endAccess_waits (hperformed : s.pend.any (fun e => e.id == id && e.got.isSome) = false) : endAccess s x p id = s := by
  simp [endAccess, hperformed]

include h hperformed

/-- R55: the head packet is consumed. -/
theorem endAccess_head (hhead : p.index = x.ridx) : PacketEnds (endAccess s x p id) x p (x.ridx + 1) := by
  have hend : endAccess s x p id = packetDone (refreshQueue
      (updateQueue (unstart (forgetAccess s id) x p.index) x.tenant x.index (fun x => { x with ridx := x.ridx + 1 }))
        x.tenant x.index) x p.irq := by
    unfold endAccess
    dsimp only
    rw [hperformed, if_neg (by simp), if_pos hhead]
    rfl
  have hst := (queueAt_some h).2.2.2
  have hunstarted : queueAt (unstart (forgetAccess s id) x p.index) x.tenant x.index = some (x.without p.index) :=
    queueAt_unstart h p.index
  obtain ⟨y, hy, hstarted, hridx, hlast⟩ :=
    queueAt_refreshQueue (queueAt_updateQueue hunstarted (fun x => { x with ridx := x.ridx + 1 }) ⟨rfl, rfl, hst⟩)
  rw [hend]
  refine ⟨decision_after_packetDone _ _ _, y, ?_, ?_, ?_, ?_⟩
  · rw [queueAt_congr (packetDone_keeps (c := True) _ _ _).queues, hy]
  · rw [hstarted, controlled_started]
    rfl
  · rw [hridx, controlled_ridx]
    rfl
  · rw [hlast, controlled_last]
    rfl

/-- R57: an access of a packet that has been consumed already, a launch's own signal, ends it. -/
theorem endAccess_other (hhead : p.index ≠ x.ridx) : PacketEnds (endAccess s x p id) x p x.ridx := by
  unfold endAccess
  dsimp only
  rw [hperformed, if_neg (by simp), if_neg hhead]
  have hforget : queueAt (forgetAccess s id) x.tenant x.index = some x := h
  split
  · exact endPacket_ends hforget p
  · rename_i l _
    exact endPacket_raised (s := { forgetAccess s id with launches := s.launches.filter (fun y => !(y.id == l.id)) }) h p l.id

end Access

/-! ### Launches (R57, R70) -/

section Launch
variable {s : State} {x : Queue} {p : PacketRec} {l : Launch}

theorem endLaunchPacket_waits (h : l.ended = true ∨ ∃ r ∈ l.regions, r.st ≠ .finished) : endLaunchPacket s x p l = s := by
  have hnot : (!l.regions.all (fun r => decide (r.st = .finished)) || l.ended) = true := by
    rcases h with h | ⟨r, hr, hst⟩
    · simp [h]
    · simp only [Bool.or_eq_true, Bool.not_eq_true', List.all_eq_false]
      exact .inl ⟨r, hr, by simpa using hst⟩
  rw [endLaunchPacket, if_pos hnot]

variable (hended : l.ended = false) (hfinished : ∀ r ∈ l.regions, r.st = .finished)
include hended hfinished

theorem launch_goes_on : ¬(!l.regions.all (fun r => decide (r.st = .finished)) || l.ended) = true := by
  simpa [hended] using hfinished

theorem endLaunchPacket_ends (hsignal : l.signal = none) (h : queueAt s x.tenant x.index = some x) :
    PacketEnds (endLaunchPacket s x p l) x p x.ridx ∧ ∀ k ∈ (endLaunchPacket s x p l).launches, k.id ≠ l.id := by
  rw [endLaunchPacket, if_neg (launch_goes_on hended hfinished), hsignal]
  dsimp only
  set s1 := raise { s with launches := s.launches.filter (fun y => !(y.id == l.id)) } .graphDone l.id
  have hraised : KeepsBooks True { s with launches := s.launches.filter (fun y => !(y.id == l.id)) } s1 :=
    raise_keeps _ _ _ (by decide)
  refine ⟨endPacket_raised (s := { s with launches := s.launches.filter (fun y => !(y.id == l.id)) }) h p l.id, fun k hk => ?_⟩
  rw [show (endPacket s1 x p false).launches = s1.launches from
    congrArg Outline.launches (endPacket_rest (c := True) ..).outline, hraised.launches] at hk
  simpa using (List.mem_filter.mp hk).2

theorem endLaunchPacket_later {m : Nat} {v : Word} (hsignal : l.signal = some (m, v))
    (hhead : x.started.head?.map (fun r => r.index) ≠ some p.index) : endLaunchPacket s x p l = s := by
  rw [endLaunchPacket, if_neg (launch_goes_on hended hfinished), hsignal]
  dsimp only
  rw [if_pos hhead]

end Launch

/-! ### A signal under way (R61) -/

theorem raise_pend (s : State) (kind : EventKind) (key : Nat) : (raise s kind key).pend = s.pend := by
  obtain ⟨m, qs, h⟩ := raise_eq s kind key
  rw [h]

theorem setMailboxFull_pend (s : State) (f m : Nat) (b : Bool) : (setMailboxFull s f m b).pend = s.pend := by
  unfold setMailboxFull
  dsimp only [State.modTenant]
  split
  · rfl
  · exact raise_pend s _ _

/-- A packet's signal that is performed has its answer, and nothing else under way changes. -/
theorem performPend_signal (s : State) (e : Pend) {k f m n : Nat} (hwho : e.who = .packet k) (hplace : e.place = .mailbox f m)
    (hop : e.op = .stfw n) :
    (performPend s e).pend = s.pend.map (fun x => if x.id == e.id then { x with got := some (.value (.word 0)) } else x) := by
  cases e
  subst hwho hplace hop
  unfold performPend performHere released
  dsimp only
  have hwrite (data : BitVec 128) (tag : Bool) : (performWrite s none (.stfw n) (.mailbox f m) data tag).pend = s.pend :=
    setMailboxFull_pend _ f m true
  split
  · dsimp only [demandDecision, bring]
    rw [hwrite]
  · dsimp only [bring]
    rw [hwrite]

/-- A signal that has set out alone is under way as it set out, but for its answer. -/
theorem mailboxAccess_pend {s : State} (hpend : s.pend = []) (q : Queue) (m n : Nat) (v : Word) :
    ∃ e ∈ (mailboxAccess s q m (.stfw n) v).2.pend, e.id = (mailboxAccess s q m (.stfw n) v).1 ∧ e.op = .stfw n ∧
      e.place = .mailbox q.tenant m ∧ e.data = v.setWidth 128 := by
  unfold mailboxAccess submit wake
  dsimp only [State.fresh]
  rw [hpend, List.nil_append]
  generalize (Pend.acq _ || _ && _) = acq
  rw [List.length_singleton, wakeFrom]
  split
  · exact ⟨_, List.mem_singleton_self _, rfl, rfl, rfl, rfl⟩
  · rename_i e he
    obtain rfl := List.mem_singleton.mp (List.mem_of_find?_eq_some he)
    rw [wakeFrom, performPend_signal _ _ rfl rfl rfl]
    refine ⟨_, List.mem_map_of_mem (List.mem_singleton_self _), ?_⟩
    simp [Pend.start]

/-- R57: a launch's signal sets out in the place of its launch. -/
theorem endLaunchPacket_signals {s : State} {x : Queue} {p : PacketRec} {l : Launch} {m : Nat} {v : Word} (hended : l.ended = false)
    (hfinished : ∀ r ∈ l.regions, r.st = .finished) (hsignal : l.signal = some (m, v)) (hpend : s.pend = [])
    (h : queueAt s x.tenant x.index = some x) (hhead : x.started.head?.map (fun r => r.index) = some p.index) :
    ∃ y id, queueAt (endLaunchPacket s x p l) x.tenant x.index = some y ∧
      y.started = { p with work := .signal id } :: x.started.tail ∧
      (∀ k ∈ (endLaunchPacket s x p l).launches, k.id = l.id → k.signal = none) ∧
      ∃ e ∈ (endLaunchPacket s x p l).pend, e.id = id ∧ e.op = .stfw 8 ∧ e.place = .mailbox x.tenant m ∧ e.data = v.setWidth 128 := by
  rw [endLaunchPacket, if_neg (launch_goes_on hended hfinished), hsignal]
  dsimp only
  rw [if_neg (fun hne => hne hhead)]
  have hpended := mailboxAccess_pend hpend x m 8 v
  have hat : queueAt (mailboxAccess s x m (.stfw 8) v).2 x.tenant x.index = some x :=
    (queueAt_congr (mailboxAccess_keeps (c := True) s x m _ v).queues _ _).trans h
  generalize mailboxAccess s x m (.stfw 8) v = r at hpended hat
  obtain ⟨id, u⟩ := r
  have hst := (queueAt_some h).2.2.2
  refine ⟨_, id, queueAt_modQueue (s := u.modLaunch l.id (fun x => { x with signal := none })) hat
    (fun x => { x with started := { p with work := .signal id } :: x.started.tail }) (fun y hf hq hst => ⟨hf, hq, hst⟩), rfl,
    fun k hk hid => ?_, hpended⟩
  obtain ⟨y, -, rfl⟩ := List.mem_map.mp hk
  by_cases hy : y.id = l.id
  · simp [hy]
  · simp [hy] at hid

/-! ### What a started packet's completion leaves -/

section Meets
variable {s : State} {i : Nat} {x : Queue} {p : PacketRec} (hs : startedQueue s x.tenant x.index (BitVec.ofNat 32 i) = some (x, p))
include hs

/-- R57: a copy's packet completes once it has landed or stopped, and its writes are performed. -/
theorem copyComplete_meets {id : Nat} {k : Copy} (hwork : p.work = .copy id)
    (hfind : s.copies.find? (fun c => c.id == id) = some k) :
    (landingYet s k = true → exec (.packetComplete x.tenant x.index i) s = .next s) ∧
    (k.stop = none → copyLanded s k = false → exec (.packetComplete x.tenant x.index i) s = .next s) ∧
    (landingYet s k = false →
      (queueAt s x.tenant x.index = some x → k.stop = none → copyLanded s k = true →
        ∃ u, exec (.packetComplete x.tenant x.index i) s = .next u ∧ PacketEnds u x p x.ridx ∧ ∀ k ∈ u.copies, k.id ≠ id) ∧
      (queueAt s x.tenant x.index = some x → k.stop.isSome = true → x.st ≠ .error →
        ∃ u, exec (.packetComplete x.tenant x.index i) s = .next u ∧ PacketFails u x p ∧ ∀ k ∈ u.copies, k.id ≠ id) ∧
      (x.st = .destroyed → k.stop.isSome = true ∨ copyLanded s k = true →
        ∃ u, exec (.packetComplete x.tenant x.index i) s = .next u ∧
          ∀ y ∈ u.queues, y.tenant = x.tenant → y.index = x.index → y.st = .destroyed → ∀ r ∈ y.started, r.index ≠ p.index)) := by
  have hexec := exec_packetComplete_copy hs hwork hfind
  refine ⟨fun hyet => by rw [hexec, if_pos hyet], fun hstop hland => ?_, fun hyet => ?_⟩
  · rw [hexec, hstop, hland]
    simp
  · rw [if_neg (by simp [hyet])] at hexec
    refine ⟨fun h hstop hland => ?_, fun h hstop hne => ?_, fun hst hover => ?_⟩
    · rw [hstop, if_neg (by simp), if_pos hland] at hexec
      exact ⟨_, hexec, endPacket_ends (s := copyOver s id) h p, copyOver_copies s x p id false⟩
    · rw [if_pos hstop] at hexec
      exact ⟨_, hexec, endPacket_fails (s := copyOver s id) h hne p, copyOver_copies s x p id true⟩
    · by_cases hstop : k.stop.isSome = true
      · rw [if_pos hstop] at hexec
        exact ⟨_, hexec, endPacket_destroyed hst p true⟩
      · rw [if_neg hstop, if_pos (hover.resolve_left hstop)] at hexec
        exact ⟨_, hexec, endPacket_destroyed hst p false⟩

/-- R59: a hint's packet completes once it waits for no page. -/
theorem hintComplete_meets {w : List PageWant} {bad : Bool} (hwork : p.work = .hint w bad) :
    (w ≠ [] → exec (.packetComplete x.tenant x.index i) s = .next s) ∧
    (w = [] → queueAt s x.tenant x.index = some x → bad = false →
      ∃ u, exec (.packetComplete x.tenant x.index i) s = .next u ∧ PacketEnds u x p x.ridx) ∧
    (w = [] → queueAt s x.tenant x.index = some x → bad = true → x.st ≠ .error →
      ∃ u, exec (.packetComplete x.tenant x.index i) s = .next u ∧ PacketFails u x p) := by
  rw [exec_packetComplete_hint hs hwork]
  refine ⟨fun hw => by simp [hw], fun hw h hbad => ?_, fun hw h hbad hne => ?_⟩
  · subst hw hbad
    exact ⟨_, rfl, endPacket_ends h p⟩
  · subst hw hbad
    exact ⟨_, rfl, endPacket_fails h hne p⟩

/-- R59, R61: a wait's or a signal's packet completes once its access has been performed. -/
theorem accessComplete_meets {id : Nat} (hwork : p.work = .wait id ∨ p.work = .signal id) :
    (s.pend.any (fun e => e.id == id && e.got.isSome) = false → exec (.packetComplete x.tenant x.index i) s = .next s) ∧
    (s.pend.any (fun e => e.id == id && e.got.isSome) = true → queueAt s x.tenant x.index = some x →
      (p.index = x.ridx → ∃ u, exec (.packetComplete x.tenant x.index i) s = .next u ∧ PacketEnds u x p (x.ridx + 1)) ∧
      (p.index ≠ x.ridx → ∃ u, exec (.packetComplete x.tenant x.index i) s = .next u ∧ PacketEnds u x p x.ridx)) := by
  rw [exec_packetComplete_access hs hwork]
  exact ⟨fun hno => by rw [endAccess_waits hno], fun hyes h =>
    ⟨fun hhead => ⟨_, rfl, endAccess_head h hyes hhead⟩, fun hhead => ⟨_, rfl, endAccess_other h hyes hhead⟩⟩⟩

/-- R57, R70: a launch's packet completes once its regions have finished, after its signal. -/
theorem launchComplete_meets {id : Nat} {l : Launch} (hwork : p.work = .launch id) (hl : launchOf s id = some l) :
    (l.ended = true ∨ (∃ r ∈ l.regions, r.st ≠ .finished) → exec (.packetComplete x.tenant x.index i) s = .next s) ∧
    (l.ended = false → (∀ r ∈ l.regions, r.st = .finished) →
      (l.signal = none → queueAt s x.tenant x.index = some x →
        ∃ u, exec (.packetComplete x.tenant x.index i) s = .next u ∧ PacketEnds u x p x.ridx ∧ ∀ k ∈ u.launches, k.id ≠ l.id) ∧
      (∀ m v, l.signal = some (m, v) →
        ((x.started.head?.map (fun r => r.index)) ≠ some p.index → exec (.packetComplete x.tenant x.index i) s = .next s) ∧
        (s.pend = [] → queueAt s x.tenant x.index = some x → (x.started.head?.map (fun r => r.index)) = some p.index →
          ∃ u y id, exec (.packetComplete x.tenant x.index i) s = .next u ∧ queueAt u x.tenant x.index = some y ∧
            y.started = { p with work := .signal id } :: x.started.tail ∧ (∀ k ∈ u.launches, k.id = l.id → k.signal = none) ∧
            ∃ e ∈ u.pend, e.id = id ∧ e.op = .stfw 8 ∧ e.place = .mailbox x.tenant m ∧ e.data = v.setWidth 128))) := by
  rw [exec_packetComplete_launch hs hwork hl]
  refine ⟨fun hnot => by rw [endLaunchPacket_waits hnot], fun hended hfinished => ⟨fun hsignal h => ?_, fun m v hsignal =>
    ⟨fun hhead => by rw [endLaunchPacket_later hended hfinished hsignal hhead], fun hpend h hhead => ?_⟩⟩⟩
  · exact ⟨_, rfl, endLaunchPacket_ends hended hfinished hsignal h⟩
  · obtain ⟨y, id, hrest⟩ := endLaunchPacket_signals hended hfinished hsignal hpend h hhead
    exact ⟨_, y, id, rfl, hrest⟩

end Meets

end Sys2Proof.Machine
end
section
/-! ## A scheduling decision (R55, R63, R64)

A decision changes queues one at a time, and of each only where it stands in line. `Replaces` is one such change, `Lineup` what every
sequence of them keeps, and `TakenUp` what holds of the queues that the decision has already taken up. -/

namespace Sys2Proof.Machine

/-! ### Sorted lists -/

theorem mem_insertBy {α : Type} (key : α → Nat) (a x : α) (l : List α) : x ∈ insertBy key a l ↔ x = a ∨ x ∈ l := by
  induction l with
  | nil => simp [insertBy]
  | cons b l ih =>
    unfold insertBy
    split
    · simp
    · simp only [List.mem_cons, ih]
      exact or_left_comm

theorem mem_sortBy {α : Type} (key : α → Nat) (x : α) (l : List α) : x ∈ sortBy key l ↔ x ∈ l := by
  have hfold (l acc : List α) : x ∈ l.foldl (fun acc a => insertBy key a acc) acc ↔ x ∈ acc ∨ x ∈ l := by
    induction l generalizing acc with
    | nil => simp
    | cons a l ih => simp only [List.foldl_cons, ih, mem_insertBy, List.mem_cons, or_assoc, or_left_comm]
  simpa [sortBy] using hfold l []

/-- A list with its least keys first. -/
theorem pairwise_insertBy {α : Type} (key : α → Nat) (a : α) {l : List α} (h : l.Pairwise (fun x y => key x ≤ key y)) :
    (insertBy key a l).Pairwise (fun x y => key x ≤ key y) := by
  induction l with
  | nil => simp [insertBy]
  | cons b l ih =>
    obtain ⟨hb, hl⟩ := List.pairwise_cons.mp h
    unfold insertBy
    split
    · rename_i hlt
      refine List.pairwise_cons.mpr ⟨fun y hy => ?_, h⟩
      rcases List.mem_cons.mp hy with rfl | hy
      · exact hlt.le
      · exact hlt.le.trans (hb y hy)
    · rename_i hge
      refine List.pairwise_cons.mpr ⟨fun y hy => ?_, ih hl⟩
      rcases (mem_insertBy key a y l).mp hy with rfl | hy
      · exact not_lt.mp hge
      · exact hb y hy

theorem pairwise_sortBy {α : Type} (key : α → Nat) (l : List α) : (sortBy key l).Pairwise (fun x y => key x ≤ key y) := by
  have hfold (l acc : List α) (h : acc.Pairwise (fun x y => key x ≤ key y)) :
      (l.foldl (fun acc a => insertBy key a acc) acc).Pairwise (fun x y => key x ≤ key y) := by
    induction l generalizing acc with
    | nil => exact h
    | cons a l ih => exact ih _ (pairwise_insertBy key a h)
  exact hfold l [] .nil

/-- The first of a sorted list has a least key. -/
theorem sortBy_head {α : Type} {key : α → Nat} {l : List α} {v : α} (h : (sortBy key l).head? = some v) :
    v ∈ l ∧ ∀ w ∈ l, key v ≤ key w := by
  have hp := pairwise_sortBy key l
  have hmem : v ∈ sortBy key l := List.mem_of_mem_head? (Option.mem_def.mpr h)
  refine ⟨(mem_sortBy key v l).mp hmem, fun w hw => ?_⟩
  have hw' := (mem_sortBy key w l).mpr hw
  cases hs : sortBy key l with
  | nil => rw [hs] at hw'; exact nomatch hw'
  | cons b bs =>
    rw [hs] at h hp hw'
    obtain rfl : b = v := Option.some.inj h
    rcases List.mem_cons.mp hw' with rfl | hw'
    · exact le_rfl
    · exact (List.pairwise_cons.mp hp).1 w hw'

theorem sortBy_head_none {α : Type} {key : α → Nat} {l : List α} (h : (sortBy key l).head? = none) : l = [] := by
  rw [List.head?_eq_none_iff] at h
  exact List.eq_nil_iff_forall_not_mem.mpr (fun x hx => by simpa [h] using (mem_sortBy key x l).mpr hx)

/-! ### What a decision finds of a queue -/

/-- The queue as its tenant numbers it. -/
def Queue.name (x : Queue) : Nat × Nat := (x.tenant, x.index)

/-- What the obligation asks of a state in which nothing runs: queues with names of their own, all owned, no access to a mailbox
started, and launches that wait or have finished, each beside its packet. -/
structure Idle (s : State) : Prop where
  names : (s.queues.map Queue.name).Nodup
  queues : ∀ x ∈ s.queues, x.st ≠ .destroyed ∧ x.pri < 8 ∧ ∀ p ∈ x.started, accessOf p = none
  launches : ∀ l ∈ s.launches, l.ended = false ∧ launchRuns l = false ∧
    ∀ x ∈ s.queues, x.tenant = l.tenant → x.index = l.queue → ∃ p ∈ x.started, p.work = .launch l.id

/-- Two records of a queue that a decision does not tell apart by name, work or failure. -/
structure Alike (x y : Queue) : Prop where
  name : y.name = x.name
  pri : y.pri = x.pri
  ridx : y.ridx = x.ridx
  last : y.last = x.last
  started : y.started = x.started
  error : y.st = .error ↔ x.st = .error
  owned : x.st ≠ .destroyed → y.st ≠ .destroyed

namespace Alike

variable {x y z : Queue}

theorem refl (x : Queue) : Alike x x := ⟨rfl, rfl, rfl, rfl, rfl, .rfl, id⟩

theorem trans (h : Alike x y) (k : Alike y z) : Alike x z :=
  ⟨k.name.trans h.name, k.pri.trans h.pri, k.ridx.trans h.ridx, k.last.trans h.last, k.started.trans h.started,
    k.error.trans h.error, k.owned ∘ h.owned⟩

theorem tenant (h : Alike x y) : y.tenant = x.tenant := congrArg Prod.fst h.name

theorem index (h : Alike x y) : y.index = x.index := congrArg Prod.snd h.name

end Alike

/-- A launch of a queue has a region that has not finished. -/
def unfinishedOf (s : State) (x : Queue) : Bool :=
  s.launches.any (fun l => l.tenant == x.tenant && l.queue == x.index && l.regions.any (fun r => decide (r.st ≠ .finished)))

/-- A queue has work for which it needs a slot. -/
def wantsSlot (s : State) (x : Queue) : Bool := decide (x.st ≠ .error) && (decide (x.ridx ≠ x.last) || unfinishedOf s x)

/-- R63: the effective priority of a queue that waits. -/
def agedPriority (s : State) (x : Queue) : Nat :=
  max x.pri (min (s.tenant x.tenant).ceil.toNat (x.pri + (s.now - x.wsince) / twoMs))

theorem Alike.wantsSlot {s : State} {x y : Queue} (h : Alike x y) : wantsSlot s y = wantsSlot s x := by
  simp only [Machine.wantsSlot, unfinishedOf, h.tenant, h.index, h.ridx, h.last, ne_eq, h.error]

/-! ### Changes one queue at a time -/

/-- A queue gets another record, with its name, and nothing else of the outline changes. -/
structure Replaces (s u : State) (x y : Queue) : Prop where
  keeps : Keeps Outline.rest True s u
  queues : u.queues = s.queues.map (fun z => if z.name = x.name then y else z)
  alike : Alike x y

theorem Replaces.trans {s u v : State} {x y z : Queue} (h : Replaces s u x y) (k : Replaces u v y z) : Replaces s v x z := by
  refine ⟨h.keeps.trans k.keeps, ?_, h.alike.trans k.alike⟩
  rw [k.queues, h.queues, List.map_map]
  refine List.map_congr_left (fun w _ => ?_)
  rw [Function.comp_apply]
  by_cases hw : w.name = x.name
  · rw [if_pos hw, if_pos hw, if_pos rfl]
  · rw [if_neg hw, if_neg hw, h.alike.name, if_neg hw]

theorem Replaces.mem_iff {s u : State} {x y : Queue} (h : Replaces s u x y) (hx : x ∈ s.queues) (z : Queue) :
    z ∈ u.queues ↔ z = y ∨ (z ∈ s.queues ∧ z.name ≠ x.name) := by
  rw [h.queues, List.mem_map]
  constructor
  · rintro ⟨w, hw, rfl⟩
    by_cases hname : w.name = x.name
    · exact .inl (if_pos hname)
    · rw [if_neg hname]
      exact .inr ⟨hw, hname⟩
  · rintro (rfl | ⟨hz, hname⟩)
    · exact ⟨x, hx, if_pos rfl⟩
    · exact ⟨z, hz, if_neg hname⟩

/-- What holds of a state from the beginning of a decision on. -/
structure Lineup (s u : State) : Prop where
  keeps : Keeps Outline.rest True s u
  names : u.queues.map Queue.name = s.queues.map Queue.name
  alike : ∀ y ∈ u.queues, ∃ x ∈ s.queues, Alike x y

theorem Lineup.refl (s : State) : Lineup s s := ⟨.refl s, rfl, fun x hx => ⟨x, hx, .refl x⟩⟩

theorem Lineup.replace {s u v : State} {x y : Queue} (h : Lineup s u) (hx : x ∈ u.queues) (k : Replaces u v x y) : Lineup s v := by
  refine ⟨h.keeps.trans k.keeps, ?_, fun z hz => ?_⟩
  · rw [← h.names, k.queues, List.map_map]
    refine List.map_congr_left (fun w _ => ?_)
    rw [Function.comp_apply]
    split
    · rename_i hw
      exact k.alike.name.trans hw.symm
    · rfl
  · rcases (k.mem_iff hx z).mp hz with rfl | ⟨hz, -⟩
    · obtain ⟨w, hw, hal⟩ := h.alike x hx
      exact ⟨w, hw, hal.trans k.alike⟩
    · exact h.alike z hz

theorem name_of_queueAt {u : State} {f q : Nat} {y : Queue} (hat : queueAt u f q = some y) : y ∈ u.queues ∧ y.name = (f, q) := by
  obtain ⟨hy, rfl, rfl, -⟩ := queueAt_some hat
  exact ⟨hy, rfl⟩

theorem headBlocked_of_no_access (u : State) {y : Queue} (h : ∀ p ∈ y.started, accessOf p = none) : headBlocked u y = false := by
  rw [headBlocked, List.any_eq_false]
  intro p hp
  have hnone := h p hp
  unfold packetBlocked
  unfold accessOf at hnone
  split at hnone <;> simp_all

theorem Lineup.launches_eq {s u : State} (h : Lineup s u) : u.launches = s.launches := congrArg Outline.launches h.keeps.outline

theorem Lineup.now_eq {s u : State} (h : Lineup s u) : u.now = s.now := congrArg (fun o => o.books.now) h.keeps.outline

section Lineup
variable {s u : State} (hi : Idle s) (h : Lineup s u)
include hi h

theorem Lineup.owned {y : Queue} (hy : y ∈ u.queues) : y.st ≠ .destroyed := by
  obtain ⟨x, hx, hal⟩ := h.alike y hy
  exact hal.owned (hi.queues x hx).1

/-- Queues have names of their own. -/
theorem Lineup.eq_of_name {y z : Queue} (hy : y ∈ u.queues) (hz : z ∈ u.queues) (hname : y.name = z.name) : y = z :=
  List.inj_on_of_nodup_map (h.names ▸ hi.names) hy hz hname

theorem Lineup.queueAt_mem {y : Queue} (hy : y ∈ u.queues) : queueAt u y.tenant y.index = some y := by
  cases hat : queueAt u y.tenant y.index with
  | none =>
    rw [queueAt_eq_find, List.find?_eq_none] at hat
    exact absurd (by simpa using h.owned hi hy) (hat y hy)
  | some z =>
    obtain ⟨hz, hname⟩ := name_of_queueAt hat
    rw [h.eq_of_name hi hz hy hname]

theorem Lineup.no_access {y : Queue} (hy : y ∈ u.queues) : ∀ p ∈ y.started, accessOf p = none := by
  obtain ⟨x, hx, hal⟩ := h.alike y hy
  exact hal.started ▸ (hi.queues x hx).2.2

/-- R56: of the queues without a slot those wait that want one. -/
theorem Lineup.isWaiting_eq {y : Queue} (hy : y ∈ u.queues) : isWaiting u y = (y.slot.isNone && wantsSlot s y) := by
  cases hslot : y.slot with
  | some i => simp [isWaiting, hslot]
  | none =>
    have hunfinished : (launchesOf u y).any (isPreempted y) = unfinishedOf s y := by
      rw [launchesOf, h.launches_eq, unfinishedOf, List.any_filter, Bool.eq_iff_iff, List.any_eq_true, List.any_eq_true]
      refine exists_congr (fun l => and_congr_right (fun hl => ?_))
      have hpreempted : hasPreempted l = true → l.regions.any (fun r => decide (r.st ≠ .finished)) = true := by
        simp only [hasPreempted, List.any_eq_true, decide_eq_true_eq]
        exact fun ⟨r, hr, hst⟩ => ⟨r, hr, by simp [hst]⟩
      simp only [isPreempted, hslot, (hi.launches l hl).1, Option.isNone_none, Bool.true_and, Bool.not_false, Bool.and_true,
        Bool.and_eq_true, Bool.or_eq_true, or_iff_right_of_imp hpreempted]
    simp [isWaiting, hslot, headBlocked_of_no_access u (h.no_access hi hy), h.owned hi hy, hunfinished, wantsSlot]

theorem Lineup.displaceable_eq {y : Queue} (hy : y ∈ u.queues) : displaceable u y = displaceable s y := by
  have hworks : packetWorks u y = packetWorks s y := by
    funext p
    simp only [packetWorks, packetRuns, launchOf, h.launches_eq]
  simp only [displaceable, h.now_eq, headBlocked_of_no_access _ (h.no_access hi hy), hworks]

omit h in
/-- A launch that does not run is not pre-empted. -/
theorem Idle.preemptLaunch_eq (u : State) {l : Launch} (hl : l ∈ s.launches) : preemptLaunch u l = u := by
  have hruns := (hi.launches l hl).2.1
  rw [launchRuns, List.any_eq_false] at hruns
  unfold preemptLaunch
  generalize l.regions = rs at hruns
  induction rs with
  | nil => rfl
  | cons r rs ih =>
    have hr : r.st ≠ .started := by simpa using hruns r (by simp)
    rw [List.foldl_cons, if_pos hr]
    exact ih (fun r' hr' => hruns r' (by simp [hr']))

theorem Lineup.modQueue_queues (x y : Queue) :
    (u.modQueue x.tenant x.index (fun _ => y)).queues = u.queues.map (fun z => if z.name = x.name then y else z) := by
  refine List.map_congr_left (fun z hz => ?_)
  have hname : (z.tenant = x.tenant ∧ z.index = x.index ∧ z.st ≠ .destroyed) ↔ z.name = x.name := by
    simp [Queue.name, h.owned hi hz]
  simp only [hname]

/-- A change of a queue's record that it is not told apart by. -/
theorem Lineup.updateQueue_replaces {x : Queue} (hx : x ∈ u.queues) (g : Queue → Queue) (hg : Alike x (g x)) :
    Replaces u (updateQueue u x.tenant x.index g) x (controlled x (g x)) := by
  refine ⟨updateQueue_rest .., ?_, ?_⟩
  · rw [updateQueue_queues (h.queueAt_mem hi hx), h.modQueue_queues hi]
  · exact ⟨by simpa [Queue.name] using hg.name, by simpa using hg.pri, by simpa using hg.ridx, by simpa using hg.last,
      by simpa using hg.started, by simpa using hg.error, by simpa using hg.owned⟩

theorem Lineup.refreshQueue_replaces {x : Queue} (hx : x ∈ u.queues) :
    ∃ y, Replaces u (refreshQueue u x.tenant x.index) x y ∧ y.slot = x.slot ∧ y.mappedAt = x.mappedAt ∧
      y.waits = isWaiting u x ∧ y.wsince = if isWaiting u x && !x.waits then u.now else x.wsince := by
  obtain ⟨st, ptr, layout, herr, hlive, hst, hk⟩ := refreshQueue_some (h.queueAt_mem hi hx)
  refine ⟨controlled x (refreshedTo u x st ptr layout), ⟨?_, ?_, ?_⟩, by simp [refreshedTo], by simp [refreshedTo],
    by simp [refreshedTo], by simp [refreshedTo]⟩
  · exact refreshQueue_rest ..
  · rw [(hk True).queues, h.modQueue_queues hi]
  · refine ⟨by simp [Queue.name, refreshedTo], by simp [refreshedTo], by simp [refreshedTo], by simp [refreshedTo],
      by simp [refreshedTo], ?_, fun _ => by simpa [refreshedTo] using hst⟩
    simp only [controlled_st, refreshedTo]
    exact ⟨fun he => by_contra fun hne => hlive hne he, herr⟩

end Lineup

end Sys2Proof.Machine
end
section
/-! ## Slots are given out (R63, R64) -/

namespace Sys2Proof.Machine

section Lineup
variable {s u : State} (hi : Idle s) (h : Lineup s u)
include hi h

/-- A queue that gets a slot has it from now on, and no longer waits. -/
theorem Lineup.mapQueue_replaces {x : Queue} (hx : x ∈ u.queues) (n : Nat) :
    ∃ y, Replaces u (mapQueue u x n) x y ∧ y.slot = some n ∧ y.mappedAt = s.now ∧ y.waits = false := by
  have hfirst := h.updateQueue_replaces hi hx (fun x => { x with slot := some n, pending := false, mappedAt := u.now })
    ⟨rfl, rfl, rfl, rfl, rfl, .rfl, id⟩
  have hmid := h.replace hx hfirst
  have hmem := (hfirst.mem_iff hx _).mpr (.inl rfl)
  obtain ⟨y, hsecond, hslot, hmapped, hwaits, -⟩ := hmid.refreshQueue_replaces hi hmem
  rw [controlled_tenant, controlled_index] at hsecond
  refine ⟨y, hfirst.trans hsecond, by simpa using hslot, ?_, ?_⟩
  · rw [hmapped, controlled_mappedAt, h.now_eq]
  · rw [hwaits, hmid.isWaiting_eq hi hmem, controlled_slot]
    rfl

/-- A queue that loses its slot waits from now on, where it wants one. -/
theorem Lineup.displaceQueue_replaces {x : Queue} (hx : x ∈ u.queues) (hwaits : x.waits = false) :
    ∃ y, Replaces u (displaceQueue u x) x y ∧ y.slot = none ∧ y.pri = x.pri ∧ (wantsSlot s y = true → y.wsince = s.now) := by
  have hlaunches : (launchesOf u x).foldl preemptLaunch u = u := by
    have hnone (ls : List Launch) (hls : ∀ l ∈ ls, l ∈ s.launches) : ls.foldl preemptLaunch u = u := by
      induction ls with
      | nil => rfl
      | cons l ls ih =>
        rw [List.foldl_cons, hi.preemptLaunch_eq u (hls l (by simp))]
        exact ih (fun k hk => hls k (by simp [hk]))
    exact hnone _ (fun l hl => h.launches_eq ▸ (List.mem_filter.mp hl).1)
  have hfirst := h.updateQueue_replaces hi hx (fun x => { x with slot := none }) ⟨rfl, rfl, rfl, rfl, rfl, .rfl, id⟩
  have hmid := h.replace hx hfirst
  have hmem := (hfirst.mem_iff hx _).mpr (.inl rfl)
  obtain ⟨y, hsecond, hslot, -, -, hsince⟩ := hmid.refreshQueue_replaces hi hmem
  rw [controlled_tenant, controlled_index] at hsecond
  rw [displaceQueue, hlaunches]
  refine ⟨y, hfirst.trans hsecond, by simpa using hslot, by simpa using hsecond.alike.pri, fun hwant => ?_⟩
  rw [hsecond.alike.wantsSlot] at hwant
  rw [hsince, hmid.isWaiting_eq hi hmem, hwant, hmid.now_eq]
  simp [hwaits]

/-- R64: a queue that has just been given a slot, and wants one, keeps it. -/
theorem Lineup.not_displaceable {y : Queue} (hy : y ∈ u.queues) (hwant : wantsSlot s y = true) (hmapped : y.mappedAt = s.now) :
    displaceable s y = false := by
  have hrecent : ¬ twoMs ≤ s.now - y.mappedAt := by
    rw [hmapped]
    simp [twoMs]
  obtain ⟨x, hx, hal⟩ := h.alike y hy
  simp only [wantsSlot, Bool.and_eq_true, decide_eq_true_eq, Bool.or_eq_true] at hwant
  obtain ⟨hst, hwork⟩ := hwant
  have hkeeps : (!(decide (y.ridx ≠ y.last) && decide (y.st ≠ .error)) && !y.started.any (packetWorks s y)) = false := by
    rcases hwork with hridx | hunfinished
    · simp [hridx, hst]
    · obtain ⟨l, hl, hof⟩ := List.any_eq_true.mp hunfinished
      simp only [Bool.and_eq_true, beq_iff_eq] at hof
      obtain ⟨⟨hten, hidx⟩, -⟩ := hof
      obtain ⟨hended, -, hpacket⟩ := hi.launches l hl
      obtain ⟨p, hp, hwork⟩ := hpacket x hx (hal.tenant ▸ hten.symm) (hal.index ▸ hidx.symm)
      have hworks : packetWorks s y p = true := by
        obtain ⟨k, hk⟩ := Option.isSome_iff_exists.mp 
          ((List.find?_isSome (p := fun k => k.id == l.id)).mpr ⟨l, hl, beq_self_eq_true l.id⟩)
        have hk' : launchOf s l.id = some k := hk
        simp [packetWorks, hwork, hk', (hi.launches k (List.mem_of_find?_eq_some hk)).1, hst]
      rw [List.any_eq_true.mpr ⟨p, hal.started ▸ hp, hworks⟩]
      simp
  rw [displaceable, hkeeps, headBlocked_of_no_access s (h.no_access hi hy), decide_eq_false hrecent]
  rfl

end Lineup

/-! ### What holds of the queues that have been taken up -/

/-- Of a queue that keeps its slot, its record. -/
def Retains (s u : State) : Prop :=
  ∀ v ∈ s.queues, v.slot.isSome = true → v.st ≠ .error → v.ridx ≠ v.last → s.now - v.mappedAt < twoMs →
    ∃ w ∈ u.queues, Alike v w ∧ w.slot = v.slot ∧ w.mappedAt = v.mappedAt

/-- No slot is free, and no queue that may be displaced has a lower priority than one. -/
def Outranked (s u : State) (p : Nat) : Prop :=
  (∀ n, n < 64 → ∃ v ∈ u.queues, v.slot = some n) ∧
    ∀ v ∈ u.queues, v.slot.isSome = true → displaceable s v = true → p ≤ v.pri

/-- What holds while a decision gives out slots, with the queues left that it has still to take up. -/
structure TakenUp (s u : State) (left : List (Nat × Nat)) : Prop where
  lineup : Lineup s u
  retains : Retains s u
  mapped : ∀ y ∈ u.queues, y.slot.isSome = true → y.waits = false
  outranked : ∀ y ∈ u.queues, y.slot = none → wantsSlot s y = true → y.name ∉ left → Outranked s u (agedPriority s y)

/-- A change that leaves a queue where it stands in line. -/
theorem Retains.replace {s u v : State} {x y : Queue} (h : Retains s u) (hx : x ∈ u.queues) (k : Replaces u v x y)
    (hsame : x.slot.isSome = true → x.st ≠ .error → x.ridx ≠ x.last → s.now - x.mappedAt < twoMs →
      y.slot = x.slot ∧ y.mappedAt = x.mappedAt) (hnames : ∀ z ∈ u.queues, z.name = x.name → z = x) : Retains s v := by
  intro w hw hslot hst hridx hrecent
  obtain ⟨z, hz, hal, hzslot, hzmapped⟩ := h w hw hslot hst hridx hrecent
  by_cases hname : z.name = x.name
  · obtain rfl := hnames z hz hname
    obtain ⟨hyslot, hymapped⟩ := hsame (hzslot ▸ hslot) (fun he => hst (hal.error.mp he)) (by rw [hal.ridx, hal.last]; exact hridx)
      (hzmapped ▸ hrecent)
    exact ⟨y, (k.mem_iff hx y).mpr (.inl rfl), hal.trans k.alike, hyslot.trans hzslot, hymapped.trans hzmapped⟩
  · exact ⟨z, (k.mem_iff hx z).mpr (.inr ⟨hz, hname⟩), hal, hzslot, hzmapped⟩

/-! ### Slots and their holders (R64) -/

theorem freeSlot_none {u : State} (h : freeSlot u = none) (n : Nat) (hn : n < 64) : ∃ v ∈ u.queues, v.slot = some n := by
  have hall := List.find?_eq_none.mp h n (List.mem_range.mpr hn)
  simpa using hall

section Victim
variable {s u : State} (hi : Idle s) (h : Lineup s u)
include hi h

/-- Among the queues that hold a slot those may lose it that may be displaced. -/
theorem Lineup.mem_victims (w : Queue) : w ∈ u.queues.filter (fun q =>
    q.slot.isSome && displaceable u q && (mayPreempt u || !(launchesOf u q).any launchRuns)) ↔
      w ∈ u.queues ∧ w.slot.isSome = true ∧ displaceable s w = true := by
  have hruns (q : Queue) : (launchesOf u q).any launchRuns = false := by
    rw [List.any_eq_false]
    intro l hl
    rw [(hi.launches l (h.launches_eq ▸ (List.mem_filter.mp hl).1)).2.1]
    exact Bool.false_ne_true
  rw [List.mem_filter]
  refine and_congr_right (fun hw => ?_)
  rw [h.displaceable_eq hi hw, hruns, Bool.not_false, Bool.or_true, Bool.and_true, Bool.and_eq_true]

theorem Lineup.victim_none (hv : victim u = none) {w : Queue} (hw : w ∈ u.queues) (hslot : w.slot.isSome = true) :
    displaceable s w = false := by
  have hnil := sortBy_head_none hv
  refine Bool.eq_false_iff.mpr (fun hd => ?_)
  have hmem := (h.mem_victims hi w).mpr ⟨hw, hslot, hd⟩
  rw [hnil] at hmem
  exact nomatch hmem

theorem Lineup.victim_some {v : Queue} (hv : victim u = some v) : (v ∈ u.queues ∧ v.slot.isSome = true ∧ displaceable s v = true) ∧
    ∀ w ∈ u.queues, w.slot.isSome = true → displaceable s w = true → v.pri ≤ w.pri := by
  obtain ⟨hmem, hleast⟩ := sortBy_head hv
  refine ⟨(h.mem_victims hi v).mp hmem, fun w hw hslot hd => ?_⟩
  have hkey := hleast w ((h.mem_victims hi w).mpr ⟨hw, hslot, hd⟩)
  omega

theorem Lineup.effectivePriority_eq (hc : s.calm) {y : Queue} (hy : y ∈ u.queues) (hwaits : isWaiting u y = true) :
    effectivePriority u y = agedPriority s y := by
  have hceil : (u.tenant y.tenant).ceil = (s.tenant y.tenant).ceil :=
    show (u.tenant y.tenant).face.ceil = (s.tenant y.tenant).face.ceil from
      congrArg Tenant.ceil (tenant_face_eq (h.keeps.registers trivial hc) y.tenant)
  simp [effectivePriority, hwaits, headBlocked_of_no_access u (h.no_access hi hy), agedPriority, hceil, h.now_eq]

end Victim

/-! ### A decision takes up a queue (R64) -/

/-- A queue with packets left keeps its slot for 2 ms. -/
theorem not_displaceable_busy {s : State} {v : Queue} (haccess : ∀ p ∈ v.started, accessOf p = none) (hst : v.st ≠ .error)
    (hridx : v.ridx ≠ v.last) (hrecent : s.now - v.mappedAt < twoMs) : displaceable s v = false := by
  simp [displaceable, headBlocked_of_no_access s haccess, hst, hridx, hrecent]

/-- R63: a queue that has just begun to wait has its own priority. -/
theorem agedPriority_now {s : State} {x : Queue} (h : x.wsince = s.now) : agedPriority s x = x.pri := by
  simp [agedPriority, h]

section TakeUp
variable {s u : State} {x : Queue} {left : List (Nat × Nat)} (hi : Idle s) (h : TakenUp s u (x.name :: left)) (hx : x ∈ u.queues)
  (hnone : x.slot = none) (hwant : wantsSlot s x = true)
include hi h hx hnone hwant

/-- A queue that takes a free slot leaves the others as they are. -/
theorem TakenUp.takeSlot (n : Nat) : TakenUp s (mapQueue u x n) left := by
  obtain ⟨y, k, hslot, hmapped, hwaits⟩ := h.lineup.mapQueue_replaces hi hx n
  have hline := h.lineup.replace hx k
  have hy : y ∈ (mapQueue u x n).queues := (k.mem_iff hx y).mpr (.inl rfl)
  have hkept := hline.not_displaceable hi hy (k.alike.wantsSlot.trans hwant) hmapped
  have hnames : ∀ z ∈ u.queues, z.name = x.name → z = x := fun z hz hname => h.lineup.eq_of_name hi hz hx hname
  refine ⟨hline, h.retains.replace hx k (fun hs => by simp [hnone] at hs) hnames, fun z hz hs => ?_, fun z hz hzslot hzwant hleft => ?_⟩
  · rcases (k.mem_iff hx z).mp hz with rfl | ⟨hz, -⟩
    · exact hwaits
    · exact h.mapped z hz hs
  · rcases (k.mem_iff hx z).mp hz with rfl | ⟨hz, hname⟩
    · rw [hslot] at hzslot
      exact nomatch hzslot
    · obtain ⟨htaken, hout⟩ := h.outranked z hz hzslot hzwant (by simp [hname, hleft])
      refine ⟨fun m hm => ?_, fun w hw hs hd => ?_⟩
      · obtain ⟨w, hw, hwm⟩ := htaken m hm
        refine ⟨w, (k.mem_iff hx w).mpr (.inr ⟨hw, fun hwname => ?_⟩), hwm⟩
        rw [hnames w hw hwname, hnone] at hwm
        exact nomatch hwm
      · rcases (k.mem_iff hx w).mp hw with rfl | ⟨hw, -⟩
        · rw [hkept] at hd
          exact nomatch hd
        · exact hout w hw hs hd

omit hnone hwant in
/-- A queue that finds no slot it could take stays outranked. -/
theorem TakenUp.pass (hfree : freeSlot u = none)
    (hout : ∀ w ∈ u.queues, w.slot.isSome = true → displaceable s w = true → agedPriority s x ≤ w.pri) : TakenUp s u left := by
  refine ⟨h.lineup, h.retains, h.mapped, fun z hz hzslot hzwant hleft => ?_⟩
  by_cases hname : z.name = x.name
  · rw [h.lineup.eq_of_name hi hz hx hname]
    exact ⟨freeSlot_none hfree, hout⟩
  · exact h.outranked z hz hzslot hzwant (by simp [hname, hleft])

/-- A queue that takes the slot of the least one that may be displaced: that one, and all that waited before, are outranked. -/
theorem TakenUp.displace {v : Queue} {n : Nat} (hfree : freeSlot u = none) (hv : victim u = some v) (hvslot : v.slot = some n) :
    TakenUp s (mapQueue (displaceQueue u v) x n) left := by
  obtain ⟨⟨hvmem, hvmapped, hvd⟩, hleast⟩ := h.lineup.victim_some hi hv
  obtain ⟨v', kv, hgone, hpri, hsince⟩ := h.lineup.displaceQueue_replaces hi hvmem (h.mapped v hvmem hvmapped)
  have hline := h.lineup.replace hvmem kv
  have hne : x.name ≠ v.name := fun hname => by
    rw [h.lineup.eq_of_name hi hx hvmem hname, hvslot] at hnone
    exact nomatch hnone
  have hx' : x ∈ (displaceQueue u v).queues := (kv.mem_iff hvmem x).mpr (.inr ⟨hx, hne⟩)
  obtain ⟨y, k, hslot, hmapped, hwaits⟩ := hline.mapQueue_replaces hi hx' n
  have hline' := hline.replace hx' k
  set w := mapQueue (displaceQueue u v) x n
  have hcases (z : Queue) (hz : z ∈ w.queues) : z = y ∨ z = v' ∨ (z ∈ u.queues ∧ z.name ≠ x.name ∧ z.name ≠ v.name) := by
    rcases (k.mem_iff hx' z).mp hz with rfl | ⟨hz, hname⟩
    · exact .inl rfl
    · exact .inr (((kv.mem_iff hvmem z).mp hz).imp_right fun hz => ⟨hz.1, hname, hz.2⟩)
  have hstays (z : Queue) (hz : z ∈ u.queues) (hzx : z.name ≠ x.name) (hzv : z.name ≠ v.name) : z ∈ w.queues :=
    (k.mem_iff hx' z).mpr (.inr ⟨(kv.mem_iff hvmem z).mpr (.inr ⟨hz, hzv⟩), hzx⟩)
  have hy : y ∈ w.queues := (k.mem_iff hx' y).mpr (.inl rfl)
  have hkept := hline'.not_displaceable hi hy (k.alike.wantsSlot.trans hwant) hmapped
  have hout (p : Nat) (hp : ∀ z ∈ u.queues, z.slot.isSome = true → displaceable s z = true → p ≤ z.pri) : Outranked s w p := by
    refine ⟨fun m hm => ?_, fun z hz hs hd => ?_⟩
    · obtain ⟨z, hz, hzm⟩ := freeSlot_none hfree m hm
      by_cases hzv : z.name = v.name
      · rw [h.lineup.eq_of_name hi hz hvmem hzv, hvslot] at hzm
        exact ⟨y, hy, hslot.trans hzm⟩
      · refine ⟨z, hstays z hz (fun hzx => ?_) hzv, hzm⟩
        rw [h.lineup.eq_of_name hi hz hx hzx, hnone] at hzm
        exact nomatch hzm
    · rcases hcases z hz with rfl | rfl | ⟨hz, -, -⟩
      · rw [hkept] at hd
        exact nomatch hd
      · rw [hgone] at hs
        exact nomatch hs
      · exact hp z hz hs hd
  refine ⟨hline', ?_, fun z hz hs => ?_, fun z hz hzslot hzwant hleft => ?_⟩
  · have hretains := h.retains.replace hvmem kv (fun _ hst hridx hrecent => ?_)
      (fun z hz hname => h.lineup.eq_of_name hi hz hvmem hname)
    · exact hretains.replace hx' k (fun hs => by simp [hnone] at hs) (fun z hz hname => hline.eq_of_name hi hz hx' hname)
    · rw [not_displaceable_busy (h.lineup.no_access hi hvmem) hst hridx hrecent] at hvd
      exact nomatch hvd
  · rcases hcases z hz with rfl | rfl | ⟨hz, -, -⟩
    · exact hwaits
    · rw [hgone] at hs
      exact nomatch hs
    · exact h.mapped z hz hs
  · rcases hcases z hz with rfl | rfl | ⟨hz, hzx, -⟩
    · rw [hslot] at hzslot
      exact nomatch hzslot
    · rw [agedPriority_now (hsince hzwant), hpri]
      exact hout _ hleast
    · exact hout _ (h.outranked z hz hzslot hzwant (by simp [hzx, hleft])).2

end TakeUp

/-- A decision's turn for a queue that it takes up. -/
theorem TakenUp.schedule {s u : State} {x : Queue} {left : List (Nat × Nat)} (hi : Idle s) (hc : s.calm)
    (h : TakenUp s u (x.name :: left)) (hx : x ∈ u.queues) (hwaits : isWaiting u x = true) : TakenUp s (schedule u x) left := by
  have hboth := h.lineup.isWaiting_eq hi hx ▸ hwaits
  rw [Bool.and_eq_true, Option.isNone_iff_eq_none] at hboth
  obtain ⟨hnone, hwant⟩ := hboth
  unfold Machine.schedule
  split
  · exact h.takeSlot hi hx hnone hwant _
  · rename_i hfree
    split
    · rename_i hv
      refine h.pass hi hx hfree (fun w hw hs hd => ?_)
      rw [h.lineup.victim_none hi hv hw hs] at hd
      exact nomatch hd
    · rename_i v hv
      obtain ⟨⟨hvmem, hvmapped, -⟩, hleast⟩ := h.lineup.victim_some hi hv
      split
      · rename_i hvslot
        rw [hvslot] at hvmapped
        exact nomatch hvmapped
      · rename_i n hvslot
        rw [h.lineup.effectivePriority_eq hi hc hx hwaits]
        split
        · exact h.displace hi hx hnone hwant hfree hv hvslot
        · rename_i hless
          exact h.pass hi hx hfree (fun w hw hs hd => (not_lt.mp hless).trans (hleast w hw hs hd))

end Sys2Proof.Machine
end
section
/-! ## What a decision leaves, and what completes a packet (R55, R57 to R60, R63, R64) -/

namespace Sys2Proof.Machine

/-! ### Queues are brought up to date first (R55, R64) -/

/-- What a decision does to a queue first. -/
def settleQueue (s : State) (q : Queue) : State :=
  if q.st = .error ∧ q.slot.isSome ∧ !q.started.any (packetRuns s) then
    updateQueue s q.tenant q.index (fun x => { x with slot := none })
  else refreshQueue s q.tenant q.index

/-- What holds while queues are brought up to date, with those left that have still to be. -/
structure BroughtUp (s u : State) (left : List Queue) : Prop where
  lineup : Lineup s u
  retains : Retains s u
  mapped : ∀ y ∈ u.queues, y.slot.isSome = true → y.name ∉ left.map Queue.name → y.waits = false

section Settle
variable {s u : State} (hi : Idle s)
include hi

theorem Lineup.exists_of_name (h : Lineup s u) {q : Queue} (hq : q ∈ s.queues) : ∃ x ∈ u.queues, Alike q x := by
  have hmem : q.name ∈ u.queues.map Queue.name := h.names ▸ List.mem_map_of_mem hq
  obtain ⟨x, hx, hname⟩ := List.mem_map.mp hmem
  obtain ⟨z, hz, hal⟩ := h.alike x hx
  have hzq : z = q := (Lineup.refl s).eq_of_name hi hz hq (hal.name.symm.trans hname)
  exact ⟨x, hx, hzq ▸ hal⟩

theorem BroughtUp.step {q : Queue} {left : List Queue} (h : BroughtUp s u (q :: left)) (hq : q ∈ s.queues) :
    BroughtUp s (settleQueue u q) left := by
  obtain ⟨x, hx, hal⟩ := h.lineup.exists_of_name hi hq
  have hnames : ∀ z ∈ u.queues, z.name = x.name → z = x := fun z hz hname => h.lineup.eq_of_name hi hz hx hname
  have hstep : ∃ y, Replaces u (settleQueue u q) x y ∧ (y.slot.isSome = true → y.waits = false) ∧
      (x.st ≠ .error → y.slot = x.slot ∧ y.mappedAt = x.mappedAt) := by
    unfold settleQueue
    rw [← hal.tenant, ← hal.index]
    split
    · rename_i herr
      exact ⟨_, h.lineup.updateQueue_replaces hi hx (fun x => { x with slot := none }) ⟨rfl, rfl, rfl, rfl, rfl, .rfl, id⟩,
        fun hs => by simp at hs, fun hne => absurd (hal.error.mpr herr.1) hne⟩
    · obtain ⟨y, k, hslot, hmapped, hwaits, -⟩ := h.lineup.refreshQueue_replaces hi hx
      refine ⟨y, k, fun hs => ?_, fun _ => ⟨hslot, hmapped⟩⟩
      rw [hwaits, h.lineup.isWaiting_eq hi hx, ← hslot]
      cases hy : y.slot with
      | none => simp [hy] at hs
      | some n => rfl
  obtain ⟨y, k, hwaits, hsame⟩ := hstep
  refine ⟨h.lineup.replace hx k, h.retains.replace hx k (fun _ hst _ _ => hsame hst) hnames, fun z hz hs hleft => ?_⟩
  rcases (k.mem_iff hx z).mp hz with rfl | ⟨hz, hname⟩
  · exact hwaits hs
  · exact h.mapped z hz hs (by simpa [hal.name ▸ hname] using hleft)

theorem BroughtUp.foldl (qs : List Queue) (hqs : ∀ q ∈ qs, q ∈ s.queues) (h : BroughtUp s u qs) :
    BroughtUp s (qs.foldl settleQueue u) [] := by
  induction qs generalizing u with
  | nil => exact h
  | cons q qs ih => exact ih (fun r hr => hqs r (by simp [hr])) (h.step hi (hqs q (by simp)))

omit hi in
theorem BroughtUp.refl (s : State) : BroughtUp s s s.queues :=
  ⟨.refl s, fun v hv _ _ _ _ => ⟨v, hv, .refl v, rfl, rfl⟩, fun _ hy _ hleft => absurd (List.mem_map_of_mem hy) hleft⟩

theorem settleQueues_eq : settleQueues s = s.queues.foldl settleQueue s := by
  have hlaunches : (s.queues.foldl settleQueue s).launches = s.launches :=
    ((BroughtUp.refl s).foldl hi s.queues (fun _ hq => hq)).lineup.launches_eq
  unfold settleQueues
  change List.foldl _ (s.queues.foldl settleQueue s) (s.queues.foldl settleQueue s).launches = _
  rw [hlaunches]
  generalize s.queues.foldl settleQueue s = u
  have hnone (ls : List Launch) (hls : ∀ l ∈ ls, l ∈ s.launches) : ls.foldl (fun s l =>
      if l.ended || (match queueAt s l.tenant l.queue with
        | some q => q.slot.isSome
        | none => false) || !mayPreempt s then s else preemptLaunch s l) u = u := by
    induction ls with
    | nil => rfl
    | cons l ls ih =>
      rw [List.foldl_cons, hi.preemptLaunch_eq u (hls l (by simp)), ite_self]
      exact ih (fun k hk => hls k (by simp [hk]))
  exact hnone _ (fun _ hl => hl)

end Settle

/-! ### Queues are taken up (R64) -/

/-- A decision's turn for a queue, if it still waits. -/
def takeUp (s : State) (q : Queue) : State :=
  match queueAt s q.tenant q.index with
  | some x => if isWaiting s x then schedule s x else s
  | none => s

section TakeUp
variable {s u : State} (hi : Idle s) (hc : s.calm)
include hi

theorem mem_waitingOrder (h : Lineup s u) {y : Queue} (hy : y ∈ u.queues) (hnone : y.slot = none) (hwant : wantsSlot s y = true) :
    y ∈ waitingOrder u := by
  simp only [waitingOrder, mem_sortBy, List.mem_filter]
  exact ⟨hy, by rw [h.isWaiting_eq hi hy, hnone, hwant]; rfl⟩

theorem BroughtUp.takenUp (h : BroughtUp s u []) : TakenUp s u ((waitingOrder u).map Queue.name) :=
  ⟨h.lineup, h.retains, fun y hy hs => h.mapped y hy hs List.not_mem_nil, fun _ hy hnone hwant hleft =>
    absurd (List.mem_map_of_mem (mem_waitingOrder hi h.lineup hy hnone hwant)) hleft⟩

include hc

theorem TakenUp.step {q : Queue} {left : List (Nat × Nat)} (h : TakenUp s u (q.name :: left)) : TakenUp s (takeUp u q) left := by
  unfold takeUp
  split
  · rename_i x hat
    obtain ⟨hx, hname⟩ := name_of_queueAt hat
    have hxq : q.name = x.name := hname.symm
    rw [hxq] at h
    split
    · rename_i hwaits
      exact h.schedule hi hc hx hwaits
    · rename_i hwaits
      rw [h.lineup.isWaiting_eq hi hx] at hwaits
      refine ⟨h.lineup, h.retains, h.mapped, fun y hy hnone hwant hleft => h.outranked y hy hnone hwant ?_⟩
      rw [List.mem_cons, not_or]
      refine ⟨fun hname => hwaits ?_, hleft⟩
      rw [← h.lineup.eq_of_name hi hy hx hname, hnone, hwant]
      rfl
  · rename_i hat
    refine ⟨h.lineup, h.retains, h.mapped, fun y hy hnone hwant hleft => h.outranked y hy hnone hwant ?_⟩
    rw [List.mem_cons, not_or]
    refine ⟨fun hname => ?_, hleft⟩
    have hy' := h.lineup.queueAt_mem hi hy
    rw [show y.tenant = q.tenant from congrArg Prod.fst hname, show y.index = q.index from congrArg Prod.snd hname, hat] at hy'
    exact nomatch hy'

theorem TakenUp.foldl (qs : List Queue) (h : TakenUp s u (qs.map Queue.name)) : TakenUp s (qs.foldl takeUp u) [] := by
  induction qs generalizing u with
  | nil => exact h
  | cons q qs ih => exact ih (h.step hi hc)

end TakeUp

/-! ### Effective priorities are noted (R63, R65) -/

theorem displaceable_congr {s : State} {x y : Queue} (h : Alike x y) (hmapped : y.mappedAt = x.mappedAt) :
    displaceable s y = displaceable s x := by
  have hworks : packetWorks s y = packetWorks s x := by
    funext p
    simp only [packetWorks, ne_eq, h.error]
  simp only [displaceable, headBlocked, hworks, hmapped, h.ridx, h.last, h.started, ne_eq, h.error]

/-- A new record of a queue in the same place in line changes nothing that a decision looks at. -/
theorem TakenUp.renew {s u v : State} {x y : Queue} (h : TakenUp s u []) (hi : Idle s) (hx : x ∈ u.queues) (k : Replaces u v x y)
    (hslot : y.slot = x.slot) (hmapped : y.mappedAt = x.mappedAt) (hsince : y.wsince = x.wsince) (hwaits : y.waits = x.waits) :
    TakenUp s v [] := by
  have hnames : ∀ z ∈ u.queues, z.name = x.name → z = x := fun z hz hname => h.lineup.eq_of_name hi hz hx hname
  have hy : y ∈ v.queues := (k.mem_iff hx y).mpr (.inl rfl)
  have hout {p : Nat} (ho : Outranked s u p) : Outranked s v p := by
    refine ⟨fun m hm => ?_, fun z hz hs hd => ?_⟩
    · obtain ⟨w, hw, hwm⟩ := ho.1 m hm
      by_cases hname : w.name = x.name
      · rw [hnames w hw hname] at hwm
        exact ⟨y, hy, hslot.trans hwm⟩
      · exact ⟨w, (k.mem_iff hx w).mpr (.inr ⟨hw, hname⟩), hwm⟩
    · rcases (k.mem_iff hx z).mp hz with rfl | ⟨hz, -⟩
      · rw [k.alike.pri]
        exact ho.2 x hx (hslot ▸ hs) (displaceable_congr k.alike hmapped ▸ hd)
      · exact ho.2 z hz hs hd
  refine ⟨h.lineup.replace hx k, h.retains.replace hx k (fun _ _ _ _ => ⟨hslot, hmapped⟩) hnames, fun z hz hs => ?_,
    fun z hz hnone hwant hleft => hout ?_⟩
  · rcases (k.mem_iff hx z).mp hz with rfl | ⟨hz, -⟩
    · rw [hwaits]
      exact h.mapped x hx (hslot ▸ hs)
    · exact h.mapped z hz hs
  · rcases (k.mem_iff hx z).mp hz with rfl | ⟨hz, -⟩
    · have haged : agedPriority s z = agedPriority s x := by
        simp only [agedPriority, k.alike.pri, k.alike.tenant, hsince]
      rw [haged]
      exact h.outranked x hx (hslot ▸ hnone) (k.alike.wantsSlot ▸ hwant) List.not_mem_nil
    · exact h.outranked z hz hnone hwant hleft

/-- A decision notes a queue's effective priority. -/
def notePriority (s : State) (q : Queue) : State :=
  updateQueue s q.tenant q.index (fun x => { x with effpri := effectivePriority s x })

theorem TakenUp.notePriorities {s u : State} (hi : Idle s) (qs : List Queue) (h : TakenUp s u []) :
    TakenUp s (qs.foldl notePriority u) [] := by
  induction qs generalizing u with
  | nil => exact h
  | cons q qs ih =>
    refine ih ?_
    unfold notePriority
    cases hat : queueAt u q.tenant q.index with
    | none => rwa [updateQueue_none hat]
    | some x =>
      obtain ⟨hx, hname⟩ := name_of_queueAt hat
      rw [show q.tenant = x.tenant from (congrArg Prod.fst hname).symm, show q.index = x.index from (congrArg Prod.snd hname).symm]
      exact h.renew hi hx (h.lineup.updateQueue_replaces hi hx (fun x => { x with effpri := effectivePriority u x })
        ⟨rfl, rfl, rfl, rfl, rfl, .rfl, id⟩) (by simp) (by simp) (by simp) (by simp)

/-! ### The decision (R64) -/

/-- A decision's work on the queues. -/
def giveSlots (s : State) : State :=
  let u := (waitingOrder s).foldl takeUp s
  u.queues.foldl notePriority u

theorem decideQueues_eq (s : State) : decideQueues s =
    settleResets (giveSlots (settleQueues (if mayPreempt (retryCreates s) then endUnresolvedLaunches (retryCreates s) else retryCreates s))) :=
  rfl

theorem retryCreates_none {s : State} (h : s.creating = []) : retryCreates s = s := by
  unfold retryCreates
  rw [h, List.foldl_nil, ← h]

theorem endUnresolvedLaunches_none {s : State} (h : ∀ l ∈ s.launches, l.ended = false) : endUnresolvedLaunches s = s := by
  have hnone : s.launches.filter (fun l => l.ended) = [] := List.filter_eq_nil_iff.mpr (fun l hl => by simp [h l hl])
  rw [endUnresolvedLaunches, hnone, List.foldl_nil]

/-- Before queues are brought up to date a decision without creations and launches to end changes nothing. -/
theorem decideQueues_plain {s : State} (hcreate : s.creating = []) (hended : ∀ l ∈ s.launches, l.ended = false) :
    decideQueues s = settleResets (giveSlots (settleQueues s)) := by
  rw [decideQueues_eq, retryCreates_none hcreate, endUnresolvedLaunches_none hended, ite_self]

theorem settleResets_ceil {s : State} (h : s.calm) (f : Nat) : ((settleResets s).tenant f).ceil = (s.tenant f).ceil := by
  by_cases hf : f < 16
  · exact show ((settleResets s).tenant f).face.ceil = (s.tenant f).face.ceil by rw [settleResets_face h hf]
  · rw [tenant_of_ge _ _ (not_lt.mp hf), tenant_of_ge _ _ (not_lt.mp hf)]

/-- R63, R64: what the decision leaves of a machine in which nothing runs. -/
theorem decideQueues_meets {s : State} (hi : Idle s) (hcreate : s.creating = []) (hpend : s.pend = []) :
    Decided s (decideQueues s) ∧ (decideQueues s).ctl = s.ctl := by
  have hc : s.calm := fun p hp => by rw [hpend] at hp; exact nomatch hp
  have hup : TakenUp s (giveSlots (settleQueues s)) [] := by
    rw [settleQueues_eq hi]
    exact (((BroughtUp.refl s).foldl hi s.queues (fun _ hq => hq)).takenUp hi |>.foldl hi hc _).notePriorities hi _
  rw [decideQueues_plain hcreate (fun l hl => (hi.launches l hl).1)]
  set u := giveSlots (settleQueues s)
  have hcalm : u.calm := hup.lineup.keeps.calm trivial hc
  have hregisters := hup.lineup.keeps.registers trivial hc
  have ho := settleResets_outline u
  have hqueues : (settleResets u).queues = u.queues := congrArg (fun o => o.books.queues) ho
  have hlaunches : (settleResets u).launches = s.launches := (congrArg Outline.launches ho).trans hup.lineup.launches_eq
  have hnow : (settleResets u).now = s.now := (congrArg (fun o => o.books.now) ho).trans hup.lineup.now_eq
  refine ⟨⟨?_, ?_, ?_⟩, (settleResets_ctl hcalm).trans (ctl_eq_of_registers hregisters)⟩
  · rw [hqueues]
    exact hup.lineup.names
  · rw [hqueues, hlaunches, hnow]
    intro q hq hslot hst hwork
    have hceil : ((settleResets u).tenant q.tenant).ceil = (s.tenant q.tenant).ceil :=
      (settleResets_ceil hcalm _).trans (show (u.tenant q.tenant).face.ceil = (s.tenant q.tenant).face.ceil from
        congrArg Tenant.ceil (tenant_face_eq hregisters q.tenant))
    have hwant : wantsSlot s q = true := by
      simpa [wantsSlot, unfinishedOf, hst, and_assoc] using hwork
    obtain ⟨htaken, hout⟩ := hup.outranked q hq hslot hwant List.not_mem_nil
    refine ⟨htaken, fun v hv hvslot hvd => ?_⟩
    rw [hceil]
    refine hout v hv hvslot ?_
    rcases hvd with hlong | ⟨hridx, hstarted⟩
    · simp [displaceable, twoMs, hlong]
    · simp [displaceable, hridx, hstarted]
  · rw [hqueues]
    intro v hv hslot hst hridx hrecent
    obtain ⟨w, hw, hal, hwslot, -⟩ := hup.retains v hv hslot hst hridx hrecent
    exact ⟨w, hw, hal.tenant, hal.index, hwslot⟩

/-! ### A queue without a slot is pre-empted (R55, R64) -/

/-- A region of a launch is pre-empted. -/
def RegionPreempted (s : State) (l r : Nat) : Prop := ∃ y, s.regionOf l r = some y ∧ y.st = .preempted

theorem RegionPreempted.of_launches {s u : State} {l r : Nat} (h : RegionPreempted s l r) (hl : u.launches = s.launches) :
    RegionPreempted u l r := by
  unfold RegionPreempted State.regionOf
  rw [hl]
  exact h

theorem regionOf_modRegion (s : State) (l r l' r' : Nat) (g : Region → Region) (hg : ∀ x, (g x).region = x.region) :
    (s.modRegion l' r' g).regionOf l r = (s.regionOf l r).map (fun x => if l = l' ∧ r = r' then g x else x) := by
  unfold State.regionOf State.modRegion
  dsimp only
  rw [List.find?_map, show (fun k : Launch => k.id == l) ∘ (fun k => if k.id == l' then
    { k with regions := k.regions.map (fun x => if x.region == r' then g x else x) } else k) = fun k => k.id == l from ?_]
  · cases hk : s.launches.find? (fun k => k.id == l) with
    | none => rfl
    | some k =>
      have hid : k.id = l := by simpa using List.find?_some hk
      dsimp only [Option.map_some]
      by_cases hl : l = l'
      · subst hl
        rw [if_pos (by simpa using hid)]
        dsimp only
        rw [List.find?_map, show (fun x : Region => x.region == r) ∘ (fun x => if x.region == r' then g x else x) =
          fun x => x.region == r from ?_]
        · cases hx : k.regions.find? (fun x => x.region == r) with
          | none => rfl
          | some x =>
            have hreg : x.region = r := by simpa using List.find?_some hx
            simp [hreg]
        · funext x
          rw [Function.comp_apply]
          split <;> simp [hg]
      · rw [if_neg (by simpa [hid] using hl)]
        simp [hl]
  · funext k
    rw [Function.comp_apply]
    split <;> rfl

theorem RegionPreempted.modRegion {s : State} {l r : Nat} (h : RegionPreempted s l r) (l' r' : Nat) (g : Region → Region)
    (hg : ∀ x, (g x).region = x.region ∧ (g x).st = x.st) : RegionPreempted (s.modRegion l' r' g) l r := by
  obtain ⟨y, hy, hst⟩ := h
  refine ⟨_, by rw [regionOf_modRegion _ _ _ _ _ _ (fun x => (hg x).1), hy]; rfl, ?_⟩
  split
  · rw [(hg y).2, hst]
  · exact hst

theorem RegionPreempted.dropEntry {s : State} {l r : Nat} (h : RegionPreempted s l r) (t i : Nat) :
    RegionPreempted (dropEntry s t i) l r := by
  unfold Machine.dropEntry
  refine RegionPreempted.modRegion (RegionPreempted.of_launches h ?_) _ _ _ (fun x => ⟨rfl, rfl⟩)
  dsimp only [setEntry, State.modTile, State.setTile]
  split <;> rfl

theorem RegionPreempted.foldl {α : Type} {l r : Nat} (f : State → α → State) (xs : List α) {s : State} (h : RegionPreempted s l r)
    (hf : ∀ u x, RegionPreempted u l r → RegionPreempted (f u x) l r) : RegionPreempted (xs.foldl f s) l r := by
  induction xs generalizing s with
  | nil => exact h
  | cons x xs ih => exact ih (hf s x h)

theorem RegionPreempted.dropIdleEntries {s : State} {l r : Nat} (h : RegionPreempted s l r) (l' r' t : Nat) :
    RegionPreempted (dropIdleEntries s l' r' t) l r := by
  refine RegionPreempted.foldl _ _ h (fun u i hu => ?_)
  dsimp only
  split
  · split
    · exact hu.dropEntry t i
    · exact (hu.dropEntry t i).of_launches rfl
    · exact hu
    · exact hu
  · exact hu

theorem withdrawRegion_preempts {s : State} {l : Nat} {r : Region} {x : Region} (hx : s.regionOf l r.region = some x) (discard : Bool) :
    RegionPreempted (withdrawRegion s l r discard) l r.region := by
  refine RegionPreempted.foldl _ _ ?_ (fun u t hu => hu.dropIdleEntries l r.region t)
  unfold preemptRegion
  dsimp only
  have hsaved : Keeps Outline.records True s
      (((r.nodes.map (·.2)).filter (fun t => runsRegion s l r.region t)).foldl (fun s t => saveContext s t r.bars discard) s) :=
    .foldl _ _ s (fun t _ u => saveContext_keeps u t r.bars discard)
  generalize ((r.nodes.map (·.2)).filter (fun t => runsRegion s l r.region t)).foldl
    (fun s t => saveContext s t r.bars discard) s = u at hsaved
  have hlaunches : u.launches = s.launches := congrArg (fun o => o.2.1) hsaved.outline
  have hu : u.regionOf l r.region = some x := by
    unfold State.regionOf at hx ⊢
    rwa [hlaunches]
  exact ⟨{ x with st := .preempted }, by
    rw [regionOf_modRegion u l _ l _ (fun x => { x with st := .preempted }) (fun _ => rfl), hu]
    simp, rfl⟩

theorem banksBusy_congr {s u : State} (h : u.images.map Image.face = s.images.map Image.face) (r : Region) :
    banksBusy u r = banksBusy s r := by
  have hof (s : State) (t : Nat) : bankUsed s t = (s.images.map Image.face).any (fun i => i.bank == some t) := by
    simp only [bankUsed, List.any_map, Function.comp_def, Image.face]
  simp only [banksBusy, hof, h]

/-- The one region of the one launch runs on, its banks free, while its queue, in ERROR, has no slot. -/
structure RunsOn (s : State) (l : Launch) (r : Region) (q : Queue) : Prop where
  launches : s.launches = [l]
  ended : l.ended = false
  regions : l.regions = [r]
  started : r.st = .started
  unconverged : converged r = false
  banks : banksBusy s r = false
  queues : s.queues = [q]
  tenant : q.tenant = l.tenant
  index : q.index = l.queue
  slot : q.slot = none
  error : q.st = .error

/-- R64: the region is withdrawn once its queue has been brought up to date, which leaves it its launch. -/
theorem RunsOn.settleQueues {s : State} {l : Launch} {r : Region} {q : Queue} (h : RunsOn s l r q) (hpup : s.ctl.pup ≠ .activating)
    (hc : s.calm) : ∃ t x, settleQueues s = withdrawRegion t l.id r false ∧ t.launches = [l] ∧ t.queues = [x] ∧ x.st = .error := by
  have hat : queueAt s q.tenant q.index = some q := by simp [queueAt_eq_find, h.queues, h.error]
  obtain ⟨st, ptr, layout, hst, -, -, hk⟩ := refreshQueue_some hat
  have hrest : Keeps Outline.rest True s (refreshQueue s q.tenant q.index) := refreshQueue_rest ..
  have hqueues : (refreshQueue s q.tenant q.index).queues = [controlled q (refreshedTo s q st ptr layout)] := by
    rw [(hk True).queues]
    simp [State.modQueue, h.queues, h.error]
  have hfirst : s.queues.foldl settleQueue s = refreshQueue s q.tenant q.index := by
    simp [h.queues, settleQueue, h.slot]
  generalize refreshQueue s q.tenant q.index = t at hrest hqueues hfirst
  have hlaunches : t.launches = [l] := (congrArg Outline.launches hrest.outline).trans h.launches
  have hmay : mayPreempt t = true := by
    rw [mayPreempt, ctl_eq_of_registers (hrest.registers trivial hc)]
    simpa using hpup
  have hbusy : banksBusy t r = false := (banksBusy_congr (congrArg Outline.images hrest.outline) r).trans h.banks
  have hunmapped : queueAt t l.tenant l.queue = some (controlled q (refreshedTo s q st ptr layout)) := by
    simp [queueAt_eq_find, hqueues, refreshedTo, h.tenant, h.index, hst h.error]
  refine ⟨t, _, ?_, hlaunches, hqueues, by simp [refreshedTo, hst h.error]⟩
  unfold Machine.settleQueues
  change List.foldl _ (s.queues.foldl settleQueue s) (s.queues.foldl settleQueue s).launches = _
  rw [hfirst, hlaunches, List.foldl_cons, List.foldl_nil, hunmapped]
  simp [preemptLaunch, h.ended, hmay, h.regions, h.started, h.unconverged, hbusy, refreshedTo, h.slot]

/-- R64: what runs on of a queue in ERROR without a slot is pre-empted. -/
theorem RunsOn.decision_preempts {s : State} {l : Launch} {r : Region} {q : Queue} (h : RunsOn s l r q)
    (hpup : s.ctl.pup ≠ .activating) (hcreate : s.creating = []) (hpend : s.pend = []) :
    RegionPreempted (decideQueues s) l.id r.region := by
  have hc : s.calm := fun p hp => by rw [hpend] at hp; exact nomatch hp
  obtain ⟨t, x, hsettled, hlaunches, hqueues, hx⟩ := h.settleQueues hpup hc
  have hregion : t.regionOf l.id r.region = some r := by simp [State.regionOf, hlaunches, h.regions]
  have hpreempted := withdrawRegion_preempts hregion false
  have hkept : Keeps Outline.books True t (withdrawRegion t l.id r false) := (withdrawRegion_withdraws t l.id r false).keeps
  rw [decideQueues_plain hcreate (by simp [h.launches, h.ended]), hsettled]
  generalize withdrawRegion t l.id r false = w at hpreempted hkept
  have hnone : waitingOrder w = [] := by
    have hnot : isWaiting w x = false := by simp [isWaiting, hx]
    have hall : w.queues = [x] := (congrArg Books.queues hkept.outline).trans hqueues
    simp [waitingOrder, hall, hnot, sortBy]
  have hgiven : Keeps Outline.rest True w (giveSlots w) := by
    rw [giveSlots, hnone]
    exact .foldl _ _ _ (fun q _ u => updateQueue_rest ..)
  exact hpreempted.of_launches ((congrArg Outline.launches (settleResets_outline _)).trans (congrArg Outline.launches hgiven.outline))

/-! ### The obligation -/

theorem exec_schedulingDecision {s : State} (h : takesWork s = true) : exec .schedulingDecision s = .next (decideQueues s) := by
  change execSchedulingDecision s = _
  rw [execSchedulingDecision, if_pos h]

/-- The machine after the heartbeat. -/
def beat (s : State) : State := s.modCtl (fun c => { c with hbeat := c.hbeat + 1 })

theorem exec_puppeteerTimerTick {s : State} (h : takesWork s = true) : exec .puppeteerTimerTick s = .next (decideQueues (beat s)) := by
  have hbeat : takesWork (beat s) = true := h
  change execPuppeteerTimerTick s = _
  simp only [execPuppeteerTimerTick, h, Bool.true_or, if_true]
  exact congrArg Host.Outcome.next (if_pos hbeat)

theorem exec_puppeteerTimerTick_idle {s : State} (h : takesWork s = false) :
    exec .puppeteerTimerTick s = .next (if s.ctl.pup = .bringup then beat s else s) := by
  have hbeat : takesWork (beat s) = false := h
  change execPuppeteerTimerTick s = _
  by_cases hpup : s.ctl.pup = .bringup
  · simp only [execPuppeteerTimerTick, h, hpup, decide_true, Bool.or_true, if_true]
    exact congrArg Host.Outcome.next (if_neg (by rw [← beat, hbeat]; exact Bool.false_ne_true))
  · simp [execPuppeteerTimerTick, h, hpup]

theorem beat_idle {s : State} (h : Idle s) : Idle (beat s) := ⟨h.names, h.queues, h.launches⟩

/-- Settles O49: a completion by the kind of its work; a decision by the invariant of the queues that it has taken up. -/
theorem packetsComplete : Obligations.PacketsComplete := by
  refine ⟨fun s f q i x p hs => ?_, fun s hwork hcreate hpend => ⟨fun hidle => ?_, fun hidle => ?_,
    fun l r q hpup hl hr hended hst hconv hbanks hq hten hidx hslot herr => ?_⟩, fun s hwork => ⟨?_, fun hpup => ?_, fun hpup => ?_⟩⟩
  · obtain ⟨rfl, rfl, -⟩ := startedQueue_some hs
    refine ⟨fun id k => copyComplete_meets hs, fun w bad => hintComplete_meets hs, fun id hw => ?_, fun id l =>
      launchComplete_meets hs⟩
    obtain ⟨hno, hyes⟩ := accessComplete_meets hs hw
    exact ⟨hno, fun hp ho => (hyes hp ho).1, fun hp ho => (hyes hp ho).2⟩
  · obtain ⟨hnames, hqueues, hlaunches⟩ := hidle
    exact ⟨_, exec_schedulingDecision hwork, (decideQueues_meets ⟨hnames, hqueues, hlaunches⟩ hcreate hpend).1⟩
  · obtain ⟨hnames, hqueues, hlaunches⟩ := hidle
    have hi : Idle s := ⟨hnames, hqueues, hlaunches⟩
    obtain ⟨hdecided, hctl⟩ := decideQueues_meets (beat_idle hi) hcreate hpend
    exact ⟨_, exec_puppeteerTimerTick hwork, hdecided, congrArg Control.hbeat hctl⟩
  · have hruns : RunsOn s l r q := ⟨hl, hended, hr, hst, hconv, hbanks, hq, hten, hidx, hslot, herr⟩
    exact ⟨_, exec_schedulingDecision hwork, hruns.decision_preempts hpup hcreate hpend⟩
  · change execSchedulingDecision s = _
    rw [execSchedulingDecision, if_neg (by simp [hwork])]
  · rw [exec_puppeteerTimerTick_idle hwork, if_pos hpup]
    rfl
  · rw [exec_puppeteerTimerTick_idle hwork, if_neg hpup]

end Sys2Proof.Machine
end
section
/-! ## One step of the machine (R84, R101, R119) -/

namespace Sys2Proof.Machine

theorem instrAt_of_decode {b : Block} {j : Nat} {w : Word} {i : Instr} (hw : b.words[j]? = some w) (hi : decode w = .ok i) :
    instrAt b j = some i := by
  simp [instrAt, hw, hi]

theorem fireCluster_fires {s : State} {t n : Nat} {a : Candidate} {b : Block} {i : Instr} (htrip : s.ctl.trip = false)
    (ha : chooseFiring (returnToys s t) t n = some a) (hb : ((returnToys s t).fabric t).blk = some b)
    (hi : instrAt b a.slot = some i) :
    fireCluster s t n = exec i (takeOperands (countWaits (returnToys s t) t n a) t b i a) := by
  simp [fireCluster, htrip, ha, hb, hi]

theorem deviceStep_runs {s : State} {i : Instr} (h : s.ctl.trip = false ∨ survivesTrip i = true) : deviceStep i s = exec i s :=
  if_neg (by simpa using fun htrip => h.resolve_left (by simp [htrip]))

theorem deviceStep_stopped {s : State} {i : Instr} (htrip : s.ctl.trip = true) (hi : survivesTrip i = false) :
    deviceStep i s = .next s :=
  if_pos (by simp [htrip, hi])

theorem step_of_agenda {s : State} {h : Happening} {rest : List Happening} (hag : s.agenda = h :: rest) :
    step s = mirrored (happen h { s with agenda := rest, cur := none }) := by
  rw [step, hag]

/-- Settles O55: the happening is the agenda's head, and a trip decides whether it happens. -/
theorem stepRuns : Obligations.StepRuns := by
  refine fun s rest => ⟨fun t c a b w i hag htrip ha hb hw hi => ?_, fun i hag h => ?_, fun i hag htrip hi => ?_⟩
  · exact (step_of_agenda hag).trans
      (congrArg mirrored (fireCluster_fires (s := { s with agenda := rest, cur := none }) htrip ha hb (instrAt_of_decode hw hi)))
  · exact (step_of_agenda hag).trans (congrArg mirrored (deviceStep_runs (s := { s with agenda := rest, cur := none }) h))
  · exact (step_of_agenda hag).trans
      (congrArg mirrored (deviceStep_stopped (s := { s with agenda := rest, cur := none }) htrip hi))

end Sys2Proof.Machine
end
section
/-! ## Entries and regions (R70 to R75, R85) -/

namespace Sys2Proof.Machine

/-! ### Regions -/

theorem regionOf_congr {s u : State} (h : u.launches = s.launches) (l r : Nat) : u.regionOf l r = s.regionOf l r := by
  unfold State.regionOf
  rw [h]

theorem regionOf_some {s : State} {l n : Nat} {r : Region} (h : s.regionOf l n = some r) : r.region = n := by
  unfold State.regionOf at h
  split at h
  · simpa using List.find?_some h
  · exact nomatch h

theorem launchOf_some {s : State} {l : Nat} {x : Launch} (h : launchOf s l = some x) : x.id = l := by
  simpa using List.find?_some h

/-- A changed region reads as the change of the region. -/
theorem regionOf_modRegion_some {s : State} {l n : Nat} {g : Region → Region} {y : Region} (hg : ∀ x, (g x).region = x.region)
    (h : (s.modRegion l n g).regionOf l n = some y) : ∃ x, s.regionOf l n = some x ∧ y = g x := by
  rw [regionOf_modRegion _ _ _ _ _ _ hg] at h
  obtain ⟨x, hx, rfl⟩ := Option.map_eq_some_iff.mp h
  exact ⟨x, hx, if_pos ⟨rfl, rfl⟩⟩

theorem State.tile_modRegion (s : State) (l r t : Nat) (g : Region → Region) : (s.modRegion l r g).tile t = s.tile t := rfl

/-! ### Entries (R71) -/

section Entries

variable {s : State} {t i : Nat}

theorem entryOf_setEntry_same (s : State) (ht : t < 192) (hi : i < 8) (e : Entry) : entryOf (setEntry s t i e) t i = e := by
  simp [entryOf, setEntry, ht, hi]

/-- A freed entry: it is reset, whatever else the freeing changes of launches and images. -/
theorem entryOf_dropEntry_same (s : State) (ht : t < 192) (hi : i < 8) : entryOf (dropEntry s t i) t i = Entry.reset :=
  entryOf_setEntry_same _ ht hi _

end Entries

/-! ### MAP and UNMAP (R71) -/

section Map

variable {s : State} {t i l rn n : Nat} {src : MapSource}

theorem mapEntry_free (ht : t < 192) (hi : i < 8) (hsrc : sourceOf s src = some (l, rn, n)) (hfree : (entryOf s t i).st = .free)
    (hopen : fenced s t = false) :
    entryOf (mapEntry s t i src) t i = { st := .ready, tenant := tenantOfSource s src, launch := l, region := rn, source := some src } := by
  unfold mapEntry
  rw [if_neg (by omega), hsrc]
  dsimp only
  rw [if_neg (by simp [hfree, hopen])]
  exact entryOf_setEntry_same s ht hi _

theorem mapEntry_refused (ht : t < 192) (hi : i < 8) (hsrc : sourceOf s src = some (l, rn, n)) (hused : (entryOf s t i).st ≠ .free) :
    mapEntry s t i src = s.emit (.mapRefused t i) := by
  unfold mapEntry
  rw [if_neg (by omega), hsrc]
  exact if_pos (.inl hused)

theorem exec_unmap_running (h : (entryOf s t i).st = .running) : exec (.unmap t i) s = .next (s.emit (.mapRefused t i)) := by
  change execUnmap t i s = _
  simp [execUnmap, h]

theorem exec_unmap_ready (h : (entryOf s t i).st = .ready) : exec (.unmap t i) s = .next (dropEntry s t i) := by
  change execUnmap t i s = _
  simp [execUnmap, h]

end Map

/-! ### A region starts (R70, R72, R103) -/

section Starts

/-- R103: arguments fill the registers from g3 on. -/
theorem foldl_setG_low (args : List (Word × Nat)) (c : Ctx) {m : Nat} (hm : m < 3) :
    (args.foldl (fun c a => c.setG (3 + a.2) a.1) c).greg m = c.greg m ∧
      (args.foldl (fun c a => c.setG (3 + a.2) a.1) c).phase = c.phase ∧
      (args.foldl (fun c a => c.setG (3 + a.2) a.1) c).pc = c.pc := by
  induction args generalizing c with
  | nil => exact ⟨rfl, rfl, rfl⟩
  | cons a args ih =>
    obtain ⟨hg, hp, hpc⟩ := ih (c.setG (3 + a.2) a.1)
    have hset : c.setG (3 + a.2) a.1 = { c with g := c.g.setIfInBounds (3 + a.2) a.1 } := if_neg (by omega)
    have hlow : (c.setG (3 + a.2) a.1).greg m = c.greg m := by
      rw [hset]
      simp only [Ctx.greg]
      rw [Vector.getElem?_setIfInBounds_ne (by omega)]
    rw [List.foldl_cons]
    exact ⟨hg.trans hlow, hp.trans (by rw [hset]), hpc.trans (by rw [hset])⟩

/-- A node's context before its arguments and capabilities are filled in (R72). -/
def bareContext (id : Nat) (l : Launch) (n : Nat) (r : NodeRec) (rank : Nat) : Ctx :=
  (({ blankCtx id l.tenant l.id n r.region rank r.entry with phase := .loading, lock := l.lock } : Ctx).setG 1
    (BitVec.ofNat 64 n)).setG 2 (BitVec.ofNat 64 rank)

theorem bareContext_holds (id : Nat) (l : Launch) (n : Nat) (r : NodeRec) (rank : Nat) :
    (bareContext id l n r rank).phase = .loading ∧ (bareContext id l n r rank).pc = r.entry ∧
      (bareContext id l n r rank).greg 1 = BitVec.ofNat 64 n := by
  refine ⟨rfl, rfl, ?_⟩
  simp [bareContext, Ctx.greg, Ctx.setG, blankCtx]

theorem Ctx.setK_phase (c : Ctx) (n : Nat) (v : CapReg) : (c.setK n v).phase = c.phase := rfl

theorem Ctx.setK_pc (c : Ctx) (n : Nat) (v : CapReg) : (c.setK n v).pc = c.pc := rfl

theorem Ctx.setK_greg (c : Ctx) (n m : Nat) (v : CapReg) : (c.setK n v).greg m = c.greg m := rfl

theorem Ctx.kreg_setK (c : Ctx) (n m : Nat) (v : CapReg) : (c.setK n v).kreg m = if n = m ∧ m < 16 then v else c.kreg m := by
  simp only [Ctx.kreg, Ctx.setK, Vector.getElem?_setIfInBounds]
  split <;> split <;> simp_all

/-- What a node's context holds as it starts (R72, R103). -/
theorem nodeContext_holds (id : Nat) (l : Launch) (n : Nat) (r : NodeRec) (rank : Nat) :
    (nodeContext id l n r rank).phase = .loading ∧ (nodeContext id l n r rank).pc = r.entry ∧
      (nodeContext id l n r rank).greg 1 = BitVec.ofNat 64 n ∧ (nodeContext id l n r rank).kreg 1 = l.roots.1 ∧
      (nodeContext id l n r rank).kreg 2 = l.roots.2 := by
  obtain ⟨hphase0, hpc0, hg0⟩ := bareContext_holds id l n r rank
  obtain ⟨hg, hphase, hpc⟩ := foldl_setG_low r.args.zipIdx (bareContext id l n r rank) (m := 1) (by decide)
  unfold bareContext at hg hphase hpc hphase0 hpc0 hg0
  unfold nodeContext
  simp only [Ctx.setK_phase, Ctx.setK_pc, Ctx.setK_greg, Ctx.kreg_setK]
  exact ⟨hphase.trans hphase0, hpc.trans hpc0, hg.trans hg0, by simp, by simp⟩

theorem ctx_forgetFaults (s : State) (t u : Nat) : ((s.forgetFaults t).tile u).ctx = (s.tile u).ctx := by
  have hforget (s : State) (t : Nat) : ((s.modTile t Tile.forget).tile u).ctx = (s.tile u).ctx := by
    unfold State.modTile
    rw [State.tile_setTile]
    split
    · rename_i h
      rw [Tile.forget, h.1]
    · rfl
  unfold State.forgetFaults
  dsimp only
  split
  · split
    · rw [hforget, hforget]
    · exact hforget s t
  · exact hforget s t

/-- The entry of a node becomes RUNNING with the node's context (R72). -/
theorem makeRunning_node {s : State} {t i l n : Nat} {x : Launch} {rec : NodeRec} (ht : t < 192)
    (hsrc : (entryOf s t i).source = some (.node l n)) (hx : launchOf s l = some x) (hrec : x.nodes[n]? = some rec) :
    ∃ d, ((makeRunning s t i).tile t).ctx = some d ∧ d.phase = .loading ∧ d.pc = rec.entry ∧
      d.greg 1 = BitVec.ofNat 64 n ∧ d.kreg 1 = x.roots.1 ∧ d.kreg 2 = x.roots.2 := by
  let rank := ((nodesOf x.nodes rec.region).filter (fun p => decide (p.1 < n))).length
  obtain ⟨hphase, hpc, hg, hk1, hk2⟩ := nodeContext_holds (s.nextId + 1) x n rec rank
  refine ⟨{ nodeContext (s.nextId + 1) x n rec rank with arrival := arrivalPhases (s.regionOf l rec.region) t }, ?_, hphase, hpc,
    hg, hk1, hk2⟩
  unfold makeRunning
  simp only [hsrc, hx, hrec]
  rw [ctx_forgetFaults, State.tile_modTile_same _ _ _ ht]
  rfl

/-- A started region has just the changes of its entries before it. -/
theorem startRegion_eq (s : State) (l : Launch) (r : Region) :
    startRegion s l r = (r.unfinished.foldl (fun s p => match (r.seq p.2).head? with
      | some i => makeRunning s p.2 i
      | none => s) s).modRegion l.id r.region (fun x => { x with
        st := .started
        bars := if r.st = .waiting then Vector.replicate 4 (Barrier.reset r.nodes.length) else x.bars
        arrived := if r.st = .waiting then [] else x.arrived }) := rfl

theorem exec_regionStart {s : State} {l n : Nat} {x : Launch} {r : Region} (hx : launchOf s l = some x)
    (hr : s.regionOf l n = some r) (hmay : mayStart s x r = true) : exec (.regionStart l n) s = .next (startRegion s x r) := by
  change execRegionStart l n s = _
  simp [execRegionStart, hx, hr, hmay]

theorem startRegion_started {s : State} {x : Launch} {r y : Region} (hy : (startRegion s x r).regionOf x.id r.region = some y) :
    y.st = .started := by
  rw [startRegion_eq] at hy
  obtain ⟨z, -, rfl⟩ := regionOf_modRegion_some (by exact fun _ => rfl) hy
  rfl

end Starts

/-! ### Local done, convergence and barriers (R73, R75, R85) -/

section Ends

theorem exec_localDone {s : State} {t i : Nat} {c : Ctx} (hc : (s.tile t).ctx = some c) (hi : (s.tile t).running = some i)
    (hd : isDrained s c = true) : exec (.localDone t) s =
      .next ((setEntry (s.modCtx t (fun c => { c with phase := .done })) t i { entryOf s t i with st := .done }).modRegion c.launch
        c.region (fun r => { r with done := r.done ++ [c.node] })) := by
  change execLocalDone t s = _
  simp [execLocalDone, hc, hi, hd]

theorem exec_regionConverge {s : State} {l n : Nat} {r : Region} (hr : s.regionOf l n = some r) (hd : converged r = true) :
    exec (.regionConverge l n) s = .next (converge s l r) := by
  change execRegionConverge l n s = _
  simp [execRegionConverge, hr, hd]

theorem converge_finished {s : State} {l : Nat} {r y : Region} (hy : (converge s l r).regionOf l r.region = some y)
    (hnone : y.unfinished = []) : y.st = .finished := by
  obtain ⟨z, -, rfl⟩ := regionOf_modRegion_some (by intro x; split <;> rfl) hy
  by_cases hz : z.unfinished = []
  · simp [hz]
  · simp [hz] at hnone

theorem setEv_launches (s : State) (t : Nat) : (setEv s t).launches = s.launches :=
  congrArg Outline.launches (setEv_keeps (c := False) s t).outline

/-- The waits of a barrier's phase end on one tile (R85). -/
def endWaits (l n bn phase : Nat) (s : State) (t : Nat) : State :=
  match (s.tile t).ctx with
  | some c =>
    if c.launch = l ∧ c.region = n then setEv (s.modFabric t (fun x => { x with waits := x.waits.filter (fun w => !awaits bn phase w) })) t
    else s
  | none => s

theorem endWaits_launches (l n bn phase : Nat) (s : State) (t : Nat) : (endWaits l n bn phase s t).launches = s.launches := by
  unfold endWaits
  split
  · split
    · exact setEv_launches _ t
    · rfl
  · rfl

theorem foldl_endWaits_launches (l n bn phase : Nat) (ts : List Nat) (s : State) :
    (ts.foldl (endWaits l n bn phase) s).launches = s.launches := by
  induction ts generalizing s with
  | nil => rfl
  | cons t ts ih => exact (ih _).trans (endWaits_launches l n bn phase s t)

section Barrier

variable {s : State} {l n bn : Nat} {r : Region} {b : Barrier} (hr : s.regionOf l n = some r) (hb : r.bars[bn]? = some b)

include hr hb

theorem exec_barrierRelease_pending (hpend : arrivalPending s l r bn b.phase = true) : exec (.barrierRelease l n bn) s = .next s := by
  change execBarrierRelease l n bn s = _
  simp [execBarrierRelease, hr, hb, hpend]

theorem exec_barrierRelease (hst : r.st = .started) (hpos : 0 < b.count) (hfull : b.count ≤ b.arrivals)
    (hpend : arrivalPending s l r bn b.phase = false) : exec (.barrierRelease l n bn) s =
      .next ((r.unfinished.map (·.2)).foldl (endWaits l n bn b.phase) (s.modRegion l n (fun x => { x with
          bars := x.bars.setIfInBounds bn { b with phase := b.phase + 1, arrivals := 0 } }))) := by
  change execBarrierRelease l n bn s = _
  simp only [execBarrierRelease, hr, hb, hst, hpos, hfull, hpend, Bool.not_false, and_self, if_true]
  rfl

end Barrier
end Ends

/-- Settles O40: each command by its own lemma; a region's fields by the last change of the region. -/
theorem regionsRun : Obligations.RegionsRun := by
  rintro s t i l rn bn src e c r b ht hi rfl
  refine ⟨fun n hsrc hfree hopen => ⟨_, rfl, mapEntry_free ht hi hsrc hfree hopen⟩,
    fun n hsrc hused => congrArg Host.Outcome.next (mapEntry_refused ht hi hsrc hused), exec_unmap_running,
    fun hready => ⟨_, exec_unmap_ready hready, entryOf_dropEntry_same s ht hi⟩,
    fun hc => ⟨fun hphase x m hx hlen u hu => ?_, fun hrun hd => ⟨_, exec_localDone hc hrun hd, ?_, ?_⟩⟩,
    fun hr => ⟨fun x hx hmay => ⟨_, exec_regionStart hx hr hmay, fun y hy => ?_, fun n rec hone hhead hsrc hrec => ?_⟩,
      fun hd => ⟨_, exec_regionConverge hr hd, fun y hy hnone => ?_⟩,
      fun hb hst hpos hfull => ⟨exec_barrierRelease_pending hr hb,
        fun hpend => ⟨_, exec_barrierRelease hr hb hst hpos hfull hpend, fun y hy => ?_⟩⟩⟩⟩
  · change execContextImageLoad t s = _
    simp [execContextImageLoad, hc, hphase, hx, hlen, hu]
  · exact congrArg Entry.st (entryOf_setEntry_same _ ht hi _)
  · rw [State.tile_modRegion, setEntry, State.tile_modTile_same _ _ _ ht]
    simp [State.modCtx, ht, hc]
  · obtain rfl := launchOf_some hx
    obtain rfl := regionOf_some hr
    exact startRegion_started hy
  · rw [startRegion_eq, hone, List.foldl_cons, List.foldl_nil, hhead]
    exact makeRunning_node ht hsrc hx hrec
  · obtain rfl := regionOf_some hr
    exact converge_finished hy hnone
  · rw [regionOf_congr (foldl_endWaits_launches ..)] at hy
    obtain ⟨z, hz, rfl⟩ := regionOf_modRegion_some (by exact fun _ => rfl) hy
    obtain rfl : r = z := by simpa [hr] using hz
    have hlt : bn < 4 := (Vector.getElem?_eq_some_iff.mp hb).1
    simp [hlt]

end Sys2Proof.Machine
end
section
/-! ## Pre-emption, saving and resuming (R71, R75 to R83) -/

namespace Sys2Proof.Machine

/-! ### SWITCH (R71, R75, R76) -/

section Switch

variable {s : State} {k n : Nat} {r : Region} (hr : s.regionOf (n / 64) (n % 64) = some r) (hst : r.st = .started) (hk : r.stack = k)

include hr hst hk

theorem exec_switch_converged (h : converged r = true) : exec (.switch k n) s = .next (converge s (n / 64) r) := by
  change execSwitch k n s = _
  simp [execSwitch, hr, hst, hk, h]

theorem exec_switch_refused (h : converged r = false) (hbusy : banksBusy s r = true) :
    exec (.switch k n) s = .next (s.emit (.switchRefused k n)) := by
  change execSwitch k n s = _
  simp [execSwitch, hr, hst, hk, h, hbusy]

theorem exec_switch_preempts (h : converged r = false) (hbusy : banksBusy s r = false) :
    exec (.switch k n) s = .next (preemptRegion s (n / 64) r false) := by
  change execSwitch k n s = _
  simp [execSwitch, hr, hst, hk, h, hbusy]

end Switch

theorem preemptRegion_preempted {s : State} {l : Nat} {r y : Region} {discard : Bool}
    (hy : (preemptRegion s l r discard).regionOf l r.region = some y) : y.st = .preempted := by
  obtain ⟨z, -, rfl⟩ := regionOf_modRegion_some (by exact fun _ => rfl) hy
  rfl

/-! ### Service legs and images (R80, R181) -/

section Images

theorem sendService_images (s : State) (fill : Option Nat) (image set base : Nat) (bytes : List Byte) (rings : List Nat) :
    (sendService s fill image set base bytes rings).images = s.images := by
  unfold sendService
  induction rings generalizing s with
  | nil => rfl
  | cons q rings ih => exact ih _

/-- A place of the save pool is free of what images have it. -/
theorem freeSpot_congr {s u : State} (h : u.images.map Image.spot = s.images.map Image.spot) : freeSpot u = freeSpot s := by
  have hlen : u.images.length = s.images.length := by simpa using congrArg List.length h
  have hany (v : State) (n : Nat) : v.images.any (fun i => i.spot == some n) = (v.images.map Image.spot).any (fun x => x == some n) := by
    simp only [List.any_map, Function.comp_def]
  unfold freeSpot
  simp only [hany, h, hlen]

theorem dropEntry_spots (s : State) (t i : Nat) : (dropEntry s t i).images.map Image.spot = s.images.map Image.spot := by
  unfold dropEntry
  dsimp only [State.modRegion, setEntry, State.modTile, State.setTile]
  split
  · rename_i ctx _ _
    rw [State.modImage, List.map_map]
    exact List.map_congr_left (fun k _ => by rw [Function.comp_apply]; split <;> rfl)
  · rfl

/-- A changed image reads as the change of one with its number. -/
theorem mem_modImageId {s : State} {id : Nat} {g : Image → Image} {y : Image} (hy : y ∈ (s.modImageId id g).images) (hid : y.id = id) : ∃ x ∈ s.images, y = g x := by
  obtain ⟨x, hx, rfl⟩ := List.mem_map.mp hy
  split
  · exact ⟨x, hx, rfl⟩
  · rename_i h
    rw [if_neg h] at hid
    exact absurd (by simpa using hid) h

end Images

/-! ### An image becomes complete, and drains (R80) -/

section Saves

variable {s : State} {t : Nat} {i : Image}

/-- The machine once the entry of a saved context is free. -/
def savedFree (s : State) (t : Nat) : State :=
  match (s.tile t).running with
  | some e => if (s.tile t).ctx.isNone then (dropEntry s t e).modTile t (fun x => { x with running := none }) else s
  | none => s

theorem savedFree_spot (s : State) (t : Nat) : freeSpot (savedFree s t) = freeSpot s := by
  unfold savedFree
  split
  · split
    · exact freeSpot_congr (dropEntry_spots s t _)
    · rfl
  · rfl

section Completes

variable (hi : bankImage s t = some i) (hopen : i.complete = false) (howes : owes s i.ctx.id = false) (hwrites : writesImage s i = false)

include hi hopen howes hwrites

theorem exec_saveImageComplete_discards (hd : i.discard = true) : exec (.saveImageComplete t) s =
    .next { savedFree s t with images := (savedFree s t).images.filter (fun k => !(k.id == i.id)) } := by
  change execSaveImageComplete t s = _
  simp only [execSaveImageComplete, hi, hopen, howes, hwrites, hd, Bool.or_self, Bool.false_eq_true, if_false, if_true]
  rfl

theorem exec_saveImageComplete {p : Nat} (hd : i.discard = false) (hp : freeSpot s = some p) : exec (.saveImageComplete t) s =
    .next (sendService ((savedFree s t).modImageId i.id (fun k => { k with complete := true, spot := some p })) none i.ctx.id 0 0 []
      (List.range 32)) := by
  rw [← savedFree_spot s t] at hp
  change execSaveImageComplete t s = _
  simp only [execSaveImageComplete, hi, hopen, howes, hwrites, hd, Bool.or_self, Bool.false_eq_true, if_false]
  change (match freeSpot (savedFree s t) with
    | none => _
    | some n => _) = _
  rw [hp]
  rfl

end Completes

theorem serviceDone_iff {s : State} {i : Image} :
    serviceDone s i = true ↔ ∀ v ∈ s.services, v.fill = none → v.image = i.ctx.id → v.alighted = true := by
  simp only [serviceDone, List.all_eq_true, Bool.or_eq_true, Bool.not_eq_true', Bool.and_eq_false_iff, Option.isNone_eq_false_iff]
  refine forall₂_congr fun v _ => ?_
  cases v.fill <;> simp [imp_iff_not_or]

/-- R80: a bank is free of its image once the legs of the drain have alighted. -/
theorem saveBankFree_frees (hi : bankImage s t = some i) (hdone : i.complete = true) (hread : i.reading = false)
    (hlegs : serviceDone s i = true) : ∃ u, exec (.saveBankFree t) s = .next u ∧ ∀ y ∈ u.images, y.id = i.id → y.bank = none := by
  change ∃ u, execSaveBankFree t s = .next u ∧ _
  cases hd : i.discard
  · simp only [execSaveBankFree, hi, hdone, hread, hlegs, hd, Bool.false_and, Bool.true_and, Bool.not_false, Bool.false_eq_true, if_false,
      if_true]
    refine ⟨_, rfl, fun y hy hid => ?_⟩
    have himages : y ∈ (s.modImageId i.id (fun k => { k with bank := none })).images := by
      revert hy
      split
      · exact fun hy => by rwa [writeSaveSet, sendService_images] at hy
      · exact id
    obtain ⟨x, -, rfl⟩ := mem_modImageId himages hid
    rfl
  · simp only [execSaveBankFree, hi, hdone, hlegs, hd, Bool.true_and, if_true]
    refine ⟨_, rfl, fun y hy hid => ?_⟩
    have hne := (List.mem_filter.mp hy).2
    simp [hid] at hne

end Saves

/-! ### Resuming (R81) -/

section Resumes

variable {s : State} {t k n : Nat} {i : Image} {x : Launch} {r : Region}

/-- A complete image of a pre-empted region may be resumed on a tile. -/
structure Resumable (s : State) (t n : Nat) (i : Image) (x : Launch) (r : Region) : Prop where
  image : imageOf s n = some i
  launch : launchOf s i.ctx.launch = some x
  region : s.regionOf i.ctx.launch i.ctx.region = some r
  complete : i.complete = true
  restored : i.restored = false
  preempted : r.st = .preempted
  ended : x.ended = false
  goes : launchGoes s x = true
  place : mayPlace s x r t = true

theorem Resumable.reads (h : Resumable s t n i x r) (hbank : i.bank = none) (hread : i.reading = false) (hused : bankUsed s t = false) :
    exec (.contextResume t k n) s = .next (sendService (s.modImageId i.id (fun k => { k with reading := true, bank := some t })) none n
      0 0 [] (List.range 32)) := by
  change execContextResume t k n s = _
  simp [execContextResume, h.image, h.launch, h.region, h.complete, h.restored, h.preempted, h.ended, h.goes, h.place, hbank, hread, hused]

/-- A tile that may hold a node is not fenced (R306). -/
theorem fenced_of_mayPlace (h : mayPlace s x r t = true) : fenced s t = false := by
  simp only [mayPlace, openTiles, Bool.and_eq_true, List.contains_iff_mem, List.mem_filter] at h
  simpa using h.1.2.1

/-- The bank and the legs of an image that has been read are free. -/
def bankRead (s : State) (i : Image) : State := dropService (s.modImageId i.id (fun z => { z with reading := false, bank := none })) i

/-- The machine once MAP has named a resumed image. -/
def mapsBack (s : State) (t k n : Nat) (i : Image) (x : Launch) (r : Region) : State :=
  (mapEntry (bankRead s i) t k (.image n)).modRegion x.id r.region (fun y =>
    if (y.seq t).isEmpty then y
    else { y with stack := t / 48, nodes := y.nodes.map (fun p => if p.1 = i.ctx.node then (p.1, t) else p) })

theorem Resumable.maps (h : Resumable s t n i x r) (hbank : i.bank = some t) (hread : i.reading = true)
    (hlegs : serviceDone s i = true) (hvalid : i.valid = true) : exec (.contextResume t k n) s =
      .next ((mapsBack s t k n i x r).modImageId i.id (fun z => { z with
        restored := (entryOf (mapsBack s t k n i x r) t k).source == some (.image n) })) := by
  change execContextResume t k n s = _
  simp only [execContextResume, h.image, h.launch, h.region, h.complete, h.restored, h.preempted, h.ended, h.goes, hbank, hread, hlegs,
    hvalid]
  rw [if_neg (by decide), if_neg (by simp), if_neg (by decide), if_pos h.place]
  rfl

/-- An image's bank and legs are no part of what names it or of its context. -/
theorem imageOf_bankRead (himage : imageOf s n = some i) : ∃ z, imageOf (bankRead s i) n = some z ∧ z.ctx = i.ctx := by
  have hsame : (fun z : Image => z.ctx.id == n) ∘ (fun z => if z.id == i.id then { z with reading := false, bank := none } else z) =
      fun z => z.ctx.id == n := by
    funext z
    rw [Function.comp_apply]
    split <;> rfl
  have hfind : imageOf (bankRead s i) n = some (if i.id == i.id then { i with reading := false, bank := none } else i) := by
    change (s.images.map _).find? _ = _
    rw [List.find?_map, hsame, ← imageOf, himage]
    rfl
  exact ⟨_, hfind, by split <;> rfl⟩

theorem mapsBack_entry (x : Launch) (r : Region) (himage : imageOf s n = some i) (hopen : fenced s t = false) (ht : t < 192) (hk : k < 8)
    (hfree : (entryOf s t k).st = .free) : entryOf (mapsBack s t k n i x r) t k =
      { st := .ready, tenant := i.ctx.tenant, launch := i.ctx.launch, region := i.ctx.region, source := some (.image n) } := by
  obtain ⟨z, hz, hctx⟩ := imageOf_bankRead himage
  have hsrc : sourceOf (bankRead s i) (.image n) = some (i.ctx.launch, i.ctx.region, i.ctx.node) := by simp [sourceOf, hz, hctx]
  have hten : tenantOfSource (bankRead s i) (.image n) = i.ctx.tenant := by simp [tenantOfSource, hz, hctx]
  exact (mapEntry_free (s := bankRead s i) ht hk hsrc hfree hopen).trans (by rw [hten])

end Resumes

/-- Settles O41: SWITCH by the state of its region and banks, the steps of a save and of a resume by the change of the image. -/
theorem savesAndResumes : Obligations.SavesAndResumes := by
  refine fun s t k n i r x => ⟨fun hr hst hk => ⟨exec_switch_converged hr hst hk, exec_switch_refused hr hst hk,
      fun hc hbusy => ⟨_, exec_switch_preempts hr hst hk hc hbusy, fun y hy => ?_⟩⟩,
    fun hi => ⟨fun hopen howes hwrites => ⟨fun hd => ⟨_, exec_saveImageComplete_discards hi hopen howes hwrites hd, fun y hy => ?_⟩,
      fun p hd hp => ⟨_, exec_saveImageComplete hi hopen howes hwrites hd hp, fun y hy hid => ?_⟩⟩,
      fun hdone hread hlegs => saveBankFree_frees hi hdone hread (serviceDone_iff.mpr hlegs)⟩,
    fun himage hx hr hdone hres hst hend hgo hmay => ?_⟩
  · obtain hreg := regionOf_some hr
    rw [← hreg] at hy
    exact preemptRegion_preempted hy
  · simpa using (List.mem_filter.mp hy).2
  · rw [sendService_images] at hy
    obtain ⟨z, -, rfl⟩ := mem_modImageId hy hid
    exact ⟨rfl, rfl⟩
  · have h : Resumable s t n i x r := ⟨himage, hx, hr, hdone, hres, hst, hend, hgo, hmay⟩
    refine ⟨fun hbank hread hused => ⟨_, h.reads hbank hread hused, fun y hy hid => ?_⟩,
      fun hbank hread hlegs hvalid ht hk hfree => ⟨_, h.maps hbank hread hlegs hvalid,
        mapsBack_entry x r himage (fenced_of_mayPlace hmay) ht hk hfree⟩⟩
    rw [sendService_images] at hy
    obtain ⟨z, -, rfl⟩ := mem_modImageId hy hid
    exact ⟨rfl, rfl⟩

end Sys2Proof.Machine
end
section
/-! ## A retiring tag whose store ends in the toybox (R120, R123, R126)

A held store that begins below the toybox and ends in it does not count as one that writes the toybox, and yet its release disturbs the
block: the values kept of retired tags become free ones, and their capabilities lose their tags. -/

namespace Sys2Proof.Machine

/-- The value that a retired tag's WR of a k register has left. -/
def keptCap : HeldWr :=
  { slot := 2, key := some 3, tagged := false, kr := true, n := 4, push := false, val := 0, cap := { bits := 0, tag := true }, pos := none,
    check := none }

/-- A store of eight bytes that begins four bytes below the toybox. -/
def straddlingStore : Held :=
  { slot := 1, key := some 0, tagged := false, eff := .store (.scratch 0 0x3DFFFC) 8 5 false false, anc := [] }

/-- An iterating block whose only tag is complete and holds that store. -/
def straddlingBlock : Block := { addr := 0, words := [], loop := true, supervisor := false, noPrefetch := false, twh := 0 }

def straddlingFabric : Fabric :=
  { Fabric.reset with
    blk := some straddlingBlock, gen := { Gen.reset with fired := true, n := 1 }, held := [straddlingStore], kept := [keptCap],
    tags := [{ tag := 0, outer := false, col := 0, complete := true }] }

def straddlingCtx : Ctx := { blankCtx 1 0 1 0 0 0 0 with phase := .running }

def straddlingState : State :=
  State.reset.modTile 0 (fun x => { x with fabric := straddlingFabric, ctx := some straddlingCtx, running := some 0 })

/-- The tags of the capabilities that are kept on tile 0 after a step. -/
def keptTags (o : Out) : List Bool :=
  match o with
  | .next u => (u.fabric 0).kept.map (fun w => w.cap.tag)
  | _ => []

theorem straddlingState_still : Still straddlingState := by
  unfold Still MemoriesWf
  decide +kernel

theorem keptTags_straddling : keptTags (exec (.tagRetire 0) straddlingState) = [false] := by decide +kernel

/-- Refutes O35: a store of a retiring tag that reaches into the toybox makes the values kept of retired tags free ones. -/
theorem not_tagsMove : ¬ Obligations.TagsMove := by
  intro h
  obtain ⟨-, -, -, -, hretire⟩ := h straddlingState 0 straddlingBlock straddlingCtx (by decide +kernel)
    (by simp [straddlingState]) (by decide)
  obtain ⟨u, v, hexec, ⟨-, hkept, -⟩, -⟩ := (hretire 0 (by decide +kernel) rfl (by decide +kernel) (by decide +kernel) (by decide +kernel)
    (by decide +kernel) (by decide +kernel) (by decide +kernel)).2 straddlingStore (by decide +kernel) (by decide +kernel)
    straddlingState_still (by decide +kernel) (by decide +kernel)
  have hlost := keptTags_straddling
  rw [hexec] at hlost
  change (u.fabric 0).kept.map (fun w => w.cap.tag) = [false] at hlost
  rw [hkept] at hlost
  exact absurd hlost (by decide +kernel)

end Sys2Proof.Machine
end
section
/-! ## What the handling of a fault leaves alone (R306)

With nothing under way, abandoning a block, purging its tags, entering a handler and ending a context change neither the registers, nor
host memory, nor a context's committed registers, nor a tile's share and line states. -/

namespace Sys2Proof.Machine

/-! ### The spared parts -/

/-- A context's committed registers, and whether it holds a locked pair. -/
def Ctx.committed (c : Ctx) :=
  (c.g, c.k, c.v, c.m, c.acc, c.fflags, c.keys, c.lock)

/-- A tile keeps its share, its line states, the events that count against it, and its context's committed registers. -/
structure TileSpared (x z : Tile) : Prop where
  wf : x.mem.wf = true → z.mem.wf = true
  mem : x.mem.wf = true → ∀ a < 0x3E0000, mget z.mem a = mget x.mem a
  lines : z.lines = x.lines
  faulted : x.faulted = true → z.faulted = true
  ctx : z.ctx.map Ctx.committed = x.ctx.map Ctx.committed

theorem TileSpared.refl (x : Tile) : TileSpared x x := ⟨id, fun _ _ _ => rfl, rfl, id, rfl⟩

theorem TileSpared.trans {x y z : Tile} (h : TileSpared x y) (k : TileSpared y z) : TileSpared x z :=
  ⟨fun hw => k.wf (h.wf hw), fun hw a ha => (k.mem (h.wf hw) a ha).trans (h.mem hw a ha), k.lines.trans h.lines,
    fun hf => k.faulted (h.faulted hf), k.ctx.trans h.ctx⟩

/-- A change of what is neither memory, nor a line state, nor a context. -/
theorem TileSpared.of_eq {x z : Tile} (hm : z.mem = x.mem) (hl : z.lines = x.lines) (hf : x.faulted = true → z.faulted = true)
    (hc : z.ctx = x.ctx) : TileSpared x z :=
  ⟨fun hw => hm ▸ hw, fun _ _ _ => by rw [hm], hl, hf, by rw [hc]⟩

theorem TileSpared.modCtx (x : Tile) {g : Ctx → Ctx} (hg : ∀ c, (g c).committed = c.committed) :
    TileSpared x { x with ctx := x.ctx.map g } :=
  ⟨id, fun _ _ _ => rfl, rfl, id, by cases x.ctx <;> simp [hg]⟩

/-- A state keeps the registers, host memory, the launches' regions, and what each tile spares; nothing is under way
in it. -/
structure Spared (s u : State) : Prop where
  pend : u.pend = []
  ctl : u.ctl = s.ctl
  host : u.host = s.host
  regions : u.launches.map Launch.regions = s.launches.map Launch.regions
  tile : ∀ y, TileSpared (s.tile y) (u.tile y)

/-- From a state with nothing under way, those parts are spared. -/
structure Spares (s u : State) : Prop where
  spared : s.pend = [] → Spared s u

namespace Spares

variable {s u v : State}

theorem refl (s : State) : Spares s s := ⟨fun h => ⟨h, rfl, rfl, rfl, fun _ => .refl _⟩⟩

theorem trans (h : Spares s u) (k : Spares u v) : Spares s v := ⟨fun hs =>
  have a := h.spared hs
  have b := k.spared a.pend
  ⟨b.pend, b.ctl.trans a.ctl, b.host.trans a.host, b.regions.trans a.regions,
    fun y => (a.tile y).trans (b.tile y)⟩⟩

theorem foldl {α : Type} (f : State → α → State) (l : List α) (s : State) (h : ∀ x ∈ l, ∀ u, Spares u (f u x)) :
    Spares s (l.foldl f s) := by
  induction l generalizing s with
  | nil => exact refl s
  | cons x xs ih => exact (h x (by simp) s).trans (ih _ (fun y hy => h y (by simp [hy])))

theorem ite {p : Prop} [Decidable p] {a b : State} (ha : p → Spares s a) (hb : ¬ p → Spares s b) :
    Spares s (if p then a else b) := by
  split
  · exact ha ‹_›
  · exact hb ‹_›

/-- A change of none of the parts. -/
theorem of_eq (ht : u.tiles = s.tiles) (hc : u.ctl = s.ctl) (hh : u.host = s.host)
    (hl : u.launches.map Launch.regions = s.launches.map Launch.regions) (hp : s.pend = [] → u.pend = []) : Spares s u :=
  ⟨fun h => ⟨hp h, hc, hh, hl, fun y => by simp only [State.tile, ht]; exact .refl _⟩⟩

theorem modTile (s : State) (t : Nat) {g : Tile → Tile} (hg : ∀ x, TileSpared x (g x)) : Spares s (s.modTile t g) := by
  refine ⟨fun h => ⟨h, rfl, rfl, rfl, fun y => ?_⟩⟩
  unfold State.modTile
  rw [State.tile_setTile]
  split
  · rename_i hy
    rw [hy.1]
    exact hg _
  · exact .refl _

theorem modCtx (s : State) (t : Nat) {g : Ctx → Ctx} (hg : ∀ c, (g c).committed = c.committed) : Spares s (s.modCtx t g) :=
  modTile s t (fun x => .modCtx x hg)

theorem modFabric (s : State) (t : Nat) (g : Fabric → Fabric) : Spares s (s.modFabric t g) :=
  modTile s t (fun _ => .of_eq rfl rfl id rfl)

/-- What is spared is spared whatever the registers become on both sides. -/
theorem modCtl (h : Spares s u) (f : Control → Control) : Spares (s.modCtl f) (u.modCtl f) := ⟨fun hs =>
  have a := h.spared hs
  ⟨a.pend, congrArg f a.ctl, a.host, a.regions, a.tile⟩⟩

end Spares

theorem emit_spares (s : State) (o : Output) : Spares s (s.emit o) := .of_eq rfl rfl rfl rfl id

theorem modStack_spares (s : State) (k : Nat) (g : Stack → Stack) : Spares s (s.modStack k g) := .of_eq rfl rfl rfl rfl id

theorem wake_spares (s : State) : Spares s (wake s) := ⟨fun h => by
  rw [wake_of_pend_nil s h]
  exact (Spares.refl s).spared h⟩

/-! ### Abandoning and purging -/

/-- The toybox lies above the share. -/
theorem clearToy_spares (s : State) (t e : Nat) : Spares s (clearToy s t e) := by
  unfold clearToy putScratch
  exact .modTile s t (fun x => ⟨fun h => wf_mwriteBytes _ _ h,
    fun h a ha => (mget_mwriteBytes _ a _ h).trans (if_neg (by rintro ⟨hle, -⟩; omega)), rfl, id, rfl⟩)

theorem freeToys_spares (s : State) (t : Nat) (gone : Operand → Bool) : Spares s (freeToys s t gone) :=
  .trans (.foldl _ _ s (fun _ _ u => clearToy_spares u t _)) (.modFabric _ t _)

theorem cancelFar_spares (s : State) (tenant ctx : Nat) (a : Word) : Spares s (cancelFar s tenant ctx a) := by
  unfold cancelFar
  split
  · exact emit_spares s _
  · exact .refl s
  · exact .refl s
  · exact .refl s

theorem dropReserved_spares (s : State) (t ctx : Nat) (gone : Key → Bool) : Spares s (dropReserved s t ctx gone) := by
  unfold dropReserved
  dsimp only
  refine .trans ?_ (.foldl _ _ _ (fun r _ u => ?_))
  · exact .of_eq rfl rfl rfl rfl id
  · split
    · exact cancelFar_spares ..
    · exact .refl u

theorem dropFirings_spares (s : State) (t ctx : Nat) (inh : Bool) (gone : Key → Bool) : Spares s (dropFirings s t ctx inh gone) := by
  unfold dropFirings
  dsimp only
  refine .trans ?_ (.foldl _ _ _ (fun e _ u => ?_))
  · exact .of_eq rfl rfl rfl rfl (fun h => by simp [h])
  · split
    · exact cancelFar_spares ..
    · exact .refl u

theorem acquire_spares (s : State) (t : Nat) : Spares s (acquire s t) :=
  .of_eq rfl rfl rfl rfl (fun h => by simp [acquire, dropAhead, h])

/-- Where an abandoned block enters again is no committed register (R133). -/
theorem committed_keepResume (c : Ctx) (x : Fabric) : (keepResume c x).committed = c.committed := by
  unfold keepResume
  dsimp only
  split
  · rfl
  · split_ifs <;> rfl

theorem abandon_spares (s : State) (t : Nat) : Spares s (abandon s t) :=
  (Spares.modCtx s t (fun c => committed_keepResume c _)).trans <| (freeToys_spares _ t _).trans <| (Spares.modFabric _ t _).trans <|
    (dropFirings_spares ..).trans <| (dropReserved_spares ..).trans <| (acquire_spares _ t).trans (wake_spares _)

theorem dropPend_spares (s : State) (t : Nat) (gone : Key → Bool) : Spares s (dropPend s t gone) :=
  (dropFirings_spares ..).trans ((dropReserved_spares ..).trans (wake_spares _))

theorem purgeAll_spares (s : State) (t : Nat) : Spares s (purgeAll s t) :=
  (freeToys_spares ..).trans <| (Spares.modFabric ..).trans <| (dropPend_spares ..).trans (.modCtx _ t (fun _ => rfl))

/-- A rollback spares what is committed (R135, R306). -/
theorem rollback_spares (s : State) (t : Nat) (k : FaultKind) : Spares s (rollback s t k) := by
  unfold rollback
  dsimp only
  split
  · exact .ite (fun _ => purgeAll_spares s t) (fun _ => (abandon_spares s t).trans (.modCtx _ t (fun _ => rfl)))
  · exact .refl s

/-! ### Ending a context, and trapping -/

theorem tile_endDraw (s : State) (t due y : Nat) : (s.endDraw t due).tile y = s.tile y := rfl

theorem endDraw_spares (s : State) (t due : Nat) : Spares s (s.endDraw t due) := by
  unfold State.endDraw State.dropRequests
  exact .trans (modStack_spares ..) (modStack_spares ..)

theorem regions_of_ended (ls : List Launch) (l : Nat) :
    (ls.map (fun x => if x.id == l then { x with ended := true } else x)).map Launch.regions = ls.map Launch.regions := by
  rw [List.map_map]
  refine List.map_congr_left (fun x _ => ?_)
  dsimp only [Function.comp]
  split <;> rfl

/-- A launch ends, its riders are orphaned, and engine accesses are taken back. -/
theorem discardQueued_spares (s : State) (f : Pend → Bool) (g : Rider → Rider) (l : Nat) :
    Spares s { s with pend := s.pend.filter f, riders := s.riders.map g,
                      launches := s.launches.map (fun x => if x.id == l then { x with ended := true } else x) } :=
  .of_eq rfl rfl rfl (regions_of_ended _ _) (fun h => by simp [h])

theorem tile_discardQueued (s : State) (t : Nat) (o : Output) (ps : List Pend) (rs : List Rider) (ls : List Launch) :
    State.tile { s.emit o with pend := ps, riders := rs, launches := ls } t = s.tile t := rfl

theorem endUnresolved_spares (s : State) (t : Nat) (r : TrapRec) (keep : Bool) : Spares s (endUnresolved s t r keep) := by
  unfold endUnresolved
  split
  · exact .refl s
  · refine .ite (fun _ => .refl s) (fun _ => ?_)
    refine .trans ?_ (discardQueued_spares _ _ _ _)
    refine .trans ?_ (emit_spares ..)
    refine .trans ?_ (.foldl _ _ _ (fun y _ u => .modTile u y (fun _ => .of_eq rfl rfl id rfl)))
    refine .trans ((abandon_spares s t).trans (endDraw_spares ..)) (.modCtx _ t (fun c => ?_))
    cases keep <;> rfl

theorem enterTrap_spares (s : State) (t : Nat) (r : TrapRec) (after async : Bool) (treta : Word) (halted : Bool) :
    Spares s (enterTrap s t r after async treta halted) := by
  unfold enterTrap
  split
  · exact .refl s
  · refine .ite (fun _ => endUnresolved_spares ..) (fun _ => .trans ?_ (.modCtx _ t (fun _ => rfl)))
    exact .modTile s t (fun _ => .of_eq rfl rfl id rfl)

theorem trapNow_spares (s : State) (t : Nat) (r : TrapRec) : Spares s (trapNow s t r) :=
  (abandon_spares s t).trans (enterTrap_spares ..)

/-! ### Fetching afresh (R96) -/

theorem draw_spares (s : State) (n : Nat) : Spares s { s with freeCtr := n } := .of_eq rfl rfl rfl rfl id

/-- A translation cache is no part of what is spared. -/
theorem setTlb_spares (s : State) (t : Nat) (f : Tile → List TlbEntry) : Spares s (s.modTile t (fun x => { x with tlb := f x })) :=
  .modTile s t (fun _ => .of_eq rfl rfl id rfl)

theorem setBcache_spares (s : State) (t : Nat) (f : Tile → List BlockLine) :
    Spares s (s.modTile t (fun x => { x with bcache := f x })) :=
  .modTile s t (fun _ => .of_eq rfl rfl id rfl)

theorem tlbInstall_spares (s : State) (slice : Nat) (e : TlbEntry) : Spares s (tlbInstall s slice e) :=
  .ite (fun _ => setTlb_spares ..) (fun _ => (draw_spares s _).trans (setTlb_spares ..))

theorem translateAs_spares (s : State) (f asid va : Nat) : Spares s (translateAs s f asid va).1 := by
  unfold translateAs
  dsimp only
  split
  · exact setTlb_spares _ _ (fun x => x.tlb.filter _)
  · split
    · exact .refl s
    · have hwalk (ws : List WalkEntry) : Spares s (s.modTile (owningSlice va) (fun x => { x with walks := x.walks ++ ws })) :=
        .modTile s _ (fun _ => .of_eq rfl rfl id rfl)
      split
      · exact hwalk _
      · exact (hwalk _).trans (tlbInstall_spares ..)

theorem translateAccess_spares (s : State) (f va : Nat) (a : Access) : Spares s (translateAccess s f va a).1 := by
  have h := translateAs_spares s f (asidOf s f) va
  unfold translateAccess translateAccessAs
  generalize translateAs s f (asidOf s f) va = r at h
  obtain ⟨u, r⟩ := r
  cases r with
  | error x => exact h
  | ok l =>
    dsimp only
    split_ifs
    · exact h
    · exact h
    · exact h
    · split
      · split_ifs <;> exact h
      · exact h

theorem readLine_spares (s : State) (tenant va : Nat) : Spares s (readLine s tenant va).1 := by
  have h := translateAccess_spares s tenant va .fetch
  unfold readLine
  generalize translateAccess s tenant va .fetch = r at h
  obtain ⟨u, r⟩ := r
  cases r with
  | error x => exact h
  | ok p =>
    dsimp only
    split
    · exact h
    · exact h
    · split <;> exact h

theorem keepLine_spares (s : State) (t : Nat) (l : BlockLine) : Spares s (keepLine s t l) :=
  .ite (fun _ => setBcache_spares ..) (fun _ => (draw_spares s _).trans (setBcache_spares ..))

theorem fetchLine_spares (s : State) (t tenant va : Nat) (bypass : Bool) : Spares s (fetchLine s t tenant va bypass).1 := by
  have h := readLine_spares s tenant va
  unfold fetchLine
  dsimp only
  split
  · exact .refl s
  · generalize readLine s tenant va = r at h
    obtain ⟨u, r⟩ := r
    cases r with
    | error x => exact h
    | ok bs => exact h.trans (keepLine_spares ..)

theorem fetchLines_spares (t tenant : Nat) (bypass : Bool) (n va : Nat) (fresh : Bool) (s : State) :
    Spares s (fetchLines t tenant bypass n va fresh s).1 := by
  induction n generalizing va fresh s with
  | zero => exact .refl s
  | succ n ih =>
    have h := fetchLine_spares s t tenant va bypass
    unfold fetchLines
    generalize fetchLine s t tenant va bypass = r at h
    obtain ⟨u, r⟩ := r
    cases r with
    | error x => exact h
    | ok bs => exact h.trans (ih ..)

theorem fetchBlock_spares (s : State) (t tenant va : Nat) (bypass : Bool) : Spares s (fetchBlock s t tenant va bypass).1 := by
  have h := fetchLine_spares s t tenant va bypass
  unfold fetchBlock
  generalize fetchLine s t tenant va bypass = r at h
  obtain ⟨u, r⟩ := r
  cases r with
  | error x => exact h
  | ok bs => exact h.trans (fetchLines_spares ..)

/-! ### A first event (R96, R306) -/

theorem markFaulted_spares (s : State) (t : Nat) : Spares s (s.markFaulted t) :=
  .modTile s t (fun _ => .of_eq rfl rfl (fun _ => rfl) rfl)

theorem faulted_markFaulted (s : State) {t : Nat} (ht : t < 192) : ((s.markFaulted t).tile t).faulted = true := by
  rw [State.markFaulted, State.tile_modTile_same _ _ _ ht]

/-- A state in which a first event on some tiles has been handled: it is counted, it counts against each of them, and the rest is
spared. -/
def Absorbed (s u : State) (ts : List Nat) : Prop := Spares (countTransient s) u ∧ (s.pend = [] → ∀ y ∈ ts, (u.tile y).faulted = true)

theorem absorbed_of_marked {s m u : State} {y : Nat} (hy : y < 192) (hm : Spares (countTransient s) m)
    (hu : Spares (m.markFaulted y) u) : Absorbed s u [y] :=
  ⟨hm.trans ((markFaulted_spares m y).trans hu), fun h z hz => by
    obtain rfl := List.mem_singleton.mp hz
    exact ((hu.spared (hm.spared h).pend).tile z).faulted (faulted_markFaulted m hy)⟩

theorem fetchAfresh_absorbed (s : State) (t : Nat) {y : Nat} (hy : y < 192) (c : Ctx) : Absorbed s (fetchAfresh s t y c) [y] := by
  unfold fetchAfresh
  dsimp only
  generalize hm : State.modTile s t _ = d
  have hdrop : Spares s d := hm ▸ setBcache_spares s t (fun x => x.bcache.filter _)
  refine absorbed_of_marked hy (hdrop.modCtl _) ?_
  have h := fetchBlock_spares ((countTransient d).markFaulted y) t c.tenant c.pc.toNat true
  generalize fetchBlock ((countTransient d).markFaulted y) t c.tenant c.pc.toNat true = r at h
  obtain ⟨u, r⟩ := r
  cases r with
  | error x => exact h.trans (trapNow_spares ..)
  | ok _ => exact h.trans (.modTile u t (fun _ => .of_eq rfl rfl id rfl))

theorem rollbackAll_absorbed (k : FaultKind) (ts : List Nat) (s u : State) (hts : ∀ y ∈ ts, y < 192) (hu : Spares (countTransient s) u) :
    Absorbed s (ts.foldl (fun s t => (rollback s (leadTile s t) k).markFaulted t) u) ts := by
  induction ts generalizing u with
  | nil => exact ⟨hu, fun _ _ h => nomatch h⟩
  | cons y ys ih =>
    have hroll := rollback_spares u (leadTile u y) k
    have hstep : Spares (countTransient s) ((rollback u (leadTile u y) k).markFaulted y) := hu.trans (hroll.trans (markFaulted_spares ..))
    obtain ⟨hall, hrest⟩ := ih _ (fun z hz => hts z (by simp [hz])) hstep
    refine ⟨hall, fun h z hz => ?_⟩
    obtain rfl | hz := List.mem_cons.mp hz
    · have hspare := Spares.foldl (fun s t => (rollback s (leadTile s t) k).markFaulted t) ys
        ((rollback u (leadTile u z) k).markFaulted z) (fun t _ v => (rollback_spares v _ k).trans (markFaulted_spares ..))
      exact ((hspare.spared (hstep.spared h).pend).tile z).faulted (faulted_markFaulted _ (hts z (by simp)))
    · exact hrest h z hz

/-- A first event leaves the registers but its count, host memory, and what each tile spares (R306). -/
theorem firstEvent_absorbed (s : State) (t : Nat) (k : FaultKind) (hts : ∀ y ∈ faultTiles t k, y < 192) :
    Absorbed s (firstEvent s t k) (faultTiles t k) := by
  unfold firstEvent
  dsimp only
  split
  · rename_i c hc
    split at hc
    · exact fetchAfresh_absorbed s _ (hts t (by simp [faultTiles])) c
    · exact nomatch hc
  · exact rollbackAll_absorbed k _ s _ hts (.refl _)

/-! ### A lasting fault (R306 to R309) -/

theorem leadTile_of_spared {s u : State} (h : Spared s u) (y : Nat) : leadTile u y = leadTile s y := by
  have hc := (h.tile (y - y % 2)).ctx
  unfold leadTile
  cases hs : (s.tile (y - y % 2)).ctx <;> cases hu : (u.tile (y - y % 2)).ctx <;> simp_all [Ctx.committed]

theorem faultInfo_state (s : State) (t : Nat) (k : FaultKind) : ∃ n, (faultInfo s t k).1 = { s with freeCtr := n } := by
  unfold faultInfo
  dsimp only
  split
  · exact ⟨_, rfl⟩
  · exact ⟨_, rfl⟩

/-- Where a tile holds a context, a fault ends it as an unresolved trap (R306). -/
theorem endWithFault_of_ctx {s : State} {t : Nat} {c : Ctx} (hc : (s.tile t).ctx = some c) (k : FaultKind) :
    ∃ n r keep, endWithFault s t k = endUnresolved { s with freeCtr := n } t r keep := by
  obtain ⟨n, hn⟩ := faultInfo_state s t k
  unfold endWithFault
  generalize faultInfo s t k = y at hn
  obtain ⟨v, i0, i1⟩ := y
  obtain rfl : v = { s with freeCtr := n } := hn
  have hsome : (State.tile { s with freeCtr := n } t).ctx.isNone = false := by
    change (s.tile t).ctx.isNone = false
    rw [hc]
    rfl
  simp only [hsome, Bool.false_eq_true, if_false]
  split
  · exact ⟨n, _, _, rfl⟩
  · exact ⟨n, _, _, rfl⟩

/-- Where a tile holds none, a fault spoils an image that is still being written (R83). -/
theorem endWithFault_of_none {s : State} {t : Nat} (hc : (s.tile t).ctx = none) (k : FaultKind) :
    ∃ n i0 i1, endWithFault s t k =
      spoilImage { s with freeCtr := n } ((savingTile s t).getD t) (faultRecord t k).1 i0 i1 false := by
  obtain ⟨n, hn⟩ := faultInfo_state s t k
  unfold endWithFault
  generalize faultInfo s t k = y at hn
  obtain ⟨v, i0, i1⟩ := y
  obtain rfl : v = { s with freeCtr := n } := hn
  have hnone : (State.tile { s with freeCtr := n } t).ctx.isNone = true := by
    change (s.tile t).ctx.isNone = true
    rw [hc]
    rfl
  simp only [hnone, if_true]
  exact ⟨n, i0, i1, rfl⟩

/-- What a change of tiles leaves of each, it leaves of a list of them. -/
theorem foldl_modTile_same {α : Type} (π : Tile → α) (f : Tile → Tile) (hf : ∀ x, π (f x) = π x) (l : List Nat) (s : State) (t : Nat) :
    π ((l.foldl (fun s y => s.modTile y f) s).tile t) = π (s.tile t) := by
  induction l generalizing s with
  | nil => rfl
  | cons y ys ih =>
    refine (ih _).trans ?_
    unfold State.modTile
    rw [State.tile_setTile]
    split
    · rename_i h
      rw [hf, h.1]
    · rfl

/-- A context that is not live does not end again. -/
theorem endUnresolved_of_not_live {s : State} {t : Nat} {c : Ctx} (hc : (s.tile t).ctx = some c) (hlive : c.phase.live = false)
    (r : TrapRec) (keep : Bool) : endUnresolved s t r keep = s := by
  unfold endUnresolved
  simp only [hc, hlive, Bool.not_false, if_true]

theorem tile_lt_of_ctx {s : State} {t : Nat} {c : Ctx} (h : (s.tile t).ctx = some c) : t < 192 := by
  by_contra hge
  simp [State.tile, hge, Tile.reset] at h

/-- A context that has ended with a record, or with the one it had (R302). -/
def endedCtx (r : TrapRec) (keep : Bool) (c : Ctx) : Ctx :=
  let c := { c with phase := .ended, copyQ := [], vectorQ := [], matrixQ := [], riderQ := [], pass := none, flights := [],
                    stopping := none, pendingTraps := [] }
  if keep then c
  else { c with tcause := r.cause, tblk := r.blk, tslot := r.slot, ttag := r.tag, tinfo0 := r.info0, tinfo1 := r.info1 }

/-- Of a tile whose live context ends, the context and the fabric, by those of the abandoned block (R302). -/
theorem tile_endUnresolved {s : State} {t : Nat} {c e : Ctx} (hc : (s.tile t).ctx = some c) (hlive : c.phase.live = true)
    (he : ((abandon s t).tile t).ctx = some e) (r : TrapRec) (keep : Bool) :
    ((endUnresolved s t r keep).tile t).ctx = some (endedCtx r keep e) ∧
      (endUnresolved s t r keep).fabric t = (abandon s t).fabric t := by
  unfold endUnresolved
  simp only [hc, hlive, Bool.not_true, Bool.false_eq_true, if_false]
  generalize hX : State.endDraw (abandon s t) t _ = X
  have htile : X.tile t = (abandon s t).tile t := by rw [← hX, tile_endDraw]
  have hmod (g : Ctx → Ctx) : ((X.modCtx t g).tile t).ctx = some (g e) ∧ ((X.modCtx t g).tile t).fabric = (abandon s t).fabric t := by
    rw [State.modCtx, State.tile_modTile_same _ _ _ (tile_lt_of_ctx hc), htile]
    exact ⟨by rw [he]; rfl, rfl⟩
  unfold State.fabric
  rw [tile_discardQueued, foldl_modTile_same Tile.ctx _ (by intro; rfl), foldl_modTile_same Tile.fabric _ (by intro; rfl)]
  exact hmod (endedCtx r keep)

/-- A context that has ended as an unresolved trap is no longer live (R302). -/
theorem endUnresolved_ends {s : State} {t : Nat} {c : Ctx} (hpend : s.pend = []) (hc : (s.tile t).ctx = some c) (r : TrapRec)
    (keep : Bool) : ∃ d, ((endUnresolved s t r keep).tile t).ctx = some d ∧ d.phase.live = false := by
  by_cases hlive : c.phase.live = true
  · have hctx := (((abandon_spares s t).spared hpend).tile t).ctx
    rw [hc] at hctx
    obtain ⟨e, he, -⟩ := Option.map_eq_some_iff.mp hctx
    exact ⟨_, (tile_endUnresolved hc hlive he r keep).1, by cases keep <;> rfl⟩
  · refine ⟨c, ?_, Bool.eq_false_iff.mpr hlive⟩
    rw [endUnresolved_of_not_live hc (Bool.eq_false_iff.mpr hlive)]
    exact hc

theorem endWithFault_spares (s : State) (t : Nat) (k : FaultKind) : Spares s (endWithFault s t k) := by
  cases hc : (s.tile t).ctx with
  | some c =>
    obtain ⟨n, r, keep, h⟩ := endWithFault_of_ctx hc k
    exact h ▸ (draw_spares s n).trans (endUnresolved_spares ..)
  | none =>
    obtain ⟨n, i0, i1, h⟩ := endWithFault_of_none hc k
    exact h ▸ .of_eq rfl rfl rfl rfl id

theorem endWithFault_ends {s : State} (hpend : s.pend = []) (t : Nat) (k : FaultKind) {c : Ctx}
    (hc : ((endWithFault s t k).tile t).ctx = some c) : c.phase.live = false := by
  have hspare := (((endWithFault_spares s t k).spared hpend).tile t).ctx
  rw [hc] at hspare
  obtain ⟨c', hc', -⟩ := Option.map_eq_some_iff.mp hspare.symm
  obtain ⟨n, r, keep, h⟩ := endWithFault_of_ctx hc' k
  obtain ⟨d, hd, hend⟩ := endUnresolved_ends (s := { s with freeCtr := n }) hpend hc' r keep
  rw [h, hd] at hc
  exact Option.some.inj hc ▸ hend

/-! #### The images that a fault spoils (R83, R307) -/

/-- Every image in a bank that is still being written, or each of them, is invalid with a cause. -/
def BankSpoiled (s : State) (b cause : Nat) (all : Bool) : Prop :=
  ∀ z ∈ s.images, z.bank = some b → (all = true ∨ z.complete = false) → z.valid = false ∧ z.cause = cause

theorem spoilImage_spoils (s : State) (b cause : Nat) (i0 i1 : Word) (all : Bool) :
    BankSpoiled (spoilImage s b cause i0 i1 all) b cause all := by
  rintro z hz hbank hopen
  obtain ⟨y, -, rfl⟩ := List.mem_map.mp hz
  split
  · exact ⟨rfl, rfl⟩
  · rename_i hnot
    rw [if_neg hnot] at hbank hopen
    simp [hbank, hopen] at hnot

theorem spoilImage_keeps_spoiled {s : State} {b cause : Nat} (h : BankSpoiled s b cause false) (b' : Nat) (i0 i1 : Word) :
    BankSpoiled (spoilImage s b' cause i0 i1 false) b cause false := by
  rintro z hz hbank hopen
  obtain ⟨y, hy, rfl⟩ := List.mem_map.mp hz
  split
  · exact ⟨rfl, rfl⟩
  · rename_i hnot
    rw [if_neg hnot] at hbank hopen
    exact h y hy hbank hopen

/-- What decides whether an image is still being written: whether it is complete, and whether its context holds a pair. -/
def bankFace (s : State) (t : Nat) : Option (Bool × Bool) := (bankImage s t).map (fun i => (i.complete, i.ctx.lock))

/-- The image of a tile, or of a pair that it leads, is still being written (R83). -/
def writesFrom (s : State) (t : Nat) (pair : Bool) : Bool :=
  (s.tile t).ctx.isNone &&
    (match bankImage s t with
      | some i => !i.complete && (!pair || i.ctx.lock)
      | none => false)

theorem savingTile_eq (s : State) (t : Nat) : savingTile s t =
    if writesFrom s t false then some t
    else if t % 2 = 1 ∧ (s.tile t).ctx.isNone ∧ writesFrom s (t - 1) true then some (t - 1) else none := rfl

theorem writesFrom_eq (s : State) (t : Nat) (pair : Bool) :
    writesFrom s t pair = ((s.tile t).ctx.isNone && (bankFace s t).any (fun x => !x.1 && (!pair || x.2))) := by
  unfold writesFrom bankFace
  cases bankImage s t <;> rfl

theorem bankFace_spoilImage (s : State) (b cause : Nat) (i0 i1 : Word) (all : Bool) (t : Nat) :
    bankFace (spoilImage s b cause i0 i1 all) t = bankFace s t := by
  unfold bankFace bankImage spoilImage
  rw [List.find?_map, Option.map_map]
  have hsame : ((fun i : Image => i.bank == some t) ∘ fun i => if i.bank = some b ∧ (all = true ∨ (!i.complete) = true) then
      { i with valid := false, cause := cause, info0 := i0, info1 := i1 } else i) = fun i => i.bank == some t := by
    funext i
    dsimp only [Function.comp]
    split <;> rfl
  rw [hsame]
  refine Option.map_congr (fun i _ => ?_)
  dsimp only [Function.comp]
  split <;> rfl

/-- Spoiling an image does not change which tile's image is being written. -/
theorem savingTile_spoilImage (s : State) (b cause : Nat) (i0 i1 : Word) (all : Bool) (t : Nat) :
    savingTile (spoilImage s b cause i0 i1 all) t = savingTile s t := by
  simp only [savingTile_eq, writesFrom_eq, bankFace_spoilImage]
  rfl

/-! #### Fencing -/

theorem tile_fenceTile (s : State) (y t : Nat) : (fenceTile s y).tile t = s.tile t := by
  unfold fenceTile
  split <;> rfl

/-- What a lasting fault does to one of its tiles: the context that it belongs to ends, and the tile is fenced. -/
def failTile (k : FaultKind) (s : State) (y : Nat) : State := fenceTile (endWithFault s (leadTile s y) k) y

/-- Fencing changes registers alone. -/
theorem fenceTile_eq (s : State) (y : Nat) : ∃ f, fenceTile s y = s.modCtl f := by
  unfold fenceTile
  split
  · exact ⟨id, rfl⟩
  · exact ⟨_, rfl⟩

theorem fenceTile_ctl_congr {s u : State} (h : u.ctl = s.ctl) (y : Nat) : (fenceTile u y).ctl = (fenceTile s y).ctl := by
  unfold fenceTile fenced
  rw [h]
  split
  · exact h
  · exact congrArg (fun k : Control => { k with tfence := k.tfence ||| (1#192 <<< y), tserv := k.tserv - 1 }) h

theorem failAll_ctl (k : FaultKind) (ts : List Nat) {s u : State} (hpend : u.pend = []) (h : u.ctl = s.ctl) :
    (ts.foldl (failTile k) u).ctl = (ts.foldl fenceTile s).ctl := by
  induction ts generalizing s u with
  | nil => exact h
  | cons y ys ih =>
    have hspare := (endWithFault_spares u (leadTile u y) k).spared hpend
    refine ih ?_ (fenceTile_ctl_congr (hspare.ctl.trans h) y)
    obtain ⟨f, hf⟩ := fenceTile_eq (endWithFault u (leadTile u y) k) y
    rw [failTile, hf]
    exact hspare.pend

/-- What fencing leaves of the registers of lasting faults (R309). -/
def Control.lastingRecord (c : Control) := (c.relValid, c.relTile, c.relCause, c.lasting)

/-- Each tile of a list is fenced, and no other (R39, R306). -/
theorem fenceAll_ctl (ts : List Nat) (s : State) (hts : ∀ y ∈ ts, y < 192) :
    (ts.foldl fenceTile s).ctl.lastingRecord = s.ctl.lastingRecord ∧
    (∀ y < 192, (ts.foldl fenceTile s).ctl.tfence.getLsbD y = (s.ctl.tfence.getLsbD y || ts.contains y)) := by
  induction ts generalizing s with
  | nil => simp
  | cons z zs ih =>
    obtain ⟨hrec, hbits⟩ := ih (fenceTile s z) (fun y hy => hts y (by simp [hy]))
    have hz : z < 192 := hts z (by simp)
    have hone : (fenceTile s z).ctl.lastingRecord = s.ctl.lastingRecord ∧
        ∀ y < 192, (fenceTile s z).ctl.tfence.getLsbD y = (s.ctl.tfence.getLsbD y || (y == z)) := by
      unfold fenceTile fenced
      split
      · rename_i hset
        refine ⟨rfl, fun y _ => ?_⟩
        by_cases hyz : y = z
        · subst hyz; simp [hset]
        · simp [hyz]
      · refine ⟨rfl, fun y hy => ?_⟩
        simp only [State.modCtl, BitVec.getLsbD_or, BitVec.getLsbD_shiftLeft, BitVec.getLsbD_one]
        by_cases hyz : y = z
        · subst hyz; simp [hy]
        · rcases Nat.lt_or_gt_of_ne hyz with h | h
          · simp [h, hyz]
          · simp [hyz, show y - z ≠ 0 by omega]
    refine ⟨hrec.trans hone.1, fun y hy => ?_⟩
    rw [List.foldl_cons, hbits y hy, hone.2 y hy, List.contains_cons, Bool.or_assoc]

/-- Tiles newly fenced are no longer among those that serve (R39). -/
theorem fenceAll_tserv (ts : List Nat) (s : State) (hts : ∀ y ∈ ts, y < 192) (hdistinct : ts.Nodup)
    (hclear : ∀ y ∈ ts, s.ctl.tfence.getLsbD y = false) :
    (ts.foldl fenceTile s).ctl.tserv = s.ctl.tserv - BitVec.ofNat 8 ts.length := by
  induction ts generalizing s with
  | nil => simp
  | cons z zs ih =>
    obtain ⟨hz, hzs⟩ := List.nodup_cons.mp hdistinct
    have hone : (fenceTile s z).ctl.tserv = s.ctl.tserv - 1 := by
      unfold fenceTile fenced
      rw [hclear z (by simp)]
      rfl
    have hrest := ih (fenceTile s z) (fun y hy => hts y (by simp [hy])) hzs (fun y hy => by
      have hbit := (fenceAll_ctl [z] s (by simpa using hts z (by simp))).2 y (hts y (by simp [hy]))
      rw [List.foldl_cons, List.foldl_nil] at hbit
      rw [hbit, hclear y (by simp [hy])]
      have hne : y ≠ z := fun h => hz (h ▸ hy)
      simp [hne])
    rw [List.foldl_cons, hrest, hone, List.length_cons, BitVec.ofNat_add, sub_sub, add_comm]
    rfl

/-! #### A tile that fails -/

theorem failTile_spares (k : FaultKind) (s : State) (y : Nat) (hpend : s.pend = []) :
    Spared s { failTile k s y with ctl := s.ctl } := by
  have h := (endWithFault_spares s (leadTile s y) k).spared hpend
  obtain ⟨f, hf⟩ := fenceTile_eq (endWithFault s (leadTile s y) k) y
  rw [failTile, hf]
  exact ⟨h.pend, rfl, h.host, h.regions, h.tile⟩

theorem failAll_spares (k : FaultKind) (ts : List Nat) (s : State) (hpend : s.pend = []) :
    Spared s { ts.foldl (failTile k) s with ctl := s.ctl } := by
  induction ts generalizing s with
  | nil => exact (Spares.refl s).spared hpend
  | cons y ys ih =>
    have hstep := failTile_spares k s y hpend
    have hrest := ih (failTile k s y) hstep.pend
    exact ⟨hrest.pend, rfl, hrest.host.trans hstep.host, hrest.regions.trans hstep.regions,
      fun z => (hstep.tile z).trans (hrest.tile z)⟩

theorem failTile_ends (k : FaultKind) {s : State} (hpend : s.pend = []) (y : Nat) {c : Ctx}
    (hc : ((failTile k s y).tile (leadTile s y)).ctx = some c) : c.phase.live = false :=
  endWithFault_ends hpend (leadTile s y) k (tile_fenceTile _ y _ ▸ hc)

/-- The cause of a fault does not depend on its tile. -/
theorem faultRecord_cause (k : FaultKind) (t u : Nat) : (faultRecord t k).1 = (faultRecord u k).1 := by
  cases k <;> rfl

section Spoil

variable {k : FaultKind} {s : State} {y : Nat}

/-- A tile without a context spoils the image that is still being written from it. -/
theorem failTile_of_none (hc : (s.tile (leadTile s y)).ctx = none) : ∃ n i0 i1 f, failTile k s y =
    (spoilImage { s with freeCtr := n } ((savingTile s (leadTile s y)).getD (leadTile s y)) (faultRecord (leadTile s y) k).1 i0 i1
      false).modCtl f := by
  obtain ⟨n, i0, i1, h⟩ := endWithFault_of_none hc k
  obtain ⟨f, hf⟩ := fenceTile_eq (endWithFault s (leadTile s y) k) y
  exact ⟨n, i0, i1, f, by rw [failTile, hf, h]⟩

theorem failTile_spoils (hc : (s.tile (leadTile s y)).ctx = none) {b : Nat} (hb : savingTile s (leadTile s y) = some b) (t : Nat) :
    BankSpoiled (failTile k s y) b (faultRecord t k).1 false := by
  obtain ⟨n, i0, i1, f, h⟩ := failTile_of_none (k := k) hc
  rw [h, hb, faultRecord_cause k _ t]
  exact spoilImage_spoils { s with freeCtr := n } b _ i0 i1 false

theorem failTile_keeps_spoiled (hc : (s.tile (leadTile s y)).ctx = none) {b t : Nat}
    (hb : BankSpoiled s b (faultRecord t k).1 false) : BankSpoiled (failTile k s y) b (faultRecord t k).1 false := by
  obtain ⟨n, i0, i1, f, h⟩ := failTile_of_none (k := k) hc
  rw [h, faultRecord_cause k _ t]
  exact spoilImage_keeps_spoiled (s := { s with freeCtr := n }) hb _ i0 i1

theorem savingTile_failTile (hc : (s.tile (leadTile s y)).ctx = none) (t : Nat) : savingTile (failTile k s y) t = savingTile s t := by
  obtain ⟨n, i0, i1, f, h⟩ := failTile_of_none (k := k) hc
  rw [h]
  exact savingTile_spoilImage { s with freeCtr := n } _ _ i0 i1 false t

end Spoil

theorem leadTile_of_none {s : State} {t : Nat} (h : (s.tile (t - t % 2)).ctx = none) : leadTile s t = t := by
  rw [leadTile, h]

/-- A tile whose context another tile holds is not its own leading tile (R84). -/
theorem leadTile_of_ctx_none {s : State} {t : Nat} (h : (s.tile (leadTile s t)).ctx = none) : leadTile s t = t := by
  unfold leadTile at h ⊢
  split
  · rename_i c hc
    split
    · rename_i hl
      simp only [hc, hl, if_true] at h
      exact nomatch h
    · rfl
  · rfl

/-- Where no region waits nothing leaves a fenced tile. -/
theorem leaveTile_of_none_waiting {s : State} (h : ∀ l ∈ s.launches, ∀ r ∈ l.regions, r.st ≠ .waiting) (t : Nat) :
    leaveTile s t = s := by
  unfold leaveTile
  have hregions (l : Launch) (rs : List Region) (hrs : ∀ r ∈ rs, r.st ≠ .waiting) (u : State) :
      rs.foldl (fun s r => if r.st = .waiting ∧ r.nodes.any (fun p => usesTile l.lock p.2 t) then moveRegion s l r else s) u = u := by
    induction rs generalizing u with
    | nil => rfl
    | cons r rs ih =>
      rw [List.foldl_cons, if_neg (fun hw => hrs r (by simp) hw.1)]
      exact ih (fun x hx => hrs x (by simp [hx])) u
  have hlaunches (ls : List Launch) (hls : ∀ l ∈ ls, ∀ r ∈ l.regions, r.st ≠ .waiting) (u : State) :
      ls.foldl (fun s l => if l.ended then s else l.regions.foldl (fun s r =>
        if r.st = .waiting ∧ r.nodes.any (fun p => usesTile l.lock p.2 t) then moveRegion s l r else s) s) u = u := by
    induction ls generalizing u with
    | nil => rfl
    | cons l ls ih =>
      rw [List.foldl_cons, hregions l _ (hls l (by simp)), ite_self]
      exact ih (fun x hx => hls x (by simp [hx])) u
  exact hlaunches _ h s

theorem leaveAll_of_none_waiting {s : State} (h : ∀ l ∈ s.launches, ∀ r ∈ l.regions, r.st ≠ .waiting) (ts : List Nat) :
    ts.foldl leaveTile s = s := by
  induction ts with
  | nil => rfl
  | cons y ys ih => rw [List.foldl_cons, leaveTile_of_none_waiting h, ih]

/-- Spared launches have no more waiting regions than before. -/
theorem none_waiting_of_spared {s u : State} (hu : u.launches.map Launch.regions = s.launches.map Launch.regions)
    (h : ∀ l ∈ s.launches, ∀ r ∈ l.regions, r.st ≠ .waiting) : ∀ l ∈ u.launches, ∀ r ∈ l.regions, r.st ≠ .waiting := by
  intro l hl r hr
  have hmem : l.regions ∈ s.launches.map Launch.regions := hu ▸ List.mem_map_of_mem hl
  obtain ⟨l', hl', heq⟩ := List.mem_map.mp hmem
  exact h l' hl' r (heq ▸ hr)

/-- The tiles that fail together: one, or both of a locked pair that runs, or both of one whose image is being written (R308). -/
inductive FailGroup (s : State) (t : Nat) : List Nat → Prop
  | one : FailGroup s t [t]
  | running (p : Nat) (c : Ctx) (hp : p % 2 = 0) (ht : t = p ∨ t = p + 1) (hc : (s.tile p).ctx = some c) (hl : c.lock = true) :
      FailGroup s t [p, p + 1]
  | saving (p : Nat) (hp : p % 2 = 0) (ht : t = p ∨ t = p + 1) (hc : (s.tile p).ctx = none) (hc' : (s.tile (p + 1)).ctx = none) :
      FailGroup s t [p, p + 1]

theorem FailGroup.of_tile_eq {s u : State} {t : Nat} {ts : List Nat} (h : FailGroup s t ts) (hu : ∀ y, u.tile y = s.tile y) :
    FailGroup u t ts := by
  cases h with
  | one => exact .one
  | running p c hp ht hc hl => exact .running p c hp ht (hu p ▸ hc) hl
  | saving p hp ht hc hc' => exact .saving p hp ht (hu p ▸ hc) (hu (p + 1) ▸ hc')

/-- An image is written from a tile's even neighbour only where the tile holds no context (R83). -/
theorem ctx_none_of_savingTile_even {s : State} {p : Nat} (h : savingTile s (p + 1) = some p) : (s.tile (p + 1)).ctx = none := by
  rw [savingTile_eq] at h
  split at h
  · exact absurd (Option.some.inj h) (by omega)
  · split at h
    · rename_i hsave
      exact Option.isNone_iff_eq_none.mp hsave.2.1
    · exact nomatch h

theorem failGroup_of_possible {s : State} {t : Nat} {k : FaultKind} (h : faultPossible s t k = true) : FailGroup s t (faultTiles t k) := by
  cases k with
  | lockstep =>
    have hp : (t - t % 2) % 2 = 0 := by omega
    simp only [faultPossible, Bool.and_eq_true] at h
    cases hc : (s.tile (t - t % 2)).ctx with
    | some c =>
      simp only [hc] at h
      exact .running _ c hp (by omega) hc h.2
    | none =>
      simp only [hc, beq_iff_eq] at h
      exact .saving _ hp (by omega) hc (ctx_none_of_savingTile_even h.2)
  | residue => exact .one
  | route => exact .one
  | uncorrectable => exact .one
  | architectural => exact .one

theorem lt_of_faultPossible {s : State} {t : Nat} {k : FaultKind} (h : faultPossible s t k = true) : t < 192 := by
  simp only [faultPossible, Bool.and_eq_true, decide_eq_true_eq] at h
  exact h.1

theorem faultTiles_lt {t : Nat} (ht : t < 192) (k : FaultKind) : ∀ y ∈ faultTiles t k, y < 192 := by
  cases k <;> simp [faultTiles] <;> omega

theorem faultTiles_nodup (t : Nat) (k : FaultKind) : (faultTiles t k).Nodup := by
  cases k <;> simp [faultTiles]

theorem leadTile_of_lock {s : State} {p : Nat} {c : Ctx} (hp : p % 2 = 0) (hc : (s.tile p).ctx = some c) (hl : c.lock = true) :
    leadTile s p = p ∧ leadTile s (p + 1) = p := by
  have heven : p - p % 2 = p := by omega
  have hodd : p + 1 - (p + 1) % 2 = p := by omega
  simp [leadTile, heven, hodd, hc, hl]

/-- Where tiles have failed no context that they belong to is live (R306). -/
theorem failAll_ends (k : FaultKind) {s : State} {t : Nat} {ts : List Nat} (hpend : s.pend = []) (h : FailGroup s t ts) :
    ∀ y ∈ ts, ∀ c, ((ts.foldl (failTile k) s).tile (leadTile s y)).ctx = some c → c.phase.live = false := by
  cases h with
  | one =>
    intro y hy c hc
    obtain rfl := List.mem_singleton.mp hy
    exact failTile_ends k hpend y hc
  | running p c hp ht hc hl =>
    have hspare := failTile_spares k s p hpend
    have hlead : leadTile (failTile k s p) (p + 1) = p :=
      (leadTile_of_spared hspare (p + 1)).trans (leadTile_of_lock hp hc hl).2
    intro y hy d hd
    have hy' : leadTile s y = p := by
      obtain rfl | hy := List.mem_cons.mp hy
      · exact (leadTile_of_lock hp hc hl).1
      · obtain rfl := List.mem_singleton.mp hy
        exact (leadTile_of_lock hp hc hl).2
    refine failTile_ends k (s := failTile k s p) hspare.pend (p + 1) ?_
    rw [hlead]
    exact hy' ▸ hd
  | saving p hp ht hc hc' =>
    intro y hy d hd
    have hnone : (s.tile (leadTile s y)).ctx = none := by
      obtain rfl | hy := List.mem_cons.mp hy
      · rw [leadTile_of_none (by rwa [show y - y % 2 = y by omega])]
        exact hc
      · obtain rfl := List.mem_singleton.mp hy
        rw [leadTile_of_none (by rwa [show p + 1 - (p + 1) % 2 = p by omega])]
        exact hc'
    have hctx := ((failAll_spares k [p, p + 1] s hpend).tile (leadTile s y)).ctx
    rw [hnone] at hctx
    exact absurd (hd.symm.trans (Option.map_eq_none_iff.mp hctx)) (by simp)

/-- Where the fault meets an image that is still being written, that image is invalid (R83). -/
theorem failAll_spoils (k : FaultKind) {s : State} {t b : Nat} {ts : List Nat} (hpend : s.pend = []) (h : FailGroup s t ts)
    (hctx : (s.tile (leadTile s t)).ctx = none) (hb : savingTile s t = some b) :
    BankSpoiled (ts.foldl (failTile k) s) b (faultRecord t k).1 false := by
  have hlead := leadTile_of_ctx_none hctx
  cases h with
  | one => exact failTile_spoils hctx (hlead.symm ▸ hb) t
  | running p c hp ht hc hl =>
    have hp : leadTile s t = p := by
      obtain rfl | rfl := ht
      · exact (leadTile_of_lock hp hc hl).1
      · exact (leadTile_of_lock hp hc hl).2
    rw [hp, hc] at hctx
    exact nomatch hctx
  | saving p hp ht hc hc' =>
    have hspare := failTile_spares k s p hpend
    have hnone {y : Nat} (h : (s.tile y).ctx = none) : ((failTile k s p).tile y).ctx = none :=
      Option.map_eq_none_iff.mp ((hspare.tile y).ctx.trans (by rw [h]; rfl))
    have hfirst : leadTile s p = p := leadTile_of_none (by rwa [show p - p % 2 = p by omega])
    have hsecond : leadTile (failTile k s p) (p + 1) = p + 1 :=
      leadTile_of_none (hnone (by rwa [show p + 1 - (p + 1) % 2 = p by omega]))
    have hctx₁ : (s.tile (leadTile s p)).ctx = none := hfirst.symm ▸ hc
    have hctx₂ : ((failTile k s p).tile (leadTile (failTile k s p) (p + 1))).ctx = none := hsecond.symm ▸ hnone hc'
    obtain rfl | rfl := ht
    · exact failTile_keeps_spoiled hctx₂ (failTile_spoils hctx₁ (hfirst.symm ▸ hb) t)
    · refine failTile_spoils hctx₂ ?_ (p + 1)
      rw [hsecond, savingTile_failTile hctx₁]
      exact hb

/-! ### Settling O39 -/

section Exec

variable {s : State} {t : Nat} {k : FaultKind}

theorem exec_faultRollback_impossible (h : faultPossible s t k = false) : exec (.faultRollback t k) s = .next s := by
  change execFaultRollback t k s = _
  unfold execFaultRollback
  rw [h]
  rfl

theorem exec_faultRollback_storage {st i : Nat} (h : faultPossible s t (.architectural st i) = true) :
    exec (.faultRollback t (.architectural st i)) s = .next (architecturalFault s t st i) := by
  change execFaultRollback t _ s = _
  unfold execFaultRollback
  rw [h]
  rfl

theorem exec_faultRollback_retried (h : faultPossible s t k = true) (hk : ¬ ∃ st i, k = .architectural st i) :
    exec (.faultRollback t k) s =
      .next (if (faultTiles t k).any (fun y => (s.tile y).faulted) then lastingFault s t k else firstEvent s t k) := by
  change execFaultRollback t k s = _
  unfold execFaultRollback
  rw [h]
  cases k with
  | architectural st i => exact absurd ⟨st, i, rfl⟩ hk
  | residue => simp only [Bool.not_true, Bool.false_eq_true, if_false]; split <;> rfl
  | route => simp only [Bool.not_true, Bool.false_eq_true, if_false]; split <;> rfl
  | uncorrectable => simp only [Bool.not_true, Bool.false_eq_true, if_false]; split <;> rfl
  | lockstep => simp only [Bool.not_true, Bool.false_eq_true, if_false]; split <;> rfl

theorem exec_faultRollback_first (h : faultPossible s t k = true) (hk : ¬ ∃ st i, k = .architectural st i)
    (hfresh : ∀ y ∈ faultTiles t k, (s.tile y).faulted = false) : exec (.faultRollback t k) s = .next (firstEvent s t k) := by
  rw [exec_faultRollback_retried h hk, if_neg]
  simpa using hfresh

theorem exec_faultRollback_lasting (h : faultPossible s t k = true) (hk : ¬ ∃ st i, k = .architectural st i)
    (hagain : ∃ y ∈ faultTiles t k, (s.tile y).faulted = true) : exec (.faultRollback t k) s = .next (lastingFault s t k) := by
  rw [exec_faultRollback_retried h hk, if_pos]
  simpa using hagain

end Exec

/-- An error in the save bank, or in a register that is being saved, makes the image invalid and ends its launch (R307). -/
theorem endSaved_meets (s : State) (t st i : Nat) : BankSpoiled (endSaved s t st i) t 0x73 true ∧
    ∀ x, bankImage s t = some x → (∀ l ∈ (endSaved s t st i).launches, l.id = x.ctx.launch → l.ended = true) ∧
      .unresolved t 0x73 (BitVec.ofNat 64 i) (BitVec.ofNat 64 st) ∈ (endSaved s t st i).outbox := by
  have hspoil := spoilImage_spoils s t 0x73 (BitVec.ofNat 64 i) (BitVec.ofNat 64 st) true
  unfold endSaved
  cases hx : bankImage s t with
  | none => exact ⟨hspoil, fun _ h => nomatch h⟩
  | some x =>
    refine ⟨hspoil, fun y hy => ?_⟩
    obtain rfl := Option.some.inj hy
    refine ⟨fun l hl hid => ?_, by simp [State.emit]⟩
    obtain ⟨m, -, rfl⟩ := List.mem_map.mp hl
    dsimp only at hid ⊢
    split
    · rfl
    · rename_i hne
      rw [if_neg hne] at hid
      exact absurd (beq_iff_eq.mpr hid) hne

/-- Each tile's share is in canonical form. -/
theorem mem_wf_of_memoriesWf {s : State} (h : MemoriesWf s) (t : Nat) : (s.tile t).mem.wf = true := by
  obtain ⟨-, -, -, -, -, htiles, -⟩ := h
  unfold State.tile
  cases hx : s.tiles[t]? with
  | none => rfl
  | some x => exact htiles x (Vector.mem_of_getElem? hx)

/-- What a first event leaves as it was (R306). -/
theorem firstEvent_meets {s : State} (hstill : Still s) {t : Nat} {k : FaultKind} (ht : t < 192) :
    let u := firstEvent s t k
    u.ctl = { s.ctl with trans := if s.ctl.trans = BitVec.allOnes 32 then s.ctl.trans else s.ctl.trans + 1 } ∧
    u.host = s.host ∧ (∀ y ∈ faultTiles t k, (u.tile y).faulted = true) ∧
    ∀ y, (∀ a < 0x3E0000, mget (u.tile y).mem a = mget (s.tile y).mem a) ∧ (u.tile y).lines = (s.tile y).lines ∧
      ∀ c, (s.tile y).ctx = some c → ∃ d, (u.tile y).ctx = some d ∧ d.g = c.g ∧ d.k = c.k ∧ d.v = c.v ∧ d.m = c.m ∧
        d.acc = c.acc ∧ d.fflags = c.fflags ∧ d.keys = c.keys := by
  obtain ⟨hwf, hpend, -, -⟩ := hstill
  obtain ⟨hspares, hmarked⟩ := firstEvent_absorbed s t k (faultTiles_lt ht k)
  have h := hspares.spared hpend
  refine ⟨h.ctl, h.host, hmarked hpend, fun y => ⟨(h.tile y).mem (mem_wf_of_memoriesWf hwf y), (h.tile y).lines, fun c hc => ?_⟩⟩
  have hctx := (h.tile y).ctx
  change _ = (s.tile y).ctx.map _ at hctx
  rw [hc] at hctx
  obtain ⟨d, hd, heq⟩ := Option.map_eq_some_iff.mp hctx
  simp only [Ctx.committed, Prod.mk.injEq] at heq
  obtain ⟨hg, hk, hv, hm, hacc, hflags, hkeys, -⟩ := heq
  exact ⟨d, hd, hg, hk, hv, hm, hacc, hflags, hkeys⟩

/-- What a lasting fault does, in a state with no waiting region (R306 to R309). -/
theorem lastingFault_meets {s : State} (hstill : Still s) (hwait : ∀ l ∈ s.launches, ∀ r ∈ l.regions, r.st ≠ .waiting) {t : Nat}
    {k : FaultKind} (hposs : faultPossible s t k = true) :
    let u := lastingFault s t k
    let ts := faultTiles t k
    u.ctl.relValid = true ∧ u.ctl.relTile = BitVec.ofNat 8 t ∧
      u.ctl.relCause = BitVec.ofNat 8 (faultRecord t k).1 ∧
      u.ctl.lasting = (if s.ctl.lasting = BitVec.allOnes 16 then s.ctl.lasting else s.ctl.lasting + 1) ∧
      (∀ y < 192, u.ctl.tfence.getLsbD y = (s.ctl.tfence.getLsbD y || ts.contains y)) ∧
      ((∀ y ∈ ts, s.ctl.tfence.getLsbD y = false) → u.ctl.tserv = s.ctl.tserv - BitVec.ofNat 8 ts.length) ∧
      (∀ y ∈ ts, ∀ c, (u.tile (leadTile s y)).ctx = some c → c.phase.live = false) ∧
      (∀ y, savingTile s t = some y → (s.tile (leadTile s t)).ctx = none → ∀ z ∈ u.images, z.bank = some y → z.complete = false →
        z.valid = false ∧ z.cause = (faultRecord t k).1) := by
  obtain ⟨-, hpend, -, -⟩ := hstill
  have hts := faultTiles_lt (lt_of_faultPossible hposs) k
  have hgroup : FailGroup (countLasting s t (faultRecord t k).1) t (faultTiles t k) :=
    (failGroup_of_possible hposs).of_tile_eq (fun _ => rfl)
  have hregions := (failAll_spares k (faultTiles t k) (countLasting s t (faultRecord t k).1) hpend).regions
  have hleave : lastingFault s t k = (faultTiles t k).foldl (failTile k) (countLasting s t (faultRecord t k).1) :=
    leaveAll_of_none_waiting
      (s := (faultTiles t k).foldl (failTile k) (countLasting s t (faultRecord t k).1)) (none_waiting_of_spared hregions hwait) _
  have hctl := failAll_ctl k (faultTiles t k) (s := countLasting s t (faultRecord t k).1) (u := countLasting s t (faultRecord t k).1) hpend rfl
  obtain ⟨hrec, hbits⟩ := fenceAll_ctl (faultTiles t k) (countLasting s t (faultRecord t k).1) hts
  simp only [Control.lastingRecord, Prod.mk.injEq] at hrec
  obtain ⟨hvalid, htile, hcause, hlasting⟩ := hrec
  dsimp only
  rw [hleave, hctl]
  exact ⟨hvalid, htile, hcause, hlasting, hbits,
    fenceAll_tserv (faultTiles t k) (countLasting s t (faultRecord t k).1) hts (faultTiles_nodup t k), failAll_ends k hpend hgroup,
    fun y hy hctx z hz hbank hopen => failAll_spoils k (s := countLasting s t (faultRecord t k).1) hpend hgroup hctx hy z hz hbank (.inr hopen)⟩

/-- Settles O39: what is spared of a fault's handling, and what each fault of a lasting one ends, fences and spoils. -/
theorem faultsHandled : Obligations.FaultsHandled := by
  intro s t k
  refine ⟨exec_faultRollback_impossible, fun hposs => ⟨?_, ?_, ?_, ?_⟩⟩
  · rintro i rfl
    obtain ⟨hspoil, hsaved⟩ := endSaved_meets s t 8 i
    exact ⟨_, exec_faultRollback_storage hposs, fun y hy hbank => hspoil y hy hbank (.inl rfl), hsaved⟩
  · rintro st i hst rfl
    rw [exec_faultRollback_storage hposs, architecturalFault, if_neg hst]
    refine ⟨fun y hy => ?_, fun hnone => ?_⟩
    · rw [hy]
      exact ⟨_, rfl, fun z hz hbank => (endSaved_meets s y st i).1 z hz hbank (.inl rfl)⟩
    · rw [hnone]
      refine ⟨rfl, fun hstill => ?_⟩
      obtain ⟨-, hpend, -, -⟩ := hstill
      exact ⟨((endWithFault_spares s _ _).spared hpend).ctl, fun c hc => endWithFault_ends hpend _ _ hc⟩
  · exact fun hk hfresh => ⟨exec_faultRollback_first hposs hk hfresh, fun hstill =>
      firstEvent_meets hstill (lt_of_faultPossible hposs)⟩
  · exact fun hk hagain => ⟨exec_faultRollback_lasting hposs hk hagain, fun hstill hwait =>
      ⟨_, exec_faultRollback_lasting hposs hk hagain, lastingFault_meets hstill hwait hposs⟩⟩

end Sys2Proof.Machine
end
section
/-! ## What accesses leave of fabrics and contexts

An access that is performed, sent or released disturbs a block only where one is mapped, and of a context it changes the event flag and
the replay buffer alone. -/

namespace Sys2Proof.Machine

/-! ### The relation -/

/-- A context without its event flag and its replay buffer. -/
def Ctx.quiet (c : Ctx) : Ctx := { c with ev := false, replay := [] }

/-- An empty fabric stays empty, and a context keeps all but its event flag and its replay buffer. -/
structure TileBeside (x z : Tile) : Prop where
  fabric : x.fabric = Fabric.reset → z.fabric = Fabric.reset
  ctx : z.ctx.map Ctx.quiet = x.ctx.map Ctx.quiet

theorem TileBeside.refl (x : Tile) : TileBeside x x := ⟨id, rfl⟩

/-- A change of neither fabric nor context. -/
theorem TileBeside.of_eq {x z : Tile} (hf : z.fabric = x.fabric) (hc : z.ctx = x.ctx) : TileBeside x z :=
  ⟨fun h => hf.trans h, by rw [hc]⟩

/-- That holds of every tile. -/
structure Beside (s u : State) : Prop where
  tile : ∀ t, TileBeside (s.tile t) (u.tile t)

namespace Beside

variable {s u v : State}

theorem refl (s : State) : Beside s s := ⟨fun _ => .refl _⟩

theorem trans (h : Beside s u) (k : Beside u v) : Beside s v :=
  ⟨fun t => ⟨fun hr => (k.tile t).fabric ((h.tile t).fabric hr), (k.tile t).ctx.trans (h.tile t).ctx⟩⟩

/-- A change of what is no tile's. -/
theorem of_tiles (h : u.tiles = s.tiles) : Beside s u := ⟨fun t => by simp only [State.tile, h]; exact .refl _⟩

theorem foldl {α : Type} (f : State → α → State) (l : List α) (s : State) (h : ∀ x ∈ l, ∀ u, Beside u (f u x)) :
    Beside s (l.foldl f s) := by
  induction l generalizing s with
  | nil => exact refl s
  | cons x xs ih => exact (h x (by simp) s).trans (ih _ (fun y hy => h y (by simp [hy])))

theorem ite {p : Prop} [Decidable p] {a b : State} (ha : p → Beside s a) (hb : ¬ p → Beside s b) :
    Beside s (if p then a else b) := by
  split
  · exact ha ‹_›
  · exact hb ‹_›

theorem modTile (s : State) (t : Nat) (g : Tile → Tile) (hg : TileBeside (s.tile t) (g (s.tile t))) : Beside s (s.modTile t g) := by
  refine ⟨fun y => ?_⟩
  unfold State.modTile
  rw [State.tile_setTile]
  split
  · rename_i hy
    obtain ⟨rfl, -⟩ := hy
    exact hg
  · exact .refl _

theorem modCtx (s : State) (t : Nat) (g : Ctx → Ctx) (hg : ∀ c, (g c).quiet = c.quiet) : Beside s (s.modCtx t g) :=
  modTile s t _ ⟨id, by cases (s.tile t).ctx <;> simp [hg]⟩

theorem modFabric (s : State) (t : Nat) (g : Fabric → Fabric) (hg : s.fabric t = Fabric.reset → g (s.fabric t) = Fabric.reset) :
    Beside s (s.modFabric t g) :=
  modTile s t _ ⟨hg, rfl⟩

/-- The context of a tile stands beside. -/
theorem ctx_some (h : Beside s u) {t : Nat} {c : Ctx} (hc : (s.tile t).ctx = some c) :
    ∃ d, (u.tile t).ctx = some d ∧ d.quiet = c.quiet := by
  have hctx := (h.tile t).ctx
  rw [hc] at hctx
  exact Option.map_eq_some_iff.mp hctx

end Beside

/-! ### Places -/

theorem modTenant_beside (s : State) (f : Nat) (g : Tenant → Tenant) : Beside s (s.modTenant f g) := .of_tiles rfl

theorem raise_beside (s : State) (kind : EventKind) (key : Nat) : Beside s (raise s kind key) := by
  obtain ⟨m, qs, h⟩ := raise_eq s kind key
  exact .of_tiles (by rw [h])

theorem signalMsix_beside (s : State) (f vec : Nat) : Beside s (signalMsix s f vec) :=
  .ite (fun _ => .of_tiles rfl) (fun _ => .of_tiles rfl)

theorem raiseEvent_beside (s : State) (f : Nat) (g : Tenant → Tenant) : Beside s (raiseEvent s f g) :=
  .ite (fun _ => (modTenant_beside s f g).trans (signalMsix_beside _ f 0)) (fun _ => modTenant_beside s f g)

theorem logViolation_beside (s : State) (f kind : Nat) (addr : Word) (member : Nat) : Beside s (logViolation s f kind addr member) :=
  (raise_beside s .other _).trans (raiseEvent_beside _ f _)

theorem tile_removeCached (s : State) (tlb : TlbEntry → Bool) (walk : WalkEntry → Bool) (blk : BlockLine → Bool) (t : Nat) :
    ((removeCached s tlb walk blk).tile t).fabric = (s.tile t).fabric ∧ ((removeCached s tlb walk blk).tile t).ctx = (s.tile t).ctx := by
  unfold removeCached State.tile
  simp only [Vector.getElem?_map]
  cases s.tiles[t]? <;> exact ⟨rfl, rfl⟩

theorem removeAsid_beside (s : State) (asid : Nat) : Beside s (removeAsid s asid) :=
  ⟨fun t => .of_eq (tile_removeCached s _ _ _ t).1 (tile_removeCached s _ _ _ t).2⟩

theorem writeTencfg_beside (s : State) (f : Nat) (v : Word) (off : Nat) : Beside s (writeTencfg s f v off) := by
  have hmoved (s : State) (old new : Nat) (p : Prop) [Decidable p] : Beside s (if p then removeAsid (removeAsid s old) new else s) :=
    .ite (fun _ => (removeAsid_beside s old).trans (removeAsid_beside _ new)) (fun _ => .refl s)
  have hlogged (p : Prop) [Decidable p] : Beside s (if p then logViolation s 0 2 (BitVec.ofNat 64 off) 0 else s) :=
    .ite (fun _ => logViolation_beside s 0 2 _ 0) (fun _ => .refl s)
  unfold writeTencfg
  exact (hlogged _).trans ((modTenant_beside _ f _).trans (.trans (.ite (fun _ => .refl _) fun _ =>
    (hmoved _ _ _ _).trans ((hmoved _ _ _ _).trans (modTenant_beside _ f _)))
      (.ite (fun _ => .of_tiles rfl) fun _ => .refl _)))

theorem writeTenpt_beside (s : State) (f : Nat) (v : Word) (off : Nat) : Beside s (writeTenpt s f v off) :=
  .ite (fun _ => logViolation_beside s 0 2 _ 0) (fun _ =>
    ((removeAsid_beside s _).trans (removeAsid_beside _ _)).trans (modTenant_beside _ f _))

theorem writeFwact_beside (s : State) (v : Word) : Beside s (writeFwact s v) := by
  unfold writeFwact
  dsimp only
  split_ifs <;> exact .of_tiles rfl

theorem writeLgctl_beside (s : State) (v : Word) (off : Nat) : Beside s (writeLgctl s v off) :=
  .ite (fun _ => .ite (fun _ => logViolation_beside s 0 5 _ 0) fun _ => .of_tiles rfl) (fun _ => .of_tiles rfl)

theorem ctlWrite_beside {s u : State} {off size : Nat} {v : Word} (h : ctlWrite s off size v = some u) : Beside s u := by
  unfold ctlWrite at h
  dsimp only at h
  split at h
  · exact absurd h (by simp)
  · split at h
    · obtain rfl := Option.some.inj h; exact .of_tiles rfl
    · obtain rfl := Option.some.inj h; exact writeFwact_beside s _
    · obtain rfl := Option.some.inj h; exact .ite (fun _ => .of_tiles rfl) (fun _ => .refl s)
    · obtain rfl := Option.some.inj h; exact writeLgctl_beside s _ off
    · obtain rfl := Option.some.inj h; exact .of_tiles rfl
    · split_ifs at h <;> obtain rfl := Option.some.inj h
      · exact .of_tiles rfl
      · exact .refl s
      · exact writeTencfg_beside s _ _ off
      · exact writeTenpt_beside s _ _ off
      · exact .of_tiles rfl
      · exact .ite (fun _ => .of_tiles rfl) (fun _ => .refl s)
      · exact logViolation_beside s 0 2 _ 0

theorem writeSlewtab_beside (s : State) (k : Nat) (v : Word) : Beside s (writeSlewtab s k v) :=
  .ite (fun _ => .refl s) (fun _ => .of_tiles rfl)

theorem controlWrite_beside (s : State) (off size : Nat) (v : Word) : Beside s (controlWrite s off size v) := by
  unfold controlWrite
  dsimp only
  split_ifs
  · cases h : ctlWrite s off size v with
    | none => exact logViolation_beside s 0 1 _ 0
    | some u => exact ctlWrite_beside h
  · exact writeSlewtab_beside s _ _
  · exact .refl s

/-- A write to the toybox disturbs a block only where one is mapped (R120). -/
theorem disturb_beside (s : State) (t : Nat) : Beside s (disturb s t) := by
  by_cases hblk : (s.fabric t).blk.isNone = true
  · unfold disturb
    dsimp only
    rw [if_pos hblk]
    exact .refl s
  · obtain ⟨g, n, h⟩ := disturb_eq s t
    have hmapped : Beside s (s.modFabric t g) := .modFabric s t g (fun hr => absurd (by rw [hr]; rfl) hblk)
    exact h ▸ ⟨hmapped.tile⟩

/-- A change of a tile's memory, lines or tags. -/
theorem modStore_beside (s : State) (t : Nat) (g : Tile → Tile) (hf : ∀ x, (g x).fabric = x.fabric) (hc : ∀ x, (g x).ctx = x.ctx) :
    Beside s (s.modTile t g) := .modTile s t g (.of_eq (hf _) (hc _))

theorem putScratch_beside (s : State) (t off : Nat) (bs : List Byte) : Beside s (putScratch s t off bs) :=
  modStore_beside s t _ (by intro; rfl) (by intro; rfl)

theorem writeScratch_beside (s : State) (t off : Nat) (bs : List Byte) : Beside s (writeScratch s t off bs) :=
  .trans (.ite (fun _ => disturb_beside s t) fun _ => .refl s) (putScratch_beside _ t off bs)

theorem setLine_beside (s : State) (t i : Nat) (l : LineState) : Beside s (setLine s t i l) :=
  modStore_beside s t _ (by intro; rfl) (by intro; rfl)

theorem setEv_beside (s : State) (t : Nat) : Beside s (setEv s t) :=
  .ite (fun _ => .modFabric s t _ (fun h => by rw [h]; rfl)) (fun _ => .modCtx s t _ (fun _ => rfl))

theorem setGranule_beside (s : State) (t i : Nat) (b : Bool) : Beside s (setGranule s t i b) :=
  modStore_beside s t _ (by intro; rfl) (by intro; rfl)

theorem acquire_beside (s : State) (t : Nat) : Beside s (acquire s t) := .of_tiles rfl

theorem fillLine_beside (s : State) (t i : Nat) (poison : Bool) : Beside s (fillLine s t i poison) :=
  (setLine_beside s t i _).trans (.ite (fun _ => setEv_beside _ t) fun _ => .refl _)

theorem emptyLine_beside (s : State) (t i : Nat) : Beside s (emptyLine s t i) := (setLine_beside s t i _).trans (.of_tiles rfl)

theorem setMailboxFull_beside (s : State) (f m : Nat) (b : Bool) : Beside s (setMailboxFull s f m b) :=
  .trans (.ite (fun _ => .refl s) fun _ => raise_beside s .mailbox _)
    (modTenant_beside _ f (fun x => { x with mfull := tset false x.mfull m b }))

theorem fillRaw_beside (s : State) (p : Place) : Beside s (fillRaw s p) := by
  cases p with
  | scratch t off => exact fillLine_beside s t _ false
  | mailbox f m => exact setMailboxFull_beside s f m true
  | mailboxHole | host | league | control => exact .refl s

theorem emptyRaw_beside (s : State) (p : Place) : Beside s (emptyRaw s p) := by
  cases p with
  | scratch t off => exact emptyLine_beside s t _
  | mailbox f m => exact setMailboxFull_beside s f m false
  | mailboxHole | host | league | control => exact .refl s

theorem lineRaw_beside (s : State) (p : Place) (full poison : Bool) : Beside s (lineRaw s p full poison) := by
  cases p with
  | scratch t off => exact .ite (fun _ => fillLine_beside s t _ poison) (fun _ => emptyLine_beside s t _)
  | mailbox | mailboxHole | host | league | control => exact .refl s

theorem storePlace_beside (s : State) (p : Place) (n : Nat) (v : Word) : Beside s (storePlace s p n v) := by
  cases p with
  | scratch t off => exact writeScratch_beside s t off _
  | mailbox f m => exact modTenant_beside s f (fun x => { x with mbox := tset 0 x.mbox m v })
  | mailboxHole => exact .refl s
  | host a => exact .of_tiles rfl
  | league a => exact .refl s
  | control off => exact controlWrite_beside s off n v

theorem storeRun_beside (s : State) (p : Place) (n : Nat) (data : BitVec 128) : Beside s (storeRun s p n data) :=
  .ite (fun _ => storePlace_beside s p n _) (fun _ => (storePlace_beside s p 8 _).trans (storePlace_beside _ (p.above 8) _ _))

theorem storeCap_beside (s : State) (p : Place) (v : BitVec 128) (tag : Bool) : Beside s (storeCap s p v tag) := by
  refine (storePlace_beside s p 8 (v.extractLsb' 0 64)).trans ?_
  cases p with
  | scratch t off => exact (writeScratch_beside _ t (off + 8) _).trans (setGranule_beside _ t _ tag)
  | host a => exact .of_tiles rfl
  | mailbox | mailboxHole | league | control => exact .refl _

theorem dropWritten_beside (s : State) (tile : Nat) (p : Place) (n : Nat) : Beside s (dropWritten s tile p n) := .of_tiles rfl

/-! ### Accesses (R146, R358 to R365) -/

theorem own_beside (s : State) (tile : Option Nat) (p : Place) (n : Nat) :
    Beside s (match tile with
      | some t => dropWritten s t p n
      | none => s) := by
  cases tile with
  | none => exact .refl s
  | some t => exact dropWritten_beside s t p n

theorem performWrite_beside (s : State) (tile : Option Nat) (op : MemOp) (p : Place) (data : BitVec 128) (tag : Bool) :
    Beside s (performWrite s tile op p data tag) := by
  cases op with
  | store n => exact (storeRun_beside s p n data).trans (own_beside _ tile p n)
  | stk => exact (storeCap_beside s p data tag).trans (own_beside _ tile p 16)
  | stf n | stfw n => exact (storePlace_beside s p n _).trans ((own_beside _ tile p n).trans (fillRaw_beside _ p))
  | feclr n => exact emptyRaw_beside s p
  | feset n => exact fillRaw_beside s p
  | line full poison => exact lineRaw_beside s p full poison
  | load | peek | ldk | lde | feq | atomic => exact .refl s

theorem performRead_beside {s u : State} {tile : Option Nat} {op : MemOp} {p : Place} {data expect : Word} {hs : List Held}
    {r : Except Nat MemValue} (h : performRead s tile op p data expect hs = (u, r)) : Beside s u := by
  suffices hfst : Beside s (performRead s tile op p data expect hs).1 by simpa [h] using hfst
  cases op with
  | load | ldk | peek => unfold performRead; dsimp only; split <;> exact .refl s
  | lde n =>
    unfold performRead
    dsimp only
    split
    · exact .refl s
    · exact emptyRaw_beside s p
  | feq n =>
    unfold performRead
    dsimp only
    split
    · exact .of_tiles rfl
    · exact .refl s
  | atomic fn n =>
    unfold performRead
    dsimp only
    split
    · exact .refl s
    · dsimp only
      split
      · exact (storePlace_beside s p n _).trans (own_beside _ tile p n)
      · exact .refl s
  | store | stk | stf | stfw | feclr | feset | line => exact .refl s

theorem bring_beside (s : State) (e : Pend) (g : Loaded) : Beside s (bring s e g) := .of_tiles rfl

theorem keepReplay_beside (s : State) (e : Pend) (v : Word) : Beside s (keepReplay s e v) := by
  unfold keepReplay
  split
  · exact .modCtx s _ _ (fun c => by split <;> rfl)
  · exact .refl s

theorem sendFar_beside (s : State) (e : Pend) (a : Word) : Beside s (sendFar s e a) := by
  unfold sendFar
  split <;> exact .of_tiles rfl

theorem endReserve_beside (s : State) (e : Pend) : Beside s (endReserve s e) := by
  unfold endReserve
  split <;> exact .of_tiles rfl

theorem dropRead_beside (s : State) (tile : Nat) (op : MemOp) (p : Place) : Beside s (dropRead s tile op p) := by
  unfold dropRead
  split <;> exact .of_tiles rfl

theorem releaseSignals_beside (s : State) (f q : Nat) : Beside s (releaseSignals s f q) :=
  .ite (fun _ => .refl s) (fun _ => .trans (u := { s with signals := s.signals.filter (fun x => !(x.1 == f && x.2.1 == q)) })
    (.of_tiles rfl) (.foldl _ _ _ (fun (x : Nat × Nat × Nat) _ u => signalMsix_beside u f x.2.2)))

theorem released_beside (s : State) (e : Pend) : Beside s (released s e) := by
  unfold released
  split
  · exact .ite (fun _ => .of_tiles rfl) (fun _ => .refl s)
  · exact .ite (fun _ => .of_tiles rfl) (fun _ => .refl s)
  all_goals exact .refl s

theorem performOwn_beside (s : State) (tile : Option Nat) (e : Pend) : Beside s (performOwn s tile e) := by
  unfold performOwn
  split
  · exact .of_tiles rfl
  · exact performWrite_beside s tile e.op e.place e.data e.dtag

/-- A read that is over: what it acquires, or discards of the elements read ahead, and what becomes known of it. -/
theorem answered_beside {s u : State} {e : Pend} {g : Loaded} (h : Beside s u) : Beside s (released (bring u e g) e) :=
  h.trans ((bring_beside u e g).trans (released_beside _ e))

/-- What a firing's access acquires, or discards. -/
theorem take_beside (s : State) (who : Waiter) (p : Prop) [Decidable p] (t : Nat) (op : MemOp) (q : Place) :
    Beside s (match who with
      | .firing _ _ _ _ => if p then acquire s t else dropRead s t op q
      | _ => s) := by
  split
  · exact .ite (fun _ => acquire_beside s t) (fun _ => dropRead_beside s t op q)
  · exact .refl s

theorem performHere_beside (s : State) (e : Pend) : Beside s (performHere s e) := by
  have hdone (u : State) : Beside u { u with pend := u.pend.filter (fun x => !(x.id == e.id)) } := .of_tiles rfl
  have hreserve (u : State) (rs : List Reservation) : Beside u { u with reserved := rs } := .of_tiles rfl
  have hemit (u : State) (o : Output) : Beside u (u.emit o) := .of_tiles rfl
  unfold performHere
  extract_lets tile done take
  split
  · exact (performOwn_beside s _ e).trans ((endReserve_beside _ e).trans (hdone _))
  · exact (performOwn_beside s _ e).trans ((endReserve_beside _ e).trans (hdone _))
  · exact (performWrite_beside s tile _ e.place e.data e.dtag).trans ((hdone _).trans (releaseSignals_beside _ _ _))
  · exact .trans (.trans (.ite (fun _ => hreserve s _) fun _ => .refl s) (hdone _)) (hemit _ _)
  · split
    · split
      case h_1 | h_2 =>
        split
        · split
          · exact (hdone s).trans (hemit _ _)
          · exact (hdone s).trans (hemit _ _)
        · split
          case h_1 h => exact (performRead_beside h).trans ((hdone _).trans (hemit _ _))
          case h_2 h => exact (performRead_beside h).trans ((hdone _).trans (hemit _ _))
      case h_3 =>
        split
        case h_1 h => exact (performRead_beside h).trans ((hdone _).trans (hemit _ _))
        case h_2 h => exact (performRead_beside h).trans ((hdone _).trans (hemit _ _))
    · exact (performWrite_beside s none _ e.place e.data e.dtag).trans
        ((endReserve_beside _ e).trans ((hdone _).trans (hemit _ _)))
  · exact answered_beside (performWrite_beside s none _ e.place e.data e.dtag)
  · dsimp only
    exact .trans (.trans (.ite (fun _ => hreserve s _) fun _ => .refl s) (.ite (fun _ => acquire_beside _ _) fun _ => .refl _))
      (.of_tiles rfl)
  · dsimp only
    split
    · split
      · exact answered_beside (.refl s)
      · exact answered_beside (take_beside ..)
    · split
      case h_1 h => exact answered_beside (performRead_beside h)
      case h_2 h =>
        refine answered_beside ((performRead_beside h).trans (.trans ?_ (take_beside ..)))
        split
        · exact keepReplay_beside _ e _
        · exact keepReplay_beside _ e _
        · exact .refl _

theorem performPend_beside (s : State) (e : Pend) : Beside s (performPend s e) := by
  unfold performPend
  split
  · exact sendFar_beside s e _
  · exact performHere_beside s e

theorem wakeFrom_beside (n : Nat) (s : State) : Beside s (wakeFrom n s) := by
  induction n generalizing s with
  | zero => exact .refl s
  | succ n ih =>
    unfold wakeFrom
    split
    · exact .refl s
    · exact (performPend_beside s _).trans (ih _)

theorem wake_beside (s : State) : Beside s (wake s) := wakeFrom_beside _ s

theorem submit_beside (s : State) (e : Pend) : Beside s (submit s e) := by
  have hadd (e : Pend) : Beside s { s with pend := s.pend ++ [e] } := .of_tiles rfl
  exact (hadd _).trans (wake_beside _)

theorem fresh_beside (s : State) : Beside s s.fresh.2 := .of_tiles rfl

theorem dropReleased_beside (s : State) (t : Nat) (op : MemOp) (p : Place) : Beside s (dropReleased s t op p) := by
  unfold dropReleased
  split <;> exact dropWritten_beside ..

theorem releaseStore_beside (s : State) (t ctx : Nat) (e : Effect) (scope : BitVec 2) : Beside s (releaseStore s t ctx e scope) := by
  unfold releaseStore
  cases heldOp e with
  | none => exact .refl s
  | some x =>
    obtain ⟨op, p, data, tag⟩ := x
    dsimp only
    have hfirm (u : State) (hu : u.tiles = s.tiles) (b : Bool) (q : Pend) : Beside s
        (if b then submit (dropReleased u.fresh.2 t op p) q else wake (endReserve (performWrite u (some t) op p data tag) q)) :=
      .trans (.of_tiles hu) (.ite
        (fun _ => (fresh_beside u).trans ((dropReleased_beside u.fresh.2 t op p).trans (submit_beside _ q)))
        (fun _ => (performWrite_beside u _ op p data tag).trans ((endReserve_beside _ q).trans (wake_beside _))))
    refine hfirm _ ?_ _ _
    split <;> rfl

end Sys2Proof.Machine
end
section
/-! ## What a commit leaves of shares, mailboxes and host memory

Everything that a commit does but the release of its held effect leaves the tiles' shares with their line states and tags, the tenants'
mailboxes, host memory and the launches as they are. -/

namespace Sys2Proof.Machine

/-! ### The relation -/

/-- A tile's memory, line states and granule tags are in canonical form. -/
structure TileWf (x : Tile) : Prop where
  mem : x.mem.wf = true
  lines : twf LineState.reset x.lines = true
  gtags : twf false x.gtags = true

/-- Nothing is under way and nothing reserved, and memories are in canonical form. -/
structure Stable (s : State) : Prop where
  pend : s.pend = []
  reserved : s.reserved = []
  tile : ∀ t, TileWf (s.tile t)
  host : s.host.wf = true
  tenant : ∀ f, twf 0 (s.tenant f).mbox = true ∧ twf false (s.tenant f).mfull = true

theorem stable_of_still {s : State} (h : Still s) : Stable s := by
  obtain ⟨hwf, hpend, hreserved, htiles⟩ := h
  refine ⟨hpend, hreserved, fun t => ⟨mem_wf_of_memoriesWf hwf t, ?_, ?_⟩, ?_, fun f => ?_⟩
  · unfold State.tile
    cases hx : s.tiles[t]? with
    | none => rfl
    | some x => exact (htiles x (Vector.mem_of_getElem? hx)).1
  · unfold State.tile
    cases hx : s.tiles[t]? with
    | none => rfl
    | some x => exact (htiles x (Vector.mem_of_getElem? hx)).2
  · obtain ⟨-, -, hhost, -⟩ := hwf
    exact hhost
  · obtain ⟨-, htenants, -⟩ := hwf
    unfold State.tenant
    cases hx : s.tenants[f]? with
    | none => exact ⟨rfl, rfl⟩
    | some x => exact htenants x (Vector.mem_of_getElem? hx)

/-- A tile keeps its share, with line states and granule tags. -/
structure TileKept (x z : Tile) : Prop where
  wf : TileWf x → TileWf z
  mem : TileWf x → ∀ a < 0x3E0000, mget z.mem a = mget x.mem a
  lines : z.lines = x.lines
  tags : TileWf x → ∀ i < 0x3E000, tget false z.gtags i = tget false x.gtags i

theorem TileKept.refl (x : Tile) : TileKept x x := ⟨id, fun _ _ _ => rfl, rfl, fun _ _ _ => rfl⟩

theorem TileKept.trans {x y z : Tile} (h : TileKept x y) (k : TileKept y z) : TileKept x z :=
  ⟨fun hw => k.wf (h.wf hw), fun hw a ha => (k.mem (h.wf hw) a ha).trans (h.mem hw a ha), k.lines.trans h.lines,
    fun hw i hi => (k.tags (h.wf hw) i hi).trans (h.tags hw i hi)⟩

/-- A change of what is neither memory, nor a line state, nor a tag. -/
theorem TileKept.of_eq {x z : Tile} (hm : z.mem = x.mem) (hl : z.lines = x.lines) (ht : z.gtags = x.gtags) : TileKept x z :=
  ⟨fun h => ⟨hm ▸ h.mem, hl ▸ h.lines, ht ▸ h.gtags⟩, fun _ _ _ => by rw [hm], hl, fun _ _ _ => by rw [ht]⟩

/-- What of a state that stays, where it is stable. -/
structure ShareKept (s u : State) : Prop where
  pend : u.pend = []
  reserved : u.reserved = []
  tile : ∀ g, TileKept (s.tile g) (u.tile g)
  tenants : u.tenants = s.tenants
  host : u.host = s.host
  launches : u.launches = s.launches
  ahead : ∀ p ∈ u.ahead, p ∈ s.ahead

structure Kept (s u : State) : Prop where
  share : Stable s → ShareKept s u

namespace ShareKept

variable {s u : State}

theorem stable (h : ShareKept s u) (hs : Stable s) : Stable u :=
  ⟨h.pend, h.reserved, fun t => (h.tile t).wf (hs.tile t), h.host ▸ hs.host, fun f => by
    unfold State.tenant
    rw [h.tenants]
    exact hs.tenant f⟩

end ShareKept

namespace Kept

variable {s u v : State}

theorem refl (s : State) : Kept s s := ⟨fun h => ⟨h.pend, h.reserved, fun _ => .refl _, rfl, rfl, rfl, fun _ => id⟩⟩

theorem trans (h : Kept s u) (k : Kept u v) : Kept s v := ⟨fun hs => by
  have a := h.share hs
  have b := k.share (a.stable hs)
  exact ⟨b.pend, b.reserved, fun g => (a.tile g).trans (b.tile g), b.tenants.trans a.tenants, b.host.trans a.host,
    b.launches.trans a.launches, fun p hp => a.ahead p (b.ahead p hp)⟩⟩

theorem foldl {α : Type} (f : State → α → State) (l : List α) (s : State) (h : ∀ x ∈ l, ∀ u, Kept u (f u x)) :
    Kept s (l.foldl f s) := by
  induction l generalizing s with
  | nil => exact refl s
  | cons x xs ih => exact (h x (by simp) s).trans (ih _ (fun y hy => h y (by simp [hy])))

theorem ite {p : Prop} [Decidable p] {a b : State} (ha : p → Kept s a) (hb : ¬ p → Kept s b) :
    Kept s (if p then a else b) := by
  split
  · exact ha ‹_›
  · exact hb ‹_›

theorem modTile (s : State) (t : Nat) (g : Tile → Tile) (hg : ∀ x, TileKept x (g x)) : Kept s (s.modTile t g) := by
  refine ⟨fun h => ⟨h.pend, h.reserved, fun y => ?_, rfl, rfl, rfl, fun _ => id⟩⟩
  unfold State.modTile
  rw [State.tile_setTile]
  split
  · rename_i hy
    obtain ⟨rfl, -⟩ := hy
    exact hg _
  · exact .refl _

theorem modCtx (s : State) (t : Nat) (g : Ctx → Ctx) : Kept s (s.modCtx t g) := modTile s t _ (fun _ => .of_eq rfl rfl rfl)

theorem modFabric (s : State) (t : Nat) (g : Fabric → Fabric) : Kept s (s.modFabric t g) := modTile s t _ (fun _ => .of_eq rfl rfl rfl)

/-- Elements read ahead, and accesses under way, are dropped. -/
theorem drop (s : State) (f : Prefetch → Bool) (g : List Pend → List Pend) (hg : g [] = []) :
    Kept s { s with ahead := s.ahead.filter f, pend := g s.pend } :=
  ⟨fun h => ⟨by simp [h.pend, hg], h.reserved, fun _ => .refl _, rfl, rfl, rfl, fun _ hp => (List.mem_filter.mp hp).1⟩⟩

end Kept

theorem acquire_kept (s : State) (t : Nat) : Kept s (acquire s t) := .drop s _ (fun l => l.filter _) rfl

theorem dropPorts_kept (s : State) (t : Nat) : Kept s (dropPorts s t) := .drop s _ (fun l => l.filter _) rfl

theorem forgetLost_kept (s : State) (ctx : Nat) : Kept s (forgetLost s ctx) :=
  ⟨fun h => ⟨by simp [forgetLost, h.pend], h.reserved, fun _ => .refl _, rfl, rfl, rfl, fun _ => id⟩⟩

theorem draw_kept (s : State) (n : Nat) : Kept s { s with freeCtr := n } :=
  ⟨fun h => ⟨h.pend, h.reserved, fun _ => .refl _, rfl, rfl, rfl, fun _ => id⟩⟩

/-- A granule tag after the granules of some bytes have lost theirs (R143). -/
theorem tget_clearTags (ks : List Nat) {g : Table Bool} (h : twf false g = true) (i : Nat) :
    twf false (ks.foldl (fun g k => tset false g k false) g) = true ∧
      tget false (ks.foldl (fun g k => tset false g k false) g) i = if i ∈ ks then false else tget false g i := by
  induction ks generalizing g with
  | nil => exact ⟨h, by simp⟩
  | cons k ks ih =>
    obtain ⟨hw, hget⟩ := ih (twf_tset k false h)
    refine ⟨hw, hget.trans ?_⟩
    rw [tget_tset _ _ _ _ _ h]
    by_cases hi : i ∈ ks
    · simp [hi]
    · by_cases hk : k = i
      · simp [hk]
      · simp [hi, Ne.symm hk]

theorem mem_granulesOf {off n i : Nat} (hn : 0 < n) : i ∈ granulesOf off n ↔ off / 16 ≤ i ∧ i ≤ (off + n - 1) / 16 := by
  have hle : off / 16 ≤ (off + n - 1) / 16 := Nat.div_le_div_right (by omega)
  simp only [granulesOf, Nat.pos_iff_ne_zero.mp hn, if_false, List.mem_map, List.mem_range]
  constructor
  · rintro ⟨k, hk, rfl⟩; omega
  · rintro ⟨h1, h2⟩; exact ⟨i - off / 16, by omega, by omega⟩

/-- The toybox lies above the share (R103, R120). -/
theorem clearToy_kept (s : State) (t e : Nat) : Kept s (clearToy s t e) := by
  unfold clearToy putScratch
  refine .modTile s t _ (fun x => ⟨fun h => ⟨wf_mwriteBytes _ _ h.mem, h.lines, (tget_clearTags _ h.gtags 0).1⟩, fun h a ha => ?_, rfl,
    fun h i hi => ?_⟩)
  · exact (mget_mwriteBytes _ a _ h.mem).trans (if_neg (by rintro ⟨hle, -⟩; omega))
  · refine (tget_clearTags _ h.gtags i).2.trans (if_neg ?_)
    rw [mem_granulesOf (by simp)]
    rintro ⟨hle, -⟩
    omega

theorem freeToys_kept (s : State) (t : Nat) (gone : Operand → Bool) : Kept s (freeToys s t gone) :=
  .trans (.foldl _ _ s (fun _ _ u => clearToy_kept u t _)) (.modFabric _ t _)

theorem forgetFaults_kept (s : State) (t : Nat) : Kept s (s.forgetFaults t) := by
  have hforget (s : State) (t : Nat) : Kept s (s.modTile t Tile.forget) := .modTile s t _ (fun _ => .of_eq rfl rfl rfl)
  unfold State.forgetFaults
  dsimp only
  split
  · exact .ite (fun _ => (hforget s t).trans (hforget _ _)) (fun _ => hforget s t)
  · exact hforget s t

theorem clearFaulted_kept (s : State) (t : Nat) : Kept s (s.clearFaulted t) := by
  unfold State.clearFaulted
  split
  · exact .ite (fun _ => .refl s) (fun _ => forgetFaults_kept s t)
  · exact forgetFaults_kept s t

theorem formPackets_kept (s : State) (t : Nat) (c : Ctx) (k : Key) (e : Option ExitRec) : Kept s (formPackets s t c k e) :=
  .ite (fun _ => .foldl _ _ s (fun _ _ u => .modTile u _ _ (fun _ => .of_eq rfl rfl rfl))) (fun _ => .refl s)

/-! ### The end of a commit -/

theorem endBlock_kept (s : State) (t : Nat) : Kept s (endBlock s t) := by
  have hforget (u : State) : Kept u (if handling u t then u else forgetLost u (u.ctxId t)) :=
    .ite (fun _ => .refl u) (fun _ => forgetLost_kept u _)
  unfold endBlock
  refine .trans ?_ (clearFaulted_kept _ t)
  refine .trans ?_ (.modTile _ t (fun x => { x with fabric := Fabric.reset }) (fun _ => .of_eq rfl rfl rfl))
  refine .trans ?_ (freeToys_kept _ t _)
  exact .trans (.modCtx s t _) (hforget _)

/-- An exit that does not end the context leaves the share too. -/
theorem takeExit_kept (s : State) (t : Nat) (sup : Bool) (e : ExitRec)
    (hhalt : e.dest = .halt → ∀ c, (s.tile t).ctx = some c → c.inh = false) : Kept s (takeExit s t sup e) := by
  unfold takeExit
  split
  · exact .modCtx s t _
  · rename_i hdest
    split
    · exact .refl s
    · rename_i c hc
      rw [hhalt hdest c hc]
      exact .modCtx s t _
  · exact (dropPorts_kept s t).trans (.modCtx _ t _)

end Sys2Proof.Machine
end
section
/-! ## The end of a commit (R107, R300, R351, R353) -/

namespace Sys2Proof.Machine

/-! ### Contexts and fabrics -/

/-- Every tile keeps its context and its fabric. -/
def SameFace (s u : State) : Prop := ∀ y, (u.tile y).ctx = (s.tile y).ctx ∧ (u.tile y).fabric = (s.tile y).fabric

namespace SameFace

variable {s u v : State}

theorem refl (s : State) : SameFace s s := fun _ => ⟨rfl, rfl⟩

theorem trans (h : SameFace s u) (k : SameFace u v) : SameFace s v := fun y => ⟨(k y).1.trans (h y).1, (k y).2.trans (h y).2⟩

theorem modTile (s : State) (t : Nat) (g : Tile → Tile) (hc : ∀ x, (g x).ctx = x.ctx) (hf : ∀ x, (g x).fabric = x.fabric) :
    SameFace s (s.modTile t g) := by
  intro y
  unfold State.modTile
  rw [State.tile_setTile]
  split
  · rename_i hy
    rw [hc, hf, hy.1]
    exact ⟨rfl, rfl⟩
  · exact ⟨rfl, rfl⟩

theorem foldl {α : Type} (f : State → α → State) (l : List α) (s : State) (h : ∀ x ∈ l, ∀ u, SameFace u (f u x)) :
    SameFace s (l.foldl f s) := by
  induction l generalizing s with
  | nil => exact refl s
  | cons x xs ih => exact (h x (by simp) s).trans (ih _ (fun y hy => h y (by simp [hy])))

end SameFace

theorem clearFaulted_sameFace (s : State) (t : Nat) : SameFace s (s.clearFaulted t) := by
  have hforget (s : State) (t : Nat) : SameFace s (s.modTile t Tile.forget) := .modTile s t _ (fun _ => rfl) (fun _ => rfl)
  have hall : SameFace s (s.forgetFaults t) := by
    unfold State.forgetFaults
    dsimp only
    split
    · split
      · exact (hforget s t).trans (hforget _ _)
      · exact hforget s t
    · exact hforget s t
  unfold State.clearFaulted
  split
  · split
    · exact .refl s
    · exact hall
  · exact hall

theorem formPackets_sameFace (s : State) (t : Nat) (c : Ctx) (k : Key) (e : Option ExitRec) : SameFace s (formPackets s t c k e) := by
  unfold formPackets State.formPacket
  dsimp only
  split
  · exact .foldl _ _ s (fun y _ u => .modTile u y _ (by intro; rfl) (by intro; rfl))
  · exact .refl s

theorem clearToy_sameFace (s : State) (t e : Nat) : SameFace s (clearToy s t e) := .modTile s t _ (fun _ => rfl) (fun _ => rfl)

theorem ctx_freeToys (s : State) (t : Nat) (gone : Operand → Bool) (y : Nat) : ((freeToys s t gone).tile y).ctx = (s.tile y).ctx := by
  unfold freeToys
  rw [State.ctx_modFabric]
  exact ((SameFace.foldl _ _ s (fun _ _ u => clearToy_sameFace u t _)) y).1

/-! ### The end of a block -/

/-- A context whose block has ended: its replay buffer is cleared but by a handler, and nothing is left to resume (R105,
R133, R300). -/
def closedCtx (c : Ctx) : Ctx :=
  let c := { c with atomics := c.atomics.filter (fun a => a.inh != c.inh) }
  if c.inh then { c with handlerResume := none, handlerHeld := [] }
  else { c with replay := [], resume := none, heldVals := [], heldv := [] }

section End

variable {s : State} {t : Nat} {c : Ctx}

theorem ctx_modCtx (hc : (s.tile t).ctx = some c) (g : Ctx → Ctx) : ((s.modCtx t g).tile t).ctx = some (g c) := by
  rw [State.modCtx, State.tile_modTile_same _ _ _ (tile_lt_of_ctx hc), hc]
  rfl

theorem fabric_modCtx (hc : (s.tile t).ctx = some c) (g : Ctx → Ctx) : (s.modCtx t g).fabric t = s.fabric t := by
  unfold State.fabric
  rw [State.modCtx, State.tile_modTile_same _ _ _ (tile_lt_of_ctx hc)]

theorem endBlock_face (hc : (s.tile t).ctx = some c) :
    ((endBlock s t).tile t).ctx = some (closedCtx c) ∧ (endBlock s t).fabric t = Fabric.reset := by
  have ht := tile_lt_of_ctx hc
  have hforget (u : State) : ((if handling u t then u else forgetLost u (u.ctxId t)).tile t).ctx = (u.tile t).ctx := by
    split <;> rfl
  unfold endBlock State.fabric
  rw [((clearFaulted_sameFace _ t) t).1, ((clearFaulted_sameFace _ t) t).2, State.tile_modTile_same _ _ _ ht]
  refine ⟨?_, rfl⟩
  dsimp only
  rw [ctx_freeToys, hforget]
  exact ctx_modCtx hc closedCtx

/-! ### The exit -/

/-- A context that goes on with the block at a target; a call writes its return address to g55 (R351). -/
def leadsTo (a : Word) (link : Option Word) (sup : Bool) (c : Ctx) : Ctx :=
  { (match link with
      | some r => c.setG 55 r
      | none => c) with phase := .fetching, pc := a, via := if sup then .supervisor else .user }

theorem takeExit_block {sup : Bool} {e : ExitRec} {a : Word} {link : Option Word} (h : e.dest = .block a link) :
    takeExit s t sup e = s.modCtx t (leadsTo a link sup) := by
  rw [takeExit, h]
  rfl

theorem takeExit_halt {sup : Bool} {e : ExitRec} (h : e.dest = .halt) (hc : (s.tile t).ctx = some c) (hinh : c.inh = false) :
    takeExit s t sup e = s.modCtx t (fun c => { c with phase := .halted, pc := 0 }) := by
  unfold takeExit
  simp only [h, hc, hinh, Bool.false_eq_true, if_false]

/-- A context whose handler has returned, with the traps of its engines that are still held (R244, R300). -/
def returned (c : Ctx) : Ctx :=
  { returnFromTrap c with
    stopV := c.pendingTraps.any (fun p => p.source == 0), stopM := c.pendingTraps.any (fun p => p.source == 1) }

theorem takeExit_tret {sup : Bool} {e : ExitRec} (h : e.dest = .tret) : takeExit s t sup e = (dropPorts s t).modCtx t returned := by
  rw [takeExit, h]
  rfl

theorem cancelFar_beside (s : State) (tenant ctx : Nat) (a : Word) : Beside s (cancelFar s tenant ctx a) := by
  unfold cancelFar
  split <;> exact .of_tiles rfl

theorem dropReserved_beside (s : State) (t ctx : Nat) (gone : Key → Bool) : Beside s (dropReserved s t ctx gone) := by
  unfold dropReserved
  dsimp only
  refine .trans ?_ (.foldl _ _ _ (fun r _ u => ?_))
  · exact .of_tiles rfl
  · split
    · exact cancelFar_beside ..
    · exact .refl u

theorem dropFirings_beside (s : State) (t ctx : Nat) (inh : Bool) (gone : Key → Bool) : Beside s (dropFirings s t ctx inh gone) := by
  unfold dropFirings
  dsimp only
  refine .trans ?_ (.foldl _ _ _ (fun e _ u => ?_))
  · exact .of_tiles rfl
  · split
    · exact cancelFar_beside ..
    · exact .refl u

theorem greg_setG_ne (c : Ctx) {m n : Nat} (v : Word) (h : n ≠ m) : (c.setG m v).greg n = c.greg n := by
  unfold Ctx.setG
  split
  · rfl
  · simp [Ctx.greg, Ne.symm h]

theorem greg_setG_same (c : Ctx) {n : Nat} (v : Word) (hpos : n ≠ 0) (hlt : n < 64) : (c.setG n v).greg n = v := by
  simp [Ctx.setG, Ctx.greg, hpos, hlt]

/-- What abandoning a block leaves of its context (R109, R133). -/
theorem abandon_reset (hc : (s.tile t).ctx = some c) :
    ∃ d, ((abandon s t).tile t).ctx = some d ∧ d.g = c.g ∧ d.k = c.k ∧ (abandon s t).fabric t = Fabric.reset := by
  have ht := tile_lt_of_ctx hc
  unfold abandon
  dsimp only
  generalize hX : State.modFabric _ t _ = X
  have hctx : (X.tile t).ctx = some (keepResume c (s.tile t).fabric) := by
    rw [← hX, State.ctx_modFabric, ctx_freeToys]
    exact ctx_modCtx hc _
  have hfabric : X.fabric t = Fabric.reset := by
    rw [← hX, State.fabric_modFabric_same _ _ _ ht]
  have hrest : Beside X (wake (acquire (dropReserved (dropFirings X t (s.ctxId t) (handling s t) fun _ => true) t (s.ctxId t)
      fun _ => true) t)) :=
    (dropFirings_beside ..).trans ((dropReserved_beside ..).trans ((acquire_beside _ t).trans (wake_beside _)))
  obtain ⟨d, hd, hquiet⟩ := hrest.ctx_some hctx
  have hresume := committed_keepResume c (s.tile t).fabric
  simp only [Ctx.committed, Prod.mk.injEq] at hresume
  obtain ⟨hg, hk, -⟩ := hresume
  exact ⟨d, hd, (congrArg Ctx.g hquiet).trans hg, (congrArg Ctx.k hquiet).trans hk, (hrest.tile t).fabric hfabric⟩

theorem takeExit_unresolved {sup : Bool} {e : ExitRec} (h : e.dest = .halt) (hc : (s.tile t).ctx = some c) (hinh : c.inh = true) :
    ∃ r, takeExit s t sup e = endUnresolved s t r true := by
  unfold takeExit
  simp only [h, hc, hinh, if_true]
  exact ⟨_, rfl⟩

/-- A context that ends as an unresolved trap with nothing in its fabric keeps its registers (R302). -/
theorem endUnresolved_face (hc : (s.tile t).ctx = some c) (hf : s.fabric t = Fabric.reset) (r : TrapRec) (keep : Bool) :
    ∃ v, ((endUnresolved s t r keep).tile t).ctx = some v ∧ v.g = c.g ∧ v.k = c.k ∧
      (endUnresolved s t r keep).fabric t = Fabric.reset := by
  by_cases hlive : c.phase.live = true
  · obtain ⟨d, hd, hg, hk, hreset⟩ := abandon_reset hc
    obtain ⟨hv, hfab⟩ := tile_endUnresolved hc hlive hd r keep
    exact ⟨_, hv, by cases keep <;> exact hg, by cases keep <;> exact hk, hfab.trans hreset⟩
  · rw [endUnresolved_of_not_live hc (Bool.eq_false_iff.mpr hlive)]
    exact ⟨c, hc, rfl, rfl, hf⟩

/-- An exit leaves the fabric of a committed block empty, and changes no register but g55 (R107, R300, R351, R353). -/
theorem takeExit_face (hc : (s.tile t).ctx = some c) (hf : s.fabric t = Fabric.reset) (sup : Bool) (e : ExitRec) :
    ∃ v, ((takeExit s t sup e).tile t).ctx = some v ∧ (takeExit s t sup e).fabric t = Fabric.reset ∧
      v.k = c.k ∧ (∀ n, n ≠ 55 → v.greg n = c.greg n) ∧
      (∀ a, e.dest = .block a none → v.phase = .fetching ∧ v.pc = a ∧ v.greg 55 = c.greg 55 ∧ v.inh = c.inh) ∧
      (∀ a r, e.dest = .block a (some r) → v.phase = .fetching ∧ v.pc = a ∧ v.greg 55 = r ∧ v.inh = c.inh) ∧
      (e.dest = .halt → c.inh = false → v.phase = .halted ∧ v.greg 55 = c.greg 55) ∧
      (e.dest = .tret → c.haltedEntry = false → v.phase = .fetching ∧ v.pc = c.treta ∧ v.inh = false) ∧
      (e.dest = .tret → c.haltedEntry = true → v.phase = .halted ∧ v.inh = false) := by
  cases hdest : e.dest with
  | block a link =>
    rw [takeExit_block hdest, ctx_modCtx hc, fabric_modCtx hc]
    refine ⟨_, rfl, hf, ?_, fun n hn => ?_, fun b h => ?_, fun b r h => ?_, fun h => (nomatch h), fun h => (nomatch h), fun h => (nomatch h)⟩
    · cases link <;> rfl
    · cases link with
      | none => rfl
      | some r => exact greg_setG_ne c r hn
    · obtain ⟨rfl, rfl⟩ := ExitTo.block.inj h
      exact ⟨rfl, rfl, rfl, rfl⟩
    · obtain ⟨rfl, rfl⟩ := ExitTo.block.inj h
      exact ⟨rfl, rfl, greg_setG_same c r (by decide) (by decide), rfl⟩
  | halt =>
    cases hinh : c.inh with
    | false =>
      rw [takeExit_halt hdest hc hinh, ctx_modCtx hc, fabric_modCtx hc]
      exact ⟨_, rfl, hf, rfl, fun _ _ => rfl, fun b h => (nomatch h), fun b r h => (nomatch h), fun _ _ => ⟨rfl, rfl⟩,
        fun h => (nomatch h), fun h => (nomatch h)⟩
    | true =>
      obtain ⟨r, hend⟩ := takeExit_unresolved (sup := sup) hdest hc hinh
      obtain ⟨v, hv, hg, hk, hreset⟩ := endUnresolved_face hc hf r true
      rw [hend]
      exact ⟨v, hv, hreset, hk, fun n _ => by unfold Ctx.greg; rw [hg], fun b h => (nomatch h), fun b r h => (nomatch h),
        fun _ h => (nomatch h), fun h => (nomatch h), fun h => (nomatch h)⟩
  | tret =>
    rw [takeExit_tret hdest]
    have hc' : ((dropPorts s t).tile t).ctx = some c := hc
    rw [ctx_modCtx hc', fabric_modCtx hc']
    refine ⟨_, rfl, hf, ?_, fun n _ => ?_, fun b h => (nomatch h), fun b r h => (nomatch h), fun h => (nomatch h), fun _ hh => ?_, fun _ hh => ?_⟩
    · unfold returned returnFromTrap
      split <;> rfl
    · unfold returned returnFromTrap
      split <;> rfl
    · simp only [returned, returnFromTrap, hh]
      exact ⟨rfl, rfl, rfl⟩
    · simp only [returned, returnFromTrap, hh]
      exact ⟨rfl, rfl⟩

end End

end Sys2Proof.Machine
end
section
/-! ## What the release of a held store or full/empty effect does (R107, R145, R359 to R363) -/

namespace Sys2Proof.Machine

/-! ### Bytes of a value -/

theorem length_bytesOf (n x : Nat) : (bytesOf n x).length = n := by
  induction n generalizing x with
  | zero => rfl
  | succ n ih => simp [bytesOf, ih]

theorem getElem?_bytesOf {n k : Nat} (x : Nat) (h : k < n) : (bytesOf n x)[k]? = some (BitVec.ofNat 8 (x / 256 ^ k)) := by
  induction n generalizing x k with
  | zero => omega
  | succ n ih =>
    cases k with
    | zero => simp [bytesOf]
    | succ k =>
      rw [bytesOf, List.getElem?_cons_succ, ih _ (by omega), Nat.div_div_eq_div_mul, pow_succ']

/-- A byte of memory after a value's bytes are written. -/
theorem mget_mwriteBytes_bytesOf {m : Memory} (hm : m.wf = true) (off n d a : Nat) :
    mget (mwriteBytes m off (bytesOf n d)) a =
      if off ≤ a ∧ a < off + n then BitVec.ofNat 8 (d / 256 ^ (a - off)) else mget m a := by
  rw [mget_mwriteBytes _ _ _ hm, length_bytesOf]
  split
  · rename_i h
    rw [getElem?_bytesOf _ (by omega)]
    rfl
  · rfl

theorem mget_mwrite {m : Memory} (hm : m.wf = true) (off n d a : Nat) :
    mget (mwrite m off n d) a = if off ≤ a ∧ a < off + n then BitVec.ofNat 8 (d / 256 ^ (a - off)) else mget m a := by
  induction n generalizing m off d with
  | zero => rw [if_neg (by omega)]; rfl
  | succ n ih =>
    rw [mwrite, ih (wf_mset _ _ hm), mget_mset _ _ _ hm]
    by_cases ha : a = off
    · subst ha
      simp
    · by_cases hin : off + 1 ≤ a ∧ a < off + 1 + n
      · obtain ⟨k, hk⟩ : ∃ k, a - off = k + 1 := ⟨a - off - 1, by omega⟩
        rw [if_pos hin, if_pos (by omega), hk, show a - (off + 1) = k by omega, Nat.div_div_eq_div_mul, pow_succ']
      · rw [if_neg hin, if_neg ha, if_neg (by omega)]

/-- A byte of a wide value is one of its low or of its high word. -/
theorem byte_of_low (d : BitVec 128) {k : Nat} (hk : k < 8) :
    BitVec.ofNat 8 ((d.extractLsb' 0 64).toNat / 256 ^ k) = BitVec.ofNat 8 (d.toNat / 256 ^ k) := by
  apply BitVec.eq_of_toNat_eq
  rw [BitVec.toNat_ofNat, BitVec.toNat_ofNat, BitVec.extractLsb'_toNat, Nat.shiftRight_zero]
  interval_cases k <;> omega

theorem byte_of_high (d : BitVec 128) {k : Nat} (hk : 8 ≤ k) (hk' : k < 16) :
    BitVec.ofNat 8 ((d.extractLsb' 64 64).toNat / 256 ^ (k - 8)) = BitVec.ofNat 8 (d.toNat / 256 ^ k) := by
  apply BitVec.eq_of_toNat_eq
  rw [BitVec.toNat_ofNat, BitVec.toNat_ofNat, BitVec.extractLsb'_toNat, Nat.shiftRight_eq_div_pow]
  have hd := d.isLt
  interval_cases k <;> omega

/-! ### What storing does to a tile -/

/-- A tile's memory, line states and granule tags. -/
def Tile.store (x : Tile) : Memory × Table LineState × Table Bool := (x.mem, x.lines, x.gtags)

/-- The store of every tile but one stays. -/
theorem store_modTile (s : State) (t : Nat) (f : Tile → Tile) (y : Nat) :
    ((s.modTile t f).tile y).store = if t = y ∧ y < 192 then (f (s.tile y)).store else (s.tile y).store := by
  unfold State.modTile
  rw [State.tile_setTile]
  split
  · rename_i h
    rw [h.1]
  · rfl

theorem store_modTile_same (s : State) (t : Nat) (f : Tile → Tile) (hf : ∀ x, (f x).store = x.store) (y : Nat) :
    ((s.modTile t f).tile y).store = (s.tile y).store := by
  rw [store_modTile]
  split
  · exact hf _
  · rfl

theorem store_setEv (s : State) (t y : Nat) : ((setEv s t).tile y).store = (s.tile y).store := by
  unfold setEv
  split
  · exact store_modTile_same s t _ (by intro; rfl) y
  · exact store_modTile_same s t _ (by intro; rfl) y

theorem store_fillLine (s : State) (t i : Nat) (p : Bool) (y : Nat) :
    ((fillLine s t i p).tile y).store = ((setLine s t i { full := true, poison := p }).tile y).store := by
  unfold fillLine
  dsimp only
  split
  · exact store_setEv _ t y
  · rfl

/-- Bytes of a share do not reach the toybox (R103, R120). -/
theorem writeScratch_share (s : State) (t : Nat) {off : Nat} {bs : List Byte} (h : off + bs.length ≤ 0x3E0000) :
    writeScratch s t off bs = putScratch s t off bs := by
  rw [writeScratch, if_neg]
  simp [inToybox]
  omega

theorem tileWf_of_store {x z : Tile} (h : z.store = x.store) (hx : TileWf x) : TileWf z := by
  simp only [Tile.store, Prod.mk.injEq] at h
  obtain ⟨hm, hl, ht⟩ := h
  exact ⟨hm ▸ hx.mem, hl ▸ hx.lines, ht ▸ hx.gtags⟩

/-! ### Stability -/

namespace Stable

variable {s u : State}

/-- A change of tiles that keeps each in canonical form. -/
theorem of_tiles (h : Stable s) (ht : ∀ t, TileWf (u.tile t)) (hp : u.pend = s.pend) (hr : u.reserved = s.reserved)
    (hh : u.host = s.host) (hn : u.tenants = s.tenants) : Stable u :=
  ⟨hp.trans h.pend, hr.trans h.reserved, ht, hh ▸ h.host, fun f => by
    unfold State.tenant
    rw [hn]
    exact h.tenant f⟩

theorem modTile (h : Stable s) (t : Nat) (f : Tile → Tile) (hf : ∀ x, TileWf x → TileWf (f x)) : Stable (s.modTile t f) :=
  h.of_tiles (fun y => by
    unfold State.modTile
    rw [State.tile_setTile]
    split
    · exact hf _ (h.tile t)
    · exact h.tile y) rfl rfl rfl rfl

theorem putScratch (h : Stable s) (t off : Nat) (bs : List Byte) : Stable (putScratch s t off bs) :=
  h.modTile t _ (fun _ hx => ⟨wf_mwriteBytes _ _ hx.mem, hx.lines, (tget_clearTags _ hx.gtags 0).1⟩)

theorem setLine (h : Stable s) (t i : Nat) (l : LineState) : Stable (setLine s t i l) :=
  h.modTile t _ (fun _ hx => ⟨hx.mem, twf_tset _ _ hx.lines, hx.gtags⟩)

theorem setGranule (h : Stable s) (t i : Nat) (b : Bool) : Stable (setGranule s t i b) :=
  h.modTile t _ (fun _ hx => ⟨hx.mem, hx.lines, twf_tset _ _ hx.gtags⟩)

theorem setEv (h : Stable s) (t : Nat) : Stable (setEv s t) :=
  h.of_tiles (fun y => tileWf_of_store (store_setEv s t y) (h.tile y))
    (by unfold Machine.setEv; split <;> rfl) (by unfold Machine.setEv; split <;> rfl) (by unfold Machine.setEv; split <;> rfl)
    (by unfold Machine.setEv; split <;> rfl)

/-- Elements read ahead, and accesses under way, are dropped. -/
theorem drop (h : Stable s) (f : Prefetch → Bool) (g : Pend → Bool) :
    Stable { s with ahead := s.ahead.filter f, pend := s.pend.filter g } :=
  ⟨by simp [h.pend], h.reserved, h.tile, h.host, h.tenant⟩

theorem dropWritten (h : Stable s) (t : Nat) (p : Place) (n : Nat) : Stable (dropWritten s t p n) := h.drop _ _

theorem fillLine (h : Stable s) (t i : Nat) (p : Bool) : Stable (fillLine s t i p) := by
  unfold Machine.fillLine
  dsimp only
  split
  · exact (h.setLine t i _).setEv t
  · exact h.setLine t i _

theorem emptyLine (h : Stable s) (t i : Nat) : Stable (emptyLine s t i) := (h.setLine t i _).drop _ _

theorem modTenant (h : Stable s) (f : Nat) (g : Tenant → Tenant)
    (hg : ∀ x, twf 0 x.mbox = true ∧ twf false x.mfull = true → twf 0 (g x).mbox = true ∧ twf false (g x).mfull = true) :
    Stable (s.modTenant f g) := by
  refine ⟨h.pend, h.reserved, h.tile, h.host, fun y => ?_⟩
  rw [State.tenant_modTenant]
  split
  · exact hg _ (h.tenant f)
  · exact h.tenant y

theorem setMailbox (h : Stable s) (f m : Nat) (v : Word) : Stable (setMailbox s f m v) :=
  h.modTenant f _ (fun _ hx => ⟨twf_tset _ _ hx.1, hx.2⟩)

theorem setMailboxFull (h : Stable s) (f m : Nat) (b : Bool) : Stable (setMailboxFull s f m b) := by
  have hraised : Stable (if mailboxFull s f m = b then s else raise s .mailbox (mailboxAddr f m)) := by
    split
    · exact h
    · obtain ⟨k, hk⟩ := raise_eq_matcher s .mailbox (mailboxAddr f m) (by decide)
      rw [hk]
      exact ⟨h.pend, h.reserved, h.tile, h.host, h.tenant⟩
  exact hraised.modTenant f (fun x => { x with mfull := tset false x.mfull m b }) (fun _ hx => ⟨hx.1, twf_tset _ _ hx.2⟩)

theorem host_mwrite (h : Stable s) (a n x : Nat) : Stable { s with host := mwrite s.host a n x } :=
  ⟨h.pend, h.reserved, h.tile, wf_mwrite a n x h.host, h.tenant⟩

end Stable

/-! ### A release is performed at once -/

/-- In a stable state a released write that is not to a far member can go (R146, R363). -/
theorem canGo_of_stable {s : State} (h : Stable s) {q : Pend} (hwrites : q.writing = true) (hfar : ∀ a, q.place ≠ .league a) :
    canGo s q = true := by
  have hbehind : behindWrite s q = false := by simp [behindWrite, h.pend]
  have hfree (x y : Nat) (p : Place) : reservedByOther s x y p = false := by simp [reservedByOther, h.reserved]
  unfold canGo
  rw [hbehind]
  split
  · rename_i a ha
    exact absurd ha (hfar a)
  · simp [hfree, hwrites]

theorem mapReserved_of_stable {s : State} (h : Stable s) (f : List Reservation → List Reservation) (hf : f [] = []) :
    { s with reserved := f s.reserved } = s := by
  have hr : f s.reserved = s.reserved := by rw [h.reserved, hf]
  rw [hr]

theorem endReserve_of_stable {s : State} (h : Stable s) (q : Pend) : endReserve s q = s := by
  unfold endReserve
  split
  · exact mapReserved_of_stable h _ rfl
  · rfl

/-- The reservations after the release of an STFW, whose own ends with its write (R363). -/
def firmed (s : State) (t ctx : Nat) (op : MemOp) (p : Place) : State :=
  match op with
  | .stfw _ => { s with reserved := s.reserved.map (fun r =>
      if (sameTarget r.place p || r.place == p) && r.tile == t && r.ctx == ctx then { r with firm := true } else r) }
  | _ => s

theorem firmed_of_stable {s : State} (h : Stable s) (t ctx : Nat) (op : MemOp) (p : Place) : firmed s t ctx op p = s := by
  unfold firmed
  split
  · exact mapReserved_of_stable h (List.map _) rfl
  · rfl

/-- In a stable state the release of a store or full/empty effect performs it (R107, R123). -/
theorem releaseStore_performs {s : State} (h : Stable s) {e : Effect} {op : MemOp} {p : Place} {data : BitVec 128} {tag : Bool}
    (hop : heldOp e = some (op, p, data, tag)) (hfar : ∀ a, p ≠ .league a) (t ctx : Nat) (scope : BitVec 2)
    (hafter : Stable (performWrite s (some t) op p data tag)) :
    releaseStore s t ctx e scope = performWrite s (some t) op p data tag := by
  have hperform (u : State) (hu : u = s) (b : Bool) (hb : b = false) (q : Pend) :
      (if b then submit (dropReleased u.fresh.2 t op p) q else wake (endReserve (performWrite u (some t) op p data tag) q)) =
        performWrite s (some t) op p data tag := by
    rw [hb, hu, if_neg Bool.false_ne_true, endReserve_of_stable hafter, wake_of_pend_nil _ hafter.pend]
  have hgo (u : State) (hu : u = s) (q : Pend) (hw : q.writing = true) (hp : q.place = p) : canGo u q = true :=
    hu ▸ canGo_of_stable h hw (fun a ha => hfar a (hp ▸ ha))
  unfold releaseStore
  rw [hop]
  have hsame := firmed_of_stable h t ctx op p
  refine hperform (firmed s t ctx op p) hsame _ ?_ _
  rw [Bool.or_eq_false_iff]
  refine ⟨?_, by rw [Bool.not_eq_false']; exact hgo _ hsame _ rfl rfl⟩
  cases p with
  | league a => exact absurd rfl (hfar a)
  | scratch | mailbox | mailboxHole | host | control => rfl

end Sys2Proof.Machine
end
section
/-! ## A released effect between what a commit leaves alone (R107, R145, R359 to R363) -/

namespace Sys2Proof.Machine

/-! ### The store of a tile after a write -/

section Views

variable {s : State} {g : Nat}

theorem store_putScratch (hg : g < 192) (off : Nat) (bs : List Byte) : ((putScratch s g off bs).tile g).store =
    (mwriteBytes (s.tile g).mem off bs, (s.tile g).lines, (granulesOf off bs.length).foldl (fun t i => tset false t i false) (s.tile g).gtags) := by
  rw [putScratch, store_modTile, if_pos ⟨rfl, hg⟩]
  rfl

theorem store_setLine (hg : g < 192) (l : Nat) (v : LineState) : ((setLine s g l v).tile g).store =
    ((s.tile g).mem, tset LineState.reset (s.tile g).lines l v, (s.tile g).gtags) := by
  rw [setLine, store_modTile, if_pos ⟨rfl, hg⟩]
  rfl

theorem store_setGranule (hg : g < 192) (i : Nat) (b : Bool) : ((setGranule s g i b).tile g).store =
    ((s.tile g).mem, (s.tile g).lines, tset false (s.tile g).gtags i b) := by
  rw [setGranule, store_modTile, if_pos ⟨rfl, hg⟩]
  rfl

theorem store_emptyLine (hg : g < 192) (l : Nat) : ((emptyLine s g l).tile g).store =
    ((s.tile g).mem, tset LineState.reset (s.tile g).lines l { full := false, poison := false }, (s.tile g).gtags) :=
  store_setLine hg l _

end Views

/-! ### The frame of an effect -/

/-- From a stable state, a commit keeps the shares up to the release of its effect and from it on. -/
structure CommitFrame (s x y u : State) : Prop where
  stable : Stable s
  before : ShareKept s x
  after : ShareKept y u
  released : Stable y

namespace CommitFrame

variable {s x y u : State} (h : CommitFrame s x y u)

include h

theorem stable_before : Stable x := h.before.stable h.stable

theorem wrote {g off n d : Nat} (hy : (y.tile g).mem = mwriteBytes (x.tile g).mem off (bytesOf n d)) : ∀ a, a < 0x3E0000 →
    mget (u.tile g).mem a = if off ≤ a ∧ a < off + n then BitVec.ofNat 8 (d / 256 ^ (a - off)) else mget (s.tile g).mem a := by
  intro a ha
  rw [(h.after.tile g).mem (h.released.tile g) a ha, hy, mget_mwriteBytes_bytesOf (h.stable_before.tile g).mem,
    (h.before.tile g).mem (h.stable.tile g) a ha]

theorem lineSet {g l : Nat} {v : LineState} (hy : (y.tile g).lines = tset LineState.reset (x.tile g).lines l v) :
    ∀ k, lineState u g k = if k = l then v else lineState s g k := by
  intro k
  unfold lineState
  rw [(h.after.tile g).lines, hy, tget_tset _ _ _ _ _ (h.stable_before.tile g).lines, (h.before.tile g).lines]

theorem lineSame {g : Nat} (hy : (y.tile g).lines = (x.tile g).lines) (k : Nat) : lineState u g k = lineState s g k := by
  unfold lineState
  rw [(h.after.tile g).lines, hy, (h.before.tile g).lines]

theorem granule {g i : Nat} (hi : i < 0x3E000) : granuleTag u g i = granuleTag y g i :=
  (h.after.tile g).tags (h.released.tile g) i hi

theorem mailbox_after (f m : Nat) : mailboxWord u f m = mailboxWord y f m ∧ mailboxFull u f m = mailboxFull y f m := by
  unfold mailboxWord mailboxFull State.tenant
  rw [h.after.tenants]
  exact ⟨rfl, rfl⟩

theorem mailbox_before (f m : Nat) : mailboxWord x f m = mailboxWord s f m ∧ mailboxFull x f m = mailboxFull s f m := by
  unfold mailboxWord mailboxFull State.tenant
  rw [h.before.tenants]
  exact ⟨rfl, rfl⟩

end CommitFrame

/-! ### Mailbox words -/

section Mailbox

variable {s : State} {f : Nat}

theorem mailboxWord_setMailbox (h : Stable s) (hf : f < 16) (m : Nat) (v : Word) :
    mailboxWord (setMailbox s f m v) f m = v ∧ mailboxFull (setMailbox s f m v) f m = mailboxFull s f m := by
  unfold mailboxWord mailboxFull setMailbox
  rw [State.tenant_modTenant, if_pos ⟨rfl, hf⟩]
  exact ⟨(tget_tset _ _ _ _ _ (h.tenant f).1).trans (if_pos rfl), rfl⟩

theorem mailboxFull_setMailboxFull (h : Stable s) (hf : f < 16) (m : Nat) (b : Bool) :
    mailboxFull (setMailboxFull s f m b) f m = b ∧ mailboxWord (setMailboxFull s f m b) f m = mailboxWord s f m := by
  have htenants : (if mailboxFull s f m = b then s else raise s .mailbox (mailboxAddr f m)).tenant f = s.tenant f := by
    split
    · rfl
    · obtain ⟨k, hk⟩ := raise_eq_matcher s .mailbox (mailboxAddr f m) (by decide)
      rw [hk]
      rfl
  rw [setMailboxFull]
  unfold mailboxFull mailboxWord
  rw [State.tenant_modTenant, if_pos ⟨rfl, hf⟩]
  unfold mailboxFull at htenants
  rw [htenants]
  exact ⟨(tget_tset _ _ _ _ _ (h.tenant f).2).trans (if_pos rfl), rfl⟩

end Mailbox

/-! ### Each effect, performed -/

theorem bytesOf_low (d : BitVec 128) {n : Nat} (hn : n ≤ 8) : bytesOf n (d.extractLsb' 0 64).toNat = bytesOf n d.toNat := by
  apply List.ext_getElem?
  intro k
  by_cases hk : k < n
  · rw [getElem?_bytesOf _ hk, getElem?_bytesOf _ hk, byte_of_low d (by omega)]
  · rw [List.getElem?_eq_none (by rw [length_bytesOf]; omega), List.getElem?_eq_none (by rw [length_bytesOf]; omega)]

theorem low_of_word (w : Word) : (w.setWidth 128).extractLsb' 0 64 = w := by
  apply BitVec.eq_of_toNat_eq
  have hw := w.isLt
  simp only [BitVec.extractLsb'_toNat, BitVec.toNat_setWidth, Nat.shiftRight_zero]
  omega

section Performed

variable {s : State} {t g off n : Nat}

/-- A plain store of at most a word to a share (R359). -/
theorem performWrite_store_share (hn : n ≤ 8) (hoff : off + n ≤ 0x3E0000) (d : BitVec 128) (z : Bool) :
    performWrite s (some t) (.store n) (.scratch g off) d z =
      dropWritten (putScratch s g off (bytesOf n d.toNat)) t (.scratch g off) n := by
  simp only [performWrite, storeRun, if_pos hn, storePlace, bytesOf_low d hn]
  rw [writeScratch_share _ _ (by rw [length_bytesOf]; exact hoff)]

/-- A store of a capability to a share (R360). -/
theorem performWrite_stk_share (hoff : off + 16 ≤ 0x3E0000) (d : BitVec 128) (z : Bool) :
    performWrite s (some t) .stk (.scratch g off) d z =
      dropWritten (setGranule (putScratch (putScratch s g off (bytesOf 8 (d.extractLsb' 0 64).toNat)) g (off + 8)
        (bytesOf 8 (d.extractLsb' 64 64).toNat)) g (off / 16) z) t (.scratch g off) 16 := by
  simp only [performWrite, storeCap, storePlace]
  rw [writeScratch_share _ _ (by rw [length_bytesOf]; omega), writeScratch_share _ _ (by rw [length_bytesOf]; omega)]

/-- A store to a share that fills its line (R362). -/
theorem performWrite_fill_share {op : MemOp} (hop : op = .stf n ∨ op = .stfw n) (hoff : off + n ≤ 0x3E0000) (w : Word) (z : Bool) :
    performWrite s (some t) op (.scratch g off) (w.setWidth 128) z =
      fillLine (dropWritten (putScratch s g off (bytesOf n w.toNat)) t (.scratch g off) n) g (off / 128) false := by
  rcases hop with rfl | rfl
  all_goals
    simp only [performWrite, storePlace, fillRaw, low_of_word]
    rw [writeScratch_share _ _ (by rw [length_bytesOf]; exact hoff)]

end Performed

/-- In a stable state, what the release of an effect comes to, with the frame around it. -/
theorem frame_of_release {s x u : State} {e : Effect} {op : MemOp} {p : Place} {data : BitVec 128} {tag : Bool} {t ctx : Nat}
    {scope : BitVec 2} (hs : Stable s) (hbefore : ShareKept s x) (hafter : Kept (releaseStore x t ctx e scope) u)
    (hop : heldOp e = some (op, p, data, tag)) (hfar : ∀ a, p ≠ .league a) {y : State}
    (hy : performWrite x (some t) op p data tag = y) (hstable : Stable x → Stable y) : CommitFrame s x y u := by
  have hx := hbefore.stable hs
  have hrel := releaseStore_performs hx hop hfar t ctx scope (hy ▸ hstable hx)
  rw [hrel, hy] at hafter
  exact ⟨hs, hbefore, hafter.share (hstable hx), hstable hx⟩

theorem mwriteBytes_append (m : Memory) (a : Nat) (xs ys : List Byte) :
    mwriteBytes (mwriteBytes m a xs) (a + xs.length) ys = mwriteBytes m a (xs ++ ys) := by
  induction xs generalizing m a with
  | nil => rfl
  | cons x xs ih => rw [mwriteBytes, List.cons_append, mwriteBytes, ← ih, List.length_cons, Nat.add_assoc, Nat.add_comm 1]

theorem bytesOf_halves (d : BitVec 128) :
    bytesOf 8 (d.extractLsb' 0 64).toNat ++ bytesOf 8 (d.extractLsb' 64 64).toNat = bytesOf 16 d.toNat := by
  apply List.ext_getElem?
  intro k
  by_cases hlow : k < 8
  · rw [List.getElem?_append_left (by rwa [length_bytesOf]), getElem?_bytesOf _ hlow, getElem?_bytesOf _ (by omega), byte_of_low d hlow]
  · rw [List.getElem?_append_right (by rw [length_bytesOf]; omega), length_bytesOf]
    by_cases hhigh : k < 16
    · rw [getElem?_bytesOf _ (by omega), getElem?_bytesOf _ hhigh, byte_of_high d (by omega) hhigh]
    · rw [List.getElem?_eq_none (by rw [length_bytesOf]; omega), List.getElem?_eq_none (by rw [length_bytesOf]; omega)]

/-- The parts of a tile's store. -/
theorem store_parts {x : Tile} {m : Memory} {l : Table LineState} {g : Table Bool} (h : x.store = (m, l, g)) :
    x.mem = m ∧ x.lines = l ∧ x.gtags = g := by
  simpa [Tile.store] using h

section Effects

variable {s x u : State} {t ctx : Nat} {scope : BitVec 2} {g off n : Nat}

theorem released_store_share {d : BitVec 128} {z : Bool} (hs : Stable s) (hbefore : ShareKept s x)
    (hafter : Kept (releaseStore x t ctx (.store (.scratch g off) n d false z) scope) u) (hg : g < 192) (hn : 0 < n)
    (hoff : off + n ≤ 0x3E0000) (h8 : n ≤ 8) :
    (∀ a, a < 0x3E0000 → mget (u.tile g).mem a =
      if off ≤ a ∧ a < off + n then BitVec.ofNat 8 (d.toNat / 256 ^ (a - off)) else mget (s.tile g).mem a) ∧
    (∀ k, lineState u g k = lineState s g k) ∧ ∀ i, off / 16 ≤ i → i ≤ (off + n - 1) / 16 → granuleTag u g i = false := by
  have h := frame_of_release hs hbefore hafter rfl (by intro _; exact Place.noConfusion) (performWrite_store_share h8 hoff d z)
    (fun hx => (hx.putScratch g off _).dropWritten _ _ _)
  obtain ⟨hm, hl, ht⟩ := store_parts (store_putScratch (s := x) hg off (bytesOf n d.toNat))
  refine ⟨h.wrote hm, h.lineSame hl, fun i hi hi' => ?_⟩
  rw [h.granule (by omega)]
  refine (congrArg (tget false · i) ht).trans ?_
  rw [(tget_clearTags _ (h.stable_before.tile g).gtags i).2, length_bytesOf, if_pos ((mem_granulesOf hn).mpr ⟨hi, hi'⟩)]

theorem released_stk_share {d : BitVec 128} {z : Bool} (hs : Stable s) (hbefore : ShareKept s x)
    (hafter : Kept (releaseStore x t ctx (.store (.scratch g off) 16 d true z) scope) u) (hg : g < 192) (hoff : off + 16 ≤ 0x3E0000) :
    (∀ a, a < 0x3E0000 → mget (u.tile g).mem a =
      if off ≤ a ∧ a < off + 16 then BitVec.ofNat 8 (d.toNat / 256 ^ (a - off)) else mget (s.tile g).mem a) ∧
    (∀ k, lineState u g k = lineState s g k) ∧ granuleTag u g (off / 16) = z := by
  have h := frame_of_release hs hbefore hafter rfl (by intro _; exact Place.noConfusion) (performWrite_stk_share hoff d z)
    (fun hx => (((hx.putScratch g off _).putScratch g (off + 8) _).setGranule g _ z).dropWritten _ _ _)
  have hfirst := store_parts (store_putScratch (s := x) hg off (bytesOf 8 (d.extractLsb' 0 64).toNat))
  obtain ⟨hm₁, hl₁, ht₁⟩ := hfirst
  obtain ⟨hm₂, hl₂, ht₂⟩ := store_parts (store_putScratch (s := putScratch x g off (bytesOf 8 (d.extractLsb' 0 64).toNat)) hg
    (off + 8) (bytesOf 8 (d.extractLsb' 64 64).toNat))
  obtain ⟨hm, hl, ht⟩ := store_parts (store_setGranule (s := putScratch (putScratch x g off (bytesOf 8 (d.extractLsb' 0 64).toNat)) g
    (off + 8) (bytesOf 8 (d.extractLsb' 64 64).toNat)) hg (off / 16) z)
  refine ⟨h.wrote (hm.trans (hm₂.trans ?_)), h.lineSame (hl.trans (hl₂.trans hl₁)), ?_⟩
  · rw [hm₁, ← bytesOf_halves d, ← mwriteBytes_append, length_bytesOf]
  · rw [h.granule (by omega)]
    refine (congrArg (tget false · (off / 16)) ht).trans ?_
    have hwf := ((h.stable_before.putScratch g off (bytesOf 8 (d.extractLsb' 0 64).toNat)).putScratch g (off + 8)
      (bytesOf 8 (d.extractLsb' 64 64).toNat)).tile g
    rw [tget_tset _ _ _ _ _ hwf.gtags, if_pos rfl]

theorem released_fill_share {e : Effect} {op : MemOp} {w : Word} {z : Bool} (hs : Stable s) (hbefore : ShareKept s x)
    (hafter : Kept (releaseStore x t ctx e scope) u) (hheld : heldOp e = some (op, .scratch g off, w.setWidth 128, z))
    (hop : op = .stf n ∨ op = .stfw n) (hg : g < 192) (hoff : off + n ≤ 0x3E0000) :
    (∀ a, a < 0x3E0000 → mget (u.tile g).mem a =
      if off ≤ a ∧ a < off + n then BitVec.ofNat 8 (w.toNat / 256 ^ (a - off)) else mget (s.tile g).mem a) ∧
    ∀ k, lineState u g k = if k = off / 128 then { full := true, poison := false } else lineState s g k := by
  have h := frame_of_release hs hbefore hafter hheld (by intro _; exact Place.noConfusion) (performWrite_fill_share hop hoff w z)
    (fun hx => ((hx.putScratch g off _).dropWritten _ _ _).fillLine _ _ _)
  obtain ⟨hm₁, hl₁, -⟩ := store_parts (store_putScratch (s := x) hg off (bytesOf n w.toNat))
  obtain ⟨hm, hl, -⟩ := store_parts ((store_fillLine (dropWritten (putScratch x g off (bytesOf n w.toNat)) t (.scratch g off) n) g
    (off / 128) false g).trans (store_setLine hg _ _))
  exact ⟨h.wrote (hm.trans hm₁), h.lineSet (hl.trans (congrArg (tset LineState.reset · (off / 128) _) hl₁))⟩

theorem released_empty_share (hs : Stable s) (hbefore : ShareKept s x)
    (hafter : Kept (releaseStore x t ctx (.feclr (.scratch g off)) scope) u) (hg : g < 192) :
    (∀ a, a < 0x3E0000 → mget (u.tile g).mem a =
      if off ≤ a ∧ a < off + 0 then BitVec.ofNat 8 (0 / 256 ^ (a - off)) else mget (s.tile g).mem a) ∧
    ∀ k, lineState u g k = if k = off / 128 then { full := false, poison := false } else lineState s g k := by
  have h := frame_of_release hs hbefore hafter rfl (by intro _; exact Place.noConfusion) rfl (fun hx => hx.emptyLine g (off / 128))
  obtain ⟨hm, hl, -⟩ := store_parts (store_emptyLine (s := x) hg (off / 128))
  exact ⟨h.wrote hm, h.lineSet hl⟩

theorem released_full_share (hs : Stable s) (hbefore : ShareKept s x)
    (hafter : Kept (releaseStore x t ctx (.feset (.scratch g off)) scope) u) (hg : g < 192) :
    (∀ a, a < 0x3E0000 → mget (u.tile g).mem a =
      if off ≤ a ∧ a < off + 0 then BitVec.ofNat 8 (0 / 256 ^ (a - off)) else mget (s.tile g).mem a) ∧
    ∀ k, lineState u g k = if k = off / 128 then { full := true, poison := false } else lineState s g k := by
  have h := frame_of_release hs hbefore hafter rfl (by intro _; exact Place.noConfusion) rfl (fun hx => hx.fillLine g (off / 128) false)
  obtain ⟨hm, hl, -⟩ := store_parts ((store_fillLine x g (off / 128) false g).trans (store_setLine hg _ _))
  exact ⟨h.wrote hm, h.lineSet hl⟩

variable {f m : Nat}

theorem released_store_mailbox {d : BitVec 128} {z : Bool} (hs : Stable s) (hbefore : ShareKept s x)
    (hafter : Kept (releaseStore x t ctx (.store (.mailbox f m) 8 d false z) scope) u) (hf : f < 16) :
    mailboxWord u f m = d.setWidth 64 ∧ mailboxFull u f m = mailboxFull s f m := by
  have h := frame_of_release hs hbefore hafter rfl (by intro _; exact Place.noConfusion) rfl
    (fun hx => (hx.setMailbox f m (d.extractLsb' 0 64)).dropWritten _ _ _)
  obtain ⟨hword, hfull⟩ := mailboxWord_setMailbox h.stable_before hf m (d.extractLsb' 0 64)
  refine ⟨(h.mailbox_after f m).1.trans (hword.trans ?_), (h.mailbox_after f m).2.trans (hfull.trans (h.mailbox_before f m).2)⟩
  exact BitVec.eq_of_toNat_eq (by simp)

theorem released_fill_mailbox {w : Word} (hs : Stable s) (hbefore : ShareKept s x)
    (hafter : Kept (releaseStore x t ctx (.stf (.mailbox f m) 8 w) scope) u) (hf : f < 16) :
    mailboxWord u f m = w ∧ mailboxFull u f m = true := by
  have h := frame_of_release hs hbefore hafter rfl (by intro _; exact Place.noConfusion) rfl
    (fun hx => ((hx.setMailbox f m ((w.setWidth 128).extractLsb' 0 64)).dropWritten _ _ _).setMailboxFull f m true)
  obtain ⟨hword, -⟩ := mailboxWord_setMailbox h.stable_before hf m ((w.setWidth 128).extractLsb' 0 64)
  obtain ⟨hfull, hsame⟩ := mailboxFull_setMailboxFull
    ((h.stable_before.setMailbox f m ((w.setWidth 128).extractLsb' 0 64)).dropWritten t (.mailbox f m) 8) hf m true
  exact ⟨(h.mailbox_after f m).1.trans (hsame.trans (hword.trans (low_of_word w))), (h.mailbox_after f m).2.trans hfull⟩

theorem released_set_mailbox {e : Effect} {op : MemOp} {b : Bool} (hs : Stable s) (hbefore : ShareKept s x)
    (hafter : Kept (releaseStore x t ctx e scope) u) (hheld : heldOp e = some (op, .mailbox f m, 0, false))
    (hop : performWrite x (some t) op (.mailbox f m) 0 false = setMailboxFull x f m b) (hf : f < 16) :
    mailboxWord u f m = mailboxWord s f m ∧ mailboxFull u f m = b := by
  have h := frame_of_release hs hbefore hafter hheld (by intro _; exact Place.noConfusion) hop (fun hx => hx.setMailboxFull f m b)
  obtain ⟨hfull, hsame⟩ := mailboxFull_setMailboxFull h.stable_before hf m b
  exact ⟨(h.mailbox_after f m).1.trans (hsame.trans (h.mailbox_before f m).1), (h.mailbox_after f m).2.trans hfull⟩

theorem released_store_host {a : Nat} {d : BitVec 128} {z : Bool} (hs : Stable s) (hbefore : ShareKept s x)
    (hafter : Kept (releaseStore x t ctx (.store (.host a) n d false z) scope) u) (h8 : n ≤ 8) (i : Nat) :
    mget u.host i = if a ≤ i ∧ i < a + n then BitVec.ofNat 8 (d.toNat / 256 ^ (i - a)) else mget s.host i := by
  have hperform : performWrite x (some t) (.store n) (.host a) d z =
      dropWritten { x with host := mwrite x.host a n (d.extractLsb' 0 64).toNat } t (.host a) n := by
    simp only [performWrite, storeRun, if_pos h8, storePlace]
  have h := frame_of_release hs hbefore hafter rfl (by intro _; exact Place.noConfusion) hperform
    (fun hx => (hx.host_mwrite a n _).dropWritten _ _ _)
  have hhost : u.host = mwrite x.host a n (d.extractLsb' 0 64).toNat := h.after.host
  rw [hhost, mget_mwrite h.stable_before.host, h.before.host]
  split
  · rw [byte_of_low d (by omega)]
  · rfl

/-- What a held store or full/empty effect does when it is released, between what a commit leaves alone (R107). -/
theorem released_of_store {e : Effect} {c v : Ctx} (hs : Stable s) (hbefore : ShareKept s x)
    (hafter : Kept (releaseStore x t ctx e scope) u) (hstore : (heldOp e).isSome = true) : Released s u t c v e := by
  refine ⟨?_, ?_, ?_, ?_, ?_, ?_, ?_, ?_, ?_, ?_, ?_, ?_, ?_⟩
  · rintro g off n d z rfl ⟨hg, hn, hoff⟩ h8
    exact released_store_share hs hbefore hafter hg hn hoff h8
  · rintro g off d z rfl ⟨hg, -, hoff⟩
    exact released_stk_share hs hbefore hafter hg hoff
  · rintro g off n w (rfl | ⟨rfl, -⟩) ⟨hg, -, hoff⟩ -
    · exact released_fill_share hs hbefore hafter rfl (.inl rfl) hg hoff
    · exact released_fill_share hs hbefore hafter rfl (.inr rfl) hg hoff
  · rintro g off rfl ⟨hg, -, -⟩
    exact released_empty_share hs hbefore hafter hg
  · rintro g off rfl ⟨hg, -, -⟩
    exact released_full_share hs hbefore hafter hg
  · rintro f m d z rfl hf
    exact released_store_mailbox hs hbefore hafter hf
  · rintro f m w rfl hf
    exact released_fill_mailbox hs hbefore hafter hf
  · rintro f m rfl hf
    exact released_set_mailbox hs hbefore hafter rfl rfl hf
  · rintro f m rfl hf
    exact released_set_mailbox hs hbefore hafter rfl rfl hf
  · rintro a n d z rfl h8
    exact released_store_host hs hbefore hafter h8
  · rintro q k rfl
    exact nomatch hstore
  · rintro kinds scope rfl
    exact nomatch hstore
  · rintro f rfl
    exact nomatch hstore

end Effects

end Sys2Proof.Machine
end
section
/-! ## A commit, by what its block holds (R84, R107) -/

namespace Sys2Proof.Machine

/-! ### The steps of a commit -/

/-- The WRs whose registers a commit writes: the block's own, and an iterating block's kept ones (R107, R126). -/
def commitRegs (x : Fabric) (b : Block) : List HeldWr :=
  x.wrs.filter (fun w => !w.push && w.key == blockKey b) ++ (if b.loop then x.kept else [])

/-- The registers are written, and a BWAIT acquires (R107, R372, R375). -/
def regsWritten (s : State) (t : Nat) (b : Block) (own : List Held) : State :=
  let s' := s.modCtx t (fun c => writeCsrs s.now (writeRegisters c (commitRegs (s.fabric t) b)) own)
  if hasBwait (s.fabric t) b then acquire s' t else s'

/-- What takes effect before the ports are committed: all but commands, port changes and queue fences (R107, R263). -/
def openEffects (s : State) (t ctx : Nat) (own : List Held) : State := releaseFlags (releaseAll s t ctx own) t own

/-- A context whose ports' positions are committed (R107, R227). -/
def portsClosed (own : List Held) (waited : Bool) (c : Ctx) : Ctx :=
  { c with ports := c.ports.map (fun p => { p with com := p.work }), fenced := (fenceKinds own).getLsbD 1 || waited }

/-- The positions of the ports are committed; then port changes, commands and queue fences take effect (R107, R209, R285). -/
def closeEffects (s : State) (t ctx inst : Nat) (own : List Held) (waited : Bool) : State :=
  let s := (sortBy (fun h => h.slot) own).foldl (fun s h => releasePort s t h) (s.modCtx t (portsClosed own waited))
  (own.filter (fun h => match h.eff with
    | .qfence _ => true
    | _ => false)).foldl (fun s h => match h.eff with
    | .qfence set => enterFence s t set inst
    | _ => s) (enterAll s t ctx own)

theorem commitEffects_eq (s : State) (t : Nat) (b : Block) (c : Ctx) (own : List Held) :
    commitEffects s t b c own = closeEffects (pushAll (openEffects (regsWritten s t b own) t c.id own) t
      ((s.fabric t).wrs.filter (fun w => w.push && w.key == blockKey b))) t c.id (s.fabric t).inst own (hasBwait (s.fabric t) b) := rfl

/-- An effect that takes place after the ports are committed: a command, a port change or a queue fence. -/
def Effect.closes : Effect → Bool
  | .command _ _ | .sparm _ _ _ | .spdis _ | .spskip _ _ | .qfence _ => true
  | _ => false

section Steps

variable (s : State) (t ctx inst : Nat) (h : Held) (waited : Bool)

theorem closeEffects_quiet (hc : h.eff.closes = false) :
    closeEffects s t ctx inst [h] waited = s.modCtx t (portsClosed [h] waited) := by
  obtain ⟨slot, key, tagged, eff, anc, scope⟩ := h
  cases eff with
  | command | sparm | spdis | spskip | qfence => exact nomatch hc
  | store | stf | stfw | feclr | feset | csrw | binit | barr | fence | flags => rfl

theorem closeEffects_port (hc : isCommand h = false) (hf : ∀ set, h.eff ≠ .qfence set) :
    closeEffects s t ctx inst [h] waited = releasePort (s.modCtx t (portsClosed [h] waited)) t h := by
  obtain ⟨slot, key, tagged, eff, anc, scope⟩ := h
  cases eff with
  | command => exact nomatch hc
  | qfence set => exact absurd rfl (hf set)
  | sparm | spdis | spskip | store | stf | stfw | feclr | feset | csrw | binit | barr | fence | flags => rfl

theorem closeEffects_command {q : Nat} {k : QEntry} (he : h.eff = .command q k) :
    closeEffects s t ctx inst [h] waited = enterCommand (s.modCtx t (portsClosed [h] waited)) t q k := by
  obtain ⟨slot, key, tagged, eff, anc, scope⟩ := h
  obtain rfl : eff = .command q k := he
  rfl

theorem closeEffects_qfence {set : BitVec 4} (he : h.eff = .qfence set) :
    closeEffects s t ctx inst [h] waited = enterFence (s.modCtx t (portsClosed [h] waited)) t set inst := by
  obtain ⟨slot, key, tagged, eff, anc, scope⟩ := h
  obtain rfl : eff = .qfence set := he
  rfl

theorem openEffects_closes (hc : h.eff.closes = true) : openEffects s t ctx [h] = s := by
  obtain ⟨slot, key, tagged, eff, anc, scope⟩ := h
  cases eff with
  | command | sparm | spdis | spskip | qfence => rfl
  | store | stf | stfw | feclr | feset | csrw | binit | barr | fence | flags => exact nomatch hc

theorem openEffects_release (hc : h.eff.closes = false) (hf : ∀ f, h.eff ≠ .flags f) :
    openEffects s t ctx [h] = releaseEffect s t ctx h := by
  obtain ⟨slot, key, tagged, eff, anc, scope⟩ := h
  cases eff with
  | command | sparm | spdis | spskip | qfence => exact nomatch hc
  | flags f => exact absurd rfl (hf f)
  | store | stf | stfw | feclr | feset | csrw | binit | barr | fence => rfl

theorem openEffects_flags {f : BitVec 6} (he : h.eff = .flags f) :
    openEffects s t ctx [h] = s.modCtx t (fun c => { c with fflags := c.fflags ||| f }) := by
  obtain ⟨slot, key, tagged, eff, anc, scope⟩ := h
  obtain rfl : eff = .flags f := he
  rfl

end Steps

/-! ### Registers (R102, R107, R375) -/

/-- Writing registers changes g and k alone. -/
theorem writeRegisters_eq (c : Ctx) (ws : List HeldWr) : ∃ g k, writeRegisters c ws = { c with g := g, k := k } := by
  unfold writeRegisters
  generalize sortBy wrRank ws = ws
  induction ws generalizing c with
  | nil => exact ⟨c.g, c.k, rfl⟩
  | cons w ws ih =>
    rw [List.foldl_cons]
    obtain ⟨g, k, h⟩ := ih (if w.kr then c.setK w.n w.cap else c.setG w.n w.val)
    rw [h]
    unfold Ctx.setG Ctx.setK
    split_ifs
    · exact ⟨_, _, rfl⟩
    · exact ⟨_, _, rfl⟩
    · exact ⟨_, _, rfl⟩

theorem writeCsrs_other (now : Nat) (c : Ctx) {h : Held} (hn : ∀ n w, h.eff ≠ .csrw n w) : writeCsrs now c [h] = c := by
  obtain ⟨slot, key, tagged, eff, anc, scope⟩ := h
  cases eff with
  | csrw n w => exact absurd rfl (hn n w)
  | store | stf | stfw | feclr | feset | binit | barr | fence | flags | command | sparm | spdis | spskip | qfence => rfl

section RegsWritten

variable {s : State} {t : Nat} {c : Ctx}

theorem regsWritten_kept (s : State) (t : Nat) (b : Block) (own : List Held) : Kept s (regsWritten s t b own) :=
  (Kept.modCtx s t _).trans (.ite (fun _ => acquire_kept _ t) (fun _ => .refl _))

theorem ctx_regsWritten (hc : (s.tile t).ctx = some c) (b : Block) (own : List Held) :
    ((regsWritten s t b own).tile t).ctx = some (writeCsrs s.now (writeRegisters c (commitRegs (s.fabric t) b)) own) := by
  have hacquire (u : State) (p : Prop) [Decidable p] : ((if p then acquire u t else u).tile t).ctx = (u.tile t).ctx := by
    split <;> rfl
  unfold regsWritten
  rw [hacquire]
  exact ctx_modCtx hc _

end RegsWritten

/-! ### The commit -/

section Exec

variable {s : State} {t : Nat} {b : Block} {c : Ctx} {e : ExitRec}

/-- The packets that both tiles of a pair form are the same (R84). -/
theorem packetsMatch_formPackets (hc : (s.tile t).ctx = some c) (hlock : c.lock = true → t % 2 = 0) (k : Key) (x : Option ExitRec) :
    packetsMatch (formPackets s t c k x) t c = true := by
  have ht := tile_lt_of_ctx hc
  unfold packetsMatch formPackets State.formPacket pairOf
  cases hl : c.lock with
  | false => rfl
  | true =>
    have heven := hlock hl
    simp [ht, show t + 1 < 192 by omega]

/-- A commit whose pushes need no check and whose pair agrees (R84, R106). -/
theorem exec_blockCommit (hblk : (s.fabric t).blk = some b) (hc : (s.tile t).ctx = some c) (hexit : (s.fabric t).exit = some e)
    (hready : commitReady s t b c = true) (hroom : commitRoom s t b c = true)
    (hpush : (s.fabric t).wrs.filter (fun w => w.push && w.key == none) = []) (hlock : c.lock = true → t % 2 = 0) :
    exec (.blockCommit t) s = .next (commitBlock (formPackets s t c (blockKey b) (some e)) t b c e) := by
  change execBlockCommit t s = _
  have hmatch := packetsMatch_formPackets hc hlock (blockKey b) (some e)
  unfold execBlockCommit
  simp only [hblk, hc, hexit, hready, hroom, Bool.and_self, if_true, hpush]
  change (if packetsMatch (formPackets s t c (blockKey b) (some e)) t c = true then _ else _) = _
  rw [if_pos hmatch]
  rfl

end Exec

end Sys2Proof.Machine
end
section
/-! ## The context through a commit -/

namespace Sys2Proof.Machine

/-! ### A context stays, and stays in or out of a handler -/

/-- A tile's context stays, with INH as it was. -/
structure CtxGoes (t : Nat) (s u : State) : Prop where
  goes : ∀ c, (s.tile t).ctx = some c → ∃ d, (u.tile t).ctx = some d ∧ d.inh = c.inh

namespace CtxGoes

variable {t : Nat} {s u v : State}

theorem refl (s : State) : CtxGoes t s s := ⟨fun c hc => ⟨c, hc, rfl⟩⟩

theorem trans (h : CtxGoes t s u) (k : CtxGoes t u v) : CtxGoes t s v := ⟨fun c hc => by
  obtain ⟨d, hd, hinh⟩ := h.goes c hc
  obtain ⟨x, hx, hinh'⟩ := k.goes d hd
  exact ⟨x, hx, hinh'.trans hinh⟩⟩

theorem of_beside (h : Beside s u) : CtxGoes t s u := ⟨fun c hc => by
  obtain ⟨d, hd, hq⟩ := h.ctx_some hc
  exact ⟨d, hd, show d.quiet.inh = c.quiet.inh from congrArg Ctx.inh hq⟩⟩

theorem of_tiles (h : u.tiles = s.tiles) : CtxGoes t s u := of_beside (.of_tiles h)

theorem modCtx (s : State) (g : Ctx → Ctx) (hg : ∀ c, (g c).inh = c.inh) : CtxGoes t s (s.modCtx t g) :=
  ⟨fun c hc => ⟨g c, ctx_modCtx hc g, hg c⟩⟩

theorem foldl {α : Type} (f : State → α → State) (l : List α) (s : State) (h : ∀ x ∈ l, ∀ u, CtxGoes t u (f u x)) :
    CtxGoes t s (l.foldl f s) := by
  induction l generalizing s with
  | nil => exact refl s
  | cons x xs ih => exact (h x (by simp) s).trans (ih _ (fun y hy => h y (by simp [hy])))

theorem ite {p : Prop} [Decidable p] {a b : State} (ha : p → CtxGoes t s a) (hb : ¬ p → CtxGoes t s b) :
    CtxGoes t s (if p then a else b) := by
  split
  · exact ha ‹_›
  · exact hb ‹_›

end CtxGoes

theorem inh_csrWrite (c : Ctx) (n : Nat) (v : Word) : (csrWrite c n v).inh = c.inh := by
  unfold csrWrite
  split
  case h_11 =>
    dsimp only
    split_ifs <;> rfl
  all_goals rfl

theorem inh_writeRegisters (c : Ctx) (ws : List HeldWr) : (writeRegisters c ws).inh = c.inh := by
  obtain ⟨g, k, h⟩ := writeRegisters_eq c ws
  rw [h]

theorem inh_writeCsrs (now : Nat) (c : Ctx) (es : List Held) : (writeCsrs now c es).inh = c.inh := by
  have hfold (es : List Held) (c : Ctx) : (es.foldl (fun c h => match h.eff with
      | .csrw n v => csrWrite c n v
      | _ => c) c).inh = c.inh := by
    induction es generalizing c with
    | nil => rfl
    | cons h es ih =>
      rw [List.foldl_cons, ih]
      split
      · exact inh_csrWrite ..
      · rfl
  unfold writeCsrs
  dsimp only
  split
  · exact hfold _ c
  · exact hfold _ c

section Goes

variable {t : Nat} (s : State)

theorem regsWritten_goes (b : Block) (own : List Held) : CtxGoes t s (regsWritten s t b own) :=
  (CtxGoes.modCtx s _ (fun _ => (inh_writeCsrs _ _ _).trans (inh_writeRegisters _ _))).trans
    (.ite (fun _ => .of_beside (acquire_beside _ t)) (fun _ => .refl _))

theorem emptyOwn_beside (ctx l : Nat) : Beside s (emptyOwn s t ctx l) := by
  have hempty (p : Place) : Beside s (emptyPlace s p) := (emptyRaw_beside s p).trans (wake_beside _)
  exact .ite (fun _ => hempty _) (fun _ => (fresh_beside s).trans (submit_beside _ _))

theorem emptyLines_beside (ls : List Nat) : Beside s (emptyLines s t ls) := .foldl _ ls s (fun l _ u => emptyOwn_beside u _ l)

theorem enterCommand_goes (q : Nat) (e : QEntry) : CtxGoes t s (enterCommand s t q e) := by
  have hset (u : State) (e : QEntry) : CtxGoes t u (emptyLines (u.modCtx t (fun c => c.setQueue q (c.queue q ++ [e]))) t e.empties) :=
    (CtxGoes.modCtx u _ (fun c => by unfold Ctx.setQueue; split <;> rfl)).trans (.of_beside (emptyLines_beside _ _))
  have harray : CtxGoes t s (if q = 2 then arrayCycle s t else (0, s)).2 := by
    split
    · exact .of_tiles rfl
    · exact .refl s
  unfold enterCommand
  exact harray.trans (hset _ _)

theorem barrierArrive_goes (b : Nat) : CtxGoes t s (barrierArrive s t b) := by
  unfold barrierArrive
  split
  · exact .refl s
  · refine .trans ?_ (.modCtx _ _ ?_)
    · exact .of_tiles rfl
    · exact fun _ => rfl

theorem releaseEffect_goes (ctx : Nat) (h : Held) : CtxGoes t s (releaseEffect s t ctx h) := by
  unfold releaseEffect
  split
  · exact enterCommand_goes s _ _
  · split
    · exact .of_tiles rfl
    · exact .refl s
  · exact (barrierArrive_goes s _).trans (.of_beside (acquire_beside _ t))
  · exact .ite (fun _ => .of_beside (acquire_beside s t)) (fun _ => .refl s)
  case h_10 | h_11 | h_12 | h_13 | h_14 | h_15 => exact .refl s
  all_goals exact .of_beside (releaseStore_beside ..)

theorem openEffects_goes (ctx : Nat) (own : List Held) : CtxGoes t s (openEffects s t ctx own) := by
  refine .trans (.foldl _ _ s (fun h _ u => releaseEffect_goes u ctx h)) (.foldl _ _ _ (fun h _ u => ?_))
  split
  · exact .modCtx u _ (by intro _; rfl)
  · exact .refl u

theorem releasePort_goes (h : Held) : CtxGoes t s (releasePort s t h) := by
  have hdrop (p : Nat) : CtxGoes t s (dropPort s t p) := .of_tiles rfl
  unfold releasePort
  split
  · exact (hdrop _).trans (.modCtx _ _ (by intro _; rfl))
  · exact (hdrop _).trans (.modCtx _ _ (by intro _; rfl))
  · exact (hdrop _).trans (.modCtx _ _ (by intro _; rfl))
  · exact .refl s

theorem enterFence_goes (set : BitVec 4) (inst : Nat) : CtxGoes t s (enterFence s t set inst) := by
  refine .trans (.of_beside (fresh_beside s)) (.foldl _ _ _ (fun q _ u => ?_))
  exact .ite (fun _ => .modCtx u _ (fun c => by unfold Ctx.setQueue; split <;> rfl)) (fun _ => .refl u)

theorem closeEffects_goes (ctx inst : Nat) (own : List Held) (waited : Bool) :
    CtxGoes t s (closeEffects s t ctx inst own waited) := by
  have hports : CtxGoes t s (s.modCtx t (portsClosed own waited)) := .modCtx s _ (fun _ => rfl)
  have hclosed := hports.trans (.foldl (fun s h => releasePort s t h) (sortBy (fun h => h.slot) own) _
    (fun h _ u => releasePort_goes u h))
  have hentered := hclosed.trans (.foldl (fun s h => releaseEffect s t ctx h) (sortBy (fun h => h.slot) (own.filter isCommand)) _
    (fun h _ u => releaseEffect_goes u ctx h))
  refine hentered.trans (.foldl _ _ _ (fun h _ u => ?_))
  split
  · exact enterFence_goes u _ inst
  · exact .refl u

end Goes

end Sys2Proof.Machine
end
section
/-! ## What a commit does, by its held effect (R84, R107) -/

namespace Sys2Proof.Machine

/-! ### Leaving the fabric -/

/-- A context without what the end of its block and its exit change: where it goes on, what it resumes, its replay buffer and
its g registers, of which a call writes g55. -/
def Ctx.carried (c : Ctx) : Ctx :=
  { c with g := Vector.replicate 64 0, phase := .ended, pc := 0, via := .any, inh := false, haltedEntry := false, stopV := false,
           stopM := false, atomics := [], handlerResume := none, handlerHeld := [], replay := [], resume := none, heldVals := [],
           heldv := [] }

/-- The block ends, and its exit is taken (R107). -/
def leaveFabric (s : State) (t : Nat) (b : Block) (e : ExitRec) : State := takeExit (endBlock s t) t b.supervisor e

theorem carried_closedCtx (c : Ctx) : (closedCtx c).carried = c.carried := by
  unfold closedCtx
  dsimp only
  split <;> rfl

theorem inh_closedCtx (c : Ctx) : (closedCtx c).inh = c.inh := by
  unfold closedCtx
  dsimp only
  split <;> rfl

theorem carried_leadsTo (a : Word) (link : Option Word) (sup : Bool) (c : Ctx) : (leadsTo a link sup c).carried = c.carried := by
  cases link with
  | none => rfl
  | some r => unfold leadsTo Ctx.setG; rfl

theorem carried_returned (c : Ctx) : (returned c).carried = c.carried := by
  unfold returned returnFromTrap
  split <;> rfl

section Leave

variable {s : State} {t : Nat} {c : Ctx} {b : Block} {e : ExitRec}

theorem takeExit_carries (hc : (s.tile t).ctx = some c) (hhalt : e.dest = .halt → c.inh = false) (sup : Bool) :
    ∃ v, ((takeExit s t sup e).tile t).ctx = some v ∧ v.carried = c.carried := by
  cases hdest : e.dest with
  | block a link =>
    rw [takeExit_block hdest, ctx_modCtx hc]
    exact ⟨_, rfl, carried_leadsTo a link sup c⟩
  | halt =>
    rw [takeExit_halt hdest hc (hhalt hdest), ctx_modCtx hc]
    exact ⟨_, rfl, rfl⟩
  | tret =>
    have hc' : ((dropPorts s t).tile t).ctx = some c := hc
    rw [takeExit_tret hdest, ctx_modCtx hc']
    exact ⟨_, rfl, carried_returned c⟩

/-- Leaving the fabric keeps what a context carries, and shares, mailboxes and host memory. -/
theorem leaveFabric_carries (hc : (s.tile t).ctx = some c) (hhalt : e.dest = .halt → c.inh = false) :
    Kept s (leaveFabric s t b e) ∧ (leaveFabric s t b e).fabric t = Fabric.reset ∧
      ∃ v, ((leaveFabric s t b e).tile t).ctx = some v ∧ v.carried = c.carried := by
  obtain ⟨hctx, hfab⟩ := endBlock_face hc
  have hhalt' : e.dest = .halt → (closedCtx c).inh = false := fun h => (inh_closedCtx c).trans (hhalt h)
  obtain ⟨v, hv, hcarried⟩ := takeExit_carries hctx hhalt' b.supervisor
  obtain ⟨-, -, hreset, -⟩ := takeExit_face hctx hfab b.supervisor e
  refine ⟨(endBlock_kept s t).trans (takeExit_kept _ t _ e (fun h d hd => ?_)), hreset, v, hv, hcarried.trans (carried_closedCtx c)⟩
  rw [hctx] at hd
  exact Option.some.inj hd ▸ hhalt' h

end Leave

/-! ### The commit of a block without a system call -/

section Commit

variable {s : State} {t : Nat} {b : Block} {c : Ctx} {e : ExitRec}

theorem tile_freeCtr (s : State) (n y : Nat) : State.tile { s with freeCtr := n } y = s.tile y := rfl

/-- A disturbed fabric has no system call, and no push, that it did not have before (R120). -/
theorem disturb_fabric (ht : t < 192) (hsys : (s.fabric t).sys = []) (hpush : ∀ w ∈ (s.fabric t).wrs, w.push = false) :
    ((disturb s t).fabric t).sys = [] ∧ ∀ w ∈ ((disturb s t).fabric t).wrs, w.push = false := by
  unfold disturb
  dsimp only
  split
  · exact ⟨hsys, hpush⟩
  · unfold State.fabric
    rw [tile_freeCtr, State.modFabric, State.tile_modTile_same _ _ _ ht]
    unfold State.fabric at hsys hpush
    refine ⟨by simp [hsys], fun w hw => ?_⟩
    obtain ⟨⟨v, i⟩, hv, rfl⟩ := List.mem_map.mp hw
    exact hpush v (List.fst_mem_of_mem_zipIdx hv)

theorem commitBlock_eq (hsys : ((disturbToybox s t (blockKey b)).fabric t).sys = []) :
    commitBlock s t b c e =
      leaveFabric (commitEffects (disturbToybox s t (blockKey b)) t b c
        (((disturbToybox s t (blockKey b)).fabric t).held.filter (fun h => h.key == blockKey b))) t b e := by
  unfold commitBlock
  dsimp only
  rw [hsys]
  rfl

theorem disturbToybox_of_unmapped (k : Key) (h : (s.fabric t).held.any (fun h => h.key == k && writesToybox t h) = false) :
    disturbToybox s t k = s := by
  rw [disturbToybox, h]
  rfl

end Commit

end Sys2Proof.Machine
end
section
/-! ## Each kind of held effect at a commit (R209, R285, R371, R375) -/

namespace Sys2Proof.Machine

section Kinds

variable {s u : State} {t : Nat} {b : Block} {c v : Ctx} {e : ExitRec} {h : Held}

/-- Nothing is pushed. -/
def NoPush (s : State) (t : Nat) : Prop := ∀ w ∈ (s.fabric t).wrs, w.push = false

theorem no_pushes {ws : List HeldWr} (hpush : ∀ w ∈ ws, w.push = false) (p : HeldWr → Bool) : ws.filter (fun w => w.push && p w) = [] :=
  List.filter_eq_nil_iff.mpr (fun w hw => by simp [hpush w hw])

theorem commitEffects_one (hpush : NoPush s t) (own : List Held) :
    commitEffects s t b c own = closeEffects (openEffects (regsWritten s t b own) t c.id own) t c.id (s.fabric t).inst own
      (hasBwait (s.fabric t) b) := by
  rw [commitEffects_eq, no_pushes hpush]
  rfl

theorem commitEffects_goes (hpush : NoPush s t) (own : List Held) : CtxGoes t s (commitEffects s t b c own) := by
  rw [commitEffects_one hpush]
  exact (regsWritten_goes s b own).trans ((openEffects_goes _ _ own).trans (closeEffects_goes _ _ _ own _))

/-- An effect that is released before the ports are committed. -/
theorem commitEffects_early (hpush : NoPush s t) (hc : h.eff.closes = false) (hf : ∀ f, h.eff ≠ .flags f) :
    commitEffects s t b c [h] =
      (releaseEffect (regsWritten s t b [h]) t c.id h).modCtx t (portsClosed [h] (hasBwait (s.fabric t) b)) := by
  rw [commitEffects_one hpush, openEffects_release _ _ _ _ hc hf, closeEffects_quiet _ _ _ _ _ _ hc]

/-- What the context of a committed block carries, by the one before it leaves the fabric. -/
theorem carried_of_leave {y : State} {d : Ctx} (hd : (y.tile t).ctx = some d) (hhalt : e.dest = .halt → d.inh = false)
    (hv : ((leaveFabric y t b e).tile t).ctx = some v) : v.carried = d.carried := by
  obtain ⟨-, -, w, hw, hcarried⟩ := leaveFabric_carries (b := b) hd hhalt
  exact Option.some.inj (hv.symm.trans hw) ▸ hcarried

theorem ports_of_carried {d : Ctx} (h : v.carried = d.carried) (p : Nat) : v.port p = d.port p :=
  show v.carried.port p = d.carried.port p from congrArg (fun x : Ctx => x.port p) h

theorem queue_of_carried {d : Ctx} (h : v.carried = d.carried) (q : Nat) : v.queue q = d.queue q := by
  have hqueue : v.carried.queue q = d.carried.queue q := congrArg (fun x : Ctx => x.queue q) h
  unfold Ctx.queue at hqueue ⊢
  exact hqueue

/-- The registers of a context whose WRs are written, where the block's effect is no CSRW. -/
theorem ctx_regsWritten_other (hc : (s.tile t).ctx = some c) (hn : ∀ n w, h.eff ≠ .csrw n w) :
    ∃ g k, ((regsWritten s t b [h]).tile t).ctx = some { c with g := g, k := k } := by
  obtain ⟨g, k, hregs⟩ := writeRegisters_eq c (commitRegs (s.fabric t) b)
  exact ⟨g, k, by rw [ctx_regsWritten hc, writeCsrs_other _ _ hn, hregs]⟩

/-! ### Supervisor registers (R298, R375) -/

theorem csrWrite_fields (c : Ctx) (n : Nat) (w : Word) :
    let v := csrWrite c n w
    v.tcause = (if n = 0x000 then w.toNat % 128 else c.tcause) ∧ v.tblk = (if n = 0x001 then w else c.tblk) ∧
    v.tslot = (if n = 0x002 then w.toNat % 256 else c.tslot) ∧ v.ttag = (if n = 0x003 then w.setWidth 32 else c.ttag) ∧
    v.tinfo0 = (if n = 0x004 then w else c.tinfo0) ∧ v.tinfo1 = (if n = 0x005 then w else c.tinfo1) ∧
    v.tvec = (if n = 0x006 then w &&& ~~~0x3F#64 else c.tvec) ∧
    v.treta = (if n = 0x007 then w &&& ~~~0x3F#64 else c.treta) ∧
    v.fflags = (if n = 0x009 then w.setWidth 6 else c.fflags) ∧
    v.keys = (if n = 0x021 then w.setWidth 16 &&& 0xFFFE else c.keys) ∧
    v.flagsAt = c.flagsAt ∧ v.flagsNow = c.flagsNow := by
  generalize hv : csrWrite c n w = v
  unfold csrWrite at hv
  dsimp only
  split at hv
  case h_11 =>
    dsimp only at hv
    split_ifs at hv <;> subst hv <;> exact ⟨rfl, rfl, rfl, rfl, rfl, rfl, rfl, rfl, rfl, rfl, rfl, rfl⟩
  case h_13 h0 h1 h2 h3 h4 h5 h6 h7 h9 _ _ h21 =>
    subst hv
    exact ⟨(if_neg h0).symm, (if_neg h1).symm, (if_neg h2).symm, (if_neg h3).symm, (if_neg h4).symm, (if_neg h5).symm,
      (if_neg h6).symm, (if_neg h7).symm, (if_neg h9).symm, (if_neg h21).symm, rfl, rfl⟩
  all_goals
    subst hv
    exact ⟨rfl, rfl, rfl, rfl, rfl, rfl, rfl, rfl, rfl, rfl, rfl, rfl⟩

theorem writeCsrs_one (now : Nat) (c : Ctx) {n : Nat} {w : Word} (he : h.eff = .csrw n w) : writeCsrs now c [h] =
    if n == 0x009 && c.flagsAt == now then { csrWrite c n w with fflags := (csrWrite c n w).fflags ||| c.flagsNow }
    else csrWrite c n w := by
  obtain ⟨slot, key, tagged, eff, anc, scope⟩ := h
  obtain rfl : eff = .csrw n w := he
  simp only [writeCsrs, List.any_cons, List.any_nil, Bool.or_false]
  rfl

/-- A CSRW writes its register (R298, R375), and a write of FFLAGS leaves the flags raised at the same moment (R263, R415). -/
theorem writeCsrs_fields (now : Nat) (c : Ctx) {n : Nat} {w : Word} (he : h.eff = .csrw n w) :
    let v := writeCsrs now c [h]
    v.tcause = (if n = 0x000 then w.toNat % 128 else c.tcause) ∧ v.tblk = (if n = 0x001 then w else c.tblk) ∧
    v.tslot = (if n = 0x002 then w.toNat % 256 else c.tslot) ∧ v.ttag = (if n = 0x003 then w.setWidth 32 else c.ttag) ∧
    v.tinfo0 = (if n = 0x004 then w else c.tinfo0) ∧ v.tinfo1 = (if n = 0x005 then w else c.tinfo1) ∧
    v.tvec = (if n = 0x006 then w &&& ~~~0x3F#64 else c.tvec) ∧
    v.treta = (if n = 0x007 then w &&& ~~~0x3F#64 else c.treta) ∧
    v.fflags = (if n = 0x009 then w.setWidth 6 ||| (if c.flagsAt = now then c.flagsNow else 0) else c.fflags) ∧
    v.keys = (if n = 0x021 then w.setWidth 16 &&& 0xFFFE else c.keys) := by
  obtain ⟨hcause, hblk, hslot, htag, hinfo0, hinfo1, htvec, htreta, hflags, hkeys, -, -⟩ := csrWrite_fields c n w
  rw [writeCsrs_one now c he]
  by_cases h9 : n = 0x009
  · by_cases hat : c.flagsAt = now
    · rw [if_pos (by simp [h9, hat])]
      refine ⟨hcause, hblk, hslot, htag, hinfo0, hinfo1, htvec, htreta, ?_, hkeys⟩
      change (csrWrite c n w).fflags ||| c.flagsNow = _
      rw [hflags, if_pos h9, if_pos h9, if_pos hat]
    · rw [if_neg (by simp [hat])]
      refine ⟨hcause, hblk, hslot, htag, hinfo0, hinfo1, htvec, htreta, ?_, hkeys⟩
      rw [hflags, if_pos h9, if_pos h9, if_neg hat]
      exact (BitVec.or_zero (x := w.setWidth 6)).symm
  · rw [if_neg (by simp [h9])]
    refine ⟨hcause, hblk, hslot, htag, hinfo0, hinfo1, htvec, htreta, ?_, hkeys⟩
    simp only [hflags, h9, if_false]

theorem releaseEffect_inert (s : State) (t ctx : Nat) (he : ∃ n w, h.eff = .csrw n w) : releaseEffect s t ctx h = s := by
  obtain ⟨n, w, he⟩ := he
  unfold releaseEffect
  simp only [he]

theorem releaseEffect_fence (s : State) (t ctx : Nat) {kinds : BitVec 4} {n : Nat} (he : h.eff = .fence kinds n) :
    releaseEffect s t ctx h = if kinds.getLsbD 0 then acquire s t else s := by
  unfold releaseEffect
  simp only [he]

theorem fenceKinds_fence {kinds : BitVec 4} {n : Nat} (he : h.eff = .fence kinds n) : fenceKinds [h] = kinds := by
  obtain ⟨slot, key, tagged, eff, anc, scope⟩ := h
  obtain rfl : eff = .fence kinds n := he
  exact BitVec.zero_or

/-- After an acquire nothing is read ahead for the tile (R292). -/
theorem ahead_acquire (s : State) (t : Nat) : ∀ p ∈ (acquire s t).ahead, p.tile ≠ t := by
  intro p hp
  simpa using (List.mem_filter.mp hp).2

theorem Stable.modRegion {s : State} (h : Stable s) (l r : Nat) (g : Region → Region) : Stable (s.modRegion l r g) :=
  ⟨h.pend, h.reserved, h.tile, h.host, h.tenant⟩

theorem releaseEffect_binit (s : State) (t ctx : Nat) {k : Nat} {n : Word} (he : h.eff = .binit k n)
    (hc : (s.tile t).ctx = some c) : releaseEffect s t ctx h = s.modRegion c.launch c.region (fun r => barrierCount r k n) := by
  unfold releaseEffect
  simp only [he, hc]

theorem barrierCount_bars {r : Region} {k : Nat} {old : Barrier} (hold : r.bars[k]? = some old) (n : Word) :
    (barrierCount r k n).bars[k]? = some { old with count :=
      if n = 0 then r.nodes.length else if n.toNat ≤ 48 then n.toNat else old.count } := by
  obtain ⟨hk, -⟩ := Vector.getElem?_eq_some_iff.mp hold
  unfold barrierCount
  rw [hold]
  simp [hk]

/-- A region at one of whose barriers a node has arrived (R85, R371). -/
def arrived (node k phase : Nat) (r : Region) : Region :=
  let old := r.bars[k]?.getD (Barrier.reset 0)
  { r with bars := r.bars.setIfInBounds k { old with arrivals := old.arrivals + 1 }, arrived := (node, k, phase) :: r.arrived }

/-- A context that has arrived at a barrier in a phase. -/
def arrives (k phase : Nat) (c : Ctx) : Ctx := { c with arrival := c.arrival.setIfInBounds k (some phase) }

theorem arrived_bars {r : Region} {node k phase : Nat} {old : Barrier} (hold : r.bars[k]? = some old) :
    (arrived node k phase r).bars[k]? = some { old with arrivals := old.arrivals + 1 } := by
  obtain ⟨hk, -⟩ := Vector.getElem?_eq_some_iff.mp hold
  unfold arrived
  rw [hold]
  simp [hk]

theorem releaseEffect_barr (s : State) (t ctx : Nat) {k : Nat} (he : h.eff = .barr k) :
    releaseEffect s t ctx h = acquire (barrierArrive s t k) t := by
  unfold releaseEffect
  simp only [he]

theorem barrierArrive_eq {g : Vector Word 64} {m : Vector CapReg 16} {k : Nat} {r : Region} {old : Barrier}
    (hc : (s.tile t).ctx = some { c with g := g, k := m }) (hr : s.regionOf c.launch c.region = some r) (hold : r.bars[k]? = some old) :
    barrierArrive s t k = (s.modRegion c.launch c.region (arrived c.node k old.phase)).modCtx t (arrives k old.phase) := by
  have hphase : (s.barrierOf { c with g := g, k := m } k).phase = old.phase := by
    unfold State.barrierOf
    simp only [hr, hold]
    rfl
  unfold barrierArrive
  simp only [hc, hphase]
  rfl

theorem queue_setQueue (c : Ctx) {q p : Nat} (hq : q < 4) (hp : p < 4) (es : List QEntry) :
    (c.setQueue q es).queue p = if p = q then es else c.queue p := by
  interval_cases q <;> interval_cases p <;> rfl

/-- Where each queue of some of a context's has been given an entry. -/
theorem foldl_queues {s : State} {t : Nat} {c : Ctx} (hc : (s.tile t).ctx = some c) (set : BitVec 4) (e : QEntry) (qs : List Nat)
    (hqs : ∀ q ∈ qs, q < 4) (hd : qs.Nodup) :
    ∃ d, ((qs.foldl (fun s q => if set.getLsbD q then s.modCtx t (fun c => c.setQueue q (c.queue q ++ [e])) else s) s).tile t).ctx = some d ∧
      ∀ q, q < 4 → d.queue q = if q ∈ qs ∧ set.getLsbD q then c.queue q ++ [e] else c.queue q := by
  induction qs generalizing s c with
  | nil => exact ⟨c, hc, fun _ _ => by simp⟩
  | cons x xs ih =>
    obtain ⟨hx, hxs⟩ := List.nodup_cons.mp hd
    have hlt := hqs x (by simp)
    rw [List.foldl_cons]
    by_cases hset : set.getLsbD x = true
    · rw [if_pos hset]
      obtain ⟨d, hd, hqueues⟩ := ih (ctx_modCtx hc _) (fun q hq => hqs q (by simp [hq])) hxs
      refine ⟨d, hd, fun q hq => ?_⟩
      rw [hqueues q hq, queue_setQueue c hlt hq]
      by_cases hqx : q = x
      · subst hqx
        simp [hx, hset]
      · simp [hqx]
    · rw [if_neg hset]
      obtain ⟨d, hd, hqueues⟩ := ih hc (fun q hq => hqs q (by simp [hq])) hxs
      refine ⟨d, hd, fun q hq => ?_⟩
      rw [hqueues q hq]
      by_cases hqx : q = x
      · subst hqx
        simp [hset]
      · simp [hqx]

theorem enterFence_queues {s : State} {t : Nat} {c : Ctx} (hc : (s.tile t).ctx = some c) (set : BitVec 4) (inst : Nat) :
    ∃ id d, ((enterFence s t set inst).tile t).ctx = some d ∧
      ∀ q, q < 4 → d.queue q = if set.getLsbD q then c.queue q ++ [fenceEntry id set inst] else c.queue q := by
  obtain ⟨d, hd, hqueues⟩ := foldl_queues (s := s.fresh.2) hc set (fenceEntry s.fresh.1 set inst) [0, 1, 2, 3] (by decide) (by decide)
  refine ⟨s.fresh.1, d, hd, fun q hq => ?_⟩
  rw [hqueues q hq]
  have hmem : q ∈ [0, 1, 2, 3] := by interval_cases q <;> decide
  simp [hmem]

section Leaves

variable (hc : (s.tile t).ctx = some c) (hpush : NoPush s t) (hhalt : e.dest = .halt → c.inh = false)

include hc hpush hhalt

theorem leave_kept : Kept (commitEffects s t b c [h]) (leaveFabric (commitEffects s t b c [h]) t b e) := by
  obtain ⟨d, hd, hinh⟩ := (commitEffects_goes (c := c) (b := b) hpush [h]).goes c hc
  exact (leaveFabric_carries hd (fun h => hinh.trans (hhalt h))).1

variable (hv : ((leaveFabric (commitEffects s t b c [h]) t b e).tile t).ctx = some v)

include hv

/-- What the context of a committed block carries, by the one that the block's effect has left. -/
theorem carried_of_commit {d : Ctx} (hd : ((commitEffects s t b c [h]).tile t).ctx = some d) : v.carried = d.carried := by
  obtain ⟨d', hd', hinh⟩ := (commitEffects_goes hpush [h]).goes c hc
  obtain rfl := Option.some.inj (hd.symm.trans hd')
  exact carried_of_leave hd (fun h => hinh.trans (hhalt h)) hv

theorem commit_csrw {n : Nat} {w : Word} (he : h.eff = .csrw n w) :
    v.tcause = (if n = 0x000 then w.toNat % 128 else c.tcause) ∧ v.tblk = (if n = 0x001 then w else c.tblk) ∧
    v.tslot = (if n = 0x002 then w.toNat % 256 else c.tslot) ∧ v.ttag = (if n = 0x003 then w.setWidth 32 else c.ttag) ∧
    v.tinfo0 = (if n = 0x004 then w else c.tinfo0) ∧ v.tinfo1 = (if n = 0x005 then w else c.tinfo1) ∧
    v.tvec = (if n = 0x006 then w &&& ~~~0x3F#64 else c.tvec) ∧
    v.treta = (if n = 0x007 then w &&& ~~~0x3F#64 else c.treta) ∧
    v.fflags = (if n = 0x009 then w.setWidth 6 ||| (if c.flagsAt = s.now then c.flagsNow else 0) else c.fflags) ∧
    v.keys = (if n = 0x021 then w.setWidth 16 &&& 0xFFFE else c.keys) := by
  obtain ⟨g, k, hregs⟩ := writeRegisters_eq c (commitRegs (s.fabric t) b)
  have hctx : ((commitEffects s t b c [h]).tile t).ctx =
      some (portsClosed [h] (hasBwait (s.fabric t) b) (writeCsrs s.now { c with g := g, k := k } [h])) := by
    rw [commitEffects_early hpush (by rw [he]; rfl) (fun f hf => (nomatch he.symm.trans hf)), releaseEffect_inert _ _ _ ⟨n, w, he⟩]
    exact ctx_modCtx (hregs ▸ ctx_regsWritten hc b [h]) _
  have hcarried := carried_of_commit hc hpush hhalt hv hctx
  obtain ⟨hcause, hblk, hslot, htag, hinfo0, hinfo1, htvec, htreta, hflags, hkeys⟩ :=
    writeCsrs_fields s.now { c with g := g, k := k } he
  exact ⟨(congrArg Ctx.tcause hcarried :).trans hcause, (congrArg Ctx.tblk hcarried :).trans hblk,
    (congrArg Ctx.tslot hcarried :).trans hslot, (congrArg Ctx.ttag hcarried :).trans htag,
    (congrArg Ctx.tinfo0 hcarried :).trans hinfo0, (congrArg Ctx.tinfo1 hcarried :).trans hinfo1,
    (congrArg Ctx.tvec hcarried :).trans htvec, (congrArg Ctx.treta hcarried :).trans htreta,
    (congrArg Ctx.fflags hcarried :).trans hflags, (congrArg Ctx.keys hcarried :).trans hkeys⟩

/-! ### Flags and fences (R227, R263) -/

theorem commit_flags {f : BitVec 6} (he : h.eff = .flags f) : v.fflags = c.fflags ||| f := by
  obtain ⟨g, k, hregs⟩ := ctx_regsWritten_other (b := b) hc (h := h) (fun n w hn => (nomatch he.symm.trans hn))
  have hctx : ∃ d, ((commitEffects s t b c [h]).tile t).ctx = some d ∧ d.fflags = c.fflags ||| f := by
    rw [commitEffects_one hpush, openEffects_flags _ _ _ _ he, closeEffects_quiet _ _ _ _ _ _ (by rw [he]; rfl)]
    exact ⟨_, ctx_modCtx (ctx_modCtx hregs _) _, rfl⟩
  obtain ⟨d, hd, hflags⟩ := hctx
  exact (congrArg Ctx.fflags (carried_of_commit hc hpush hhalt hv hd) :).trans hflags

theorem commit_fence (hs : Stable s) {kinds : BitVec 4} {n : Nat} (he : h.eff = .fence kinds n) :
    (kinds.getLsbD 0 = true → ∀ p ∈ (leaveFabric (commitEffects s t b c [h]) t b e).ahead, p.tile ≠ t) ∧
      (kinds.getLsbD 1 = true → v.fenced = true) := by
  obtain ⟨g, k, hregs⟩ := ctx_regsWritten_other (b := b) hc (h := h) (fun n w hn => (nomatch he.symm.trans hn))
  have heq : commitEffects s t b c [h] = (if kinds.getLsbD 0 then acquire (regsWritten s t b [h]) t else regsWritten s t b [h]).modCtx t
      (portsClosed [h] (hasBwait (s.fabric t) b)) := by
    rw [commitEffects_early hpush (by rw [he]; rfl) (fun f hf => (nomatch he.symm.trans hf)), releaseEffect_fence _ _ _ he]
  have hkept : Kept s (commitEffects s t b c [h]) := by
    rw [heq]
    exact (regsWritten_kept s t b [h]).trans (.trans (.ite (fun _ => acquire_kept _ t) (fun _ => .refl _)) (.modCtx _ t _))
  have hctx : ((commitEffects s t b c [h]).tile t).ctx =
      some (portsClosed [h] (hasBwait (s.fabric t) b) { c with g := g, k := k }) := by
    rw [heq]
    refine ctx_modCtx ?_ _
    split <;> exact hregs
  have hleave := leave_kept (b := b) (h := h) hc hpush hhalt
  refine ⟨fun hld p hp => ?_, fun hst => ?_⟩
  · have hp' := (hleave.share ((hkept.share hs).stable hs)).ahead p hp
    rw [heq, if_pos hld] at hp'
    exact ahead_acquire (regsWritten s t b [h]) t p hp'
  · refine (congrArg Ctx.fenced (carried_of_commit hc hpush hhalt hv hctx) :).trans ?_
    change ((fenceKinds [h]).getLsbD 1 || _) = true
    rw [fenceKinds_fence he, hst]
    rfl

/-! ### Barriers (R85, R371) -/

omit hv in
theorem commit_binit (hs : Stable s) {k : Nat} {n : Word} {r : Region} {old : Barrier} (he : h.eff = .binit k n)
    (hr : s.regionOf c.launch c.region = some r) (hold : r.bars[k]? = some old) :
    ∃ y, (leaveFabric (commitEffects s t b c [h]) t b e).regionOf c.launch c.region = some y ∧ y.bars[k]? = some { old with count :=
      if n = 0 then r.nodes.length else if n.toNat ≤ 48 then n.toNat else old.count } := by
  obtain ⟨g, m, hregs⟩ := ctx_regsWritten_other (b := b) hc (h := h) (fun n w hn => (nomatch he.symm.trans hn))
  have hwritten := (regsWritten_kept s t b [h]).share hs
  have heq : commitEffects s t b c [h] = ((regsWritten s t b [h]).modRegion c.launch c.region (fun r => barrierCount r k n)).modCtx t
      (portsClosed [h] (hasBwait (s.fabric t) b)) := by
    rw [commitEffects_early hpush (by rw [he]; rfl) (fun f hf => (nomatch he.symm.trans hf)), releaseEffect_binit _ _ _ he hregs]
  have hstable : Stable (commitEffects s t b c [h]) := by
    rw [heq]
    exact ((Kept.modCtx _ t _).share ((hwritten.stable hs).modRegion _ _ _)).stable ((hwritten.stable hs).modRegion _ _ _)
  have hleave := ((leave_kept (b := b) (h := h) hc hpush hhalt).share hstable).launches
  refine ⟨barrierCount r k n, ?_, barrierCount_bars hold n⟩
  rw [regionOf_congr hleave, heq, regionOf_congr (State.modCtx_launches _ _ _), regionOf_modRegion _ _ _ _ _ _ (by intro _; rfl),
    regionOf_congr hwritten.launches, hr]
  simp

/-- BARR arrives at its barrier, as an acquire (R85, R371, R372). -/
theorem commit_barr (hs : Stable s) {k : Nat} {r : Region} {old : Barrier} (he : h.eff = .barr k)
    (hr : s.regionOf c.launch c.region = some r) (hold : r.bars[k]? = some old) :
    v.arrival[k]? = some (some old.phase) ∧ (∀ p ∈ (leaveFabric (commitEffects s t b c [h]) t b e).ahead, p.tile ≠ t) ∧
      ∃ y, (leaveFabric (commitEffects s t b c [h]) t b e).regionOf c.launch c.region = some y ∧
        y.bars[k]? = some { old with arrivals := old.arrivals + 1 } := by
  obtain ⟨g, m, hregs⟩ := ctx_regsWritten_other (b := b) hc (h := h) (fun n w hn => (nomatch he.symm.trans hn))
  have hwritten := (regsWritten_kept s t b [h]).share hs
  have hregion : (regsWritten s t b [h]).regionOf c.launch c.region = some r := (regionOf_congr hwritten.launches _ _).trans hr
  have heq : commitEffects s t b c [h] = (acquire (((regsWritten s t b [h]).modRegion c.launch c.region (arrived c.node k old.phase)).modCtx t
      (arrives k old.phase)) t).modCtx t (portsClosed [h] (hasBwait (s.fabric t) b)) := by
    rw [commitEffects_early hpush (by rw [he]; rfl) (fun f hf => (nomatch he.symm.trans hf)), releaseEffect_barr _ _ _ he,
      barrierArrive_eq hregs hregion hold]
  have hmoved := (hwritten.stable hs).modRegion c.launch c.region (arrived c.node k old.phase)
  have hrest : Kept ((regsWritten s t b [h]).modRegion c.launch c.region (arrived c.node k old.phase)) (commitEffects s t b c [h]) := by
    rw [heq]
    exact (Kept.modCtx _ t _).trans ((acquire_kept _ t).trans (.modCtx _ t _))
  have hshare := (hrest.trans (leave_kept (b := b) (h := h) hc hpush hhalt)).share hmoved
  have hstable := (hrest.share hmoved).stable hmoved
  refine ⟨?_, fun p hp => ?_, arrived c.node k old.phase r, ?_, arrived_bars hold⟩
  · have hctx : ((commitEffects s t b c [h]).tile t).ctx =
        some (portsClosed [h] (hasBwait (s.fabric t) b) (arrives k old.phase { c with g := g, k := m })) := by
      rw [heq]
      exact ctx_modCtx (ctx_modCtx (c := { c with g := g, k := m }) hregs _) _
    have harrival := (congrArg Ctx.arrival (carried_of_commit hc hpush hhalt hv hctx) :)
    obtain ⟨hk, -⟩ := Vector.getElem?_eq_some_iff.mp hold
    refine (congrArg (fun x : Vector (Option Nat) 4 => x[k]?) harrival).trans ?_
    change (c.arrival.setIfInBounds k (some old.phase))[k]? = _
    simp [hk]
  · have hp' := ((leave_kept (b := b) (h := h) hc hpush hhalt).share hstable).ahead p hp
    rw [heq] at hp'
    exact ahead_acquire _ t p hp'
  · rw [regionOf_congr hshare.launches, regionOf_modRegion _ _ _ _ _ _ (by intro _; rfl), hregion]
    simp

/-! ### Ports (R283, R285) -/

/-- A port change is made once the ports' positions are committed. -/
theorem commit_port (hcl : h.eff.closes = true) (hcmd : isCommand h = false) (hf : ∀ set, h.eff ≠ .qfence set) {p : Nat}
    {f : SPort → SPort} (hrel : ∀ x, releasePort x t h = (dropPort x t p).modCtx t (fun c => c.modPort p f)) (hp : p < 8) :
    v.port p = f { c.port p with com := (c.port p).work } := by
  have hn : ∀ n w, h.eff ≠ .csrw n w := fun n w hn => by rw [hn] at hcl; exact nomatch hcl
  obtain ⟨g, m, hregs⟩ := ctx_regsWritten_other (b := b) hc (h := h) hn
  have heq : commitEffects s t b c [h] = (dropPort ((regsWritten s t b [h]).modCtx t (portsClosed [h] (hasBwait (s.fabric t) b))) t p).modCtx t
      (fun c => c.modPort p f) := by
    rw [commitEffects_one hpush, openEffects_closes _ _ _ _ hcl, closeEffects_port _ _ _ _ _ _ hcmd hf, hrel]
  have hclosed : ((dropPort ((regsWritten s t b [h]).modCtx t (portsClosed [h] (hasBwait (s.fabric t) b))) t p).tile t).ctx =
      some (portsClosed [h] (hasBwait (s.fabric t) b) { c with g := g, k := m }) := ctx_modCtx hregs _
  have hctx := heq ▸ ctx_modCtx hclosed (fun c => c.modPort p f)
  rw [ports_of_carried (carried_of_commit hc hpush hhalt hv hctx)]
  simp [Ctx.port, Ctx.modPort, portsClosed, hp]

/-! ### Queues (R107, R209) -/

/-- A queue fence enters every queue of its set behind what stands there (R209). -/
theorem commit_qfence {set : BitVec 4} (he : h.eff = .qfence set) : ∃ id, ∀ q, q < 4 → v.queue q =
    if set.getLsbD q then c.queue q ++ [fenceEntry id set (s.fabric t).inst] else c.queue q := by
  obtain ⟨g, m, hregs⟩ := ctx_regsWritten_other (b := b) hc (h := h) (fun n w hn => (nomatch he.symm.trans hn))
  have heq : commitEffects s t b c [h] = enterFence ((regsWritten s t b [h]).modCtx t (portsClosed [h] (hasBwait (s.fabric t) b))) t set
      (s.fabric t).inst := by
    rw [commitEffects_one hpush, openEffects_closes _ _ _ _ (by rw [he]; rfl), closeEffects_qfence _ _ _ _ _ _ he]
  obtain ⟨id, d, hd, hqueues⟩ := enterFence_queues (ctx_modCtx hregs (portsClosed [h] (hasBwait (s.fabric t) b))) set (s.fabric t).inst
  refine ⟨id, fun q hq => ?_⟩
  rw [queue_of_carried (carried_of_commit hc hpush hhalt hv (heq ▸ hd)), hqueues q hq]
  rfl

end Leaves

end Kinds

end Sys2Proof.Machine
end
section
/-! ## The commit of a block (R84, R107) -/

namespace Sys2Proof.Machine

/-! ### Commands (R107, R145, R248) -/

section Empty

variable {s : State} {t : Nat}

/-- In a stable state a command's line is emptied at once (R145, R248). -/
theorem emptyOwn_of_stable (h : Stable s) (ctx l : Nat) : emptyOwn s t ctx l = emptyLine s t l := by
  have hgo : canGo s (Pend.start s s.fresh.1 (.released t ctx) (.line false false) (.scratch t (128 * l)) 0 (tenantOf s t) ctx) = true :=
    canGo_of_stable h rfl (by intro _; exact Place.noConfusion)
  have hline : 128 * l / 128 = l := by omega
  unfold emptyOwn
  dsimp only
  rw [if_pos hgo, emptyPlace, emptyRaw, hline]
  exact wake_of_pend_nil _ (h.emptyLine t l).pend

theorem lineState_emptyLine (h : Stable s) (ht : t < 192) (l k : Nat) :
    lineState (emptyLine s t l) t k = if k = l then { full := false, poison := false } else lineState s t k := by
  obtain ⟨-, hl, -⟩ := store_parts (store_emptyLine (s := s) ht l)
  unfold lineState
  rw [hl, tget_tset _ _ _ _ _ (h.tile t).lines]

theorem emptyLines_of_stable (h : Stable s) (ht : t < 192) (ls : List Nat) : Stable (emptyLines s t ls) ∧
    ∀ l, (l ∈ ls ∨ (lineState s t l).full = false) → (lineState (emptyLines s t ls) t l).full = false := by
  unfold emptyLines
  induction ls generalizing s with
  | nil => exact ⟨h, fun l hl => by simpa using hl⟩
  | cons x xs ih =>
    rw [List.foldl_cons, emptyOwn_of_stable h]
    obtain ⟨hstable, hempty⟩ := ih (h.emptyLine t x)
    refine ⟨hstable, fun l hl => hempty l ?_⟩
    rw [lineState_emptyLine h ht]
    by_cases hx : l = x
    · simp [hx]
    · simpa [hx] using hl

/-- A command enters its queue behind what stands there, and its lines are empty (R107, R145, R248). -/
theorem enterCommand_enters (h : Stable s) {c : Ctx} (hc : (s.tile t).ctx = some c) {q : Nat} (hq : q < 4) (k : QEntry) :
    Stable (enterCommand s t q k) ∧ (∀ l ∈ k.empties, (lineState (enterCommand s t q k) t l).full = false) ∧
      ∃ d n m, ((enterCommand s t q k).tile t).ctx = some d ∧ d.queue q = c.queue q ++ [{ k with cycle := n, stamp := m }] := by
  have ht := tile_lt_of_ctx hc
  obtain ⟨n, hn⟩ : ∃ n, (if q = 2 then arrayCycle s t else (0, s)).2 = { s with freeCtr := n } := by
    split
    · exact ⟨_, rfl⟩
    · exact ⟨s.freeCtr, rfl⟩
  unfold enterCommand
  generalize (if q = 2 then arrayCycle s t else (0, s)) = r at hn
  obtain ⟨now, x⟩ := r
  obtain rfl : x = { s with freeCtr := n } := hn
  dsimp only
  have hx : Stable { s with freeCtr := n } := ((draw_kept s n).share h).stable h
  obtain ⟨stamp, hstamp⟩ : ∃ m, m = if k.stamp = 0 then s.nextId else k.stamp := ⟨_, rfl⟩
  rw [← hstamp]
  have hset : Stable (State.modCtx { s with freeCtr := n } t (fun c => c.setQueue q (c.queue q ++ [{ k with cycle := now, stamp := stamp }]))) :=
    ((Kept.modCtx _ t _).share hx).stable hx
  obtain ⟨hstable, hempty⟩ := emptyLines_of_stable hset ht k.empties
  refine ⟨hstable, fun l hl => hempty l (.inl hl), ?_⟩
  have hctx := ctx_modCtx (s := { s with freeCtr := n }) hc (fun c => c.setQueue q (c.queue q ++ [{ k with cycle := now, stamp := stamp }]))
  obtain ⟨d, hd, hquiet⟩ := (emptyLines_beside (t := t) _ k.empties).ctx_some hctx
  refine ⟨d, now, stamp, hd, ?_⟩
  have hqueue : d.quiet.queue q = _ := congrArg (fun x : Ctx => x.queue q) hquiet
  have hside (x : Ctx) : x.quiet.queue q = x.queue q := by interval_cases q <;> rfl
  rw [hside, hside, queue_setQueue c hq hq, if_pos rfl] at hqueue
  exact hqueue

end Empty

section Stores

variable {h : Held} (hstore : (heldOp h.eff).isSome = true)

include hstore

theorem releaseEffect_store (s : State) (t ctx : Nat) : releaseEffect s t ctx h = releaseStore s t ctx h.eff h.scope := by
  obtain ⟨slot, key, tagged, eff, anc, scope⟩ := h
  cases eff with
  | store | stf | stfw | feclr | feset => rfl
  | command | csrw | binit | barr | fence | flags | sparm | spdis | spskip | qfence => exact nomatch hstore

theorem closes_of_store : h.eff.closes = false := by
  obtain ⟨slot, key, tagged, eff, anc, scope⟩ := h
  cases eff with
  | store | stf | stfw | feclr | feset => rfl
  | command | csrw | binit | barr | fence | flags | sparm | spdis | spskip | qfence => exact nomatch hstore

theorem flags_of_store : ∀ f, h.eff ≠ .flags f := by
  intro f hf
  rw [hf] at hstore
  exact nomatch hstore

end Stores

/-- An effect that is no store or full/empty effect, by what a command, a FENCE or flags do. -/
theorem released_of_other {s u : State} {t : Nat} {c v : Ctx} {e : Effect} (hop : heldOp e = none)
    (hcommand : ∀ q k, e = .command q k → q < 4 → (∃ n m, v.queue q = c.queue q ++ [{ k with cycle := n, stamp := m }]) ∧
      ∀ l ∈ k.empties, (lineState u t l).full = false)
    (hfence : ∀ kinds scope, e = .fence kinds scope → (kinds.getLsbD 0 = true → ∀ p ∈ u.ahead, p.tile ≠ t) ∧
      (kinds.getLsbD 1 = true → v.fenced = true))
    (hflags : ∀ f, e = .flags f → v.fflags = c.fflags ||| f) : Released s u t c v e := by
  refine ⟨?_, ?_, ?_, ?_, ?_, ?_, ?_, ?_, ?_, ?_, hcommand, hfence, hflags⟩
  · rintro g off n d z rfl
    exact nomatch hop
  · rintro g off d z rfl
    exact nomatch hop
  · rintro g off n w (rfl | ⟨rfl, -⟩)
    · exact nomatch hop
    · exact nomatch hop
  · rintro g off rfl
    exact nomatch hop
  · rintro g off rfl
    exact nomatch hop
  · rintro f m d z rfl
    exact nomatch hop
  · rintro f m w rfl
    exact nomatch hop
  · rintro f m rfl
    exact nomatch hop
  · rintro f m rfl
    exact nomatch hop
  · rintro a n d z rfl
    exact nomatch hop

/-- A store to the tile's own toybox writes no share (R103, R120). -/
theorem released_of_toybox {s u : State} {t off : Nat} {c v : Ctx} {e : Effect} (hplace : heldPlace e = some (.scratch t off))
    (hoff : 0x3E0000 ≤ off) : Released s u t c v e := by
  refine ⟨?_, ?_, ?_, ?_, ?_, ?_, ?_, ?_, ?_, ?_, ?_, ?_, ?_⟩
  · rintro g o n d z rfl ⟨-, hn, ho⟩
    obtain ⟨rfl, rfl⟩ := Place.scratch.inj (Option.some.inj hplace)
    omega
  · rintro g o d z rfl ⟨-, hn, ho⟩
    obtain ⟨rfl, rfl⟩ := Place.scratch.inj (Option.some.inj hplace)
    omega
  · rintro g o n w (rfl | ⟨rfl, -⟩) ⟨-, hn, ho⟩
    · obtain ⟨rfl, rfl⟩ := Place.scratch.inj (Option.some.inj hplace)
      omega
    · obtain ⟨rfl, rfl⟩ := Place.scratch.inj (Option.some.inj hplace)
      omega
  · rintro g o rfl
    exact nomatch hplace
  · rintro g o rfl
    exact nomatch hplace
  · rintro f m d z rfl
    exact nomatch hplace
  · rintro f m w rfl
    exact nomatch hplace
  · rintro f m rfl
    exact nomatch hplace
  · rintro f m rfl
    exact nomatch hplace
  · rintro a n d z rfl
    exact nomatch hplace
  · rintro q k rfl
    exact nomatch hplace
  · rintro kinds scope rfl
    exact nomatch hplace
  · rintro f rfl
    exact nomatch hplace

section Kinds

variable {s u : State} {t : Nat} {b : Block} {c v : Ctx} {e : ExitRec} {h : Held} (hc : (s.tile t).ctx = some c) (hpush : NoPush s t)
  (hhalt : e.dest = .halt → c.inh = false) (hs : Stable s)

include hc hpush hhalt hs

theorem commit_command (hv : ((leaveFabric (commitEffects s t b c [h]) t b e).tile t).ctx = some v) {q : Nat} {k : QEntry}
    (he : h.eff = .command q k) (hq : q < 4) : (∃ n m, v.queue q = c.queue q ++ [{ k with cycle := n, stamp := m }]) ∧
      ∀ l ∈ k.empties, (lineState (leaveFabric (commitEffects s t b c [h]) t b e) t l).full = false := by
  obtain ⟨g, m, hregs⟩ := ctx_regsWritten_other (b := b) hc (h := h) (fun n w hn => (nomatch he.symm.trans hn))
  have hports : Kept s ((regsWritten s t b [h]).modCtx t (portsClosed [h] (hasBwait (s.fabric t) b))) :=
    (regsWritten_kept s t b [h]).trans (.modCtx _ t _)
  have heq : commitEffects s t b c [h] = enterCommand ((regsWritten s t b [h]).modCtx t (portsClosed [h] (hasBwait (s.fabric t) b))) t q k := by
    rw [commitEffects_one hpush, openEffects_closes _ _ _ _ (by rw [he]; rfl), closeEffects_command _ _ _ _ _ _ he]
  obtain ⟨hstable, hempty, d, n, m, hd, hqueue⟩ := enterCommand_enters ((hports.share hs).stable hs)
    (ctx_modCtx hregs (portsClosed [h] (hasBwait (s.fabric t) b))) hq k
  rw [← heq] at hstable hempty hd
  refine ⟨⟨n, m, ?_⟩, fun l hl => ?_⟩
  · rw [queue_of_carried (carried_of_commit hc hpush hhalt hv hd), hqueue]
    rfl
  · have hlines := (((leave_kept (b := b) (h := h) hc hpush hhalt).share hstable).tile t).lines
    unfold lineState at hempty ⊢
    rw [hlines]
    exact hempty l hl

omit hs in
/-- A held store or full/empty effect is released as the registers have been written (R107). -/
theorem commit_store {s₀ : State} (hs₀ : Stable s₀) (hbefore : Kept s₀ s) (hstore : (heldOp h.eff).isSome = true) :
    Released s₀ (leaveFabric (commitEffects s t b c [h]) t b e) t c v h.eff := by
  refine released_of_store (x := regsWritten s t b [h]) (ctx := c.id) (scope := h.scope) hs₀
    ((hbefore.trans (regsWritten_kept s t b [h])).share hs₀) ?_ hstore
  have hkept := leave_kept (b := b) (h := h) hc hpush hhalt
  rw [commitEffects_early hpush (closes_of_store hstore) (flags_of_store hstore), releaseEffect_store hstore] at hkept ⊢
  exact .trans (.modCtx _ t _) hkept

end Kinds

/-! ### The three clauses of O36 -/

/-- The state in which a block commits, once the packets of a pair are formed (R84). -/
def committing (s : State) (t : Nat) (b : Block) (c : Ctx) (e : ExitRec) : State := formPackets s t c (blockKey b) (some e)

section Clauses

variable {s : State} {t : Nat} {b : Block} {c : Ctx} {e : ExitRec}

theorem fabric_committing (s : State) (t : Nat) (b : Block) (c : Ctx) (e : ExitRec) : (committing s t b c e).fabric t = s.fabric t :=
  (formPackets_sameFace s t c _ _ t).2

theorem ctx_committing (hc : (s.tile t).ctx = some c) (b : Block) (e : ExitRec) : ((committing s t b c e).tile t).ctx = some c :=
  (formPackets_sameFace s t c _ _ t).1.trans hc

theorem committing_same (s : State) (t : Nat) (b : Block) (c : Ctx) (e : ExitRec) :
    (committing s t b c e).now = s.now ∧ (committing s t b c e).launches = s.launches := by
  unfold committing formPackets State.formPacket
  dsimp only
  split
  · have hfold (l : List Nat) (u : State) (f : Tile → Tile) : (l.foldl (fun s t => s.modTile t f) u).now = u.now ∧
        (l.foldl (fun s t => s.modTile t f) u).launches = u.launches := by
      induction l generalizing u with
      | nil => exact ⟨rfl, rfl⟩
      | cons x xs ih => exact ih (u.modTile x f)
    exact hfold _ s _
  · exact ⟨rfl, rfl⟩

variable (hblk : (s.fabric t).blk = some b) (hc : (s.tile t).ctx = some c) (hexit : (s.fabric t).exit = some e)
  (hready : commitReady s t b c = true) (hroom : commitRoom s t b c = true) (hsys : (s.fabric t).sys = [])
  (hlock : c.lock = true → t % 2 = 0)

include hblk hc hexit hready hroom hsys hlock

/-- A block that holds no effect commits (R107). -/
theorem exec_commit_unheld (hheld : (s.fabric t).held = []) (hpush : (s.fabric t).wrs.filter (fun w => w.push && w.key == none) = []) :
    exec (.blockCommit t) s = .next (leaveFabric (commitEffects (committing s t b c e) t b c []) t b e) := by
  rw [exec_blockCommit hblk hc hexit hready hroom hpush hlock]
  have hquiet : disturbToybox (committing s t b c e) t (blockKey b) = committing s t b c e :=
    disturbToybox_of_unmapped _ (by rw [fabric_committing, hheld]; rfl)
  have hcommit := commitBlock_eq (s := committing s t b c e) (t := t) (b := b) (c := c) (e := e)
    (by rw [hquiet, fabric_committing, hsys])
  rw [hquiet, fabric_committing, hheld] at hcommit
  exact congrArg Host.Outcome.next hcommit

/-- A block without effects and pushes writes its registers, and its exit is taken (R107, R300, R351, R353). -/
theorem commit_registers (hheld : (s.fabric t).held = []) (hpush : ∀ w ∈ (s.fabric t).wrs, w.push = false) :
    let x := s.fabric t
    let d := writeRegisters c (x.wrs.filter (fun w => w.key == blockKey b) ++ (if b.loop then x.kept else []))
    ∃ u v, exec (.blockCommit t) s = .next u ∧ (u.tile t).ctx = some v ∧ u.fabric t = Fabric.reset ∧
      (∀ n, v.kreg n = d.kreg n) ∧ (∀ n, n ≠ 55 → v.greg n = d.greg n) ∧
      (∀ a, e.dest = .block a none → v.phase = .fetching ∧ v.pc = a ∧ v.greg 55 = d.greg 55 ∧ v.inh = c.inh) ∧
      (∀ a r, e.dest = .block a (some r) → v.phase = .fetching ∧ v.pc = a ∧ v.greg 55 = r ∧ v.inh = c.inh) ∧
      (e.dest = .halt → c.inh = false → v.phase = .halted ∧ v.greg 55 = d.greg 55) ∧
      (e.dest = .tret → c.haltedEntry = false → v.phase = .fetching ∧ v.pc = c.treta ∧ v.inh = false) ∧
      (e.dest = .tret → c.haltedEntry = true → v.phase = .halted ∧ v.inh = false) := by
  intro x d
  have hexec := exec_commit_unheld hblk hc hexit hready hroom hsys hlock hheld (no_pushes hpush _)
  have hregs : commitRegs ((committing s t b c e).fabric t) b = x.wrs.filter (fun w => w.key == blockKey b) ++ (if b.loop then x.kept else []) := by
    rw [fabric_committing, commitRegs]
    congr 1
    refine List.filter_congr (fun w hw => ?_)
    simp [hpush w hw]
  have hctx : ((commitEffects (committing s t b c e) t b c []).tile t).ctx = some (portsClosed [] (hasBwait x b) d) := by
    rw [commitEffects_one (by rw [NoPush, fabric_committing]; exact hpush), fabric_committing]
    refine ctx_modCtx ((ctx_regsWritten (ctx_committing hc b e) b []).trans ?_) _
    rw [hregs]
    rfl
  obtain ⟨hend, hfab⟩ := endBlock_face hctx
  obtain ⟨v, hv, hreset, hk, hg, hblock, hcall, hhalt, htret, htret'⟩ := takeExit_face hend hfab b.supervisor e
  obtain ⟨g, k, hd⟩ := writeRegisters_eq c (x.wrs.filter (fun w => w.key == blockKey b) ++ (if b.loop then x.kept else []))
  have hside : (closedCtx (portsClosed [] (hasBwait x b) d)).k = d.k ∧ (closedCtx (portsClosed [] (hasBwait x b) d)).g = d.g ∧
      (closedCtx (portsClosed [] (hasBwait x b) d)).inh = c.inh ∧ (closedCtx (portsClosed [] (hasBwait x b) d)).haltedEntry = c.haltedEntry ∧
      (closedCtx (portsClosed [] (hasBwait x b) d)).treta = c.treta := by
    have hd' : d = { c with g := g, k := k } := hd
    unfold closedCtx
    rw [hd']
    dsimp only [portsClosed]
    split <;> exact ⟨rfl, rfl, rfl, rfl, rfl⟩
  obtain ⟨hsk, hsg, hsinh, hsentry, hstreta⟩ := hside
  have hgreg (n : Nat) : (closedCtx (portsClosed [] (hasBwait x b) d)).greg n = d.greg n := by
    unfold Ctx.greg
    rw [hsg]
  rw [hsinh] at hblock hcall hhalt
  rw [hsentry] at htret htret'
  rw [hstreta] at htret
  rw [hgreg] at hblock hhalt
  exact ⟨_, v, hexec, hv, hreset, fun n => by unfold Ctx.kreg; rw [hk, hsk], fun n hn => (hg n hn).trans (hgreg n), hblock, hcall, hhalt,
    htret, htret'⟩

end Clauses

end Sys2Proof.Machine
end
section
/-! ## A push at a commit (R283, R289) -/

namespace Sys2Proof.Machine

/-! ### Translation leaves fabrics and contexts (R148, R153) -/

section Translate

variable (s : State)

theorem setTlb_beside (t : Nat) (f : Tile → List TlbEntry) : Beside s (s.modTile t (fun x => { x with tlb := f x })) :=
  .modTile s t _ (.of_eq rfl rfl)

theorem tlbInstall_beside (slice : Nat) (e : TlbEntry) : Beside s (tlbInstall s slice e) :=
  .ite (fun _ => setTlb_beside ..) (fun _ => Beside.trans (u := s.drawNat.2) (.of_tiles rfl) (setTlb_beside ..))

theorem translateAs_beside (f asid va : Nat) : Beside s (translateAs s f asid va).1 := by
  unfold translateAs
  dsimp only
  split
  · exact setTlb_beside s _ (fun x => x.tlb.filter _)
  · split
    · exact .refl s
    · have hwalk (ws : List WalkEntry) : Beside s (s.modTile (owningSlice va) (fun x => { x with walks := x.walks ++ ws })) :=
        .modTile s _ _ (.of_eq rfl rfl)
      split
      · exact hwalk _
      · exact (hwalk _).trans (tlbInstall_beside ..)

theorem translateAccess_beside (f va : Nat) (a : Access) : Beside s (translateAccess s f va a).1 := by
  have h := translateAs_beside s f (asidOf s f) va
  unfold translateAccess translateAccessAs
  generalize translateAs s f (asidOf s f) va = r at h
  obtain ⟨u, r⟩ := r
  cases r with
  | error x => exact h
  | ok l =>
    dsimp only
    split_ifs
    · exact h
    · exact h
    · exact h
    · split
      · split_ifs <;> exact h
      · exact h

theorem elementPlace_beside (t : Nat) (p : SPort) (pos : Nat) : Beside s (elementPlace s t p pos).1 := by
  have hhere (f va : Nat) (acc : Access) (n : Nat) : Beside s (match (generalizing := false) translateAccess s f va acc with
      | (s, .error x) => ((s, .error x.1) : State × Except Nat Place)
      | (s, .ok q) =>
        match q with
        | .mailbox _ _ => if n ≠ 8 then (s, .error 0x28) else (s, .ok q)
        | .mailboxHole => if n ≠ 8 then (s, .error 0x28) else (s, .ok q)
        | _ => (s, .ok q)).1 := by
    have h := translateAccess_beside s f va acc
    generalize translateAccess s f va acc = r at h
    obtain ⟨u, r⟩ := r
    cases r with
    | error x => exact h
    | ok q =>
      cases q with
      | mailbox | mailboxHole => dsimp only; split <;> exact h
      | scratch | host | league | control => exact h
  unfold elementPlace
  dsimp only
  split
  · exact .refl s
  · split
    · split <;> exact .refl s
    · split
      · exact .refl s
      · split
        · cases leagueRoute s (elementAddr p pos) with
          | outOfRange | unreachable | far => exact .refl s
          | here => exact hhere ..
        · exact hhere ..

end Translate

/-! ### The element of a push -/

theorem patSize_pos (r : BitVec 512) : 0 < patSize r := Nat.two_pow_pos _

theorem patSize_le (r : BitVec 512) : patSize r ≤ 8 := by
  have hexp : (r.extractLsb' 68 2).toNat ≤ 3 := by omega
  exact Nat.pow_le_pow_right (by omega) hexp

/-- An element in space L that lands has its place in the tile's own share (R283). -/
theorem elementPlace_lands (s : State) (t : Nat) {q : SPort} {pos : Nat} (h : PushLands q pos) (hpos : pos < patTotal q.record) :
    elementPlace s t q pos = (s, .ok (.scratch t (elementAddr q pos).toNat)) := by
  obtain hpast | ⟨hspace, hlow, hhigh, haddr⟩ := h
  · omega
  · unfold elementPlace
    dsimp only
    rw [if_neg (by omega), if_pos hspace, if_neg (by omega)]

section Push

variable {s : State} {t : Nat} {c : Ctx} {w : HeldWr} {pos : Nat}

theorem performPush_past (hc : (s.tile t).ctx = some c) (hw : w.pos = some pos) (hpast : patTotal (c.port w.n).record ≤ pos) :
    performPush s t w = s := by
  unfold performPush
  rw [hc, hw]
  exact if_pos hpast

theorem performPush_lands (hc : (s.tile t).ctx = some c) (hw : w.pos = some pos) (hpos : pos < patTotal (c.port w.n).record)
    (hland : PushLands (c.port w.n) pos) :
    performPush s t w = releaseStore s t c.id (.store (.scratch t (elementAddr (c.port w.n) pos).toNat)
      (patSize (c.port w.n).record) (w.val.setWidth 128) false false) 0 := by
  have hplace := elementPlace_lands s t hland hpos
  unfold performPush
  rw [hc, hw]
  dsimp only
  rw [if_neg (by omega), hplace]

theorem performPush_beside (s : State) (t : Nat) (w : HeldWr) : Beside s (performPush s t w) := by
  unfold performPush
  split
  · dsimp only
    refine .ite (fun _ => .refl s) (fun _ => ?_)
    rename_i c pos _ _ _
    have h := elementPlace_beside s t (c.port w.n) pos
    generalize elementPlace s t (c.port w.n) pos = r at h ⊢
    obtain ⟨u, r⟩ := r
    cases r with
    | ok q => exact h.trans (releaseStore_beside ..)
    | error x => exact h
  · exact .refl s

end Push

/-- A block that pushes one element and holds no effect, as its registers are written. -/
theorem commitEffects_push {s : State} {t : Nat} {b : Block} (c : Ctx) {w : HeldWr} (hwrs : (s.fabric t).wrs = [w]) (hpush : w.push = true)
    (hkey : w.key = blockKey b) : commitEffects s t b c [] =
      (performPush (regsWritten s t b []) t w).modCtx t (portsClosed [] (hasBwait (s.fabric t) b)) := by
  have hown : (s.fabric t).wrs.filter (fun w => w.push && w.key == blockKey b) = [w] := by
    rw [hwrs]
    simp [hpush, hkey]
  rw [commitEffects_eq, hown]
  rfl

/-- A push of a block that runs once writes its element (R107, R289). -/
theorem commit_push {s : State} {t : Nat} {b : Block} {c : Ctx} {e : ExitRec} {w : HeldWr} {pos : Nat} (hblk : (s.fabric t).blk = some b)
    (hc : (s.tile t).ctx = some c) (hexit : (s.fabric t).exit = some e) (hready : commitReady s t b c = true)
    (hheld : (s.fabric t).held = []) (hsys : (s.fabric t).sys = []) (hwrs : (s.fabric t).wrs = [w]) (hpush : w.push = true)
    (hkey : w.key = blockKey b) (hloop : b.loop = false) (hw : w.pos = some pos) (hroom : commitRoom s t b c = true)
    (hlock : c.lock = true → t % 2 = 0) (hhalt : e.dest = .halt → c.inh = false) (hs : Stable s) :
    let q := c.port w.n
    let n := patSize q.record
    let a := (elementAddr q pos).toNat
    ∃ u, exec (.blockCommit t) s = .next u ∧ u.fabric t = Fabric.reset ∧
      (patTotal q.record ≤ pos → ∀ k, k < 0x3E0000 → mget (u.tile t).mem k = mget (s.tile t).mem k) ∧
      (pos < patTotal q.record → PushLands q pos → a + n ≤ 0x3E0000 → ∀ k, k < 0x3E0000 → mget (u.tile t).mem k =
        if a ≤ k ∧ k < a + n then BitVec.ofNat 8 (w.val.toNat / 256 ^ (k - a)) else mget (s.tile t).mem k) := by
  intro q n a
  have ht := tile_lt_of_ctx hc
  have hown : blockKey b = some 0 := by simp [blockKey, hloop]
  have hexec := exec_commit_unheld hblk hc hexit hready hroom hsys hlock hheld (by rw [hwrs]; simp [hkey, hown])
  have hwrs' : ((committing s t b c e).fabric t).wrs = [w] := by rw [fabric_committing, hwrs]
  obtain ⟨g, k, hregs⟩ := writeRegisters_eq c (commitRegs ((committing s t b c e).fabric t) b)
  have hctx : ((regsWritten (committing s t b c e) t b []).tile t).ctx = some { c with g := g, k := k } :=
    hregs ▸ ctx_regsWritten (ctx_committing hc b e) b []
  have hbefore : Kept s (regsWritten (committing s t b c e) t b []) := (formPackets_kept s t c _ _).trans (regsWritten_kept _ t b [])
  rw [commitEffects_push c hwrs' hpush hkey] at hexec
  have hpushed := performPush_beside (regsWritten (committing s t b c e) t b []) t w
  have hgoes : CtxGoes t s (commitEffects (committing s t b c e) t b c []) := by
    rw [commitEffects_push c hwrs' hpush hkey]
    exact (⟨fun d hd => ⟨{ c with g := g, k := k }, hctx, Option.some.inj (hc.symm.trans hd) ▸ rfl⟩⟩ : CtxGoes t s _).trans
      ((CtxGoes.of_beside hpushed).trans (.modCtx _ _ (fun _ => rfl)))
  obtain ⟨d, hd, hinh⟩ := hgoes.goes c hc
  obtain ⟨hkept, hreset, -⟩ := leaveFabric_carries (b := b) hd (fun h => hinh.trans (hhalt h))
  rw [commitEffects_push c hwrs' hpush hkey] at hkept hreset
  have hlast : Kept (performPush (regsWritten (committing s t b c e) t b []) t w) _ := (Kept.modCtx _ t _).trans hkept
  refine ⟨_, hexec, hreset, fun hpast => ?_, fun hpos hland hroom => ?_⟩
  · rw [performPush_past hctx hw hpast] at hlast ⊢
    exact (((hbefore.trans hlast).share hs).tile t).mem (hs.tile t)
  · rw [performPush_lands hctx hw hpos hland] at hlast ⊢
    obtain ⟨hmem, -, -⟩ := released_store_share hs (hbefore.share hs) hlast ht (patSize_pos _) hroom (patSize_le _)
    intro j hj
    rw [hmem j hj, BitVec.toNat_setWidth_of_le (by omega)]
    rfl

end Sys2Proof.Machine
end
section
/-! ## The commit of a block that holds one effect (R84, R104, R107) -/

namespace Sys2Proof.Machine

theorem writesToybox_iff {t : Nat} {h : Held} (hw : writesToybox t h = true) :
    ∃ off, heldPlace h.eff = some (.scratch t off) ∧ 0x3E0000 ≤ off := by
  unfold writesToybox at hw
  split at hw
  case h_1 g off hplace =>
    obtain ⟨hg, hin⟩ := Bool.and_eq_true_iff.mp hw
    obtain rfl := eq_of_beq hg
    simp only [inToybox, Bool.and_eq_true, decide_eq_true_eq] at hin
    exact ⟨off, hplace, by omega⟩
  case h_2 => exact nomatch hw

section Held

variable {s : State} {t : Nat} {b : Block} {c : Ctx} {e : ExitRec} {h : Held} (hblk : (s.fabric t).blk = some b)
  (hc : (s.tile t).ctx = some c) (hexit : (s.fabric t).exit = some e) (hready : commitReady s t b c = true)
  (hheld : (s.fabric t).held = [h]) (hkey : h.key = blockKey b) (hsys : (s.fabric t).sys = [])
  (hpush : ∀ w ∈ (s.fabric t).wrs, w.push = false) (hroom : commitRoom s t b c = true) (hlock : c.lock = true → t % 2 = 0)

include hblk hc hexit hready hheld hkey hsys hpush hroom hlock

/-- A block whose effect leaves its toybox alone commits (R107). -/
theorem exec_commit_held (hquiet : writesToybox t h = false) :
    exec (.blockCommit t) s = .next (leaveFabric (commitEffects (committing s t b c e) t b c [h]) t b e) := by
  rw [exec_blockCommit hblk hc hexit hready hroom (no_pushes hpush _) hlock]
  have hsame : disturbToybox (committing s t b c e) t (blockKey b) = committing s t b c e :=
    disturbToybox_of_unmapped _ (by rw [fabric_committing, hheld]; simp [hquiet])
  have hcommit := commitBlock_eq (s := committing s t b c e) (t := t) (b := b) (c := c) (e := e)
    (by rw [hsame, fabric_committing, hsys])
  rw [hsame, fabric_committing, hheld] at hcommit
  refine congrArg Host.Outcome.next (hcommit.trans ?_)
  simp [hkey]

/-- A block whose effect writes its own toybox commits with free values (R120). -/
theorem exec_commit_disturbed (hhalt : e.dest = .halt → c.inh = false) :
    writesToybox t h = true → ∃ u v, exec (.blockCommit t) s = .next u ∧ (u.tile t).ctx = some v ∧ u.fabric t = Fabric.reset := by
  intro hw
  have hdisturb : disturbToybox (committing s t b c e) t (blockKey b) = disturb (committing s t b c e) t := by
    unfold disturbToybox
    rw [fabric_committing, hheld]
    simp [hkey, hw]
  obtain ⟨hsys', hpush'⟩ := disturb_fabric (s := committing s t b c e) (tile_lt_of_ctx hc) (by rw [fabric_committing, hsys])
    (by rw [fabric_committing]; exact hpush)
  have hcommit := commitBlock_eq (s := committing s t b c e) (t := t) (b := b) (c := c) (e := e) (by rw [hdisturb]; exact hsys')
  obtain ⟨d, hd, hinh⟩ := ((CtxGoes.of_beside (disturb_beside (committing s t b c e) t)).trans
    (commitEffects_goes (b := b) (c := c) hpush' (((disturb (committing s t b c e) t).fabric t).held.filter
      (fun h => h.key == blockKey b)))).goes c (ctx_committing hc b e)
  obtain ⟨-, hreset, v, hv, -⟩ := leaveFabric_carries (b := b) hd (fun h => hinh.trans (hhalt h))
  rw [hdisturb] at hcommit
  refine ⟨_, v, ?_, hv, hreset⟩
  rw [exec_blockCommit hblk hc hexit hready hroom (no_pushes hpush _) hlock]
  exact congrArg Host.Outcome.next hcommit

end Held

/-- What a held effect of a block leaves beyond stores, commands, fences and flags: registers, barriers, ports and queue fences. -/
def EffectLeaves (s u : State) (t : Nat) (c v : Ctx) (eff : Effect) : Prop :=
  let region := s.regionOf c.launch c.region
  (∀ n w, eff = .csrw n w →
    v.tcause = (if n = 0x000 then w.toNat % 128 else c.tcause) ∧ v.tblk = (if n = 0x001 then w else c.tblk) ∧
    v.tslot = (if n = 0x002 then w.toNat % 256 else c.tslot) ∧ v.ttag = (if n = 0x003 then w.setWidth 32 else c.ttag) ∧
    v.tinfo0 = (if n = 0x004 then w else c.tinfo0) ∧ v.tinfo1 = (if n = 0x005 then w else c.tinfo1) ∧
    v.tvec = (if n = 0x006 then w &&& ~~~0x3F#64 else c.tvec) ∧
    v.treta = (if n = 0x007 then w &&& ~~~0x3F#64 else c.treta) ∧
    v.fflags = (if n = 0x009 then w.setWidth 6 ||| (if c.flagsAt = s.now then c.flagsNow else 0) else c.fflags) ∧
    v.keys = (if n = 0x021 then w.setWidth 16 &&& 0xFFFE else c.keys)) ∧
  (∀ k n r old, eff = .binit k n → region = some r → r.bars[k]? = some old →
    ∃ y, u.regionOf c.launch c.region = some y ∧ y.bars[k]? = some { old with count :=
      if n = 0 then r.nodes.length else if n.toNat ≤ 48 then n.toNat else old.count }) ∧
  (∀ k r old, eff = .barr k → region = some r → r.bars[k]? = some old →
    v.arrival[k]? = some (some old.phase) ∧ (∀ p ∈ u.ahead, p.tile ≠ t) ∧
    ∃ y, u.regionOf c.launch c.region = some y ∧ y.bars[k]? = some { old with arrivals := old.arrivals + 1 }) ∧
  (∀ p r cap, eff = .sparm p r cap → p < 8 → v.port p =
    { armed := true, record := r, cap := cap, com := PortPos.reset, work := PortPos.reset }) ∧
  (∀ p, eff = .spdis p → p < 8 → (v.port p).armed = false) ∧
  (∀ p n, eff = .spskip p n → p < 8 →
    let pos := min ((c.port p).work.pos + n.toNat) (c.port p).total
    (v.port p).com.pos = pos ∧ (v.port p).work.pos = pos) ∧
  (∀ set, eff = .qfence set → ∃ id, ∀ q, q < 4 → v.queue q =
    if set.getLsbD q then c.queue q ++ [fenceEntry id set (s.fabric t).inst] else c.queue q)

theorem effectLeaves_of_place {s u : State} {t : Nat} {c v : Ctx} {e : Effect} {p : Place} (h : heldPlace e = some p) :
    EffectLeaves s u t c v e := by
  refine ⟨?_, ?_, ?_, ?_, ?_, ?_, ?_⟩
  · rintro n w rfl; exact nomatch h
  · rintro k n r old rfl; exact nomatch h
  · rintro k r old rfl; exact nomatch h
  · rintro p r cap rfl; exact nomatch h
  · rintro p rfl; exact nomatch h
  · rintro p n rfl; exact nomatch h
  · rintro set rfl; exact nomatch h

section Kinds

variable {s : State} {t : Nat} {b : Block} {c v : Ctx} {e : ExitRec} {h : Held} (hc : (s.tile t).ctx = some c) (hpush : NoPush s t)
  (hhalt : e.dest = .halt → c.inh = false) (hs : Stable s)
  (hv : ((leaveFabric (commitEffects s t b c [h]) t b e).tile t).ctx = some v)

include hc hpush hhalt hs hv

/-- What a block's effect leaves, where the block commits and leaves its toybox alone. -/
theorem commit_effectLeaves : EffectLeaves s (leaveFabric (commitEffects s t b c [h]) t b e) t c v h.eff := by
  refine ⟨?_, ?_, ?_, ?_, ?_, ?_, ?_⟩
  · intro n w he
    exact commit_csrw hc hpush hhalt hv he
  · intro k n r old he hr hold
    exact commit_binit hc hpush hhalt hs he hr hold
  · intro k r old he hr hold
    exact commit_barr hc hpush hhalt hv hs he hr hold
  · intro p r cap he hp
    have hrel (x : State) : releasePort x t h = (dropPort x t p).modCtx t (fun c => c.modPort p (fun _ =>
        { armed := true, record := r, cap := cap, com := PortPos.reset, work := PortPos.reset })) := by
      unfold releasePort
      rw [he]
      rfl
    exact commit_port hc hpush hhalt hv (by rw [he]; rfl) (by rw [isCommand, he]) (fun set hf => nomatch he.symm.trans hf) hrel hp
  · intro p he hp
    have hrel (x : State) : releasePort x t h = (dropPort x t p).modCtx t (fun c => c.modPort p (fun q => { q with armed := false })) := by
      unfold releasePort
      rw [he]
      rfl
    exact congrArg SPort.armed
      (commit_port hc hpush hhalt hv (by rw [he]; rfl) (by rw [isCommand, he]) (fun set hf => nomatch he.symm.trans hf) hrel hp)
  · intro p n he hp
    have hrel (x : State) : releasePort x t h = (dropPort x t p).modCtx t (fun c => c.modPort p (fun q =>
        { q with com := { q.com with pos := min (q.com.pos + n.toNat) q.total }, work := { q.com with pos := min (q.com.pos + n.toNat) q.total } })) := by
      unfold releasePort
      rw [he]
      rfl
    have hport := commit_port hc hpush hhalt hv (by rw [he]; rfl) (by rw [isCommand, he]) (fun set hf => nomatch he.symm.trans hf) hrel hp
    rw [hport]
    exact ⟨rfl, rfl⟩
  · intro set he
    exact commit_qfence hc hpush hhalt hv he

omit hs in
/-- What a block's effect releases, where the block commits and leaves its toybox alone (R107). -/
theorem commit_released {s₀ : State} (hs₀ : Stable s₀) (hbefore : Kept s₀ s) :
    Released s₀ (leaveFabric (commitEffects s t b c [h]) t b e) t c v h.eff := by
  have hs : Stable s := (hbefore.share hs₀).stable hs₀
  cases hop : heldOp h.eff with
  | some op => exact commit_store hc hpush hhalt hs₀ hbefore (by rw [hop]; rfl)
  | none =>
    refine released_of_other hop ?_ ?_ ?_
    · intro q k he hq
      exact commit_command hc hpush hhalt hs hv he hq
    · intro kinds scope he
      exact commit_fence hc hpush hhalt hv hs he
    · intro f he
      exact commit_flags hc hpush hhalt hv he

end Kinds

/-- Settles O36: a block commits by `commit_push` and `commit_registers` where it holds no effect, and by what its one effect releases
and leaves, with `exec_commit_disturbed` for a store to the toybox, where no share is written. -/
theorem blocksCommit : Obligations.BlocksCommit := by
  refine ⟨⟨?_, ?_⟩, ?_⟩
  · intro s t b c e w pos hblk hc hexit hready hheld hsys hwrs hpush hkey hloop hw hroom hlock hhalt hstill
    exact commit_push hblk hc hexit hready hheld hsys hwrs hpush hkey hloop hw hroom hlock hhalt (stable_of_still hstill)
  · intro s t b c e hblk hc hexit hready hheld hsys hpush hroom hlock
    exact commit_registers hblk hc hexit hready hroom hsys hlock hheld hpush
  · intro s t b c e h hblk hc hexit hready hheld hkey hsys hpush hroom hlock hhalt hstill
    have hs := stable_of_still hstill
    cases hw : writesToybox t h with
    | true =>
      obtain ⟨u, v, hexec, hv, hreset⟩ := exec_commit_disturbed hblk hc hexit hready hheld hkey hsys hpush hroom hlock hhalt hw
      obtain ⟨off, hplace, hoff⟩ := writesToybox_iff hw
      exact ⟨u, v, hexec, hv, hreset, released_of_toybox hplace hoff, effectLeaves_of_place hplace⟩
    | false =>
      have hexec := exec_commit_held hblk hc hexit hready hheld hkey hsys hpush hroom hlock hw
      have hkept : Kept s (committing s t b c e) := formPackets_kept s t c _ _
      have hpush' : NoPush (committing s t b c e) t := by
        rw [NoPush, fabric_committing]
        exact hpush
      have hc' := ctx_committing hc b e
      obtain ⟨d, hd, hinh⟩ := (commitEffects_goes (b := b) (c := c) hpush' [h]).goes c hc'
      obtain ⟨-, hreset, v, hv, -⟩ := leaveFabric_carries (b := b) hd (fun h => hinh.trans (hhalt h))
      have hleaves := commit_effectLeaves hc' hpush' hhalt ((hkept.share hs).stable hs) hv
      obtain ⟨hnow, hlaunches⟩ := committing_same s t b c e
      unfold EffectLeaves at hleaves
      rw [regionOf_congr hlaunches, fabric_committing, hnow] at hleaves
      exact ⟨_, v, hexec, hv, hreset, commit_released hc' hpush' hhalt hv hs hkept, hleaves⟩

end Sys2Proof.Machine
end
section
/-! ## The engines' turns (R86 to R89, R207, R209, R241, R244, R379) -/

namespace Sys2Proof.Machine

/-! ### Nothing under way -/

section Quiet

variable {s : State} (hpend : s.pend = [])

include hpend

theorem tickets_of_pend_nil (t ctx q : Nat) : tickets s t ctx q = [] := by rw [tickets, hpend]; rfl

theorem engineView_of_pend_nil (t ctx q : Nat) : engineView s t ctx q = s := by rw [engineView, tickets_of_pend_nil hpend]; rfl

theorem leaveView_of_pend_nil (u : State) (t ctx q : Nat) : leaveView s u t ctx q = u := by
  rw [leaveView, tickets_of_pend_nil hpend]; rfl

theorem ownEarlier_of_pend_nil (t ctx stamp : Nat) (rs : List (Nat × Nat)) : ownEarlier s t ctx stamp rs = false := by
  simp [ownEarlier, ownWritesBefore, hpend]

theorem storingBefore_of_pend_nil (ctx stamp : Nat) : storingBefore s ctx stamp = false := by rw [storingBefore, hpend]; rfl

theorem writeHeld_of_quiet (hreserved : s.reserved = []) (t ctx off n : Nat) : writeHeld s t ctx off n = false := by
  simp [writeHeld, reservedByOther, ownWrites, hpend, hreserved]

end Quiet

/-! ### The head of a queue (R207, R244, R248) -/

/-- What a command waits for before its lines are filled (R226, R248): it fills none, or nothing of its context's is on its way. -/
def HeadFree (s : State) (t : Nat) (c : Ctx) (e : QEntry) : Prop :=
  e.empties = [] ∨ (storingBefore s c.id e.stamp = false ∧ ∀ l ∈ e.empties, writeHeld s t c.id (128 * l) 128 = false)

theorem headFree_of_quiet {s : State} (hpend : s.pend = []) (hreserved : s.reserved = []) (t : Nat) (c : Ctx) (e : QEntry) :
    HeadFree s t c e := .inr ⟨storingBefore_of_pend_nil hpend _ _, fun _ _ => writeHeld_of_quiet hpend hreserved _ _ _ _⟩

section Head

variable {s : State} {t q source : Nat} {c : Ctx} {e : QEntry} {perform : State → Performed} (hfree : HeadFree s t c e)

include hfree

theorem headFree_iff : (!e.empties.isEmpty &&
    (storingBefore s c.id e.stamp || e.empties.any (fun l => writeHeld s t c.id (128 * l) 128))) = false := by
  obtain hnone | ⟨hstore, hlines⟩ := hfree
  · rw [hnone]; rfl
  · have hany : e.empties.any (fun l => writeHeld s t c.id (128 * l) 128) = false := by
      rw [List.any_eq_false]
      exact fun l hl => by rw [hlines l hl]; exact Bool.false_ne_true
    rw [hstore, hany, Bool.or_self, Bool.and_false]

theorem performHead_complete {u : State} {fl : BitVec 6} (h : perform (engineView s t c.id q) = .complete u fl) :
    performHead s t q source c e perform = popQueue ((leaveView s u t c.id q).modCtx t (raiseFlags s.now fl)) t q := by
  rw [performHead, headFree_iff hfree, h]
  rfl

theorem performHead_traps {u : State} {x : Nat} {i0 i1 : Word} (h : perform (engineView s t c.id q) = .traps u x i0 i1) :
    performHead s t q source c e perform = reportEngine (popQueue (leaveView s u t c.id q) t q) t source (commandTrap e x i0 i1) := by
  rw [performHead, headFree_iff hfree, h]
  rfl

end Head

section Exec

variable {s : State} {t : Nat} {c : Ctx} {e : QEntry} {i : Instr} {rest : List QEntry} (hc : (s.tile t).ctx = some c)

include hc

theorem exec_vectorCommandPerform (hq : c.vectorQ = e :: rest) (hi : e.instr = some i) (hstop : c.stopV = false) :
    exec (.vectorCommandPerform t) s = .next (performHead s t 1 0 c e (fun s => performVectorQueue s t c e i)) := by
  change execVectorCommandPerform t s = _
  unfold execVectorCommandPerform
  simp only [hc, hq, hi, hstop]
  rfl

theorem exec_matrixCommandPerform (hq : c.matrixQ = e :: rest) (hi : e.instr = some i) (hstop : c.stopM = false) (hpass : c.pass = none)
    (hform : (passOf i).isSome = false) : exec (.matrixCommandPerform t) s =
      .next (performHead s t 2 1 c e (fun s => (performMatrix s t c e i).getD (.waits []))) := by
  change execMatrixCommandPerform t s = _
  unfold execMatrixCommandPerform
  simp only [hc, hq, hi, hstop, hpass, hform]
  rfl

theorem exec_matrixCommandPerform_pass (hq : c.matrixQ = e :: rest) (hi : e.instr = some i) (hstop : c.stopM = false) (hpass : c.pass = none)
    (hform : (passOf i).isSome = true) : exec (.matrixCommandPerform t) s =
      .next (if ownEarlier s t c.id e.stamp (stepRanges e c.front.fmt 0) then s else reachHead s t c e 0) := by
  change execMatrixCommandPerform t s = _
  unfold execMatrixCommandPerform
  simp only [hc, hq, hi, hstop, hpass, hform]
  rfl

theorem exec_matrixCommandPerform_turn {p : Pass} (hpass : c.pass = some p) :
    exec (.matrixCommandPerform t) s = .next (turnPass s t c p) := by
  change execMatrixCommandPerform t s = _
  unfold execMatrixCommandPerform
  simp only [hc, hpass]

theorem exec_accumulatorRowLand {l : Flight} {ls : List Flight} (hf : c.flights = l :: ls)
    (hland : l.cycle + 256 < (s.stack (t / 48)).cycle + 4) : exec (.accumulatorRowLand t) s =
      .next (resolveWaits (s.modCtx t (fun c => landRow { c with flights := ls } l)) t) := by
  change execAccumulatorRowLand t s = _
  unfold execAccumulatorRowLand
  simp only [hc, hf, if_pos hland]

theorem exec_queueFenceRelease {n : Nat} {qs : List Nat}
    (hqs : qs = [0, 1, 2, 3].filter (fun q => (c.queue q).any (fun e => e.instr.isNone && e.fence == n))) (hsome : qs ≠ [])
    (hreach : ∀ q ∈ qs, reachedFence s c q n = true) :
    exec (.queueFenceRelease t n) s = .next (qs.foldl (fun s q => popQueue s t q) s) := by
  have hall : (!qs.isEmpty && qs.all (fun q => reachedFence s c q n)) = true := by
    simpa [hsome] using hreach
  change execQueueFenceRelease t n s = _
  unfold execQueueFenceRelease
  simp only [hc, ← hqs, hall, if_true]

end Exec

/-! ### The time limit of a WFE (R379) -/

theorem tile_outside (s : State) {t : Nat} (h : 192 ≤ t) : s.tile t = Tile.reset := by
  unfold State.tile
  rw [Vector.getElem?_eq_none h]
  rfl

theorem wfeTimeout_waits (s : State) (t : Nat) : ∃ u, exec (.wfeTimeout t) s = .next u ∧
    (∀ w since, w ∈ (u.fabric t).waits → w.on = .event since → fabricCycles (s.now - since) < 65536) ∧
    ∀ w ∈ (s.fabric t).waits, (∀ since, w.on = .event since → fabricCycles (s.now - since) < 65536) → w ∈ (u.fabric t).waits := by
  refine ⟨_, rfl, ?_⟩
  by_cases ht : t < 192
  · rw [State.fabric_modFabric_same _ _ _ ht]
    refine ⟨fun w since hw hon => ?_, fun w hw hrecent => List.mem_filter.mpr ⟨hw, ?_⟩⟩
    · have hkept := (List.mem_filter.mp hw).2
      simpa [hon] using hkept
    · split
      case h_1 since hon => exact decide_eq_true (hrecent since hon)
      case h_2 => rfl
  · have hnone (u : State) : (u.fabric t).waits = [] := by
      unfold State.fabric
      rw [tile_outside u (by omega)]
      rfl
    rw [hnone, hnone]
    exact ⟨fun w since hw => (nomatch hw), fun w hw => (nomatch hw)⟩

end Sys2Proof.Machine
end
section
/-! ## A step boundary of a stack (R87 to R89) -/

namespace Sys2Proof.Machine

/-- A stack's clock, its slew table and a new table that waits are as they were. -/
def StackHeld (k : Nat) (s u : State) : Prop :=
  (u.stack k).cycle = (s.stack k).cycle ∧ (u.stack k).write = (s.stack k).write ∧ (u.stack k).up = (s.stack k).up ∧
    (u.stack k).dn = (s.stack k).dn

namespace StackHeld

variable {k : Nat} {s u v : State}

theorem refl (s : State) : StackHeld k s s := ⟨rfl, rfl, rfl, rfl⟩

theorem trans (h : StackHeld k s u) (g : StackHeld k u v) : StackHeld k s v := by
  obtain ⟨hc, hw, hu, hd⟩ := h
  obtain ⟨gc, gw, gu, gd⟩ := g
  exact ⟨gc.trans hc, gw.trans hw, gu.trans hu, gd.trans hd⟩

theorem of_grants (h : u.grants = s.grants) : StackHeld k s u := by
  unfold StackHeld State.stack
  rw [h]
  exact ⟨rfl, rfl, rfl, rfl⟩

theorem modStack (s : State) (j : Nat) (g : Stack → Stack)
    (hg : (g (s.stack j)).cycle = (s.stack j).cycle ∧ (g (s.stack j)).write = (s.stack j).write ∧
      (g (s.stack j)).up = (s.stack j).up ∧ (g (s.stack j)).dn = (s.stack j).dn) : StackHeld k s (s.modStack j g) := by
  unfold StackHeld
  rw [State.stack_modStack]
  split
  case isTrue h =>
    obtain ⟨rfl, -⟩ := h
    exact hg
  case isFalse => exact ⟨rfl, rfl, rfl, rfl⟩

theorem foldl {α : Type} (f : State → α → State) (l : List α) (s : State) (h : ∀ x ∈ l, ∀ u, StackHeld k u (f u x)) :
    StackHeld k s (l.foldl f s) := by
  induction l generalizing s with
  | nil => exact refl s
  | cons x xs ih => exact (h x (by simp) s).trans (ih _ (fun y hy => h y (by simp [hy])))

end StackHeld

section Grants

variable {k : Nat} (s : State) (t : Nat)

theorem grants_setEv : (setEv s t).grants = s.grants := by
  unfold setEv
  split <;> rfl

theorem grants_resolveWaits : (resolveWaits s t).grants = s.grants := by
  unfold resolveWaits
  split
  · rfl
  · dsimp only
    split <;> rfl

theorem grants_noteMatrixEmpty : (noteMatrixEmpty s t).grants = s.grants := by
  unfold noteMatrixEmpty
  split
  · rw [grants_resolveWaits]
    split
    · exact grants_setEv s t
    · rfl
  · rfl

theorem grantStart_held (now : Nat) : StackHeld k s (grantStart s now t) := by
  unfold grantStart
  refine .trans (u := if (s.tile t).ctx.isSome then s.dropRequests t false true else s) ?_ (.of_grants rfl)
  split
  · exact .modStack s _ _ ⟨rfl, rfl, rfl, rfl⟩
  · exact .refl s

theorem grantStop_held : StackHeld k s (grantStop s t) := by
  refine .of_grants ?_
  unfold grantStop
  dsimp only
  split
  · split
    · exact grants_noteMatrixEmpty _ t
    · rfl
  · rfl

end Grants

/-- A stack at the boundary at array cycle `now`: a new slew table is taken over (R87, R89). -/
def atBoundary (now : Nat) (x : Stack) : Stack :=
  match x.write with
  | some v => { x with cycle := now, write := none, up := v.extractLsb' 0 32, dn := v.extractLsb' 32 32 }
  | none => { x with cycle := now }

theorem atBoundary_fields (now : Nat) (x : Stack) : (atBoundary now x).cycle = now ∧ (atBoundary now x).write = none ∧
    (∀ v, x.write = some v → (atBoundary now x).up = v.extractLsb' 0 32 ∧ (atBoundary now x).dn = v.extractLsb' 32 32) ∧
    (x.write = none → (atBoundary now x).up = x.up ∧ (atBoundary now x).dn = x.dn) := by
  unfold atBoundary
  cases hw : x.write with
  | some v => exact ⟨rfl, rfl, fun z hz => Option.some.inj hz ▸ ⟨rfl, rfl⟩, fun hz => (nomatch hz)⟩
  | none => exact ⟨rfl, rfl, fun z hz => (nomatch hz), fun _ => ⟨rfl, rfl⟩⟩

/-- A step boundary takes four array cycles, and takes over a new slew table (R87, R89). -/
theorem grantStep_stack (s : State) {k : Nat} (hk : k < 4) : ∃ u, exec (.grantStep k) s = .next u ∧
    (u.stack k).cycle = (s.stack k).cycle + 4 ∧ (u.stack k).write = none ∧
    (∀ v, (s.stack k).write = some v → (u.stack k).up = v.extractLsb' 0 32 ∧ (u.stack k).dn = v.extractLsb' 32 32) ∧
    ((s.stack k).write = none → (u.stack k).up = (s.stack k).up ∧ (u.stack k).dn = (s.stack k).dn) := by
  have hheld : ∃ u, exec (.grantStep k) s = .next u ∧ StackHeld k (s.modStack k (atBoundary ((s.stack k).cycle + 4))) u := by
    change ∃ u, execGrantStep k s = .next u ∧ _
    unfold execGrantStep
    rw [if_neg (by omega)]
    refine ⟨_, rfl, ?_⟩
    refine .trans ?_ (.foldl _ _ _ (fun r _ u => grantStop_held u r.1))
    refine .trans ?_ (.foldl _ _ _ (fun r _ u => grantStart_held u r.1 _))
    refine .trans ?_ (.modStack _ k _ ⟨rfl, rfl, rfl, rfl⟩)
    exact .modStack _ k _ ⟨rfl, rfl, rfl, rfl⟩
  obtain ⟨u, hexec, hcycle, hwrite, hup, hdn⟩ := hheld
  have hstack : (s.modStack k (atBoundary ((s.stack k).cycle + 4))).stack k = atBoundary ((s.stack k).cycle + 4) (s.stack k) := by
    rw [State.stack_modStack, if_pos ⟨rfl, hk⟩]
  rw [hstack] at hcycle hwrite hup hdn
  obtain ⟨hc, hw, hnew, hold⟩ := atBoundary_fields ((s.stack k).cycle + 4) (s.stack k)
  exact ⟨u, hexec, hcycle.trans hc, hwrite.trans hw, hup ▸ hdn ▸ hnew, hup ▸ hdn ▸ hold⟩

end Sys2Proof.Machine
end
section
/-! ## What a performed command leaves (R207, R244, R248, R379) -/

namespace Sys2Proof.Machine

theorem store_modCtx (s : State) (t : Nat) (f : Ctx → Ctx) (g : Nat) : ((s.modCtx t f).tile g).store = (s.tile g).store :=
  store_modTile_same s t _ (by intro; rfl) g

theorem store_modFabric (s : State) (t : Nat) (f : Fabric → Fabric) (g : Nat) : ((s.modFabric t f).tile g).store = (s.tile g).store :=
  store_modTile_same s t _ (by intro; rfl) g

section Pop

variable (s : State) (t : Nat)

theorem resolveWaits_beside : Beside s (resolveWaits s t) := by
  unfold resolveWaits
  split
  · exact .refl s
  · dsimp only
    refine .ite (fun _ => .trans (acquire_beside s t) (.modFabric _ t _ (fun h => ?_))) (fun _ => .refl s)
    rw [h]
    rfl

theorem store_resolveWaits (g : Nat) : ((resolveWaits s t).tile g).store = (s.tile g).store := by
  unfold resolveWaits
  split
  · rfl
  · dsimp only
    split
    · exact store_modFabric (acquire s t) t _ g
    · rfl

theorem noteEmpty_beside (q : Nat) : Beside s (noteEmpty s t q) := by
  unfold noteEmpty
  split
  · exact .ite (fun _ => setEv_beside s t) (fun _ => .refl s)
  · exact .refl s

theorem store_noteEmpty (q g : Nat) : ((noteEmpty s t q).tile g).store = (s.tile g).store := by
  unfold noteEmpty
  split
  · split
    · exact store_setEv s t g
    · rfl
  · rfl

theorem store_popQueue (q g : Nat) : ((popQueue s t q).tile g).store = (s.tile g).store := by
  unfold popQueue
  rw [store_resolveWaits, store_noteEmpty]
  exact store_modCtx s t _ g

/-- A command leaves its queue; the event flag aside its context is as it was. -/
theorem ctx_popQueue {c : Ctx} (hc : (s.tile t).ctx = some c) (q : Nat) :
    ∃ y, ((popQueue s t q).tile t).ctx = some y ∧ y.quiet = (c.setQueue q (c.queue q).tail).quiet := by
  have hbeside : Beside (s.modCtx t (fun c => c.setQueue q (c.queue q).tail)) (popQueue s t q) :=
    (noteEmpty_beside _ t q).trans (resolveWaits_beside _ t)
  exact hbeside.ctx_some (ctx_modCtx hc (fun c => c.setQueue q (c.queue q).tail))

end Pop

/-- A context without its flags, its event flag, its replay buffer and its queues: what a command's form may change is kept. -/
def Ctx.engines (c : Ctx) : Ctx :=
  { c with fflags := 0, flagsAt := 0, flagsNow := 0, ev := false, replay := [], vectorQ := [], matrixQ := [] }

theorem engines_quiet (c : Ctx) : c.quiet.engines = c.engines := rfl

theorem engines_raiseFlags (now : Nat) (fl : BitVec 6) (c : Ctx) : (raiseFlags now fl c).engines = c.engines := rfl

theorem engines_setQueue (c : Ctx) {q : Nat} (hq : q = 1 ∨ q = 2) (es : List QEntry) : (c.setQueue q es).engines = c.engines := by
  obtain rfl | rfl := hq
  · rfl
  · rfl

theorem queue_raiseFlags (now : Nat) (fl : BitVec 6) (c : Ctx) (q : Nat) : (raiseFlags now fl c).queue q = c.queue q := rfl

theorem queue_setQueue_self (c : Ctx) {q : Nat} (hq : q = 1 ∨ q = 2) (es : List QEntry) : (c.setQueue q es).queue q = es := by
  obtain rfl | rfl := hq
  · rfl
  · rfl

theorem queue_quiet (c : Ctx) (q : Nat) : c.quiet.queue q = c.queue q := rfl

/-- A command that is complete leaves its queue, with what it has changed. -/
theorem completes_pop {u : State} {t : Nat} {d : Ctx} {fl : BitVec 6} (hd : (u.tile t).ctx = some d) (now : Nat) {q : Nat}
    (hq : q = 1 ∨ q = 2) : ∃ y, ((popQueue (u.modCtx t (raiseFlags now fl)) t q).tile t).ctx = some y ∧ y.queue q = (d.queue q).tail ∧
      y.engines = d.engines ∧ ∀ g, ((popQueue (u.modCtx t (raiseFlags now fl)) t q).tile g).store = (u.tile g).store := by
  obtain ⟨y, hy, hquiet⟩ := ctx_popQueue (u.modCtx t (raiseFlags now fl)) t (ctx_modCtx hd (raiseFlags now fl)) q
  refine ⟨y, hy, ?_, ?_, fun g => ?_⟩
  · have hqueue : y.quiet.queue q = _ := congrArg (fun x : Ctx => x.queue q) hquiet
    rw [queue_quiet, queue_quiet, queue_setQueue_self _ hq, queue_raiseFlags] at hqueue
    exact hqueue
  · have hengines : y.quiet.engines = _ := congrArg Ctx.engines hquiet
    rw [engines_quiet, engines_quiet, engines_setQueue _ hq, engines_raiseFlags] at hengines
    exact hengines
  · rw [store_popQueue]
    exact store_modCtx u t _ g

section Complete

variable {s u : State} {t : Nat} {c d : Ctx} {e : QEntry} {rest : List QEntry} {i : Instr} {fl : BitVec 6} (hs : Still s)
  (hc : (s.tile t).ctx = some c) (hi : e.instr = some i) (hd : (u.tile t).ctx = some d)

include hs hc hi hd

/-- The head of the vector queue is complete, where nothing is under way (R207). -/
theorem vector_completes (hq : c.vectorQ = e :: rest) (hstop : c.stopV = false) (hperform : performVectorQueue s t c e i = .complete u fl)
    (hkept : d.vectorQ = c.vectorQ) : ∃ x y, exec (.vectorCommandPerform t) s = .next x ∧ (x.tile t).ctx = some y ∧ y.vectorQ = rest ∧
      y.engines = d.engines ∧ ∀ g, (x.tile g).store = (u.tile g).store := by
  obtain ⟨-, hpend, hreserved, -⟩ := hs
  obtain ⟨y, hy, hqueue, hengines, hstore⟩ := completes_pop (fl := fl) hd s.now (q := 1) (.inl rfl)
  refine ⟨_, y, ?_, hy, ?_, hengines, hstore⟩
  · rw [exec_vectorCommandPerform hc hq hi hstop, performHead_complete (headFree_of_quiet hpend hreserved t c e)
      (by rw [engineView_of_pend_nil hpend]; exact hperform), leaveView_of_pend_nil hpend]
  · refine hqueue.trans ?_
    change d.vectorQ.tail = rest
    rw [hkept, hq]
    rfl

/-- The head of the matrix queue is complete, where nothing is under way (R207). -/
theorem matrix_completes (hq : c.matrixQ = e :: rest) (hstop : c.stopM = false) (hpass : c.pass = none) (hform : (passOf i).isSome = false)
    (hperform : performMatrix s t c e i = some (.complete u fl)) (hkept : d.matrixQ = c.matrixQ) :
    ∃ x y, exec (.matrixCommandPerform t) s = .next x ∧ (x.tile t).ctx = some y ∧ y.matrixQ = rest ∧ y.engines = d.engines ∧
      ∀ g, (x.tile g).store = (u.tile g).store := by
  obtain ⟨-, hpend, hreserved, -⟩ := hs
  obtain ⟨y, hy, hqueue, hengines, hstore⟩ := completes_pop (fl := fl) hd s.now (q := 2) (.inr rfl)
  refine ⟨_, y, ?_, hy, ?_, hengines, hstore⟩
  · rw [exec_matrixCommandPerform hc hq hi hstop hpass hform, performHead_complete (headFree_of_quiet hpend hreserved t c e)
      (by rw [engineView_of_pend_nil hpend, hperform]; rfl), leaveView_of_pend_nil hpend]
  · refine hqueue.trans ?_
    change d.matrixQ.tail = rest
    rw [hkept, hq]
    rfl

end Complete

end Sys2Proof.Machine
end
section
/-! ## Lanes, masks and integer lanes (R245, R247, R250, R382) -/

namespace Sys2Proof.Machine

/-! ### Fields of a packed number -/

/-- Bits [k, k + w) of a number cut off above them are those of the number. -/
theorem field_of_cut {x k w n : Nat} (h : k + w ≤ n) : x % 2 ^ n / 2 ^ k % 2 ^ w = x / 2 ^ k % 2 ^ w := by
  refine Nat.eq_of_testBit_eq (fun i => ?_)
  rw [Nat.testBit_mod_two_pow, Nat.testBit_mod_two_pow, Nat.testBit_div_two_pow, Nat.testBit_div_two_pow, Nat.testBit_mod_two_pow]
  by_cases hi : i < w
  · simp [show i + k < n by omega]
  · simp [hi]

theorem extract_ofNat {x k w n : Nat} (h : k + w ≤ n) : ((BitVec.ofNat n x).extractLsb' k w).toNat = x / 2 ^ k % 2 ^ w := by
  rw [BitVec.extractLsb'_toNat, BitVec.toNat_ofNat, Nat.shiftRight_eq_div_pow, field_of_cut h]

theorem packNat_field (w : Nat) (ls : List Nat) (k : Nat) : packNat w ls / 2 ^ (w * k) % 2 ^ w = ls[k]?.getD 0 % 2 ^ w := by
  induction ls generalizing k with
  | nil => simp [packNat]
  | cons x xs ih =>
    cases k with
    | zero => simp [packNat]
    | succ k =>
      have hshift : packNat w (x :: xs) / 2 ^ w = packNat w xs := by
        rw [packNat, Nat.add_mul_div_left _ _ (Nat.two_pow_pos w), Nat.div_eq_of_lt (Nat.mod_lt _ (Nat.two_pow_pos w)), Nat.zero_add]
      rw [Nat.mul_succ, Nat.add_comm, Nat.pow_add, ← Nat.div_div_eq_div_mul, hshift, ih]
      rfl

theorem lane_lt (w : Nat) (x : VecReg) (i : Nat) : lane w x i < 2 ^ w := (x.extractLsb' (w * i) w).isLt

/-- A lane of a register of packed lanes (R245). -/
theorem lane_packLanes {w k : Nat} (hk : k < laneCount w) (ls : List Nat) : lane w (packLanes w ls) k = ls[k]?.getD 0 % 2 ^ w := by
  have hw : w * k + w ≤ 4096 := by
    calc w * k + w = w * (k + 1) := rfl
      _ ≤ w * laneCount w := Nat.mul_le_mul_left w hk
      _ ≤ 4096 := Nat.mul_div_le 4096 w
  rw [lane, packLanes, extract_ofNat hw, packNat_field]

/-- A bit of a packed mask (R389). -/
theorem getLsbD_packMask {k : Nat} (hk : k < 512) (bs : List Bool) : (packMask bs).getLsbD k = bs[k]?.getD false := by
  have hfield := packNat_field 1 (bs.map (fun b => if b then 1 else 0)) k
  rw [packMask, BitVec.getLsbD_ofNat, decide_eq_true hk, Bool.true_and, Nat.testBit_eq_decide_div_mod_eq]
  rw [Nat.one_mul, Nat.pow_one] at hfield
  rw [hfield, List.getElem?_map]
  cases h : bs[k]? with
  | none => rfl
  | some b => cases b <;> rfl

/-! ### Forming lanes (R247) -/

theorem getElem?_range_map {α : Type} (f : Nat → α) {n k : Nat} (hk : k < n) : ((List.range n).map f)[k]? = some (f k) := by
  simp [hk]

theorem lane_formLanes {w k : Nat} (hk : k < laneCount w) (old : VecReg) (act : Nat → Bool) (g : Nat → Nat × BitVec 6) :
    lane w (formLanes w old act g).1 k = if act k then (g k).1 % 2 ^ w else lane w old k := by
  unfold formLanes
  dsimp only
  rw [lane_packLanes hk, List.map_map, getElem?_range_map _ hk]
  dsimp only [Function.comp, Option.getD]
  split
  · rfl
  · exact Nat.mod_eq_of_lt (lane_lt w old k)

theorem lane_laneZero {w k : Nat} (hk : k < laneCount w) (r : Nat × BitVec 6) :
    lane w (laneZero w r).1 k = if k = 0 then r.1 % 2 ^ w else 0 := by
  rw [laneZero, lane_packLanes hk]
  cases k with
  | zero => rfl
  | succ k => rfl

/-! ### Integer lanes (R250, R382) -/

theorem typeBits_pos (t : Nat) : 0 < typeBits t := by unfold typeBits; split <;> decide

theorem wrapInt_lt (w : Nat) (x : Int) : wrapInt w x < 2 ^ w := by
  have hlt := Int.emod_lt_of_pos x (b := (2 ^ w : Int)) (by positivity)
  have hnonneg := Int.emod_nonneg x (b := (2 ^ w : Int)) (by positivity)
  unfold wrapInt
  zify
  rw [Int.toNat_of_nonneg hnonneg]
  exact hlt

theorem signedOf_eq_toInt {w x : Nat} (hw : 0 < w) (hx : x < 2 ^ w) : signedOf w x = (BitVec.ofNat w x).toInt := by
  obtain ⟨n, rfl⟩ : ∃ n, w = n + 1 := ⟨w - 1, by omega⟩
  have hpow : 2 ^ (n + 1) = 2 * 2 ^ n := by rw [Nat.pow_succ, Nat.mul_comm]
  rw [signedOf, BitVec.toInt_eq_toNat_cond, BitVec.toNat_ofNat, Nat.mod_eq_of_lt hx, Nat.add_sub_cancel]
  by_cases h : x < 2 ^ n
  · rw [if_pos h, if_pos (by omega)]
  · rw [if_neg h, if_neg (by omega)]
    push_cast
    rfl

/-- The value of an integer lane (R245). -/
theorem typeInt_eq {t x : Nat} (hx : x < 2 ^ typeBits t) : typeInt t x = if t = 1 then (x : Int) else (BitVec.ofNat (typeBits t) x).toInt := by
  unfold typeInt
  split
  case isTrue h =>
    subst h
    rw [Nat.mod_eq_of_lt (show x < 256 from hx)]
  case isFalse => exact signedOf_eq_toInt (typeBits_pos t) hx

theorem typeLo_le_typeHi (t : Nat) : typeLo t ≤ typeHi t := by
  unfold typeLo typeHi
  split
  · decide
  · have : (0 : Int) < 2 ^ (typeBits t - 1) := by positivity
    omega

/-- An integer result is wrapped, or saturated with SAT (R250). -/
theorem deliverInt_fst (t : Nat) (sat : Bool) (x : Int) :
    (deliverInt t sat x).1 = ((if sat then max (typeLo t) (min (typeHi t) x) else x) % (2 ^ typeBits t : Int)).toNat := by
  have hle := typeLo_le_typeHi t
  unfold deliverInt
  cases sat with
  | false => rfl
  | true =>
    have hclamp : (if x > typeHi t then typeHi t else if x < typeLo t then typeLo t else x) = max (typeLo t) (min (typeHi t) x) := by
      split_ifs <;> omega
    dsimp only
    rw [if_pos rfl, if_pos rfl, hclamp]
    rfl

theorem deliverInt_lt (t : Nat) (sat : Bool) (x : Int) : (deliverInt t sat x).1 < 2 ^ typeBits t := by
  rw [deliverInt_fst]
  exact wrapInt_lt _ _

/-! ### Comparing exact integers (R386) -/

theorem ofInt_not_nan (x : Int) : (FNum.ofInt x).isNan = false := rfl

theorem signedAt_ofInt (x : Int) : signedAt (decide (x < 0)) x.natAbs 0 0 = x := by
  have hscale : scaleTo x.natAbs 0 0 = x.natAbs := by simp [scaleTo]
  unfold signedAt
  rw [hscale]
  split
  case isTrue h =>
    have := of_decide_eq_true h
    omega
  case isFalse h =>
    have : ¬ x < 0 := by simpa using h
    omega

theorem lt_ofInt (x y : Int) : FNum.lt (.ofInt x) (.ofInt y) = decide (x < y) := by
  have hexp : minExp 0 0 = 0 := rfl
  unfold FNum.lt FNum.ofInt
  dsimp only
  rw [hexp, signedAt_ofInt, signedAt_ofInt]

theorem eqv_ofInt (x y : Int) : FNum.eqv (.ofInt x) (.ofInt y) = decide (x = y) := by
  rw [FNum.eqv, ofInt_not_nan, ofInt_not_nan, lt_ofInt, lt_ofInt]
  by_cases h : x = y
  · simp [h]
  · simp [h]
    omega

end Sys2Proof.Machine
end
section
/-! ## The vector and mask forms as they are performed (R245, R247, R250, R382 to R389) -/

namespace Sys2Proof.Machine

/-! ### Registers -/

theorem vreg_setV_same (c : Ctx) {n : Nat} (hn : n < 32) (x : VecReg) : (c.setV n x).vreg n = x := by
  simp [Ctx.vreg, Ctx.setV, hn]

theorem vreg_setV_ne (c : Ctx) {n r : Nat} (h : r ≠ n) (x : VecReg) : (c.setV n x).vreg r = c.vreg r := by
  simp [Ctx.vreg, Ctx.setV, h.symm]

theorem mreg_setM_same (c : Ctx) {n : Nat} (hn : n < 8) (x : MaskReg) : (c.setM n x).mreg n = x := by
  simp [Ctx.mreg, Ctx.setM, hn]

theorem mreg_setM_ne (c : Ctx) {n r : Nat} (h : r ≠ n) (x : MaskReg) : (c.setM n x).mreg r = c.mreg r := by
  simp [Ctx.mreg, Ctx.setM, h.symm]

/-! ### What a performed vector command gives -/

/-- Lane k of register n. -/
def laneAt (c : Ctx) (v : VField) (n : BitVec 5) (k : Nat) : Nat := lane v.width (c.vreg n.toNat) k

/-- The integer value of a lane. -/
def laneNum (v : VField) (x : Nat) : Int := if v.ty = 1 then x else (BitVec.ofNat v.width x).toInt

/-- An integer result as its lane holds it: wrapped, or saturated with SAT (R250). -/
def lanePut (v : VField) (x : Int) : Nat :=
  ((if v.sat then max (if v.ty = 1 then 0 else -(2 ^ (v.width - 1))) (min (if v.ty = 1 then 255 else 2 ^ (v.width - 1) - 1) x) else x) %
    (2 ^ v.width : Int)).toNat

/-- A float result as its lane holds it. -/
def laneRound (v : VField) (r : FNum × Bool) : Nat := (deliverNum (typeFmt v.code) v.rm.toNat v.sat r.1 r.2).1 % 2 ^ v.width

/-- The head of the vector queue performs instruction i, and a state and context follow of which p holds (R207). -/
def VectorGives (s : State) (t : Nat) (e : QEntry) (rest : List QEntry) (i : Instr) (p : State → Ctx → Prop) : Prop :=
  e.instr = some i → ∃ u y, exec (.vectorCommandPerform t) s = .next u ∧ (u.tile t).ctx = some y ∧ y.vectorQ = rest ∧ p u y

/-- Of the vector and mask registers just VD is written, with the lanes x. -/
def LanesBecome (c : Ctx) (v : VField) (x : Nat → Nat) (y : Ctx) : Prop :=
  y.m = c.m ∧ (∀ r, r ≠ v.vd.toNat → y.vreg r = c.vreg r) ∧ ∀ k, k < 4096 / v.width → lane v.width (y.vreg v.vd.toNat) k = x k

/-- Of the vector and mask registers just mask VD is written, with the low bits x. -/
def BitsBecome (c : Ctx) (v : VField) (many : Nat) (x : Nat → Bool) (y : Ctx) : Prop :=
  y.v = c.v ∧ (∀ r, r ≠ v.vd.toNat % 8 → y.mreg r = c.mreg r) ∧
    ∀ k, k < many → (y.mreg (v.vd.toNat % 8)).getLsbD k = if v.active c k then x k else (c.mreg (v.vd.toNat % 8)).getLsbD k

/-- The active lanes are x, the others as they were (R247). -/
def guardedLanes (c : Ctx) (v : VField) (x : Nat → Nat) (k : Nat) : Nat := if v.active c k then x k else laneAt c v v.vd k

theorem code_eq_one (v : VField) : v.code = 1 ↔ v.ty = 1 := by
  unfold VField.code
  exact ⟨fun h => BitVec.eq_of_toNat_eq h, fun h => by rw [h]; rfl⟩

theorem typeInt_eq_num (v : VField) {x : Nat} (hx : x < 2 ^ v.width) : typeInt v.code x = laneNum v x := by
  rw [typeInt_eq hx]
  simp only [laneNum, code_eq_one]
  rfl

theorem typeInt_lane (c : Ctx) (v : VField) (n : BitVec 5) (k : Nat) :
    typeInt v.code (lane v.width (c.vreg n.toNat) k) = laneNum v (laneAt c v n k) := typeInt_eq_num v (lane_lt _ _ _)

theorem deliverInt_eq_put (v : VField) (x : Int) : (deliverInt v.code v.sat x).1 = lanePut v x := by
  rw [deliverInt_fst]
  simp only [lanePut, typeLo, typeHi, code_eq_one]
  rfl

theorem put_mod (v : VField) (x : Int) : lanePut v x % 2 ^ v.width = lanePut v x :=
  Nat.mod_eq_of_lt (deliverInt_eq_put v x ▸ deliverInt_lt v.code v.sat x)

theorem at_lt (c : Ctx) (v : VField) (n : BitVec 5) (k : Nat) : laneAt c v n k < 2 ^ v.width := lane_lt _ _ _

theorem laneCount_le (v : VField) : laneCount v.width ≤ 512 := by
  unfold laneCount VField.width typeBits
  split <;> decide

/-- The vector queue's head, where nothing is under way and the queue is not stopped. -/
structure VectorHead (s : State) (t : Nat) (c : Ctx) (e : QEntry) (rest : List QEntry) : Prop where
  ctx : (s.tile t).ctx = some c
  queue : c.vectorQ = e :: rest
  stop : c.stopV = false
  still : Still s

section Forms

variable {s : State} {t : Nat} {c : Ctx} {e : QEntry} {rest : List QEntry} {v : VField} {i : Instr} (H : VectorHead s t c e rest)

include H

/-- A command that writes a vector register. -/
theorem gives_vector {r : VecReg} {fl : BitVec 6} {x : Nat → Nat}
    (hperform : performVectorQueue s t c e i = .complete (s.modCtx t (fun c => c.setV v.vd.toNat r)) fl)
    (hx : ∀ k, k < laneCount v.width → lane v.width r k = x k) : VectorGives s t e rest i (fun _ y => LanesBecome c v x y) := by
  intro hi
  obtain ⟨u, y, hexec, hy, hqueue, hengines, -⟩ := vector_completes H.still H.ctx hi
    (ctx_modCtx H.ctx (fun c => c.setV v.vd.toNat r)) H.queue H.stop hperform rfl
  have hv : y.v = (c.setV v.vd.toNat r).v := (congrArg Ctx.v hengines :)
  have hreg (n : Nat) : y.vreg n = (c.setV v.vd.toNat r).vreg n := by rw [Ctx.vreg, Ctx.vreg, hv]
  refine ⟨u, y, hexec, hy, hqueue, (congrArg Ctx.m hengines :), fun n hn => ?_, fun k hk => ?_⟩
  · rw [hreg, vreg_setV_ne c hn]
  · rw [hreg, vreg_setV_same c v.vd.isLt]
    exact hx k hk

/-- A command that forms every active lane (R247). -/
theorem gives_lanes {g : Nat → Nat × BitVec 6} {x : Nat → Nat}
    (hperform : performVectorQueue s t c e i = putVector s t v (formLanes v.width (c.vreg v.vd.toNat) (v.active c) g))
    (hx : ∀ k, k < laneCount v.width → (g k).1 % 2 ^ v.width = x k) :
    VectorGives s t e rest i (fun _ y => LanesBecome c v (guardedLanes c v x) y) :=
  gives_vector H hperform (fun k hk => by rw [lane_formLanes hk, hx k hk]; rfl)

/-- A command that writes a mask register. -/
theorem gives_mask {m : MaskReg} {fl : BitVec 6} {many : Nat} {x : Nat → Bool} (hperform : performVectorQueue s t c e i = putMask s t v m fl)
    (hx : ∀ k, k < many → m.getLsbD k = if v.active c k then x k else (c.mreg (v.vd.toNat % 8)).getLsbD k) :
    VectorGives s t e rest i (fun _ y => BitsBecome c v many x y) := by
  intro hi
  obtain ⟨u, y, hexec, hy, hqueue, hengines, -⟩ := vector_completes H.still H.ctx hi
    (ctx_modCtx H.ctx (fun c => c.setM (v.vd.toNat % 8) m)) H.queue H.stop hperform rfl
  have hm : y.m = (c.setM (v.vd.toNat % 8) m).m := (congrArg Ctx.m hengines :)
  have hreg (n : Nat) : y.mreg n = (c.setM (v.vd.toNat % 8) m).mreg n := by rw [Ctx.mreg, Ctx.mreg, hm]
  refine ⟨u, y, hexec, hy, hqueue, (congrArg Ctx.v hengines :), fun n hn => ?_, fun k hk => ?_⟩
  · rw [hreg, mreg_setM_ne c hn]
  · rw [hreg, mreg_setM_same c (Nat.mod_lt _ (by decide))]
    exact hx k hk

/-! ### Integer forms (R250, R382) -/

section Integer

variable (hcode : v.code < 5)

include hcode

omit H in
theorem int_of_code : typeIsFloat v.code = false := by
  rw [typeIsFloat, decide_eq_false_iff_not]
  omega

/-- An integer lane of two sources (R382). -/
theorem gives_int {int : Int → Int → Int} {float : FNum → FNum → FNum × Bool}
    (hperform : performVectorQueue s t c e i = putVector s t v (formPairs c v (arithLane v int float))) :
    VectorGives s t e rest i (fun _ y => LanesBecome c v
      (guardedLanes c v (fun k => lanePut v (int (laneNum v (laneAt c v v.va k)) (laneNum v (laneAt c v v.vb k))))) y) := by
  refine gives_lanes H hperform (fun k _ => ?_)
  unfold arithLane
  dsimp only
  rw [int_of_code hcode, if_neg Bool.false_ne_true, deliverInt_eq_put, put_mod, typeInt_lane, typeInt_lane]

/-- The old lane of VD is the addend (R382). -/
theorem vfma_gives (h : Hdr) : VectorGives s t e rest (.vfma h v) (fun _ y => LanesBecome c v (guardedLanes c v (fun k =>
    lanePut v (laneNum v (laneAt c v v.va k) * laneNum v (laneAt c v v.vb k) + laneNum v (laneAt c v v.vd k)))) y) := by
  refine gives_lanes H rfl (fun k _ => ?_)
  dsimp only
  rw [int_of_code hcode, if_neg Bool.false_ne_true, deliverInt_eq_put, put_mod, typeInt_lane, typeInt_lane, typeInt_lane]

theorem vmin_gives (h : Hdr) : VectorGives s t e rest (.vmin h v) (fun _ y => LanesBecome c v (guardedLanes c v (fun k =>
    if laneNum v (laneAt c v v.vb k) < laneNum v (laneAt c v v.va k) then laneAt c v v.vb k else laneAt c v v.va k)) y) := by
  refine gives_lanes H rfl (fun k _ => ?_)
  unfold pickLane
  dsimp only
  rw [int_of_code hcode, if_neg Bool.false_ne_true, if_neg Bool.false_ne_true, typeInt_lane, typeInt_lane]
  split
  · exact Nat.mod_eq_of_lt (at_lt c v v.vb k)
  · exact Nat.mod_eq_of_lt (at_lt c v v.va k)

theorem vmax_gives (h : Hdr) : VectorGives s t e rest (.vmax h v) (fun _ y => LanesBecome c v (guardedLanes c v (fun k =>
    if laneNum v (laneAt c v v.va k) < laneNum v (laneAt c v v.vb k) then laneAt c v v.vb k else laneAt c v v.va k)) y) := by
  refine gives_lanes H rfl (fun k _ => ?_)
  unfold pickLane
  dsimp only
  rw [int_of_code hcode, if_neg Bool.false_ne_true, if_pos rfl, typeInt_lane, typeInt_lane]
  split
  · exact Nat.mod_eq_of_lt (at_lt c v v.vb k)
  · exact Nat.mod_eq_of_lt (at_lt c v v.va k)

theorem vabs_gives (h : Hdr) : VectorGives s t e rest (.vabs h v) (fun _ y => LanesBecome c v (guardedLanes c v (fun k =>
    lanePut v ((laneNum v (laneAt c v v.va k)).natAbs : Int))) y) := by
  refine gives_lanes H rfl (fun k _ => ?_)
  dsimp only
  rw [int_of_code hcode, if_neg Bool.false_ne_true, deliverInt_eq_put, put_mod, typeInt_lane]

theorem vneg_gives (h : Hdr) : VectorGives s t e rest (.vneg h v) (fun _ y => LanesBecome c v (guardedLanes c v (fun k =>
    lanePut v (-laneNum v (laneAt c v v.va k)))) y) := by
  refine gives_lanes H rfl (fun k _ => ?_)
  dsimp only
  rw [int_of_code hcode, if_neg Bool.false_ne_true, deliverInt_eq_put, put_mod, typeInt_lane]

/-- A reduction leaves the sum of the active lanes in lane 0 (R388). -/
theorem vredadd_gives (h : Hdr) : VectorGives s t e rest (.vredadd h v) (fun _ y => LanesBecome c v (fun k => if k = 0 then
    lanePut v ((((List.range (4096 / v.width)).filter (v.active c)).map (fun i => laneNum v (laneAt c v v.va i))).foldl (· + ·) 0)
    else 0) y) := by
  have hsum : (activeLanes c v).map (typeInt v.code) =
      ((List.range (4096 / v.width)).filter (v.active c)).map (fun i => laneNum v (laneAt c v v.va i)) := by
    unfold activeLanes
    rw [List.map_map]
    exact List.map_congr_left (fun i _ => typeInt_lane c v v.va i)
  refine gives_vector H rfl (fun k hk => ?_)
  unfold vredaddResult
  dsimp only
  rw [int_of_code hcode, if_neg Bool.false_ne_true, lane_laneZero hk, hsum, deliverInt_eq_put, put_mod]

omit H in
/-- An integer compare of two lanes (R386). -/
theorem compareLanes_int (a b : Nat) {cond : BitVec 4} (hcond : cond.toNat < 6) : (compareLanes v.code cond.toNat a b).1 =
    let x := typeInt v.code a
    let y := typeInt v.code b
    if cond = 0 then decide (x = y) else if cond = 1 then decide (x ≠ y) else if cond = 2 then decide (x < y)
    else if cond = 3 then decide (x ≤ y) else if cond = 4 then decide (y < x) else decide (y ≤ x) := by
  have hnum (z : Nat) : typeNum v.code z = .ofInt (typeInt v.code z) := by
    rw [typeNum, int_of_code hcode, if_neg Bool.false_ne_true]
  have hle (x y : Int) : (decide (x < y) || decide (x = y)) = decide (x ≤ y) := by
    rw [← Bool.decide_or]
    exact decide_eq_decide.mpr le_iff_lt_or_eq.symm
  have hcases : cond = 0 ∨ cond = 1 ∨ cond = 2 ∨ cond = 3 ∨ cond = 4 ∨ cond = 5 := by bv_omega
  unfold compareLanes
  rw [hnum, hnum]
  obtain rfl | rfl | rfl | rfl | rfl | rfl := hcases
  · exact eqv_ofInt _ _
  · change (!FNum.eqv _ _) = decide (¬ _ = _)
    rw [eqv_ofInt, decide_not]
  · exact lt_ofInt _ _
  · change (FNum.lt _ _ || FNum.eqv _ _) = decide (_ ≤ _)
    rw [eqv_ofInt, lt_ofInt, hle]
  · exact lt_ofInt _ _
  · change (FNum.lt _ _ || FNum.eqv (.ofInt (typeInt v.code a)) (.ofInt (typeInt v.code b))) = decide (typeInt v.code b ≤ typeInt v.code a)
    rw [eqv_ofInt, lt_ofInt, ← hle]
    simp only [eq_comm]

theorem vcmp_gives (h : Hdr) {cond : BitVec 4} (hcond : cond.toNat < 6) : VectorGives s t e rest (.vcmp h cond v)
    (fun _ y => BitsBecome c v (4096 / v.width) (fun k =>
      let x := laneNum v (laneAt c v v.va k)
      let y := laneNum v (laneAt c v v.vb k)
      if cond = 0 then decide (x = y) else if cond = 1 then decide (x ≠ y) else if cond = 2 then decide (x < y)
      else if cond = 3 then decide (x ≤ y) else if cond = 4 then decide (y < x) else decide (y ≤ x)) y) := by
  have hperform : performVectorQueue s t c e (.vcmp h cond v) =
      putMask s t v (vcmpResult c cond.toNat v).1 (vcmpResult c cond.toNat v).2 := rfl
  refine gives_mask H hperform (fun k hk => ?_)
  unfold vcmpResult
  dsimp only
  rw [getLsbD_packMask (lt_of_lt_of_le hk (laneCount_le v)), List.map_map, getElem?_range_map (n := laneCount v.width) _ hk]
  dsimp only [Function.comp, Option.getD]
  split
  · rw [compareLanes_int hcode _ _ hcond, typeInt_lane, typeInt_lane]
  · rfl

end Integer

/-! ### Counts -/

theorem viota_gives (h : Hdr) : VectorGives s t e rest (.viota h v) (fun _ y => LanesBecome c v (guardedLanes c v (fun k =>
    lanePut v ((((List.range k).filter (v.picks c)).length : Nat) : Int))) y) :=
  gives_lanes H rfl (fun k _ => by rw [deliverInt_eq_put, put_mod])

theorem mpopc_gives (h : Hdr) : VectorGives s t e rest (.mpopc h v) (fun _ y => LanesBecome c v (fun k => if k = 0 then
    lanePut v ((((List.range (4096 / v.width)).filter
      (fun i => (c.mreg (v.va.toNat % 8)).getLsbD i && v.active c i)).length : Nat) : Int) else 0) y) := by
  refine gives_vector H rfl (fun k hk => ?_)
  unfold mpopcResult
  dsimp only
  rw [lane_laneZero hk, deliverInt_eq_put, put_mod]
  rfl

/-! ### Float forms (R250, R382) -/

/-- A float lane of two sources, formed once from the exact value (R382). -/
theorem gives_float (hcode : 5 ≤ v.code) {int : Int → Int → Int} {float : FNum → FNum → FNum × Bool}
    (hperform : performVectorQueue s t c e i = putVector s t v (formPairs c v (arithLane v int float))) :
    VectorGives s t e rest i (fun _ y => LanesBecome c v (guardedLanes c v (fun k => laneRound v
      (float (decodeFloat (typeFmt v.code) (laneAt c v v.va k)) (decodeFloat (typeFmt v.code) (laneAt c v v.vb k))))) y) := by
  have hfloat : typeIsFloat v.code = true := decide_eq_true hcode
  refine gives_lanes H hperform (fun k _ => ?_)
  unfold arithLane typeNum
  dsimp only
  rw [hfloat, if_pos rfl, if_pos rfl, if_pos rfl]
  rfl

/-! ### Bits and moves (R383, R387) -/

theorem vand_gives (h : Hdr) : VectorGives s t e rest (.vand h v) (fun _ y => LanesBecome c v (guardedLanes c v (fun k =>
    laneAt c v v.va k &&& laneAt c v v.vb k)) y) :=
  gives_lanes H rfl (fun k _ => Nat.mod_eq_of_lt (Nat.and_lt_two_pow _ (at_lt c v v.vb k)))

theorem vor_gives (h : Hdr) : VectorGives s t e rest (.vor h v) (fun _ y => LanesBecome c v (guardedLanes c v (fun k =>
    laneAt c v v.va k ||| laneAt c v v.vb k)) y) :=
  gives_lanes H rfl (fun k _ => Nat.mod_eq_of_lt (Nat.or_lt_two_pow (at_lt c v v.va k) (at_lt c v v.vb k)))

theorem vxor_gives (h : Hdr) : VectorGives s t e rest (.vxor h v) (fun _ y => LanesBecome c v (guardedLanes c v (fun k =>
    laneAt c v v.va k ^^^ laneAt c v v.vb k)) y) :=
  gives_lanes H rfl (fun k _ => Nat.mod_eq_of_lt (Nat.xor_lt_two_pow (at_lt c v v.va k) (at_lt c v v.vb k)))

theorem vshl_gives (h : Hdr) : VectorGives s t e rest (.vshl h v) (fun _ y => LanesBecome c v (guardedLanes c v (fun k =>
    laneAt c v v.va k * 2 ^ (laneAt c v v.vb k % v.width) % 2 ^ v.width)) y) :=
  gives_lanes H rfl (fun _ _ => Nat.mod_mod _ _)

theorem vshr_gives (h : Hdr) : VectorGives s t e rest (.vshr h v) (fun _ y => LanesBecome c v (guardedLanes c v (fun k =>
    (laneNum v (laneAt c v v.va k) / (2 ^ (laneAt c v v.vb k % v.width) : Int) % (2 ^ v.width : Int)).toNat)) y) := by
  refine gives_lanes H rfl (fun k _ => ?_)
  dsimp only
  rw [typeInt_lane]
  exact Nat.mod_eq_of_lt (wrapInt_lt _ _)

theorem vbcst_gives (h : Hdr) : VectorGives s t e rest (.vbcst h v) (fun _ y => LanesBecome c v (guardedLanes c v (fun _ =>
    e.left.toNat % 2 ^ v.width)) y) := gives_lanes H rfl (fun _ _ => Nat.mod_mod _ _)

theorem vins_gives (h : Hdr) : VectorGives s t e rest (.vins h v) (fun _ y => LanesBecome c v (fun k =>
    if k = e.right.toNat % (4096 / v.width) ∧ (v.me = false ∨ (c.mreg v.mg.toNat).getLsbD k = true) then e.left.toNat % 2 ^ v.width
    else laneAt c v v.vd k) y) := by
  have hactive (k : Nat) : v.active c k = true ↔ (v.me = false ∨ (c.mreg v.mg.toNat).getLsbD k = true) := by
    simp [VField.active, guarded]
  refine gives_vector H rfl (fun k hk => ?_)
  unfold vinsResult
  dsimp only
  rw [lane_formLanes hk]
  refine if_congr ?_ (Nat.mod_mod _ _) rfl
  rw [Bool.and_eq_true, decide_eq_true_eq, hactive]
  rfl

theorem vsel_gives (h : Hdr) : VectorGives s t e rest (.vsel h v) (fun _ y => LanesBecome c v (guardedLanes c v (fun k =>
    if v.picks c k then laneAt c v v.va k else laneAt c v v.vb k)) y) := by
  refine gives_lanes H rfl (fun k _ => ?_)
  dsimp only
  split
  · exact Nat.mod_eq_of_lt (at_lt c v v.va k)
  · exact Nat.mod_eq_of_lt (at_lt c v v.vb k)

theorem vperm_gives (h : Hdr) : VectorGives s t e rest (.vperm h v) (fun _ y => LanesBecome c v (guardedLanes c v (fun k =>
    if v.width = 8 then laneAt c v v.va (k / 256 * 256 + laneAt c v v.vb k)
    else laneAt c v v.va (laneAt c v v.vb k % (4096 / v.width)))) y) := by
  refine gives_lanes H rfl (fun k hk => ?_)
  dsimp only
  rw [Nat.mod_eq_of_lt (lane_lt _ _ _)]
  by_cases hw : v.width = 8
  · rw [hw, laneCount] at hk
    rw [if_pos hw, if_pos hw, Nat.mod_eq_of_lt (show k / 256 < 2 by omega)]
    rfl
  · rw [if_neg hw, if_neg hw]
    rfl

theorem vcmpr_gives (h : Hdr) : VectorGives s t e rest (.vcmpr h v) (fun _ y => LanesBecome c v (fun k =>
    ((((List.range (4096 / v.width)).filter (v.picks c))[k]?).map (laneAt c v v.va)).getD 0) y) := by
  refine gives_vector H rfl (fun k hk => ?_)
  unfold vcmprResult
  dsimp only
  rw [lane_packLanes hk, List.getElem?_map, laneCount]
  cases ((List.range (4096 / v.width)).filter (v.picks c))[k]? with
  | none => exact Nat.zero_mod _
  | some j => exact Nat.mod_eq_of_lt (at_lt c v v.va j)

/-! ### Mask forms (R389) -/

omit H in
theorem getLsbD_merge {n : Nat} (old new g : BitVec n) {k : Nat} (hk : k < n) :
    ((old &&& ~~~g) ||| (new &&& g)).getLsbD k = if g.getLsbD k then new.getLsbD k else old.getLsbD k := by
  rw [BitVec.getLsbD_or, BitVec.getLsbD_and, BitVec.getLsbD_and, BitVec.getLsbD_not, decide_eq_true hk]
  cases g.getLsbD k with
  | false => simp
  | true => simp

omit H in
theorem getLsbD_maskResult (c : Ctx) (v : VField) (op : MaskReg → MaskReg → MaskReg) {k : Nat} (hk : k < 512) :
    (maskResult c v op).getLsbD k = if v.active c k then (op (c.mreg (v.va.toNat % 8)) (c.mreg (v.vb.toNat % 8))).getLsbD k
      else (c.mreg (v.vd.toNat % 8)).getLsbD k := by
  have hguard : (if v.me then c.mreg v.mg.toNat else BitVec.allOnes 512).getLsbD k = v.active c k := by
    unfold VField.active guarded
    cases v.me with
    | false => rw [if_neg Bool.false_ne_true, BitVec.getLsbD_allOnes, decide_eq_true hk]; rfl
    | true => rfl
  unfold maskResult
  dsimp only
  rw [getLsbD_merge _ _ _ hk, hguard]

theorem mand_gives (h : Hdr) : VectorGives s t e rest (.mand h v) (fun _ y => BitsBecome c v 512 (fun k =>
    (c.mreg (v.va.toNat % 8)).getLsbD k && (c.mreg (v.vb.toNat % 8)).getLsbD k) y) :=
  gives_mask H (m := maskResult c v (· &&& ·)) (fl := 0) rfl (fun k hk => by rw [getLsbD_maskResult c v _ hk, BitVec.getLsbD_and])

theorem mor_gives (h : Hdr) : VectorGives s t e rest (.mor h v) (fun _ y => BitsBecome c v 512 (fun k =>
    (c.mreg (v.va.toNat % 8)).getLsbD k || (c.mreg (v.vb.toNat % 8)).getLsbD k) y) :=
  gives_mask H (m := maskResult c v (· ||| ·)) (fl := 0) rfl (fun k hk => by rw [getLsbD_maskResult c v _ hk, BitVec.getLsbD_or])

theorem mnot_gives (h : Hdr) : VectorGives s t e rest (.mnot h v) (fun _ y => BitsBecome c v 512 (fun k =>
    !(c.mreg (v.va.toNat % 8)).getLsbD k) y) :=
  gives_mask H (m := maskResult c v (fun a _ => ~~~a)) (fl := 0) rfl (fun k hk => by
    rw [getLsbD_maskResult c v _ hk, BitVec.getLsbD_not, decide_eq_true hk, Bool.true_and])

end Forms

end Sys2Proof.Machine
end
section
/-! ## The consecutive vector memory forms (R249, R248, R390, R391) -/

namespace Sys2Proof.Machine

theorem mread_lt (m : Memory) (a n : Nat) : mread m a n < 256 ^ n := by
  induction n generalizing a with
  | zero => exact Nat.one_pos
  | succ n ih =>
    have hbyte : (mget m a).toNat < 256 := (mget m a).isLt
    have hrest := ih (a + 1)
    rw [mread, Nat.pow_succ]
    omega

/-! ### Filling lines (R248) -/

section Fill

variable {u : State} {t : Nat}

theorem fillLines_beside (u : State) (t : Nat) (ls : List Nat) : Beside u (fillLines u t ls) :=
  .foldl _ ls u (fun _ _ u => (fillRaw_beside u _).trans (wake_beside _))

theorem fillPlace_of_stable (h : Stable u) (l : Nat) : fillPlace u (.scratch t (128 * l)) = fillLine u t l false := by
  have hline : 128 * l / 128 = l := by omega
  unfold fillPlace fillRaw
  dsimp only
  rw [hline, wake_of_pend_nil _ (h.fillLine t l false).pend]

/-- Lines that are filled are full, and memory is as it was. -/
theorem fillLines_of_stable (h : Stable u) (ht : t < 192) (ls : List Nat) : ((fillLines u t ls).tile t).mem = (u.tile t).mem ∧
    ∀ l, (l ∈ ls ∨ (lineState u t l).full = true) → (lineState (fillLines u t ls) t l).full = true := by
  unfold fillLines
  induction ls generalizing u with
  | nil => exact ⟨rfl, fun l hl => by simpa using hl⟩
  | cons x xs ih =>
    rw [List.foldl_cons, fillPlace_of_stable h]
    obtain ⟨hmem, hfull⟩ := ih (h.fillLine t x false)
    obtain ⟨hm, hl, -⟩ := store_parts ((store_fillLine u t x false t).trans (store_setLine ht x _))
    refine ⟨hmem.trans hm, fun l hl' => hfull l ?_⟩
    have hline : lineState (fillLine u t x false) t l = if l = x then { full := true, poison := false } else lineState u t l := by
      unfold lineState
      rw [hl, tget_tset _ _ _ _ _ (h.tile t).lines]
    rw [hline]
    by_cases hx : l = x
    · simp [hx]
    · simpa [hx] using hl'

end Fill

/-! ### Lanes in memory -/

section Lanes

variable (v : VField)

theorem width_eq : v.width = 8 * v.bytes := by
  unfold VField.bytes VField.width typeBits
  split <;> rfl

theorem lanes_bytes : laneCount v.width * v.bytes = 512 := by
  unfold laneCount VField.bytes VField.width typeBits
  split <;> rfl

theorem active_of_unguarded {c : Ctx} {v : VField} (hme : v.me = false) (k : Nat) : v.active c k = true := by
  rw [VField.active, guarded, hme]
  rfl

theorem activeOffsets_of_unguarded {c : Ctx} {v : VField} (hme : v.me = false) (off : Nat → Int) :
    activeOffsets c v off = (List.range (laneCount v.width)).map (fun i => (i, off i)) := by
  rw [activeOffsets, List.filter_eq_self.mpr (fun k _ => active_of_unguarded hme k)]

theorem lanesFault_none {k : CapReg} {n : Nat} {offs : List Int} (h : ∀ o ∈ offs, laneFault k n o = none) : lanesFault k n offs = none := by
  have hfind : offs.find? (fun o => (laneFault k n o).isSome) = none := by
    rw [List.find?_eq_none]
    intro o ho
    rw [h o ho]
    exact Bool.false_ne_true
  rw [lanesFault, hfind]

theorem laneByte_unit (k : CapReg) (left : Word) (i : Nat) :
    laneByte k (unitOffset v left i) = k.base.toNat + left.toNat + i * v.bytes := by
  unfold laneByte unitOffset
  omega

/-- Byte j of lane i of a register (R391). -/
theorem byte_of_lane (r : VecReg) (i : Nat) {j : Nat} (hj : j < v.bytes) :
    BitVec.ofNat 8 (lane v.width r i / 256 ^ j) = r.extractLsb' (8 * (i * v.bytes + j)) 8 := by
  have hw := width_eq v
  refine BitVec.eq_of_toNat_eq ?_
  rw [lane, BitVec.toNat_ofNat, BitVec.extractLsb'_toNat, BitVec.extractLsb'_toNat, Nat.shiftRight_eq_div_pow, Nat.shiftRight_eq_div_pow,
    show 256 ^ j = 2 ^ (8 * j) from (Nat.pow_mul 2 8 j).symm, field_of_cut (by omega), Nat.div_div_eq_div_mul, ← Nat.pow_add]
  congr 3
  rw [hw]
  ring

end Lanes

/-! ### VLD (R391) -/

section Memory

variable {s : State} {t : Nat} {c : Ctx} {e : QEntry} {rest : List QEntry} {v : VField} (H : VectorHead s t c e rest) (hme : v.me = false)
  (hfault : ∀ i, i < laneCount v.width → laneFault (e.cap 0) v.bytes (unitOffset v e.left i) = none)

include H hme hfault

omit H in
theorem unit_unfaulted : lanesFault (e.cap 0) v.bytes ((activeOffsets c v (unitOffset v e.left)).map (·.2)) = none := by
  rw [activeOffsets_of_unguarded hme, List.map_map]
  refine lanesFault_none (fun o ho => ?_)
  obtain ⟨i, hi, rfl⟩ := List.mem_map.mp ho
  exact hfault i (List.mem_range.mp hi)

/-- VLD brings the lanes' bytes (R391). -/
theorem vld_gives (h : Hdr) (hread : ∀ i, i < laneCount v.width →
      readable s t c.id ((e.cap 0).base.toNat + e.left.toNat + i * v.bytes) v.bytes = true ∧
      poisonedAt s t ((e.cap 0).base.toNat + e.left.toNat + i * v.bytes) v.bytes = none) :
    VectorGives s t e rest (.vld h v) (fun _ y => LanesBecome c v (fun i =>
      mread (s.tile t).mem ((e.cap 0).base.toNat + e.left.toNat + i * v.bytes) v.bytes) y) := by
  have hlane (l : Nat × Int) (hl : l ∈ activeOffsets c v (unitOffset v e.left)) :
      readable s t c.id (laneByte (e.cap 0) l.2) v.bytes = true ∧ poisonedAt s t (laneByte (e.cap 0) l.2) v.bytes = none := by
    rw [activeOffsets_of_unguarded hme] at hl
    obtain ⟨i, hi, rfl⟩ := List.mem_map.mp hl
    rw [laneByte_unit]
    exact hread i (List.mem_range.mp hi)
  have hready : (activeOffsets c v (unitOffset v e.left)).any (fun l => !readable s t c.id (laneByte (e.cap 0) l.2) v.bytes) = false := by
    rw [List.any_eq_false]
    intro l hl
    rw [(hlane l hl).1]
    exact Bool.false_ne_true
  have hclean : (activeOffsets c v (unitOffset v e.left)).find? (fun l => (poisonedAt s t (laneByte (e.cap 0) l.2) v.bytes).isSome) = none := by
    rw [List.find?_eq_none]
    intro l hl
    rw [(hlane l hl).2]
    exact Bool.false_ne_true
  have hperform : performVectorQueue s t c e (.vld h v) = .complete (s.modCtx t (fun y => y.setV v.vd.toNat
      (formLanes v.width (c.vreg v.vd.toNat) (v.active c) (fun i =>
        (mread (s.tile t).mem (laneByte (e.cap 0) (unitOffset v e.left i)) v.bytes, 0))).1)) 0 := by
    change performLoad s t c e v (unitOffset v e.left) = _
    unfold performLoad
    dsimp only
    rw [unit_unfaulted hme hfault, hready, hclean]
    rfl
  refine gives_vector H hperform (fun k hk => ?_)
  rw [lane_formLanes hk, active_of_unguarded hme, if_pos rfl, laneByte_unit]
  refine Nat.mod_eq_of_lt (lt_of_lt_of_eq (mread_lt _ _ _) ?_)
  rw [width_eq, Nat.pow_mul]

/-! ### VST (R248, R391) -/

omit H hme hfault in
/-- The lanes of a register as they are written one after another. -/
theorem unitLanes_written (hs : Stable s) (ht : t < 192) (r : VecReg) {off : Nat} (hoff : off + 512 ≤ 0x3E0000) {m : Nat} (hm : m ≤ laneCount v.width) :
    let u := (List.range m).foldl (fun s i => writeScratch s t (off + i * v.bytes) (bytesOf v.bytes (lane v.width r i))) s
    Stable u ∧ ∀ x, mget (u.tile t).mem x = if off ≤ x ∧ x < off + m * v.bytes then r.extractLsb' (8 * (x - off)) 8
      else mget (s.tile t).mem x := by
  induction m with
  | zero => exact ⟨hs, fun x => by rw [if_neg (by omega)]; rfl⟩
  | succ m ih =>
    obtain ⟨hstable, hmem⟩ := ih (by omega)
    have hend : (m + 1) * v.bytes ≤ 512 := lanes_bytes v ▸ Nat.mul_le_mul_right v.bytes hm
    rw [Nat.succ_mul] at hend
    rw [List.range_succ, List.foldl_append]
    generalize (List.range m).foldl (fun s i => writeScratch s t (off + i * v.bytes) (bytesOf v.bytes (lane v.width r i))) s = u at hstable hmem
    dsimp only [List.foldl_cons, List.foldl_nil]
    rw [writeScratch_share u t (by rw [length_bytesOf]; omega)]
    refine ⟨hstable.putScratch t _ _, fun x => ?_⟩
    obtain ⟨hput, -, -⟩ := store_parts (store_putScratch (s := u) ht (off + m * v.bytes) (bytesOf v.bytes (lane v.width r m)))
    rw [hput, mget_mwriteBytes_bytesOf (hstable.tile t).mem, hmem, Nat.succ_mul m v.bytes]
    by_cases hx : off + m * v.bytes ≤ x ∧ x < off + m * v.bytes + v.bytes
    · rw [if_pos hx, if_pos (by omega), byte_of_lane v r m (by omega)]
      congr 2
      omega
    · rw [if_neg hx]
      refine if_congr ?_ rfl rfl
      omega

/-- VST writes the register's bytes, and sets its emptied lines full (R248, R391). -/
theorem vst_gives (h : Hdr) (hoff : (e.cap 0).base.toNat + e.left.toNat + 512 ≤ 0x3E0000) :
    VectorGives s t e rest (.vst h v) (fun u y => y.v = c.v ∧ y.m = c.m ∧ (∀ l ∈ e.empties, (lineState u t l).full = true) ∧
      ∀ x, mget (u.tile t).mem x = if (e.cap 0).base.toNat + e.left.toNat ≤ x ∧ x < (e.cap 0).base.toNat + e.left.toNat + 512 then
        (c.vreg v.vd.toNat).extractLsb' (8 * (x - ((e.cap 0).base.toNat + e.left.toNat))) 8 else mget (s.tile t).mem x) := by
  have hs := stable_of_still H.still
  have ht := tile_lt_of_ctx H.ctx
  have hwritten : writeLanes s t c (e.cap 0) v (activeOffsets c v (unitOffset v e.left)) =
      (List.range (laneCount v.width)).foldl (fun s i => writeScratch s t ((e.cap 0).base.toNat + e.left.toNat + i * v.bytes)
        (bytesOf v.bytes (lane v.width (c.vreg v.vd.toNat) i))) s := by
    rw [writeLanes, activeOffsets_of_unguarded hme, List.foldl_map]
    simp only [laneByte_unit]
  obtain ⟨hstable, hmem⟩ := unitLanes_written hs ht (c.vreg v.vd.toNat) hoff (le_refl (laneCount v.width))
  rw [← hwritten] at hstable hmem
  have hperform : performVectorQueue s t c e (.vst h v) =
      .complete (fillLines (writeLanes s t c (e.cap 0) v (activeOffsets c v (unitOffset v e.left))) t e.empties) 0 := by
    change performStore s t c e v (unitOffset v e.left) = _
    unfold performStore
    dsimp only
    rw [unit_unfaulted hme hfault, if_neg]
    simp [writeHeld_of_quiet hs.pend hs.reserved]
  have hbeside : Beside s (fillLines (writeLanes s t c (e.cap 0) v (activeOffsets c v (unitOffset v e.left))) t e.empties) :=
    (Beside.foldl _ _ s (fun l _ u => writeScratch_beside u t _ _)).trans (fillLines_beside _ t _)
  obtain ⟨d, hd, hquiet⟩ := hbeside.ctx_some H.ctx
  obtain ⟨hfillmem, hfull⟩ := fillLines_of_stable hstable ht e.empties
  intro hi
  obtain ⟨u, y, hexec, hy, hqueue, hengines, hstore⟩ := vector_completes H.still H.ctx hi hd H.queue H.stop hperform
    (congrArg Ctx.vectorQ hquiet :)
  have hside : y.engines = c.engines := hengines.trans (by rw [← engines_quiet d, hquiet, engines_quiet])
  obtain ⟨hm, hl, -⟩ := store_parts (hstore t)
  refine ⟨u, y, hexec, hy, hqueue, (congrArg Ctx.v hside :), (congrArg Ctx.m hside :), fun l hl' => ?_, fun x => ?_⟩
  · unfold lineState
    rw [hl]
    exact hfull l (.inl hl')
  · rw [hm, hfillmem, hmem, lanes_bytes]

end Memory

end Sys2Proof.Machine
end
section
/-! ## Tables and bytes as the array reads and writes them -/

namespace Sys2Proof.Machine

/-! ### Tables -/

/-- A table after a range of keys is cleared. -/
theorem tget_tclear {α : Type} (d : α) (t : Table α) (a b i : Nat) (lo : Option Nat) (h : tsorted lo t = true) :
    tget d (tclear t a b) i = if a ≤ i ∧ i < b then d else tget d t i := by
  induction t generalizing lo with
  | nil => exact (ite_self d).symm
  | cons x t ih =>
    obtain ⟨k, x⟩ := x
    obtain ⟨-, hsorted⟩ := Bool.and_eq_true_iff.mp h
    have hrest := ih (some k) hsorted
    unfold tclear at hrest ⊢
    rw [List.filter_cons]
    by_cases hk : a ≤ k ∧ k < b
    · rw [if_neg (by simp [hk]), hrest, tget]
      by_cases hi : a ≤ i ∧ i < b
      · rw [if_pos hi, if_pos hi]
      · rw [if_neg hi, if_neg hi, if_neg (show k ≠ i by omega)]
        split
        · exact tget_below d t i k hsorted (by omega)
        · rfl
    · rw [if_pos (by simp; omega), tget, tget, hrest]
      by_cases hi : a ≤ i ∧ i < b
      · rw [if_pos hi, if_pos hi, if_neg (by rintro rfl; exact hk hi), ite_self]
      · rw [if_neg hi, if_neg hi]

/-- A table listed in the order of its keys, without its default entries. -/
theorem tget_listing {α : Type} (d : α) (p : Nat → Prop) [DecidablePred p] (f : Nat → α) (lo n i : Nat) :
    tget d ((List.range' lo n).filterMap (fun k => if p k then none else some (k, f k))) i =
      if lo ≤ i ∧ i < lo + n ∧ ¬ p i then f i else d := by
  induction n generalizing lo with
  | zero => rw [if_neg (by omega)]; rfl
  | succ n ih =>
    rw [List.range'_succ, List.filterMap_cons]
    by_cases hp : p lo
    · simp only [hp, if_true]
      rw [ih]
      refine if_congr ⟨fun ⟨h, h', h''⟩ => ⟨by omega, by omega, h''⟩, fun ⟨h, h', h''⟩ => ⟨?_, by omega, h''⟩⟩ rfl rfl
      obtain rfl | hlt := Nat.eq_or_lt_of_le h
      · exact absurd hp h''
      · exact hlt
    · simp only [hp, if_false]
      rw [tget, ih]
      by_cases hi : lo = i
      · subst hi
        rw [if_pos rfl, if_pos ⟨le_refl _, by omega, hp⟩]
      · rw [if_neg hi]
        split
        · rw [if_neg (by omega)]
        · refine if_congr ⟨fun ⟨h, h', h''⟩ => ⟨by omega, by omega, h''⟩, fun ⟨h, h', h''⟩ => ⟨by omega, by omega, h''⟩⟩ rfl rfl

/-! ### Bytes -/

/-- A value read from where its bytes stand. -/
theorem mread_of_bytes {m : Memory} {a n d : Nat} (h : ∀ j, j < n → mget m (a + j) = BitVec.ofNat 8 (d / 256 ^ j)) :
    mread m a n = d % 256 ^ n := by
  induction n generalizing a d with
  | zero => rw [Nat.pow_zero, Nat.mod_one]; rfl
  | succ n ih =>
    have hfirst := h 0 (by omega)
    rw [Nat.pow_zero, Nat.div_one, Nat.add_zero] at hfirst
    have hrest : mread m (a + 1) n = d / 256 % 256 ^ n := ih (fun j hj => by
      rw [Nat.add_assoc, Nat.add_comm 1 j, h (j + 1) (by omega), Nat.div_div_eq_div_mul, Nat.pow_succ'])
    rw [mread, hfirst, hrest, BitVec.toNat_ofNat, pow_succ' 256 n, Nat.mod_mul]

/-- Entry j of part i of a list made of parts of one length. -/
theorem getElem?_flatMap {α β : Type} (f : α → List β) {w : Nat} (hf : ∀ x, (f x).length = w) (l : List α) (i : Nat) {j : Nat} (hj : j < w) :
    (l.flatMap f)[w * i + j]? = (l[i]?).bind (fun x => (f x)[j]?) := by
  induction l generalizing i with
  | nil => rfl
  | cons x xs ih =>
    rw [List.flatMap_cons]
    cases i with
    | zero =>
      rw [Nat.mul_zero, Nat.zero_add, List.getElem?_append_left (by rw [hf]; exact hj)]
      rfl
    | succ i =>
      rw [List.getElem?_append_right (by rw [hf, Nat.mul_succ]; omega), hf, Nat.mul_succ, show w * i + w + j - w = w * i + j by omega, ih]
      rfl

theorem length_flatMap_const {α β : Type} (f : α → List β) {w : Nat} (hf : ∀ x, (f x).length = w) (l : List α) :
    (l.flatMap f).length = w * l.length := by
  induction l with
  | nil => rfl
  | cons x xs ih => rw [List.flatMap_cons, List.length_append, hf, ih, List.length_cons, Nat.mul_succ, Nat.add_comm]

/-- A byte read as an INT8 element (R239). -/
theorem elemNum_int8 {fmt : Nat} (hfmt : fmt = 3) (b : Byte) : elemNum fmt b.toNat = .ofInt b.toInt := by
  subst hfmt
  change FNum.ofInt (signedOf 8 b.toNat) = _
  rw [signedOf_eq_toInt (by decide) b.isLt, BitVec.ofNat_toNat, BitVec.setWidth_eq]

theorem numInt_ofInt (x : Int) : numInt (.ofInt x) = x := signedAt_ofInt x

/-- An accumulator entry as MRD writes it in format INT32, wrapped (R395). -/
theorem mrdValue_int32 (rm : Nat) (x : Acc) : (mrdValue 4 rm false x).1 = x.toNat % 2 ^ 32 := by
  change (deliverInt 3 false x.toInt).1 = _
  rw [deliverInt_fst]
  change (x.toInt % (2 ^ 32 : Int)).toNat = _
  have hx := x.isLt
  rw [BitVec.toInt_eq_toNat_cond]
  split <;> omega

end Sys2Proof.Machine
end
section
/-! ## The matrix commands as they are performed (R233 to R241, R393 to R395) -/

namespace Sys2Proof.Machine

/-- The matrix queue's head, where nothing is under way, no pass turns and the queue is not stopped. -/
structure MatrixHead (s : State) (t : Nat) (c : Ctx) (e : QEntry) (rest : List QEntry) : Prop where
  ctx : (s.tile t).ctx = some c
  queue : c.matrixQ = e :: rest
  stop : c.stopM = false
  pass : c.pass = none
  still : Still s

/-- The head of the matrix queue performs instruction i, and a state and context follow of which p holds (R207). -/
def MatrixGives (s : State) (t : Nat) (e : QEntry) (rest : List QEntry) (i : Instr) (p : State → Ctx → Prop) : Prop :=
  e.instr = some i → ∃ u y, exec (.matrixCommandPerform t) s = .next u ∧ (u.tile t).ctx = some y ∧ y.matrixQ = rest ∧ p u y

/-! ### Planes and rows as bytes (R234, R395) -/

/-- A weight of an INT8 plane is the byte it is read from. -/
theorem weight_readPlane (mem : Memory) (a : Nat) (codebook : BitVec 256) {k n : Nat} (hk : k < 128) (hn : n < 128) :
    (readPlane mem a 3 codebook).weight k n = .ofInt (mget mem (a + 128 * k + n)).toInt := by
  have hbits (j : Nat) : weightBits mem a 3 codebook (j / 128) (j % 128) = (mget mem (a + 128 * (j / 128) + j % 128)).toNat := rfl
  have hlisting : (readPlane mem a 3 codebook).weights = (List.range' 0 (128 * fmtK 3)).filterMap (fun j =>
      if weightBits mem a 3 codebook (j / 128) (j % 128) = 0 then none
      else some (j, BitVec.ofNat 64 (weightBits mem a 3 codebook (j / 128) (j % 128)))) := by
    unfold readPlane
    dsimp only
    rw [List.range_eq_range']
  have hentry : (tget 0 (readPlane mem a 3 codebook).weights (128 * k + n)).toNat = (mget mem (a + 128 * k + n)).toNat := by
    rw [hlisting, tget_listing (0 : BitVec 64) (fun j => weightBits mem a 3 codebook (j / 128) (j % 128) = 0)
      (fun j => BitVec.ofNat 64 (weightBits mem a 3 codebook (j / 128) (j % 128))), hbits]
    have hrow : (128 * k + n) / 128 = k := by omega
    have hcol : (128 * k + n) % 128 = n := by omega
    have hsize : 128 * fmtK 3 = 16384 := rfl
    rw [hrow, hcol, hsize]
    by_cases hz : (mget mem (a + 128 * k + n)).toNat = 0
    · rw [if_neg (by simp [hz]), hz]
      rfl
    · rw [if_pos ⟨by omega, by omega, hz⟩, BitVec.toNat_ofNat]
      exact Nat.mod_eq_of_lt (lt_trans (mget mem (a + 128 * k + n)).isLt (by norm_num))
  unfold Plane.weight
  rw [hentry]
  exact elemNum_int8 rfl _

/-- The entries of accumulator rows in format INT32, with the flags that each raises. -/
def rowValues (c : Ctx) (rm row0 rows : Nat) : List (Nat × BitVec 6) :=
  (List.range (128 * rows)).map (fun i => mrdValue 4 rm false (c.accAt (row0 + i / 128) (i % 128)))

/-- The bytes of one. -/
def entryBytes (y : Nat × BitVec 6) : List Byte := bytesOf 4 y.1

theorem length_entryBytes (y : Nat × BitVec 6) : (entryBytes y).length = 4 := length_bytesOf 4 y.1

/-- The bytes of accumulator rows in format INT32. -/
def rowBytes (c : Ctx) (rm row0 rows : Nat) : List Byte := (rowValues c rm row0 rows).flatMap entryBytes

theorem length_rowBytes (c : Ctx) (rm row0 rows : Nat) : (rowBytes c rm row0 rows).length = 512 * rows := by
  rw [rowBytes, length_flatMap_const _ length_entryBytes, rowValues, List.length_map, List.length_range]
  omega

theorem getElem?_rowBytes (c : Ctx) (rm row0 : Nat) {rows r n j : Nat} (hr : r < rows) (hn : n < 128) (hj : j < 4) :
    (rowBytes c rm row0 rows)[512 * r + 4 * n + j]? = some (BitVec.ofNat 8 ((c.accAt (row0 + r) n).toNat % 2 ^ 32 / 256 ^ j)) := by
  have hplace : 512 * r + 4 * n + j = 4 * (128 * r + n) + j := by ring
  have hrow : (128 * r + n) / 128 = r := by omega
  have hcol : (128 * r + n) % 128 = n := by omega
  rw [hplace, rowBytes, getElem?_flatMap _ length_entryBytes _ _ hj, rowValues,
    getElem?_range_map _ (show 128 * r + n < 128 * rows by omega), hrow, hcol, Option.bind_some, entryBytes, getElem?_bytesOf _ hj,
    mrdValue_int32]

section Forms

variable {s : State} {t : Nat} {c : Ctx} {e : QEntry} {rest : List QEntry} {i : Instr} (H : MatrixHead s t c e rest)

include H

/-- A command that changes the context alone. -/
theorem gives_change (f : Ctx → Ctx) (hkept : (f c).matrixQ = c.matrixQ) {fl : BitVec 6} (hform : (passOf i).isSome = false)
    (hperform : performMatrix s t c e i = some (.complete (s.modCtx t f) fl)) :
    MatrixGives s t e rest i (fun _ y => y.engines = (f c).engines) := by
  intro hi
  obtain ⟨u, y, hexec, hy, hqueue, hengines, -⟩ := matrix_completes H.still H.ctx hi (ctx_modCtx H.ctx f) H.queue H.stop H.pass hform
    hperform hkept
  exact ⟨u, y, hexec, hy, hqueue, hengines⟩

omit H in
theorem MatrixGives.imp {p q : State → Ctx → Prop} (h : MatrixGives s t e rest i p) (hpq : ∀ u y, p u y → q u y) : MatrixGives s t e rest i q :=
  fun hi => by
    obtain ⟨u, y, hexec, hy, hqueue, hp⟩ := h hi
    exact ⟨u, y, hexec, hy, hqueue, hpq u y hp⟩

/-! ### Planes and accumulators (R237, R238, R394) -/

theorem mswap_gives (h : Hdr) : MatrixGives s t e rest (.mswap h) (fun _ y => y.front = c.shadow ∧ y.shadow = c.front ∧ y.acc = c.acc) :=
  (gives_change H swapPlanes rfl rfl rfl).imp (fun _ _ hy =>
    ⟨(congrArg Ctx.front hy :), (congrArg Ctx.shadow hy :), (congrArg Ctx.acc hy :)⟩)

theorem mzero_gives (h : Hdr) (m1 row0 : BitVec 10) (hflights : c.flights = []) (hacc : twf 0 c.acc = true) :
    MatrixGives s t e rest (.mzero h m1 row0) (fun _ y => y.front = c.front ∧ y.shadow = c.shadow ∧ ∀ r n, n < 128 →
      y.accAt r n = if row0.toNat ≤ r ∧ r < row0.toNat + (m1.toNat + 1) then 0 else c.accAt r n) := by
  have hperform : performMatrix s t c e (.mzero h m1 row0) = some (.complete (s.modCtx t (fun c =>
      { c with acc := tclear c.acc (128 * row0.toNat) (128 * (row0.toNat + (m1.toNat + 1))) })) 0) := by
    change some (performMzero s t c row0.toNat (m1.toNat + 1)) = _
    rw [performMzero, rowsInFlight, hflights]
    rfl
  refine (gives_change H _ (by rfl) rfl hperform).imp (fun _ y hy =>
    ⟨(congrArg Ctx.front hy :), (congrArg Ctx.shadow hy :), fun r n hn => ?_⟩)
  have hcleared : y.acc = tclear c.acc (128 * row0.toNat) (128 * (row0.toNat + (m1.toNat + 1))) := (congrArg Ctx.acc hy :)
  rw [Ctx.accAt, hcleared, tget_tclear 0 c.acc _ _ _ none (twf_sorted hacc), Ctx.accAt]
  refine if_congr ?_ rfl rfl
  omega

/-! ### Weights (R234, R237, R393) -/

theorem mlws_gives (h : Hdr) (k : BitVec 4) (hflights : c.flights = []) (hread : readable s t c.id (operandAddr e) 16384 = true)
    (hclean : poisonedAt s t (operandAddr e) 16384 = none) :
    MatrixGives s t e rest (.mlws h k 3) (fun _ y => y.front = c.front ∧ y.acc = c.acc ∧ y.shadow.loaded = true ∧ y.shadow.fmt = 3 ∧
      ∀ i n, i < 128 → n < 128 → y.shadow.weight i n = .ofInt (mget (s.tile t).mem (operandAddr e + 128 * i + n)).toInt) := by
  have hperform : performMatrix s t c e (.mlws h k 3) = some (.complete (s.modCtx t (fun x =>
      { x with shadow := readPlane (s.tile t).mem (operandAddr e) 3 c.codebook })) 0) := by
    change some (performMlws s t c e k.toNat 3) = _
    have hsize : tileSize 3 = 16384 := rfl
    unfold performMlws
    dsimp only
    rw [hsize, hread, hclean, hflights]
    rfl
  refine (gives_change H _ (by rfl) rfl hperform).imp (fun _ y hy => ?_)
  have hshadow : y.shadow = readPlane (s.tile t).mem (operandAddr e) 3 c.codebook := (congrArg Ctx.shadow hy :)
  rw [hshadow]
  exact ⟨(congrArg Ctx.front hy :), (congrArg Ctx.acc hy :), rfl, rfl, fun i n hi hn => weight_readPlane _ _ _ hi hn⟩

/-! ### Reading the accumulators out (R395) -/

theorem mrd_gives (h : Hdr) (k : BitVec 4) (m1 row0 : BitVec 10) (rm : BitVec 2) (hflights : c.flights = [])
    (hroom : operandAddr e + 512 * (m1.toNat + 1) ≤ 0x3E0000) :
    MatrixGives s t e rest (.mrd h k m1 row0 4 rm false) (fun u y => y.acc = c.acc ∧
      (∀ l ∈ e.empties, (lineState u t l).full = true) ∧ ∀ r n, r < m1.toNat + 1 → n < 128 →
        mread (u.tile t).mem (operandAddr e + 512 * r + 4 * n) 4 = (c.accAt (row0.toNat + r) n).toNat % 2 ^ 32) := by
  have hs := stable_of_still H.still
  have ht := tile_lt_of_ctx H.ctx
  have hlength := length_rowBytes c rm.toNat row0.toNat (m1.toNat + 1)
  have hperform : performMatrix s t c e (.mrd h k m1 row0 4 rm false) = some (.complete (fillLines
      (writeScratch s t (operandAddr e) (rowBytes c rm.toNat row0.toNat (m1.toNat + 1))) t e.empties)
        (orFlags ((rowValues c rm.toNat row0.toNat (m1.toNat + 1)).map (·.2)))) := by
    change some (performMrd s t c e (m1.toNat + 1) row0.toNat 4 rm.toNat false) = _
    unfold performMrd
    dsimp only
    rw [rowsInFlight, hflights, writeHeld_of_quiet hs.pend hs.reserved]
    rfl
  rw [writeScratch_share s t (by rw [hlength]; exact hroom)] at hperform
  have hbeside : Beside s (fillLines (putScratch s t (operandAddr e) (rowBytes c rm.toNat row0.toNat (m1.toNat + 1))) t e.empties) :=
    (putScratch_beside ..).trans (fillLines_beside _ t _)
  obtain ⟨d, hd, hquiet⟩ := hbeside.ctx_some H.ctx
  obtain ⟨hfillmem, hfull⟩ := fillLines_of_stable (hs.putScratch t (operandAddr e) (rowBytes c rm.toNat row0.toNat (m1.toNat + 1))) ht e.empties
  obtain ⟨hput, -, -⟩ := store_parts (store_putScratch (s := s) ht (operandAddr e) (rowBytes c rm.toNat row0.toNat (m1.toNat + 1)))
  intro hi
  obtain ⟨u, y, hexec, hy, hqueue, hengines, hstore⟩ := matrix_completes H.still H.ctx hi hd H.queue H.stop H.pass rfl hperform
    (congrArg Ctx.matrixQ hquiet :)
  have hside : y.engines = c.engines := hengines.trans (by rw [← engines_quiet d, hquiet, engines_quiet])
  obtain ⟨hm, hl, -⟩ := store_parts (hstore t)
  refine ⟨u, y, hexec, hy, hqueue, (congrArg Ctx.acc hside :), fun l hl' => ?_, fun r n hr hn => ?_⟩
  · unfold lineState
    rw [hl]
    exact hfull l (.inl hl')
  · rw [hm, hfillmem, hput]
    refine (mread_of_bytes (d := (c.accAt (row0.toNat + r) n).toNat % 2 ^ 32) (fun j hj => ?_)).trans (Nat.mod_mod _ _)
    rw [mget_mwriteBytes _ _ _ (hs.tile t).mem, hlength, if_pos (by omega),
      show operandAddr e + 512 * r + 4 * n + j - operandAddr e = 512 * r + 4 * n + j by omega, getElem?_rowBytes c _ _ hr hn hj]
    rfl

end Forms

end Sys2Proof.Machine
end
section
/-! ## The rows of a pass (R239, R241) -/

namespace Sys2Proof.Machine

/-! ### A row enters -/

section Row

variable {s : State} {t : Nat} {c : Ctx} {e : QEntry} {h : Hdr} {k : BitVec 4} {m1 row0 : BitVec 10} {p : Pass}

theorem pass_mpass (hi : e.instr = some (.mpass h k m1 row0)) :
    e.pass = { kind := 0, k := k.toNat, rows := m1.toNat + 1, row0 := row0.toNat } := by
  unfold QEntry.pass
  rw [hi]
  rfl

/-- A row of an INT8 pass lies in 128 bytes. -/
theorem rowRanges_int8 (hi : e.instr = some (.mpass h k m1 row0)) (m : Nat) : rowRanges e 3 m = [(operandAddr e + 128 * m, 128)] := by
  unfold rowRanges
  rw [pass_mpass hi, Nat.mul_comm 128 m]
  rfl

/-- A row of an INT8 pass's step is one of the pass's rows. -/
theorem stepRanges_int8 (hi : e.instr = some (.mpass h k m1 row0)) {m : Nat} {r : Nat × Nat} (hr : r ∈ stepRanges e 3 m) :
    ∃ j, j < m1.toNat + 1 ∧ r = (operandAddr e + 128 * j, 128) := by
  obtain ⟨j, hj, hr⟩ := List.mem_flatMap.mp hr
  rw [rowRanges_int8 hi, List.mem_singleton] at hr
  refine ⟨j, ?_, hr⟩
  obtain ⟨l, hl, rfl⟩ := List.mem_map.mp hj
  rw [List.mem_range, pass_mpass hi] at hl
  dsimp only at hl
  omega

theorem rangesPoisoned_none {rs : List (Nat × Nat)} (h : ∀ r ∈ rs, poisonedAt s t r.1 r.2 = none) : rangesPoisoned s t rs = none := by
  rw [rangesPoisoned, List.filterMap_eq_nil_iff.mpr h]
  rfl

variable (hi : e.instr = some (.mpass h k m1 row0)) (hfmt : c.front.fmt = 3) (hentry : p.entry = e)
  (hrows : ∀ m, m < m1.toNat + 1 → readable s t c.id (operandAddr e + 128 * m) 128 = true ∧
    poisonedAt s t (operandAddr e + 128 * m) 128 = none)

include hi hfmt hentry hrows

/-- No byte that is examined before a row is poisoned. -/
theorem rowPoison_none (hnext : p.next < m1.toNat + 1) : rowPoison s t c p = none := by
  have hkind : e.pass.kind = 0 := by rw [pass_mpass hi]
  unfold rowPoison poisonRanges
  dsimp only
  rw [hentry, hfmt, if_neg (by rw [hkind]; omega)]
  refine rangesPoisoned_none (fun r hr => ?_)
  split at hr
  · obtain ⟨j, hj, rfl⟩ := stepRanges_int8 hi hr
    exact (hrows j hj).2
  · rw [rowRanges_int8 hi, List.mem_singleton] at hr
    rw [hr]
    exact (hrows _ hnext).2

/-- A granted pass whose operands are ready enters its next row (R241). -/
theorem turnPass_enters (hpend : s.pend = []) (hnext : p.next < m1.toNat + 1) (hgranted : p.granted = true)
    (hcycle : p.cycle < (s.stack (t / 48)).cycle + 4) :
    turnPass s t c p = enterRow s t c p (rowAdds s t c e (p.lists.getD []) p.first p.next) := by
  have hready : rangesReadable s t c.id (rowRanges e 3 p.next) = true := by
    rw [rowRanges_int8 hi, rangesReadable, List.all_cons, (hrows _ hnext).1]
    rfl
  have hpoison := rowPoison_none hi hfmt hentry hrows hnext
  have hkind : e.pass.kind = 0 := by rw [pass_mpass hi]
  unfold turnPass
  dsimp only
  rw [if_neg (by rw [hentry, hkind]; omega), if_neg (by rw [hgranted]; simp; omega)]
  unfold tryRow
  dsimp only
  rw [engineView_of_pend_nil hpend, leaveView_of_pend_nil hpend, ownEarlier_of_pend_nil hpend, hpoison, hentry, hfmt, hready,
    Bool.and_false, Bool.not_true, Bool.and_false]
  rfl

omit hi hfmt hentry hrows

/-- The exact sum of products that an INT8 row adds to a column (R239). -/
theorem intAdd_int8 (mem : Memory) (e : QEntry) {w : Plane} (hw : w.fmt = 3) (m n : Nat) : intAdd mem e w m n =
    BitVec.ofInt 80 (((List.range 128).map (fun i => (mget mem (operandAddr e + 128 * m + i)).toInt * numInt (w.weight i n))).foldl (· + ·) 0) := by
  have hactivation (i : Nat) : activation mem e 3 m i = .ofInt (mget mem (operandAddr e + 128 * m + i)).toInt := by
    have haddr : operandAddr e + m * 128 * 1 + 1 * i = operandAddr e + 128 * m + i := by ring
    change elemNum 3 (mread mem (operandAddr e + m * 128 * 1 + 1 * i) 1) = _
    rw [haddr]
    exact elemNum_int8 rfl _
  unfold intAdd
  rw [hw]
  simp only [hactivation, numInt_ofInt]
  rfl

/-- A row enters: the flight that it makes stands behind the others. -/
theorem enterRow_flight (hc : (s.tile t).ctx = some c) (adds : List (List Acc)) : ∃ y l, ((enterRow s t c p adds).tile t).ctx = some y ∧
    y.flights = c.flights ++ [l] ∧ l.row = p.entry.pass.row0 + p.next ∧
    l.int = (decide (p.entry.pass.kind ≠ 2) && fmtElem c.front.fmt == 3) ∧ l.pass = p.id ∧ l.adds = adds := by
  unfold enterRow
  dsimp only
  split
  · exact ⟨_, _, ctx_modCtx (ctx_modCtx hc _) _, rfl, rfl, rfl, rfl, rfl⟩
  · exact ⟨_, _, ctx_modCtx hc _, rfl, rfl, rfl, rfl, rfl⟩

end Row

/-- A row of a granted INT8 pass enters with the exact sum of its products for each column (R239, R241). -/
theorem pass_row_enters {s : State} {t : Nat} {c : Ctx} {e : QEntry} {h : Hdr} {k : BitVec 4} {m1 row0 : BitVec 10} {p : Pass}
    (hc : (s.tile t).ctx = some c) (hstill : Still s) (hpass : c.pass = some p) (hentry : p.entry = e) (hgranted : p.granted = true)
    (hcycle : p.cycle < (s.stack (t / 48)).cycle + 4) (hnext : p.next < m1.toNat + 1) (hi : e.instr = some (.mpass h k m1 row0))
    (hfmt : c.front.fmt = 3) (hrows : ∀ m, m < m1.toNat + 1 → readable s t c.id (operandAddr e + 128 * m) 128 = true ∧
      poisonedAt s t (operandAddr e + 128 * m) 128 = none) :
    ∃ u y l, exec (.matrixCommandPerform t) s = .next u ∧ (u.tile t).ctx = some y ∧ y.flights = c.flights ++ [l] ∧
      l.row = row0.toNat + p.next ∧ l.int = true ∧ l.pass = p.id ∧ l.adds.length = 128 ∧
      ∀ n, n < 128 → l.adds[n]? = some [BitVec.ofInt 80 (((List.range 128).map (fun i =>
        (mget (s.tile t).mem (operandAddr e + 128 * p.next + i)).toInt * numInt (c.front.weight i n))).foldl (· + ·) 0)] := by
  obtain ⟨-, hpend, -⟩ := hstill
  obtain ⟨y, l, hy, hflights, hrow, hint, hid, hadds⟩ := enterRow_flight (p := p) hc (rowAdds s t c e (p.lists.getD []) p.first p.next)
  have hentered : rowAdds s t c e (p.lists.getD []) p.first p.next =
      (List.range 128).map (fun n => [intAdd (s.tile t).mem e c.front p.next n]) := by
    unfold rowAdds
    rw [pass_mpass hi, hfmt]
    rfl
  rw [hentered] at hadds
  rw [hentry, pass_mpass hi] at hrow hint
  rw [hfmt] at hint
  refine ⟨_, y, l, ?_, hy, hflights, hrow, hint, hid, ?_, fun n hn => ?_⟩
  · rw [exec_matrixCommandPerform_turn hc hpass, turnPass_enters hi hfmt hentry hrows hpend hnext hgranted hcycle]
  · rw [hadds, List.length_map, List.length_range]
  · rw [hadds, getElem?_range_map _ hn, intAdd_int8 _ _ hfmt]

/-! ### A row lands (R241) -/

/-- One column of a row is added to its accumulator. -/
def landEntry (row : Nat) (int : Bool) (c : Ctx) (x : List Acc × Nat) : Ctx :=
  c.setAcc row x.2 (x.1.foldl (fun z x => if int then z + x else accAdd z x) (c.accAt row x.2))

theorem landRow_eq (c : Ctx) (l : Flight) : landRow c l = (l.adds.zipIdx 0).foldl (landEntry l.row l.int) c := rfl

/-- Columns from `k` on that land change their accumulators alone. -/
theorem landEntries (row : Nat) (int : Bool) (xs : List (List Acc)) (k : Nat) {c : Ctx} (hacc : twf 0 c.acc = true) :
    ∃ acc, (xs.zipIdx k).foldl (landEntry row int) c = { c with acc := acc } ∧ ∀ j, tget 0 acc j =
      if 128 * row + k ≤ j ∧ j < 128 * row + k + xs.length then
        (xs[j - (128 * row + k)]?.getD []).foldl (fun z x => if int then z + x else accAdd z x) (tget 0 c.acc j)
      else tget 0 c.acc j := by
  induction xs generalizing c k with
  | nil => exact ⟨c.acc, rfl, fun j => by rw [if_neg]; simp⟩
  | cons x xs ih =>
    rw [List.zipIdx_cons, List.foldl_cons]
    obtain ⟨acc, heq, hget⟩ := ih (k + 1) (c := landEntry row int c (x, k)) (twf_tset _ _ hacc)
    refine ⟨acc, heq, fun j => ?_⟩
    have hset : tget 0 (landEntry row int c (x, k)).acc j =
        if j = 128 * row + k then x.foldl (fun z x => if int then z + x else accAdd z x) (tget 0 c.acc (128 * row + k)) else tget 0 c.acc j :=
      tget_tset 0 c.acc _ j _ hacc
    rw [hget, hset, List.length_cons]
    by_cases hj : j = 128 * row + k
    · subst hj
      rw [if_neg (by omega), if_pos rfl, if_pos (by omega), Nat.sub_self]
      rfl
    · rw [if_neg hj]
      by_cases hin : 128 * row + (k + 1) ≤ j ∧ j < 128 * row + (k + 1) + xs.length
      · rw [if_pos hin, if_pos (by omega), show j - (128 * row + k) = j - (128 * row + (k + 1)) + 1 by omega]
        rfl
      · rw [if_neg hin, if_neg (by omega)]

/-- The first row in flight is added to its accumulator row (R241). -/
theorem row_lands {s : State} {t : Nat} {c : Ctx} (hc : (s.tile t).ctx = some c) (hacc : twf 0 c.acc = true) {l : Flight} {ls : List Flight}
    (hf : c.flights = l :: ls) (hland : l.cycle + 256 < (s.stack (t / 48)).cycle + 4) (hlen : l.adds.length = 128) :
    ∃ u y, exec (.accumulatorRowLand t) s = .next u ∧ (u.tile t).ctx = some y ∧ y.flights = ls ∧
      (∀ r n, n < 128 → r ≠ l.row → y.accAt r n = c.accAt r n) ∧
      ∀ n xs, l.adds[n]? = some xs → y.accAt l.row n = xs.foldl (fun z x => if l.int then z + x else accAdd z x) (c.accAt l.row n) := by
  obtain ⟨acc, heq, hget⟩ := landEntries l.row l.int l.adds 0 (c := { c with flights := ls }) hacc
  rw [← landRow_eq] at heq
  obtain ⟨y, hy, hquiet⟩ := (resolveWaits_beside _ t).ctx_some (ctx_modCtx hc (fun c => landRow { c with flights := ls } l))
  rw [heq] at hquiet
  have hyacc : y.acc = acc := (congrArg Ctx.acc hquiet :)
  refine ⟨_, y, exec_accumulatorRowLand hc hf hland, hy, (congrArg Ctx.flights hquiet :), fun r n hn hr => ?_, fun n xs hxs => ?_⟩
  · rw [Ctx.accAt, hyacc, hget, hlen, if_neg (by omega)]
    rfl
  · obtain ⟨hn, -⟩ := List.getElem?_eq_some_iff.mp hxs
    rw [Ctx.accAt, hyacc, hget, if_pos (by omega), show 128 * l.row + n - (128 * l.row + 0) = n by omega, hxs]
    rfl

end Sys2Proof.Machine
end
section
/-! ## The turns of the engines, together (O42) -/

namespace Sys2Proof.Machine

/-- Settles O42: the turns by their equations, the vector forms by what each leaves in its lanes or bits, the matrix commands by what
each leaves in planes, accumulators and memory. -/
theorem enginesTurn : Obligations.EnginesTurn := by
  refine ⟨?turns, ?vector, ?matrix⟩
  case turns =>
    intro s t k n c e i rest l ls
    refine ⟨fun hc => ⟨?_, ?_, ?_, ?_, wfeTimeout_waits s t⟩, grantStep_stack s⟩
    · intro hq hi hstop hfree
      refine ⟨fun u fl h => ?_, fun u x i0 i1 h => ?_⟩
      · rw [exec_vectorCommandPerform hc hq hi hstop, performHead_complete hfree h]
        rfl
      · rw [exec_vectorCommandPerform hc hq hi hstop, performHead_traps hfree h]
    · intro hq hi hstop hpass hfree
      refine ⟨fun u fl hform h => ?_, fun u x i0 i1 hform h => ?_, fun hform => exec_matrixCommandPerform_pass hc hq hi hstop hpass hform⟩
      · have hfree : HeadFree s t c e := hfree.resolve_right (by rw [hform]; exact Bool.false_ne_true)
        rw [exec_matrixCommandPerform hc hq hi hstop hpass hform, performHead_complete hfree (by rw [h]; rfl)]
        rfl
      · have hfree : HeadFree s t c e := hfree.resolve_right (by rw [hform]; exact Bool.false_ne_true)
        rw [exec_matrixCommandPerform hc hq hi hstop hpass hform, performHead_traps hfree (by rw [h]; rfl)]
    · exact exec_accumulatorRowLand hc
    · exact fun qs hqs hsome hreach => exec_queueFenceRelease hc hqs hsome hreach
  case vector =>
    intro s t c e rest h v cond hc hq hstop hstill
    have H : VectorHead s t c e rest := ⟨hc, hq, hstop, hstill⟩
    refine ⟨fun hcode => ?_, fun hcode => ?_, vand_gives H h, vor_gives H h, vxor_gives H h, vshl_gives H h, vshr_gives H h,
      vbcst_gives H h, vins_gives H h, vsel_gives H h, vperm_gives H h, vcmpr_gives H h, mand_gives H h, mor_gives H h, mnot_gives H h,
      fun hme hfault hoff => ⟨fun hread _ => vld_gives H hme hfault h hread, vst_gives H hme hfault h hoff⟩⟩
    · exact ⟨gives_int (i := .vadd h v) (int := (· + ·)) (float := FNum.add) H hcode rfl,
        gives_int (i := .vsub h v) (int := (· - ·)) (float := fun a b => FNum.add a b.negate) H hcode rfl,
        gives_int (i := .vmul h v) (int := (· * ·)) (float := FNum.mul) H hcode rfl, vfma_gives H hcode h, vmin_gives H hcode h,
        vmax_gives H hcode h, vabs_gives H hcode h, vneg_gives H hcode h, viota_gives H h, vredadd_gives H hcode h, mpopc_gives H h,
        vcmp_gives H hcode h⟩
    · exact ⟨gives_float (i := .vadd h v) (int := (· + ·)) (float := FNum.add) H hcode rfl,
        gives_float (i := .vsub h v) (int := (· - ·)) (float := fun a b => FNum.add a b.negate) H hcode rfl,
        gives_float (i := .vmul h v) (int := (· * ·)) (float := FNum.mul) H hcode rfl⟩
  case matrix =>
    intro s t c e rest h k m1 row0 rm p hc hstill hacc
    refine ⟨fun hq hstop hpass => ?_, fun hpass hentry hgranted hcycle hnext hi hfmt hrows =>
      pass_row_enters hc hstill hpass hentry hgranted hcycle hnext hi hfmt hrows, fun l ls hf hland hlen => row_lands hc hacc hf hland hlen⟩
    have H : MatrixHead s t c e rest := ⟨hc, hq, hstop, hpass, hstill⟩
    exact ⟨mswap_gives H h, fun hflights => ⟨mzero_gives H h m1 row0 hflights hacc,
      fun _ hread hclean => mlws_gives H h k hflights hread hclean, mrd_gives H h k m1 row0 rm hflights⟩⟩

end Sys2Proof.Machine
end
section
/-! ## Firings of tracked, block-wide and supervisor-only forms (R99, R127, R300) -/

namespace Sys2Proof.Machine

section Turns

variable {s : State} {f : Firing}

/-- A change of a fabric is what it does to that fabric. -/
theorem modFabric_congr {t : Nat} {g k : Fabric → Fabric} (h : g (s.fabric t) = k (s.fabric t)) :
    s.modFabric t g = s.modFabric t k :=
  congrArg (fun x => s.setTile t { s.tile t with fabric := x }) h

/-- A tracked block-wide form that fires block-wide without EOS runs its meaning (R127). -/
theorem blockWideForm_turn {k : Firing → State → State} (ht : Turn s f) (he : f.eos = false) (hb : BlockWide s f) :
    blockWideForm s k = .next (k f { s with cur := none }) := by
  have hb' : (isLoop { s with cur := none } f.tile && f.key.isSome) = false := hb
  rw [blockWideForm, onFiring_turn ht]
  simp only [he, blockWideOnly, hb', Bool.false_eq_true, if_false]

/-- A supervisor-only form that fires block-wide in a SUPERVISOR block without EOS runs its meaning (R300). -/
theorem supervisorForm_turn {k : Firing → State → State} (ht : Turn s f) (he : f.eos = false) (hb : BlockWide s f)
    (hs : isSupervisor s f.tile = true) : supervisorForm s k = .next (k f { s with cur := none }) := by
  have hb' : (isLoop { s with cur := none } f.tile && f.key.isSome) = false := hb
  have hs' : isSupervisor { s with cur := none } f.tile = true := hs
  rw [supervisorForm, onFiring_turn ht]
  simp only [he, supervisorOnly, hs', blockWideOnly, hb', Bool.false_eq_true, if_false, if_true]

/-- A slot that has just settled has settled. -/
theorem settledFor_settle (how : How) (h : f.tile < 192) : settledFor ((settle s f how).fabric f.tile) f.slot f.key = true := by
  rw [settle, State.fabric_modFabric_same _ _ _ h]
  simp [settledFor]

end Turns

end Sys2Proof.Machine
end
section
/-! ## Fences, barriers, queue fences and waits at firing (R104, R209, R210, R369 to R371, R379) -/

namespace Sys2Proof.Machine

section Waits

variable {s : State} {f : Firing} {t : Nat} {c : Ctx}

/-- Where no wait of the block is over, none resolves (R210). -/
theorem resolveWaits_unmet (hc : (s.tile t).ctx = some c)
    (h : ∀ w ∈ (s.fabric t).waits, waitOver s c (s.fabric t).inst w = false) : resolveWaits s t = s := by
  have hany : (s.fabric t).waits.any (fun w => waitOver s c (s.fabric t).inst w) = false := by
    rw [List.any_eq_false]
    exact fun w hw => by rw [h w hw]; exact Bool.false_ne_true
  simp only [resolveWaits, hc, hany, Bool.false_eq_true, if_false]

/-- The waits of a block that are over resolve, as an acquire (R210). -/
theorem resolveWaits_met (hc : (s.tile t).ctx = some c)
    (h : (s.fabric t).waits.any (fun w => waitOver s c (s.fabric t).inst w) = true) :
    resolveWaits s t = (acquire s t).modFabric t (fun x => { x with
      waits := x.waits.filter (fun w => !waitOver s c (s.fabric t).inst w) }) := by
  simp only [resolveWaits, hc, h, if_true]

/-- A firing that waits changes nothing that a wait is for. -/
theorem waitOver_waiting (on : WaitOn) (inst : Nat) (w : Waiting) : waitOver (waiting s f on) c inst w = waitOver s c inst w := rfl

theorem fabric_waiting (on : WaitOn) (ht : f.tile < 192) : (waiting s f on).fabric f.tile = { s.fabric f.tile with
    settled := (s.fabric f.tile).settled ++ [({ slot := f.slot, key := f.key, how := .fired } : Settled)]
    waits := (s.fabric f.tile).waits ++ [({ slot := f.slot, key := f.key, on := on } : Waiting)] } :=
  State.fabric_modFabric_same _ _ _ ht

theorem ctx_waiting (on : WaitOn) (hc : (s.tile f.tile).ctx = some c) : ((waiting s f on).tile f.tile).ctx = some c := by
  rw [waiting, State.ctx_modFabric]
  exact hc

/-- A wait looks at once whether it is over, with the others of its block (R210). -/
theorem fireWait_cur (on : WaitOn) : fireWait { s with cur := none } f on = resolveWaits (waiting s f on) f.tile := by
  have key (u : State) : (settle u f .fired).modFabric f.tile (fun x => { x with
      waits := x.waits ++ [({ slot := f.slot, key := f.key, on := on } : Waiting)] }) = u.modFabric f.tile (fun x => { x with
      settled := x.settled ++ [({ slot := f.slot, key := f.key, how := .fired } : Settled)]
      waits := x.waits ++ [({ slot := f.slot, key := f.key, on := on } : Waiting)] }) := by
    rw [settle, State.modFabric_modFabric]
  rw [fireWait, key]
  rfl

variable (hc : (s.tile f.tile).ctx = some c)
  (hothers : ∀ w ∈ (s.fabric f.tile).waits, waitOver s c (s.fabric f.tile).inst w = false)
include hc hothers

/-- A wait that is not over waits on (R104). -/
theorem fireWait_waits {on : WaitOn}
    (h : waitOver s c (s.fabric f.tile).inst { slot := f.slot, key := f.key, on := on } = false) :
    fireWait { s with cur := none } f on = waiting s f on := by
  rw [fireWait_cur]
  refine resolveWaits_unmet (ctx_waiting on hc) ?_
  rw [fabric_waiting on (tile_lt_of_ctx hc)]
  intro w hw
  rw [waitOver_waiting]
  obtain hw | hw := List.mem_append.mp hw
  · exact hothers w hw
  · rw [List.mem_singleton.mp hw]
    exact h

/-- A wait that is over when it fires resolves, as an acquire (R210). -/
theorem fireWait_resolves {on : WaitOn}
    (h : waitOver s c (s.fabric f.tile).inst { slot := f.slot, key := f.key, on := on } = true) :
    fireWait { s with cur := none } f on = acquire (settledWith s f .fired []) f.tile := by
  have ht := tile_lt_of_ctx hc
  have hkeep : (s.fabric f.tile).waits.filter (fun w => !waitOver s c (s.fabric f.tile).inst w) = (s.fabric f.tile).waits :=
    List.filter_eq_self.mpr (fun w hw => by rw [hothers w hw]; rfl)
  rw [fireWait_cur, resolveWaits_met (ctx_waiting on hc)]
  · simp only [fabric_waiting on ht, waitOver_waiting]
    have hacquire : acquire (waiting s f on) f.tile = (acquire { s with cur := none } f.tile).modFabric f.tile (fun x => { x with
      settled := x.settled ++ [({ slot := f.slot, key := f.key, how := .fired } : Settled)]
      waits := x.waits ++ [({ slot := f.slot, key := f.key, on := on } : Waiting)] }) := rfl
    have hsettled : acquire (settledWith s f .fired []) f.tile = (acquire { s with cur := none } f.tile).modFabric f.tile (fun x => { x with
      settled := x.settled ++ [({ slot := f.slot, key := f.key, how := .fired } : Settled)], mesh := x.mesh ++ [] }) := rfl
    rw [hacquire, hsettled, State.modFabric_modFabric]
    refine modFabric_congr ?_
    have hfilter : ((s.fabric f.tile).waits ++ [({ slot := f.slot, key := f.key, on := on } : Waiting)]).filter
        (fun w => !waitOver s c (s.fabric f.tile).inst w) = (s.fabric f.tile).waits := by
      rw [List.filter_append, hkeep, List.filter_singleton, h]
      exact List.append_nil _
    have hface : (acquire { s with cur := none } f.tile).fabric f.tile = s.fabric f.tile := rfl
    simp only [hface, hfilter, List.append_nil]
  · rw [fabric_waiting on ht, List.any_append]
    simp only [waitOver_waiting, List.any_cons, h, Bool.true_or, Bool.or_true]

end Waits

/-- A queue wait is over where each queue that it names holds nothing of another block (R210). -/
theorem waitOver_queues (s : State) (c : Ctx) (inst slot : Nat) (key : Key) (q : BitVec 4) :
    waitOver s c inst { slot := slot, key := key, on := .queues q } = true ↔
      ∀ j, j < 4 → q.getLsbD j = true → queueQuiet s c inst j = true := by
  simp only [waitOver, List.all_cons, List.all_nil, Bool.and_true, Bool.and_eq_true, Bool.or_eq_true, Bool.not_eq_true']
  constructor
  · rintro ⟨h0, h1, h2, h3⟩ j hj hq
    interval_cases j <;> simp_all
  · intro h
    have hj (j : Nat) (hj : j < 4) : q.getLsbD j = false ∨ queueQuiet s c inst j = true := by
      cases hq : q.getLsbD j with
      | false => exact .inl rfl
      | true => exact .inr (h j hj hq)
    exact ⟨hj 0 (by decide), hj 1 (by decide), hj 2 (by decide), hj 3 (by decide)⟩

/-- Settles O25: the held forms by `fireHeld`, and the waits by whether they are over when they fire. -/
theorem synchronisation : Obligations.Synchronisation := by
  intro s f h kinds q scope b c ht heos hwide hc phase mine x others quiet
  have hform {k : Firing → State → State} : blockWideForm s k = .next (k f { s with cur := none }) := blockWideForm_turn ht heos hwide
  have hheld (e : Firing → Effect) : blockWideForm s (fun f s => fireHeld s f false (e f)) = .next (holding s f false (e f) []) := by
    rw [hform, fireHeld_cur]
  have hbwait : exec (.bwait h b) s = .next (if mine < phase then settle { s with cur := none } f .fired
      else fireWait { s with cur := none } f (.barrier b.toNat mine)) := by
    change blockWideForm s _ = _
    rw [hform]
    simp only [show (({ s with cur := none } : State).tile f.tile).ctx = some c from hc]
    rfl
  have hwaitq : exec (.waitq h q) s = .next (fireWait { s with cur := none } f (.queues q)) := hform
  have hwfe : exec (.wfe h) s = .next (if c.ev = true then (settle { s with cur := none } f .fired).modCtx f.tile (fun c => { c with ev := false })
      else fireWait { s with cur := none } f (.event s.now)) := by
    change blockWideForm s _ = _
    rw [hform]
    simp only [show (({ s with cur := none } : State).tile f.tile).ctx = some c from hc]
  refine ⟨?fence, hheld (fun _ => .qfence q), hheld (fun f => .binit b.toNat (tokVal f.left)), hheld (fun _ => .barr b.toNat),
    fun hpassed => ?passed, fun hstays hoth => ?barrier, fun hquiet hoth => ?quiet,
    fun hbusy hoth => ?busy, fun hev => ?event, fun hev hoth => ?noEvent⟩
  case fence =>
    change onFiring s .nullified (fun f s => fireHeld s f false (.fence kinds scope.toNat)) = .next _
    rw [onFiring_turn ht, fireHeld_cur]
  case passed => rw [hbwait, if_pos hpassed, settle_cur]
  case barrier => rw [hbwait, if_neg (Nat.not_lt.mpr hstays), fireWait_waits hc hoth rfl]
  case quiet => rw [hwaitq, fireWait_resolves hc hoth ((waitOver_queues ..).mpr hquiet)]
  case busy => rw [hwaitq, fireWait_waits hc hoth (Bool.eq_false_iff.mpr (fun hover => hbusy ((waitOver_queues ..).mp hover)))]
  case event => rw [hwfe, if_pos hev, settle_cur]
  case noEvent => rw [hwfe, hev, if_neg Bool.false_ne_true, fireWait_waits hc hoth rfl]

end Sys2Proof.Machine
end
section
/-! ## What TLBI and ASIDRT remove (R95, R157, R158, R377, R378) -/

namespace Sys2Proof.Machine

section Removed

variable {s : State} {tlb : TlbEntry → Bool} {walk : WalkEntry → Bool} {blk : BlockLine → Bool}

/-- No tile caches anything that a removal has named (R157). -/
theorem removeCached_removes {x : Tile} (hx : x ∈ (removeCached s tlb walk blk).tiles) :
    (∀ e ∈ x.tlb, tlb e = false) ∧ (∀ e ∈ x.walks, walk e = false) ∧ (∀ e ∈ x.bcache, blk e = false) := by
  obtain ⟨y, -, rfl⟩ := Vector.mem_map.mp hx
  refine ⟨fun e he => ?_, fun e he => ?_, fun e he => ?_⟩ <;> simpa using (List.mem_filter.mp he).2

theorem fabric_removeCached (t : Nat) : (removeCached s tlb walk blk).fabric t = s.fabric t := (tile_removeCached s tlb walk blk t).1

/-- No cache of any kind holds an entry of a removed ASID. -/
theorem removeAsid_removes {a : Nat} {x : Tile} (hx : x ∈ (removeAsid s a).tiles) :
    (∀ e ∈ x.walks, e.asid ≠ a) ∧ (∀ e ∈ x.tlb, e.asid ≠ a) ∧ (∀ e ∈ x.bcache, e.asid ≠ a) := by
  obtain ⟨htlb, hwalks, hblk⟩ := removeCached_removes hx
  exact ⟨fun e he => beq_eq_false_iff_ne.mp (hwalks e he), fun e he => beq_eq_false_iff_ne.mp (htlb e he),
    fun e he => beq_eq_false_iff_ne.mp (hblk e he)⟩

/-- No cache holds a removed page of an ASID, and no walk cache an entry of it (R377). -/
theorem removePage_removes {a va : Nat} {x : Tile} (hx : x ∈ (removePage s a va).tiles) :
    (∀ e ∈ x.walks, e.asid ≠ a) ∧ (∀ e ∈ x.tlb, e.asid = a → e.vpage ≠ va / 65536 / 2 ^ (e.shift - 16)) ∧
      (∀ e ∈ x.bcache, e.asid = a → 64 * e.vline / 2 ^ e.shift ≠ va / 2 ^ e.shift) := by
  obtain ⟨htlb, hwalks, hblk⟩ := removeCached_removes hx
  refine ⟨fun e he => beq_eq_false_iff_ne.mp (hwalks e he), fun e he hasid hpage => ?_, fun e he hasid hpage => ?_⟩
  · have h := htlb e he
    simp [hasid, hpage] at h
  · have h := hblk e he
    simp [hasid, hpage] at h

theorem removeWalks_removes {a : Nat} {x : Tile} (hx : x ∈ (removeWalks s a).tiles) : ∀ e ∈ x.walks, e.asid ≠ a :=
  fun e he => beq_eq_false_iff_ne.mp ((removeCached_removes hx).2.1 e he)

theorem removeAll_removes {x : Tile} (hx : x ∈ (removeAll s).tiles) : x.tlb = [] ∧ x.walks = [] ∧ x.bcache = [] := by
  obtain ⟨htlb, hwalks, hblk⟩ := removeCached_removes hx
  refine ⟨List.eq_nil_iff_forall_not_mem.mpr fun e he => ?_, List.eq_nil_iff_forall_not_mem.mpr fun e he => ?_,
    List.eq_nil_iff_forall_not_mem.mpr fun e he => ?_⟩
  · exact nomatch htlb e he
  · exact nomatch hwalks e he
  · exact nomatch hblk e he

/-! ### Generations (R158) -/

theorem fabric_bumpAsid (a t : Nat) : (bumpAsid s a).fabric t = s.fabric t := by
  unfold bumpAsid
  dsimp only
  split
  · exact fabric_removeCached t
  · rfl

theorem asidGen_bumpAsid (a : Nat) : (bumpAsid s a).asidGen = tset 0 s.asidGen a ((asidGeneration s a + 1) % 256) := by
  unfold bumpAsid
  dsimp only
  split <;> rfl

/-- The generation of one ASID moves on, modulo 256. -/
theorem asidGeneration_bumpAsid (hw : twf 0 s.asidGen = true) (a b : Nat) :
    asidGeneration (bumpAsid s a) b = if b = a then (asidGeneration s a + 1) % 256 else asidGeneration s b := by
  rw [asidGeneration, asidGen_bumpAsid, tget_tset 0 _ _ _ _ hw]
  rfl

/-- At the wrap the entries of the ASID are gone from every slice. -/
theorem bumpAsid_removes {a : Nat} (hwrap : (asidGeneration s a + 1) % 256 = 0) {x : Tile} (hx : x ∈ (bumpAsid s a).tiles) :
    ∀ e ∈ x.tlb, e.asid ≠ a := by
  have htiles : (bumpAsid s a).tiles = (removeAsid s a).tiles := by
    unfold bumpAsid
    simp only [hwrap, if_true]
  exact (removeAsid_removes (htiles ▸ hx)).2.1

end Removed

/-- Settles O28: each form is a removal once its slot has settled, and a removal leaves nothing that it names. -/
theorem translationsRemoved : Obligations.TranslationsRemoved := by
  intro s f h c ht heos hwide hc hmem own va a fired
  have hform {k : Firing → State → State} : blockWideForm s k = .next (k f { s with cur := none }) := blockWideForm_turn ht heos hwide
  have hasid : ctxAsid { s with cur := none } f.tile = own := by
    simp only [ctxAsid, show (({ s with cur := none } : State).tile f.tile).ctx = some c from hc]
    rfl
  have hgen : twf 0 (settle { s with cur := none } f .fired).asidGen = true := hmem.1
  have hfired : fired (settle { s with cur := none } f .fired) := settledFor_settle .fired (tile_lt_of_ctx hc)
  have hgone (tlb : TlbEntry → Bool) (walk : WalkEntry → Bool) (blk : BlockLine → Bool) :
      fired (removeCached (settle { s with cur := none } f .fired) tlb walk blk) := by
    change settledFor ((removeCached ..).fabric f.tile) _ _ = true
    rw [fabric_removeCached]
    exact hfired
  have hsuper {k : Firing → State → State} (hsup : isSupervisor s f.tile = true) :
      supervisorForm s k = .next (k f { s with cur := none }) := supervisorForm_turn ht heos hwide hsup
  refine ⟨?page, ⟨removeAsid (settle { s with cur := none } f .fired) own, ?_, hgone .., fun x hx => removeAsid_removes hx⟩, fun hsup =>
    ⟨⟨_, hsuper hsup, hgone .., fun x hx => removeAsid_removes hx⟩, ⟨_, hsuper hsup, hgone .., fun x hx => removeAll_removes hx⟩,
      ⟨_, hsuper hsup, ?bumped, ?moved, fun b hb => ?others, fun hwrap x hx => ?wrap⟩⟩⟩
  case page =>
    have hexec : exec (.tlbiVa h) s = .next (if (tokVal f.left).getLsbD 56 = true then
        removeWalks (settle { s with cur := none } f .fired) own else removePage (settle { s with cur := none } f .fired) own va) := by
      rw [← hasid]
      exact hform
    cases hleague : (tokVal f.left).getLsbD 56 with
    | true =>
      rw [hexec, hleague, if_pos rfl]
      exact ⟨_, rfl, hgone .., fun x hx => ⟨removeWalks_removes hx, fun hfalse => nomatch hfalse⟩⟩
    | false =>
      rw [hexec, hleague, if_neg Bool.false_ne_true]
      exact ⟨_, rfl, hgone .., fun x hx => ⟨(removePage_removes hx).1, fun _ => (removePage_removes hx).2⟩⟩
  · rw [← hasid]
    exact hform
  case bumped =>
    change settledFor ((bumpAsid ..).fabric f.tile) _ _ = true
    rw [fabric_bumpAsid]
    exact hfired
  case moved => exact (asidGeneration_bumpAsid hgen a a).trans (if_pos rfl)
  case others => exact (asidGeneration_bumpAsid hgen a b).trans (if_neg hb)
  case wrap => exact bumpAsid_removes ((asidGeneration_bumpAsid hgen a a).trans (if_pos rfl) ▸ hwrap) hx

end Sys2Proof.Machine
end
section
/-! ## Traps taken, and a trap within a handler (R108, R132, R244, R297 to R302) -/

namespace Sys2Proof.Machine

/-- What taking a trap needs of a context, and what a trap within a handler leaves of it (R299, R301). -/
def Ctx.trapPart (c : Ctx) :=
  (c.g, c.k, c.inh, c.tvec, c.phase, c.launch, c.tcause, c.tblk, c.tslot, c.tinfo0, c.tinfo1)

theorem trapPart_keepResume (c : Ctx) (x : Fabric) : (keepResume c x).trapPart = c.trapPart := by
  unfold keepResume
  dsimp only
  split
  · rfl
  · split_ifs <;> rfl

/-- What a context holds once a trap has been taken (R298, R299). -/
def trapTaken (r : TrapRec) (after async : Bool) (treta : Word) (halted : Bool) (c : Ctx) : Ctx :=
  { c with tcause := r.cause, tblk := r.blk, tslot := r.slot, ttag := r.tag, tinfo0 := r.info0, tinfo1 := r.info1,
           treta := treta &&& ~~~63#64, after := after, async := async, inh := true, haltedEntry := halted,
           phase := .fetching, pc := c.tvec, via := .any }

section Taken

variable {s : State} {t : Nat} {c : Ctx}

/-- Abandoning a block empties its fabric, and changes of its context only where it goes on (R109, R133). -/
theorem abandon_trapPart (hc : (s.tile t).ctx = some c) :
    ∃ d, ((abandon s t).tile t).ctx = some d ∧ d.trapPart = c.trapPart ∧ (abandon s t).fabric t = Fabric.reset := by
  have ht := tile_lt_of_ctx hc
  unfold abandon
  dsimp only
  generalize hX : State.modFabric _ t _ = X
  have hctx : (X.tile t).ctx = some (keepResume c (s.tile t).fabric) := by
    rw [← hX, State.ctx_modFabric, ctx_freeToys]
    exact ctx_modCtx hc _
  have hfabric : X.fabric t = Fabric.reset := by
    rw [← hX, State.fabric_modFabric_same _ _ _ ht]
  have hrest : Beside X (wake (acquire (dropReserved (dropFirings X t (s.ctxId t) (handling s t) fun _ => true) t (s.ctxId t)
      fun _ => true) t)) :=
    (dropFirings_beside ..).trans ((dropReserved_beside ..).trans ((acquire_beside _ t).trans (wake_beside _)))
  obtain ⟨d, hd, hquiet⟩ := hrest.ctx_some hctx
  exact ⟨d, hd, (congrArg Ctx.trapPart hquiet).trans (trapPart_keepResume c _), (hrest.tile t).fabric hfabric⟩

/-- Outside a handler a trap is taken (R299). -/
theorem enterTrap_ctx (hc : (s.tile t).ctx = some c) (hinh : c.inh = false) (r : TrapRec) (after async : Bool) (treta : Word)
    (halted : Bool) :
    ((enterTrap s t r after async treta halted).tile t).ctx = some (trapTaken r after async treta halted c) := by
  have hfresh : ((s.modTile t (fun x => { x with fresh := false })).tile t).ctx = some c := by
    rw [State.tile_modTile_same _ _ _ (tile_lt_of_ctx hc)]
    exact hc
  unfold enterTrap
  simp only [hc, hinh, Bool.false_eq_true, if_false]
  exact ctx_modCtx hfresh _

/-- A handler has been entered for a trap: its record stands in the trap registers, and g and k registers are those of `c` (R298,
R299). -/
def Entered (u : State) (t : Nat) (c : Ctx) (r : TrapRec) (treta : Word) (after async : Bool) : Prop :=
  ∃ d, (u.tile t).ctx = some d ∧ d.tcause = r.cause ∧ d.tblk = r.blk ∧ d.tslot = r.slot ∧
    d.ttag = r.tag ∧ d.tinfo0 = r.info0 ∧ d.tinfo1 = r.info1 ∧ d.treta = treta &&& 0xFFFFFFFFFFFFFFC0 ∧ d.after = after ∧
    d.async = async ∧ d.inh = true ∧ d.phase = .fetching ∧ d.pc = c.tvec ∧ (∀ n, d.greg n = c.greg n) ∧ (∀ n, d.kreg n = c.kreg n)

theorem entered_of_enterTrap {d : Ctx} (hd : (s.tile t).ctx = some d) (hsame : d.trapPart = c.trapPart) (hinh : c.inh = false)
    (r : TrapRec) (after async : Bool) (treta : Word) (halted : Bool) :
    Entered (enterTrap s t r after async treta halted) t c r treta after async := by
  simp only [Ctx.trapPart, Prod.mk.injEq] at hsame
  obtain ⟨hg, hk, hi, htvec, -⟩ := hsame
  refine ⟨_, enterTrap_ctx hd (hi.trans hinh) r after async treta halted, rfl, rfl, rfl, rfl, rfl, rfl, rfl, rfl, rfl, rfl, rfl,
    htvec, fun n => ?_, fun n => ?_⟩
  · simp only [trapTaken, Ctx.greg, hg]
  · simp only [trapTaken, Ctx.kreg, hk]

/-- A block that traps is abandoned, and the handler returns to it (R297, R299). -/
theorem entered_of_trapNow (hc : (s.tile t).ctx = some c) (hinh : c.inh = false) (r : TrapRec) :
    Entered (trapNow s t r) t c r r.blk false false := by
  obtain ⟨d, hd, hsame, -⟩ := abandon_trapPart hc
  exact entered_of_enterTrap hd hsame hinh r false false r.blk false

/-- TRAP_ENTRY takes the first parked trap that is due (R132). -/
theorem exec_trapEntry {r : TrapRec} (h : (s.fabric t).parked.find? (trapDue s t) = some r) :
    exec (.trapEntry t) s = .next (trapNow s t r) := by
  change execTrapEntry t s = _
  simp only [execTrapEntry, h]

/-- QUIESCENCE_TRAP takes the trap of a block that is quiescent and cannot commit (R108). -/
theorem exec_quiescenceTrap {b : Block} {k slot : Nat} {tag : Tag} (hc : (s.tile t).ctx = some c)
    (hb : (s.fabric t).blk = some b) (hq : quiescent s t b = true) (hready : commitReady s t b c = false)
    (hstuck : stuckTrap s t b c = some (k, slot, tag)) :
    exec (.quiescenceTrap t) s =
      .next (trapNow s t { cause := k, blk := b.addr, slot := slot, tag := tag, info0 := 0, info1 := 0 }) := by
  change execQuiescenceTrap t s = _
  simp only [execQuiescenceTrap, hb, hc, hq, hready, hstuck, Bool.not_false, Bool.and_self, if_true]

/-- ENGINE_TRAP_TAKEN takes the first held trap, from the state of the context (R244, R301). -/
theorem exec_engineTrapTaken {p : AsyncTrap} (hc : (s.tile t).ctx = some c) (hinh : c.inh = false)
    (hp : firstPending c.pendingTraps = some p) :
    let u := s.modCtx t (fun c' => { c' with pendingTraps := dropFirst p c.pendingTraps })
    (c.phase = .running → exec (.engineTrapTaken t) s =
      .next (enterTrap (abandon u t) t p.trap false true (blockAddr s t) false)) ∧
    (c.phase = .fetching → exec (.engineTrapTaken t) s = .next (enterTrap u t p.trap false true c.pc false)) ∧
    (c.phase = .halted → exec (.engineTrapTaken t) s = .next (enterTrap u t p.trap true true 0 true)) := by
  have haddr : blockAddr (s.modCtx t (fun c' => { c' with pendingTraps := dropFirst p c.pendingTraps })) t = blockAddr s t := by
    unfold blockAddr
    rw [fabric_modCtx hc]
  refine ⟨fun h => ?_, fun h => ?_, fun h => ?_⟩ <;> change execEngineTrapTaken t s = _ <;>
    simp only [execEngineTrapTaken, hc, hp, hinh, h, haddr, Bool.false_eq_true, if_false]

/-- The held trap of an engine is taken (R244, R301). -/
theorem engineTrap_entered {p : AsyncTrap} (hc : (s.tile t).ctx = some c) (hinh : c.inh = false)
    (hp : firstPending c.pendingTraps = some p) :
    (c.phase = .running → ∃ u, exec (.engineTrapTaken t) s = .next u ∧ Entered u t c p.trap (blockAddr s t) false true) ∧
    (c.phase = .fetching → ∃ u, exec (.engineTrapTaken t) s = .next u ∧ Entered u t c p.trap c.pc false true) ∧
    (c.phase = .halted → ∃ u, exec (.engineTrapTaken t) s = .next u ∧ Entered u t c p.trap 0 true true) := by
  have hdropped := ctx_modCtx hc (fun c' => { c' with pendingTraps := dropFirst p c.pendingTraps })
  obtain ⟨hrunning, hfetching, hhalted⟩ := exec_engineTrapTaken hc hinh hp
  refine ⟨fun h => ⟨_, hrunning h, ?_⟩, fun h => ⟨_, hfetching h, ?_⟩, fun h => ⟨_, hhalted h, ?_⟩⟩
  · obtain ⟨d, hd, hsame, -⟩ := abandon_trapPart hdropped
    exact entered_of_enterTrap hd (hsame.trans rfl) hinh ..
  · exact entered_of_enterTrap hdropped rfl hinh ..
  · exact entered_of_enterTrap hdropped rfl hinh ..

/-- The end of a live context ends its launch and is reported (R302). -/
theorem endUnresolved_reports (hc : (s.tile t).ctx = some c) (hlive : c.phase.live = true) (r : TrapRec) (keep : Bool) :
    (∀ l ∈ (endUnresolved s t r keep).launches, l.id = c.launch → l.ended = true) ∧
      .unresolved t r.cause r.info0 r.info1 ∈ (endUnresolved s t r keep).outbox := by
  unfold endUnresolved
  simp only [hc, hlive, Bool.not_true, Bool.false_eq_true, if_false]
  refine ⟨fun l hl hid => ?_, by simp⟩
  obtain ⟨l₀, -, rfl⟩ := List.mem_map.mp hl
  by_cases h : l₀.id = c.launch
  · simp [h]
  · simp [h] at hid

/-- A trap within a handler is no trap of the handler's block: the context ends (R301). -/
theorem enterTrap_within {d : Ctx} (hd : (s.tile t).ctx = some d) (hinh : d.inh = true) (r : TrapRec) (after async : Bool)
    (treta : Word) (halted : Bool) :
    enterTrap s t r after async treta halted = endUnresolved s t { r with
      cause := 0x74, info0 := BitVec.ofNat 64 r.cause, info1 := BitVec.ofNat 64 r.slot } true := by
  simp only [enterTrap, hd, hinh, if_true]

/-- A trap within a handler ends the context, its launch and its queued commands, and keeps the first record (R301, R302). -/
theorem trapNow_within (hc : (s.tile t).ctx = some c) (hinh : c.inh = true) (hlive : c.phase.live = true) (r : TrapRec) :
    ∃ d, ((trapNow s t r).tile t).ctx = some d ∧ d.phase = .ended ∧ d.tcause = c.tcause ∧ d.tblk = c.tblk ∧ d.tslot = c.tslot ∧
      d.tinfo0 = c.tinfo0 ∧ d.tinfo1 = c.tinfo1 ∧ d.copyQ = [] ∧ d.vectorQ = [] ∧ d.matrixQ = [] ∧ d.riderQ = [] ∧
      (∀ l ∈ (trapNow s t r).launches, l.id = c.launch → l.ended = true) ∧
      .unresolved t 0x74 (BitVec.ofNat 64 r.cause) (BitVec.ofNat 64 r.slot) ∈ (trapNow s t r).outbox := by
  obtain ⟨d, hd, hsame, -⟩ := abandon_trapPart hc
  obtain ⟨e, he, hagain, -⟩ := abandon_trapPart hd
  have hkept := hagain.trans hsame
  simp only [Ctx.trapPart, Prod.mk.injEq] at hsame hkept
  obtain ⟨-, -, hi, -, hphase, hlaunch, -⟩ := hsame
  obtain ⟨-, -, -, -, -, -, hcause, hblk, hslot, hinfo0, hinfo1⟩ := hkept
  have hdlive : d.phase.live = true := hphase ▸ hlive
  rw [trapNow, enterTrap_within hd (hi.trans hinh)]
  obtain ⟨hended, hout⟩ := endUnresolved_reports hd hdlive { r with
    cause := 0x74, info0 := BitVec.ofNat 64 r.cause, info1 := BitVec.ofNat 64 r.slot } true
  exact ⟨_, (tile_endUnresolved hd hdlive he _ true).1, rfl, hcause, hblk, hslot, hinfo0, hinfo1, rfl, rfl, rfl, rfl,
    fun l hl hid => hended l hl (hid.trans hlaunch.symm), hout⟩

end Taken

/-- Settles O37: outside a handler each kind of trap enters it by `enterTrap`, and within one the context ends. -/
theorem trapsTaken : Obligations.TrapsTaken := by
  refine ⟨fun s t c hc hinh => ⟨fun r hr => ?parked, fun b k slot tag hb hq hready hstuck => ?quiescent,
    fun p hp => ?engine⟩, fun s t c r hc hinh hlive hr => ?within⟩
  case parked =>
    obtain ⟨d, hd⟩ := entered_of_trapNow hc hinh r
    exact ⟨_, d, exec_trapEntry hr, hd⟩
  case quiescent =>
    obtain ⟨d, hd⟩ := entered_of_trapNow hc hinh { cause := k, blk := b.addr, slot := slot, tag := tag, info0 := 0, info1 := 0 }
    exact ⟨_, d, exec_quiescenceTrap hc hb hq hready hstuck, hd⟩
  case engine =>
    obtain ⟨hrunning, hfetching, hhalted⟩ := engineTrap_entered hc hinh hp
    refine ⟨fun h => ?_, fun h => ?_, fun h => ?_⟩
    · obtain ⟨u, hu, d, hd⟩ := hrunning h
      exact ⟨u, d, hu, hd⟩
    · obtain ⟨u, hu, d, hd⟩ := hfetching h
      exact ⟨u, d, hu, hd⟩
    · obtain ⟨u, hu, d, hd⟩ := hhalted h
      exact ⟨u, d, hu, hd⟩
  case within =>
    obtain ⟨d, hd⟩ := trapNow_within hc hinh hlive r
    exact ⟨_, d, exec_trapEntry hr, hd⟩

end Sys2Proof.Machine
end
section
/-! ## How a block is fetched and mapped (R92, R94 to R98, R352) -/

namespace Sys2Proof.Machine

/-! ### The block cache (R95) -/

/-- A line that the cache holds is not read again. -/
theorem fetchLine_of_cached {s : State} {t tenant va : Nat} {l : BlockLine}
    (h : cachedLine s t (asidOf s tenant) va = some l) : fetchLine s t tenant va false = (s, .ok (l.bytes, false)) := by
  simp only [fetchLine, Bool.false_eq_true, if_false, h]

/-- A block whose last lines the cache holds needs none of them from memory. -/
theorem fetchLines_of_cached {s : State} {t tenant : Nat} {n va : Nat} {bs : List Byte}
    (h : cachedBytes s t (asidOf s tenant) n va = some bs) : fetchLines t tenant false n va false s = (s, .ok false) := by
  induction n generalizing va bs with
  | zero => rfl
  | succ n ih =>
    rw [cachedBytes] at h
    split at h
    · rename_i l rest hl hrest
      simp only [fetchLines, fetchLine_of_cached hl, Bool.false_and]
      exact ih hrest
    · exact nomatch h

theorem imageLines_pos (w0 : Word) : 0 < imageLines w0 := by
  unfold imageLines
  split_ifs <;> omega

/-- A block that is whole in the cache is not read again (R94, R95). -/
theorem fetchBlock_of_cached {s : State} {t tenant va : Nat} {bs : List Byte} {sig : BitVec 16}
    (h : cachedBlock s t (asidOf s tenant) va = some (bs, sig)) : fetchBlock s t tenant va false = (s, .ok false) := by
  rw [cachedBlock] at h
  split at h
  · exact nomatch h
  · rename_i l hl
    split at h
    · exact nomatch h
    · rename_i all hall
      obtain ⟨n, hn⟩ := Nat.exists_eq_succ_of_ne_zero (imageLines_pos (wordAt l.bytes 0)).ne'
      rw [hn, cachedBytes, hl] at hall
      split at hall
      · rename_i rest _ hrest
        simp only [fetchBlock, fetchLine_of_cached hl, hn, Nat.succ_sub_one]
        exact fetchLines_of_cached hrest
      · exact nomatch hall

/-! ### A tile that wants a block -/

section Wanting

variable {s : State} {t : Nat} {c : Ctx}

/-- A tile's context wants its next block, and nothing keeps it from it (R94, R227, R301). -/
structure Wants (s : State) (t : Nat) (c : Ctx) : Prop where
  ctx : (s.tile t).ctx = some c
  phase : c.phase = .fetching
  free : fetchBlocked s t c = false

/-- A target that fails a check of R352 traps. -/
theorem exec_blockFetch_target (h : Wants s t c) {k : Nat} {i1 : Word} (hf : targetFault c.pc = some (k, i1)) :
    exec (.blockFetch t) s = .next (fetchTrap s t c.pc k 0x80 c.pc i1) := by
  change execBlockFetch t s = _
  simp only [execBlockFetch, h.ctx, h.phase, h.free, hf, Bool.false_eq_true, if_false]

/-- A block whose lines have come is noted as fresh where they all came from memory (R94, R96). -/
theorem exec_blockFetch_lines (h : Wants s t c) (hf : targetFault c.pc = none) {u : State} {fresh : Bool}
    (hu : fetchBlock s t c.tenant c.pc.toNat false = (u, .ok fresh)) :
    exec (.blockFetch t) s = .next (u.modTile t (fun x => { x with fresh := x.fresh || fresh })) := by
  change execBlockFetch t s = _
  simp only [execBlockFetch, h.ctx, h.phase, h.free, hf, hu, Bool.false_eq_true, if_false]

/-- A line that cannot be read traps (R94). -/
theorem exec_blockFetch_fault (h : Wants s t c) (hf : targetFault c.pc = none) {u : State} {va k level : Nat}
    (hu : fetchBlock s t c.tenant c.pc.toNat false = (u, .error (va, k, level))) :
    exec (.blockFetch t) s = .next (fetchTrap u t c.pc k 0x80 (BitVec.ofNat 64 va) (memInfo1 0 64 false level)) := by
  change execBlockFetch t s = _
  simp only [execBlockFetch, h.ctx, h.phase, h.free, hf, hu, Bool.false_eq_true, if_false]

/-- A block that is whole in the cache goes to its mapping (R92, R96). -/
theorem exec_blockMap (h : Wants s t c) (hf : targetFault c.pc = none) {bs : List Byte} {sig : BitVec 16}
    (hc : cachedBlock s t (asidOf s c.tenant) c.pc.toNat = some (bs, sig)) :
    exec (.blockMap t) s = .next (mapBlock s t c bs sig) := by
  change execBlockMap t s = _
  simp only [execBlockMap, h.ctx, h.phase, h.free, hf, hc, Option.isSome_none, Bool.or_self, Bool.false_eq_true, if_false]

theorem exec_blockCacheRefetch (h : Wants s t c) (hf : targetFault c.pc = none) :
    exec (.blockCacheRefetch t) s = .next (refetch s t c) := by
  change execBlockCacheRefetch t s = _
  simp only [execBlockCacheRefetch, h.ctx, h.phase, h.free, hf, Option.isSome_none, Bool.or_self, Bool.false_eq_true, if_false]

/-! ### Mapping (R92, R96, R98) -/

/-- The instruction words of a block's bytes, as many as its header says (R91). -/
def blockWords (bs : List Byte) : List Word := bodyWords bs (if hdrN (wordAt bs 0) > 128 then 0 else hdrN (wordAt bs 0))

/-- The bytes over which a block's signature goes (R93). -/
def blockBody (bs : List Byte) : List Byte :=
  (bs.drop 16).take (8 * if hdrN (wordAt bs 0) > 128 then 0 else hdrN (wordAt bs 0))

/-- A block as it is mapped (R91, R98). -/
def blockAt (c : Ctx) (bs : List Byte) : Block :=
  { addr := c.pc, words := blockWords bs, loop := hdrLoop (wordAt bs 0), supervisor := hdrSupervisor (wordAt bs 0),
    noPrefetch := hdrNoPrefetch (wordAt bs 0), twh := hdrTwh (wordAt bs 0) }

variable {bs : List Byte} {sig : BitVec 16}

/-- A block with a wrong signature that has not come from memory is fetched afresh (R96). -/
theorem mapBlock_unsigned (h : ¬((s.tile t).fresh = true ∨ sig = crc16 (blockBody bs))) :
    mapBlock s t c bs sig = refetch s t c := by
  obtain ⟨hfresh, hsig⟩ := not_or.mp h
  refine if_pos ?_
  rw [Bool.and_eq_true, Bool.not_eq_true', decide_eq_true_eq]
  exact ⟨Bool.eq_false_iff.mpr hfresh, hsig⟩

/-- A block that has come from memory, or whose signature is right, is taken as it is (R96). -/
theorem mapBlock_signed (h : (s.tile t).fresh = true ∨ sig = crc16 (blockBody bs)) :
    mapBlock s t c bs sig =
      match mapFault c.via c.pc (wordAt bs 0) (wordAt bs 1) (blockWords bs) (blockBody bs) with
      | some (cause, slot, i0, i1) => fetchTrap s t c.pc cause slot i0 i1
      | none => enterBlock s t c (blockAt c bs) := by
  refine if_neg ?_
  rw [Bool.and_eq_true, Bool.not_eq_true', decide_eq_true_eq]
  rintro ⟨hfresh, hsig⟩
  exact h.elim (fun hf => Bool.false_ne_true (hfresh.symm.trans hf)) hsig

/-- A mapped block stands alone in its fabric, and its context runs it with its registers and ports as they were (R98). -/
theorem enterBlock_leaves (ht : t < 192) (b : Block) :
    ∃ d, ((enterBlock s t c b).tile t).ctx = some d ∧ ((enterBlock s t c b).fabric t).blk = some b ∧
      ((enterBlock s t c b).fabric t).operands = [] ∧ ((enterBlock s t c b).fabric t).settled = [] ∧
      ((enterBlock s t c b).fabric t).exit = none ∧ ((enterBlock s t c b).fabric t).held = [] ∧
      d.phase = .running ∧ d.g = c.g ∧ d.k = c.k ∧ ((enterBlock s t c b).fabric t).mapPorts = c.ports := by
  unfold State.fabric enterBlock
  dsimp only
  rw [State.tile_modTile_same _ _ _ ht]
  refine ⟨_, rfl, rfl, rfl, rfl, rfl, rfl, rfl, ?_, ?_, ?_⟩ <;> (dsimp only; split_ifs <;> rfl)

end Wanting

/-- Settles O38: the steps of a tile that wants a block by their equations, and a mapped block by what `enterBlock` leaves. -/
theorem blocksMapped : Obligations.BlocksMapped := by
  intro s t c hctx hphase hfree
  have hw : Wants s t c := ⟨hctx, hphase, hfree⟩
  refine ⟨fun k i1 hf => exec_blockFetch_target hw hf, fun hf => ⟨fun u fresh hu => exec_blockFetch_lines hw hf hu,
    fun u va k level hu => exec_blockFetch_fault hw hf hu, fun bs sig hc => ?cached, fun bs sig hc => ⟨fun hbad => ?unsigned,
    fun k slot i0 i1 hfault hgood => ?rejected, fun hmap hgood => ?mapped⟩, exec_blockCacheRefetch hw hf⟩⟩
  case cached =>
    rw [exec_blockFetch_lines hw hf (fetchBlock_of_cached hc)]
    simp only [Bool.or_false]
  case unsigned => rw [exec_blockMap hw hf hc, mapBlock_unsigned hbad]
  case rejected =>
    rw [exec_blockMap hw hf hc, mapBlock_signed hgood]
    change Host.Outcome.next (match mapFault c.via c.pc (wordAt bs 0) (wordAt bs 1) (blockWords bs) (blockBody bs) with
      | some (cause, slot, i0, i1) => fetchTrap s t c.pc cause slot i0 i1
      | none => enterBlock s t c (blockAt c bs)) = _
    rw [show mapFault c.via c.pc (wordAt bs 0) (wordAt bs 1) (blockWords bs) (blockBody bs) = _ from hfault]
  case mapped =>
    obtain ⟨d, hd, hb, hops, hset, hexit, hheld, hrun, hg, hk, hports⟩ := enterBlock_leaves (s := s) (c := c) (tile_lt_of_ctx hctx) (blockAt c bs)
    refine ⟨_, d, blockAt c bs, ?_, hd, hb, rfl, rfl, rfl, rfl, hops, hset, hexit, hheld, hrun, hg, hk, hports⟩
    rw [exec_blockMap hw hf hc, mapBlock_signed hgood,
      show mapFault c.via c.pc (wordAt bs 0) (wordAt bs 1) (blockWords bs) (blockBody bs) = none from hmap]

end Sys2Proof.Machine
end
section
/-! ## An atomic of a locked pair that has no trailing tile (R18, R84, R105)

Each tile of a locked pair forms the packet of an atomic, which leaves once both packets are the same. A context that is locked on tile
191 has no trailing tile: 192 names none, and reads as a reset one, which holds no packet. There the atomic has fired and nothing acts. -/

namespace Sys2Proof.Machine

/-- A locked context of the last tile, with a capability of space L in k0. -/
def unpairedCtx : Ctx :=
  { blankCtx 1 0 1 0 0 0 0 with
    phase := .running, lock := true
    k := (Vector.replicate 16 CapReg.zero).set 0 (CapReg.make 0 0 0x3E0000 0xFFF 0 true) }

def zeroToken : Token :=
  { val := 0, hi := 0, cap := false, ctag := false, tag := 0, outer := false, bw := true, eos := false, null := false, col := 0, anc := [] }

/-- An atomic on byte 0 of its scratchpad that fires there. -/
def unpairedFiring : Firing :=
  { tile := 191, slot := 0, key := none, outer := false, col := 0, left := some zeroToken, right := some zeroToken, third := none,
    off := false, anc := [], taken := [] }

/-- Its header without targets, and its class M fields: 8 bytes through k0. -/
def unpairedHdr : Hdr := { pm := .always, u := false, w := false, t1 := { d := 0, port := .left }, t2 := { d := 0, port := .left } }
def unpairedField : MField := { k := 0, sz := 3, oe := false, scope := 0, off := 0 }

/-- The machine before the atomic fires there, or with its firing taken. -/
def unpairedState (f : Option Firing) : State :=
  { State.reset.modTile 191 (fun x => { x with ctx := some unpairedCtx, running := some 0 }) with cur := f }

theorem tile_withCur (s : State) (f : Option Firing) (t : Nat) : State.tile { s with cur := f } t = s.tile t := rfl

theorem ctx_unpairedState (f : Option Firing) : ((unpairedState f).tile 191).ctx = some unpairedCtx := by
  unfold unpairedState
  rw [tile_withCur, State.tile_modTile_same _ _ _ (by decide)]

/-- The accesses under way after a step. -/
def accessesAfter (o : Out) : Option (List Pend) :=
  match o with
  | .next u => some u.pend
  | _ => none

theorem unpairedState_memories : MemoriesWf (unpairedState none) := by
  unfold MemoriesWf
  decide +kernel

theorem accessesAfter_unpaired :
    accessesAfter (exec (.aadd unpairedHdr false false unpairedField) (unpairedState (some unpairedFiring))) = some [] := by
  decide +kernel

/-- Refutes O18: an AADD of a context that is locked on tile 191 fires and leaves no access. -/
theorem not_atomicsAct : ¬ Obligations.AtomicsAct := by
  intro h
  have hact := h.1 (unpairedState (some unpairedFiring)) (unpairedState none) unpairedFiring unpairedHdr unpairedField unpairedCtx false false
    (.scratch 191 0) 0 ⟨rfl, rfl⟩ rfl (ctx_unpairedState _) ⟨rfl, rfl⟩ (fun _ hp => nomatch hp) rfl rfl (by decide +kernel)
    unpairedState_memories
  obtain ⟨t, q, hexec, hpend, -⟩ := hact.1 rfl (by decide +kernel)
  have hnone := accessesAfter_unpaired
  rw [hexec] at hnone
  change some t.pend = some [] at hnone
  rw [hpend] at hnone
  exact absurd hnone (by simp)

end Sys2Proof.Machine
end
section
/-! ## Exits at firing (R106, R128, R350, R351, R353, R374) -/

namespace Sys2Proof.Machine

section Exits

variable {s : State} {f : Firing} {dest : Firing → State → ExitTo}

/-- An exit that fires first in its block is recorded (R106). -/
theorem exitForm_first (ht : Turn s f) (he : f.eos = false) (hx : (s.fabric f.tile).exit = none) :
    exitForm s dest = .next (exiting s f (dest f { s with cur := none })) := by
  rw [exitForm, onFiring_turn ht, he, if_neg Bool.false_ne_true, fireExit_cur hx]

/-- A second exit has trapped (R128). -/
def secondExit (s : State) (f : Firing) : State := trapAtOnce { s with cur := none } f 0x05 0 0

/-- A second exit traps at once (R128). -/
theorem exitForm_second (ht : Turn s f) (he : f.eos = false) {x : ExitRec} (hx : (s.fabric f.tile).exit = some x) :
    exitForm s dest = .next (secondExit s f) := by
  have hx' : (({ s with cur := none } : State).fabric f.tile).exit = some x := hx
  rw [exitForm, onFiring_turn ht, he, if_neg Bool.false_ne_true]
  simp only [fireExit, hx', secondExit]

/-- An exit that receives an EOS token counts as not fired (R350). -/
theorem exitForm_eos (ht : Turn s f) (he : f.eos = true) : exitForm s dest = .next (settledWith s f .off []) := by
  rw [exitForm, onFiring_turn ht, he, if_pos rfl, settle_cur]

/-! The meaning of each exit, by where it leads. -/

theorem exec_br (h : Hdr) (off : BitVec 30) :
    exec (.br h off) s = exitForm s (fun f s => .block (relativeTarget s f.tile off) none) := rfl

theorem exec_bri (h : Hdr) : exec (.bri h) s = exitForm s (fun f _ => .block (tokVal f.left) none) := rfl

theorem exec_call (h : Hdr) (off : BitVec 30) :
    exec (.call h off) s = exitForm s (fun f s => .block (relativeTarget s f.tile off) (returnAddress s f.tile)) := rfl

theorem exec_calli (h : Hdr) : exec (.calli h) s = exitForm s (fun f s => .block (tokVal f.left) (returnAddress s f.tile)) := rfl

/-- RET leads to g55, which the context that is mapped holds (R351). -/
theorem exec_ret (h : Hdr) {c : Ctx} (ht : Turn s f) (he : f.eos = false) (hc : (s.tile f.tile).ctx = some c)
    (hx : (s.fabric f.tile).exit = none) : exec (.ret h) s = .next (exiting s f (.block c.g[55] none)) := by
  have hc' : (({ s with cur := none } : State).tile f.tile).ctx = some c := hc
  change execRet h s = _
  rw [execRet, exitForm_first ht he hx]
  simp only [hc']
  rfl

theorem exec_ret_second (h : Hdr) (ht : Turn s f) (he : f.eos = false) {x : ExitRec} (hx : (s.fabric f.tile).exit = some x) :
    exec (.ret h) s = .next (secondExit s f) := by
  change execRet h s = _
  rw [execRet, exitForm_second ht he hx]

theorem exec_halt (h : Hdr) : exec (.halt h) s = exitForm s (fun _ _ => .halt) := rfl

/-- TRET is recorded in a SUPERVISOR block of a handler, and traps elsewhere (R300, R374). -/
theorem exec_tret (ht : Turn s f) (h : Hdr) {c : Ctx} (hc : (s.tile f.tile).ctx = some c) :
    exec (.tret h) s = .next (if isSupervisor s f.tile = true ∧ c.inh = true then fireExit { s with cur := none } f .tret
      else trapFiring { s with cur := none } f 0x0A 0 0) := by
  have hc' : (({ s with cur := none } : State).tile f.tile).ctx = some c := hc
  change execTret h s = _
  rw [execTret, onFiring_turn ht, supervisorOnly]
  simp only [hc', show isSupervisor { s with cur := none } f.tile = isSupervisor s f.tile from rfl]
  cases isSupervisor s f.tile <;> cases c.inh <;> rfl

end Exits

/-- Settles O14: the exits by `exitForm` and where each leads, TRET by its two conditions. -/
theorem exitsRecorded : Obligations.ExitsRecorded := by
  refine ⟨fun s f h off b c ht heos hb hx hc => ?first, fun s f h off x ht hx => ⟨fun heos => ?second, fun heos => ?eos⟩⟩
  case first =>
    have hb' : (({ s with cur := none } : State).fabric f.tile).blk = some b := hb
    have hc' : (({ s with cur := none } : State).tile f.tile).ctx = some c := hc
    have hrel : relativeTarget { s with cur := none } f.tile off = b.addr + 64 * off.signExtend 64 := by
      simp only [relativeTarget, blockAddr, hb']
    have hback : returnAddress { s with cur := none } f.tile = some (afterBlock b) := by
      simp only [returnAddress, hb', Option.map_some]
    have hsup : isSupervisor s f.tile = b.supervisor := by simp only [isSupervisor, hb]
    have hexit {dest : Firing → State → ExitTo} : exitForm s dest = .next (exiting s f (dest f { s with cur := none })) :=
      exitForm_first ht heos hx
    intro rel back
    refine ⟨by rw [exec_br, hexit, hrel], by rw [exec_bri, hexit], by rw [exec_call, hexit, hrel, hback]; rfl,
      by rw [exec_calli, hexit, hback]; rfl, exec_ret h ht heos hc hx, by rw [exec_halt, hexit], fun hs hi => ?tret, fun hno => ?denied⟩
    case tret => rw [exec_tret ht h hc, if_pos ⟨hsup.trans hs, hi⟩, fireExit_cur hx]
    case denied =>
      change exec (.tret h) s = _
      rw [exec_tret ht h hc, if_neg (hsup ▸ hno)]
  case second =>
    have hexit {dest : Firing → State → ExitTo} : exitForm s dest = .next (secondExit s f) := exitForm_second ht heos hx
    exact ⟨exec_br (s := s) h off ▸ hexit, exec_bri (s := s) h ▸ hexit, exec_call (s := s) h off ▸ hexit, exec_calli (s := s) h ▸ hexit,
      exec_ret_second h ht heos hx, exec_halt (s := s) h ▸ hexit⟩
  case eos => exact ⟨exec_bri (s := s) h ▸ exitForm_eos ht heos, exec_calli (s := s) h ▸ exitForm_eos ht heos⟩

end Sys2Proof.Machine
end
section
/-! ## A class M access as its firing sends it (R104, R139, R354 to R357) -/

namespace Sys2Proof.Machine

/-! ### Translation leaves the firing's turn alone (R148, R153) -/

section Resolve

variable (s : State)

theorem cur_tlbInstall (slice : Nat) (e : TlbEntry) : (tlbInstall s slice e).cur = s.cur := by
  unfold tlbInstall
  dsimp only
  split <;> rfl

theorem cur_translateAs (f asid va : Nat) : (translateAs s f asid va).1.cur = s.cur := by
  unfold translateAs
  dsimp only
  split
  · rfl
  · split
    · rfl
    · split
      · rfl
      · exact cur_tlbInstall ..

theorem cur_translateAccess (f va : Nat) (a : Access) : (translateAccess s f va a).1.cur = s.cur := by
  have h := cur_translateAs s f (asidOf s f) va
  unfold translateAccess translateAccessAs
  generalize translateAs s f (asidOf s f) va = r at h
  obtain ⟨u, r⟩ := r
  cases r with
  | error x => exact h
  | ok l =>
    dsimp only
    split_ifs
    · exact h
    · exact h
    · exact h
    · split
      · split_ifs <;> exact h
      · exact h

/-- The checks of an access change the state only by one translation (R139). -/
theorem resolve_state (t k : Nat) (c : CapReg) (off : Word) (op : MemOp) (sup : Bool) (stored : CapReg) :
    (resolve s t k c off op sup stored).1 = s ∨ ∃ f va a, (resolve s t k c off op sup stored).1 = (translateAccess s f va a).1 := by
  have htranslated (f va : Nat) (a : Access) (trap : Nat → Nat → Except MemTrap (Place × Word)) (addr : Word) :
      (match (generalizing := false) translateAccess s f va a with
        | (s, .error (cause, level)) => ((s, trap cause level) : State × Except MemTrap (Place × Word))
        | (s, .ok p) => match placeFault t op stored false p with
          | some x => (s, trap x 0)
          | none => (s, .ok (p, addr))).1 = (translateAccess s f va a).1 := by
    generalize translateAccess s f va a = r
    obtain ⟨u, r⟩ := r
    cases r with
    | error x => rfl
    | ok p => dsimp only; split <;> rfl
  unfold resolve
  dsimp only
  split
  · exact .inl rfl
  · split
    · split
      · exact .inl rfl
      · split <;> exact .inl rfl
    · split
      · split
        · exact .inl rfl
        · split
          · split
            · exact .inl rfl
            · exact .inl rfl
            · split
              · exact .inl rfl
              · exact .inr ⟨_, _, _, htranslated ..⟩
            · split <;> exact .inl rfl
          · exact .inr ⟨_, _, _, htranslated ..⟩
      · split <;> exact .inl rfl

theorem cur_resolve (t k : Nat) (c : CapReg) (off : Word) (op : MemOp) (sup : Bool) (stored : CapReg) :
    (resolve s t k c off op sup stored).1.cur = s.cur := by
  obtain h | ⟨f, va, a, h⟩ := resolve_state s t k c off op sup stored
  · rw [h]
  · rw [h, cur_translateAccess]

end Resolve

/-! ### Accesses that pass their checks (R104, R139) -/

section Reached

variable {s s1 : State} {f : Firing} {h : Hdr} {m : MField} {c : Ctx} {op : MemOp} {p : Place} {a : Word}

/-- The checks leave no firing whose turn it is. -/
theorem cur_of_reaches (hr : Reaches s f c m op s1 p a) : s1.cur = none := by
  have hcur := cur_resolve { s with cur := none } f.tile m.k.toNat (c.kreg m.k.toNat) (tokVal f.left + m.off.signExtend 64) op
    (isSupervisor s f.tile) { bits := (accessData op f).1, tag := (accessData op f).2 }
  rw [show resolve _ _ _ _ _ _ _ _ = (s1, .ok (p, a)) from hr] at hcur
  exact hcur

/-- A class M form whose access is a new one and passes its checks starts it (R104). -/
theorem accessForm_reaches (ht : Turn s f) (he : f.eos = false) (hc : (s.tile f.tile).ctx = some c) (hnew : Anew s f c)
    (hr : Reaches s f c m op s1 p a) (acq rel : Bool) :
    accessForm h m op acq rel s = .next (startAccess s1 f h m op acq rel c p a) := by
  have hc' : (({ s with cur := none } : State).tile f.tile).ctx = some c := hc
  have hlost : lostPend { s with cur := none } c f.slot f.key = none := hnew.2
  have hresolve : resolve { s with cur := none } f.tile m.k.toNat (c.kreg m.k.toNat) (tokVal f.left + m.off.signExtend 64) op
    (isSupervisor { s with cur := none } f.tile) { bits := (accessData op f).1, tag := (accessData op f).2 } = (s1, .ok (p, a)) := hr
  rw [accessForm, onFiring_turn ht]
  simp only [hc', hnew.1, hlost, he, hresolve, Bool.false_eq_true, if_false]

variable (hcur : s1.cur = none)
include hcur

/-- An access settles its slot as a firing whose turn has ended. -/
theorem settle_of_cur (how : How) : settle s1 f how = settledWith s1 f how [] := by
  rw [← settle_cur, ← hcur]

/-- A form that has resolved holds its effect with its scope, and its completion token leaves (R104, R222, R355). -/
theorem resolveHeld_holdingAt {d : BitVec 128} {tag : Bool} {e : Effect} (he : heldEffect op p d tag = some e) :
    resolveHeld (settle s1 f .fired) f h m op p d tag =
      holdingAt s1 f h.w e (if opFullEmpty op then m.scope else 0) (completionOf f h m) := by
  have hstate : ({ s1 with cur := none } : State) = s1 := by rw [← hcur]
  simp only [resolveHeld, he, sendCompletion, holdAt, settle, State.modFabric_modFabric, holdingAt, hstate, completionOf]
  cases m.oe with
  | false => simp only [Bool.false_eq_true, if_false, List.append_nil]
  | true =>
    simp only [if_true, send, sentTo]
    split
    · simp only [List.append_nil]
    · rw [State.modFabric_modFabric]
      rfl

/-- A store or full/empty form that is not at a far member resolves when it fires (R104). -/
theorem startAccess_held (hnear : Near p) (hret : opReturns op = false) (hwait : ∀ n, op ≠ .stfw n) {e : Effect}
    (he : heldEffect op p (accessData op f).1 (accessData op f).2 = some e) (acq rel : Bool) :
    startAccess s1 f h m op acq rel c p a =
      holdingAt s1 f h.w e (if opFullEmpty op then m.scope else 0) (completionOf f h m) := by
  rw [← resolveHeld_holdingAt hcur he]
  refine if_neg ?_
  rw [Bool.not_eq_true]
  split
  · exact absurd rfl (hwait _)
  · rw [hret, Bool.or_false]
    split
    · exact absurd rfl (hnear _)
    · rfl

/-- An STFW goes to its line or word, or to its far member (R363). -/
theorem startAccess_stfw (n : Nat) : startAccess s1 f h m (.stfw n) false false c p a =
    submit { settledWith s1 f .fired [] with nextId := s1.nextId + 1 }
      (accessBy s1 f m (.stfw n) c p a ((tokVal f.right).setWidth 128) false none) := by
  have hrevocable : opIrrevocable (.stfw n) = false := rfl
  unfold startAccess packetAccess
  simp only [hrevocable, Bool.false_and, Bool.and_false, Bool.false_eq_true, if_false, if_true, settle_of_cur hcur]
  rfl

end Reached

/-! ### The reservation of an STFW (R363) -/

section Reserve

variable {s : State} {e : Pend}

theorem behindWrite_of_nil (h : s.pend = []) (e : Pend) : behindWrite s e = false := by
  simp [behindWrite, h]

/-- An access whose condition does not hold stays, where it is the only one (R146). -/
theorem wake_underWay_stays (h : canGo (underWay s e) e = false) : wake (underWay s e) = underWay s e := by
  have hfind : (underWay s e).pend.find? (fun x => x.got.isNone && canGo (underWay s e) x) = none := by
    simp only [underWay] at h ⊢
    simp [h]
  have hlen : (underWay s e).pend.length = 1 := rfl
  simp only [wake, hlen, wakeFrom, hfind]

/-- The condition of a firing's STFW: its line or word is empty, and nobody reserves it. -/
theorem canGo_stfw {t ctx j n : Nat} {key : Key} (hwho : e.who = .firing t ctx j key) (hop : e.op = .stfw n)
    (hstate : hasState e.place = true) (hbehind : behindWrite s e = false) :
    canGo s e = (!reservedByOther s t ctx e.place &&
      (!targetFull s e.place && !s.reserved.any (fun r => sameTarget r.place e.place))) := by
  have hwriting : e.writing = false := by simp only [Pend.writing, hwho, Bool.and_false]
  have hfar : farHolds s e = false := by simp only [farHolds, hwho]
  unfold canGo
  rw [hbehind, Bool.not_false, Bool.true_and]
  split
  · rename_i hplace
    rw [hplace] at hstate
    exact nomatch hstate
  · rw [hwriting, hwho]
    simp only [hop, hstate, hfar, Waiter.party, Bool.not_true, Bool.false_or]

/-- A firing's STFW takes its reservation (R363). -/
theorem performPend_stfw {t ctx j n : Nat} {key : Key} (hwho : e.who = .firing t ctx j key) (hop : e.op = .stfw n)
    (hstate : hasState e.place = true) (hacq : e.acq = false) :
    performPend (underWay s e) e = { underWay s { e with got := some (.value (.word 0)) } with
      reserved := s.reserved ++ [{ tile := t, ctx := ctx, slot := j, key := key, place := e.place }] } := by
  have hhere : e.place.here = true := by
    cases hplace : e.place with
    | league => rw [hplace] at hstate; exact nomatch hstate
    | scratch | mailbox | mailboxHole | host | control => rfl
  rw [performPend_here _ _ hhere, performHere]
  simp only [hwho, hop, hstate, hacq, Bool.false_eq_true, if_false, if_true, bring, underWay, List.map_cons, List.map_nil, beq_self_eq_true]

end Reserve

end Sys2Proof.Machine
end
section
/-! ## Stores and full/empty writes at firing (R104, R355, R359 to R363) -/

namespace Sys2Proof.Machine

/-- A change of a fabric leaves every line and word as full as it was. -/
theorem targetFull_modFabric (s : State) (t : Nat) (g : Fabric → Fabric) (p : Place) :
    targetFull (s.modFabric t g) p = targetFull s p := by
  cases p with
  | scratch u off =>
    have hlines := congrArg (fun x => x.2.1) (store_modTile_same s t (fun x => { x with fabric := g x.fabric }) (fun _ => rfl) u)
    exact congrArg (fun l => (tget LineState.reset l (off / 128)).full) hlines
  | mailbox | mailboxHole | host | league | control => rfl

theorem targetFull_congr {s u : State} (htiles : u.tiles = s.tiles) (htenants : u.tenants = s.tenants) (p : Place) :
    targetFull u p = targetFull s p := by
  cases p with
  | scratch => simp only [targetFull, lineState, State.tile, htiles]
  | mailbox => simp only [targetFull, mailboxFull, State.tenant, htenants]
  | mailboxHole | host | league | control => rfl

/-- An access that is submitted while none is under way acts as an acquire where it has to wait (R292). -/
theorem submit_underWay {s : State} (hpend : s.pend = []) (e : Pend) :
    submit s e = wake (underWay s { e with acq := e.acq || (!canGo s e && hasState e.place) }) := by
  simp only [submit, hpend, List.nil_append, underWay]

/-- A line or word is empty, and nobody reserves it (R363). -/
def reservable (s : State) (t ctx : Nat) (p : Place) : Bool :=
  !reservedByOther s t ctx p && (!targetFull s p && !s.reserved.any (fun r => sameTarget r.place p))

theorem reservable_of_empty {s : State} {p : Place} (hempty : targetFull s p = false)
    (hfree : s.reserved.any (fun r => sameTarget r.place p) = false) (t ctx : Nat) : reservable s t ctx p = true := by
  have hother : reservedByOther s t ctx p = false := by
    rw [reservedByOther, List.any_eq_false]
    intro r hr
    rw [Bool.eq_false_iff.mpr (List.any_eq_false.mp hfree r hr)]
    exact Bool.false_ne_true
  simp only [reservable, hother, hempty, hfree, Bool.not_false, Bool.and_self]

theorem reservable_of_full {s : State} {p : Place} (hfull : targetFull s p = true) (t ctx : Nat) : reservable s t ctx p = false := by
  simp only [reservable, hfull, Bool.not_true, Bool.false_and, Bool.and_false]

section Stfw

variable {s1 : State} {f : Firing} {h : Hdr} {m : MField} {c : Ctx} {n : Nat} {p : Place} {a : Word}

/-- The state in which an STFW sets out. -/
def setOut (s : State) (f : Firing) : State := { settledWith s f .fired [] with nextId := s.nextId + 1 }

/-- An STFW of a firing, before its reservation. -/
def asking (s : State) (f : Firing) (m : MField) (n : Nat) (c : Ctx) (p : Place) (a : Word) (acq : Bool) : Pend :=
  accessBy s f m (.stfw n) c p a ((tokVal f.right).setWidth 128) acq none

theorem targetFull_setOut (s : State) (f : Firing) (p : Place) : targetFull (setOut s f) p = targetFull s p := by
  refine (targetFull_congr (s := settledWith s f .fired []) rfl rfl p).trans ?_
  exact (targetFull_modFabric _ f.tile _ p).trans (targetFull_congr rfl rfl p)

/-- An STFW goes where its line or word is empty and nobody reserves it (R363). -/
theorem canGo_asking (hstate : hasState p = true) {pend : List Pend} {acq : Bool}
    (hb : behindWrite { setOut s1 f with pend := pend } (asking s1 f m n c p a acq) = false) :
    canGo { setOut s1 f with pend := pend } (asking s1 f m n c p a acq) = reservable s1 f.tile c.id p := by
  have hfull : targetFull { setOut s1 f with pend := pend } p = targetFull s1 p := by
    rw [← targetFull_setOut s1 f p]
    exact targetFull_congr rfl rfl p
  rw [canGo_stfw (e := asking s1 f m n c p a acq) rfl rfl hstate hb]
  change (!reservedByOther s1 f.tile c.id p && (!targetFull { setOut s1 f with pend := pend } p &&
    !s1.reserved.any (fun r => sameTarget r.place p))) = _
  rw [hfull]
  rfl

variable (hcur : s1.cur = none) (hpend : s1.pend = []) (hstate : hasState p = true)
include hcur hpend hstate

/-- An STFW sets out, and waits as an acquire where it cannot go at once (R292, R363). -/
theorem startAccess_stfw_asks : startAccess s1 f h m (.stfw n) false false c p a =
    wake (underWay (setOut s1 f) (asking s1 f m n c p a (!reservable s1 f.tile c.id p))) := by
  have hgo : canGo (setOut s1 f) (asking s1 f m n c p a false) = reservable s1 f.tile c.id p := by
    have hstart : ({ setOut s1 f with pend := [] } : State) = setOut s1 f := by rw [← hpend]; rfl
    have hcan := canGo_asking (s1 := s1) (f := f) (m := m) (n := n) (c := c) (a := a) (acq := false) (pend := []) hstate (behindWrite_of_nil rfl _)
    rwa [hstart] at hcan
  have hacq : (false || (!canGo (setOut s1 f) (asking s1 f m n c p a false) && hasState p)) = !reservable s1 f.tile c.id p := by
    rw [hgo, hstate, Bool.and_true, Bool.false_or]
  rw [startAccess_stfw hcur]
  refine (submit_underWay (s := setOut s1 f) hpend (asking s1 f m n c p a false)).trans ?_
  exact congrArg (fun acq => wake (underWay (setOut s1 f) (asking s1 f m n c p a acq))) hacq

/-- An STFW of an empty line or word that nobody reserves takes the reservation (R363). -/
theorem startAccess_stfw_reserves (hfree : reservable s1 f.tile c.id p = true) : startAccess s1 f h m (.stfw n) false false c p a =
    { accessing s1 f (accessBy s1 f m (.stfw n) c p a ((tokVal f.right).setWidth 128) false (some (.value (.word 0)))) with
      reserved := s1.reserved ++ [{ tile := f.tile, ctx := c.id, slot := f.slot, key := f.key, place := p }] } := by
  have hgo : canGo (underWay (setOut s1 f) (asking s1 f m n c p a false)) (asking s1 f m n c p a false) = true :=
    (canGo_asking hstate (behindWrite_underWay _ _)).trans hfree
  have hend : accessing s1 f (accessBy s1 f m (.stfw n) c p a ((tokVal f.right).setWidth 128) false (some (.value (.word 0)))) =
      underWay (setOut s1 f) { asking s1 f m n c p a false with got := some (.value (.word 0)) } := by
    rw [accessing, show (settledWith s1 f .fired []).pend = [] from hpend]
    rfl
  rw [startAccess_stfw_asks hcur hpend hstate, hfree, Bool.not_true, wake_underWay _ _ rfl hgo,
    performPend_stfw (t := f.tile) (ctx := c.id) (j := f.slot) (n := n) (key := f.key) rfl rfl hstate rfl, hend]
  rfl

/-- An STFW of a full line or word waits (R363). -/
theorem startAccess_stfw_waits (hfull : targetFull s1 p = true) : startAccess s1 f h m (.stfw n) false false c p a =
    accessing s1 f (accessBy s1 f m (.stfw n) c p a ((tokVal f.right).setWidth 128) true none) := by
  have hgo : canGo (underWay (setOut s1 f) (asking s1 f m n c p a true)) (asking s1 f m n c p a true) = false :=
    (canGo_asking hstate (behindWrite_underWay _ _)).trans (reservable_of_full hfull ..)
  rw [startAccess_stfw_asks hcur hpend hstate, reservable_of_full hfull, Bool.not_false, wake_underWay_stays hgo, accessing,
    show (settledWith s1 f .fired []).pend = [] from hpend]
  rfl

end Stfw

/-- Settles O19: a held form by `startAccess_held`, an STFW by whether its line or word is empty. -/
theorem storesAreHeld : Obligations.StoresAreHeld := by
  refine ⟨fun s s1 f h m c p a ht heos hc hnew hnear => ?held, fun s s1 f h m c p a ht heos hc hnew hstate hpend hr => ?stfw⟩
  case held =>
    have hstart {op : MemOp} {e : Effect} (hret : opReturns op = false) (hwait : ∀ n, op ≠ .stfw n)
        (he : heldEffect op p (accessData op f).1 (accessData op f).2 = some e) (hr : Reaches s f c m op s1 p a) :
        accessForm h m op false false s =
          .next (holdingAt s1 f h.w e (if opFullEmpty op then m.scope else 0) (completionOf f h m)) := by
      rw [accessForm_reaches ht heos hc hnew hr, startAccess_held (cur_of_reaches hr) hnear hret hwait he]
    have hword : ((tokVal f.right).setWidth 128).extractLsb' 0 64 = tokVal f.right := low_of_word _
    refine ⟨hstart rfl (fun _ => nofun) rfl, hstart rfl (fun _ => nofun) rfl, hstart rfl (fun _ => nofun) rfl, hstart rfl (fun _ => nofun) rfl,
      fun b hb => hstart rfl (fun _ => nofun) ?stk, hstart rfl (fun _ => nofun) ?stf, hstart rfl (fun _ => nofun) rfl,
      hstart rfl (fun _ => nofun) rfl⟩
    case stk => simp only [heldEffect, accessData, hb]
    case stf => exact congrArg (fun w => some (Effect.stf p _ w)) hword
  case stfw =>
    have hcur := cur_of_reaches hr
    have hexec : exec (.stfw h m) s = .next (startAccess s1 f h m (.stfw (2 ^ m.sz.toNat)) false false c p a) :=
      accessForm_reaches ht heos hc hnew hr false false
    refine ⟨fun hempty hfree => ?reserves, fun hfull => ?waits⟩
    case reserves =>
      rw [hexec, startAccess_stfw_reserves hcur hpend hstate (reservable_of_empty hempty hfree ..)]
    case waits => rw [hexec, startAccess_stfw_waits hcur hpend hstate hfull]

end Sys2Proof.Machine
end
section
/-! ## Positions of pushes (R289, R293) -/

namespace Sys2Proof.Machine

/-! ### One port of several -/

theorem foldl_fixed_of_mem {α β : Type} {g : β → α → β} {u : β} {l : List α} (h : ∀ x ∈ l, g u x = u) : l.foldl g u = u := by
  induction l with
  | nil => rfl
  | cons x l ih => rw [List.foldl_cons, h x (by simp), ih (fun y hy => h y (by simp [hy]))]

/-- Of the steps of a list without repetition only one acts. -/
theorem foldl_acts_once {α β : Type} {g : β → α → β} {u v : β} {l : List α} {p : α} (hp : p ∈ l) (hnodup : l.Nodup)
    (hbefore : ∀ x, x ≠ p → g u x = u) (hat : g u p = v) (hafter : ∀ x, x ≠ p → g v x = v) : l.foldl g u = v := by
  obtain ⟨l₁, l₂, rfl⟩ := List.append_of_mem hp
  rw [List.nodup_middle, List.nodup_cons, List.mem_append, not_or] at hnodup
  obtain ⟨⟨h₁, h₂⟩, -⟩ := hnodup
  rw [List.foldl_append, foldl_fixed_of_mem (fun x hx => hbefore x (fun he => h₁ (he ▸ hx))), List.foldl_cons, hat,
    foldl_fixed_of_mem (fun x hx => hafter x (fun he => h₂ (he ▸ hx)))]

section Ports

variable {u v : State} {t p : Nat} {f : Firing} {b : Block} {c : Ctx} {w : HeldWr} {j : Nat} {rest : List Nat}

/-- No push of a port waits for its position. -/
def NonePending (u : State) (t p : Nat) : Prop := ∀ w ∈ (u.fabric t).wrs, w.push = true → w.n = p → w.pos ≠ none

/-- A push that waits for its position. -/
def pendingPush (x : Fabric) (p j : Nat) : Option HeldWr := x.wrs.find? (fun w => w.slot == j && w.push && w.n == p && w.pos.isNone)

theorem pendingPush_none (h : NonePending u t p) (j : Nat) : pendingPush (u.fabric t) p j = none := by
  refine List.find?_eq_none.mpr (fun w hw hpend => ?_)
  simp only [Bool.and_eq_true, beq_iff_eq, Option.isNone_iff_eq_none] at hpend
  obtain ⟨⟨⟨-, hpush⟩, hn⟩, hpos⟩ := hpend
  exact h w hw hpush hn hpos

/-! The steps along the slots of one port. -/

theorem settlePort_unsettled (h : settledFor (u.fabric t) j f.key = false) : settlePort u t p f (j :: rest) = u := by
  simp only [settlePort, h, Bool.not_false, if_true]

theorem settlePort_skips (h : settledFor (u.fabric t) j f.key = true) (hw : pendingPush (u.fabric t) p j = none) :
    settlePort u t p f (j :: rest) = settlePort u t p f rest := by
  rw [pendingPush] at hw
  rw [settlePort]
  simp only [h, hw, Bool.not_true, Bool.false_eq_true, if_false]

theorem settlePort_places (h : settledFor (u.fabric t) j f.key = true) (hw : pendingPush (u.fabric t) p j = some w)
    (hv : assignPush u t p w = (v, none)) : settlePort u t p f (j :: rest) = settlePort v t p f rest := by
  rw [pendingPush] at hw
  rw [settlePort]
  simp only [h, hw, hv, Bool.not_true, Bool.false_eq_true, if_false]

theorem settlePort_fails {i0 i1 : Word} (h : settledFor (u.fabric t) j f.key = true) (hw : pendingPush (u.fabric t) p j = some w)
    (hv : assignPush u t p w = (v, some (i0, i1))) :
    settlePort u t p f (j :: rest) = trapFiring v { f with slot := j } 0x41 i0 i1 := by
  rw [pendingPush] at hw
  rw [settlePort]
  simp only [h, hw, hv, Bool.not_true, Bool.false_eq_true, if_false]

/-- A port without a push that waits is left alone. -/
theorem settlePort_none (h : NonePending u t p) (js : List Nat) : settlePort u t p f js = u := by
  induction js with
  | nil => rfl
  | cons j rest ih =>
    cases hs : settledFor (u.fabric t) j f.key with
    | false => exact settlePort_unsettled hs
    | true => rw [settlePort_skips hs (pendingPush_none h j), ih]

/-- In a fabric in which nothing has settled no push takes a position. -/
theorem settlePort_reset (h : u.fabric t = Fabric.reset) (js : List Nat) : settlePort u t p f js = u := by
  cases js with
  | nil => rfl
  | cons j rest => exact settlePort_unsettled (by rw [h]; rfl)

/-! The ports of a block (R289). -/

theorem settlePushes_loop (h : isLoop u f.tile = true) : settlePushes u f = u := by
  rw [isLoop] at h
  split at h
  · rename_i b hb
    unfold settlePushes
    rw [hb]
    cases (u.tile f.tile).ctx with
    | none => rfl
    | some c => exact if_pos h
  · exact nomatch h

theorem settlePushes_ports (hb : (u.fabric f.tile).blk = some b) (hloop : b.loop = false) (hc : (u.tile f.tile).ctx = some c) :
    settlePushes u f = (List.range 8).foldl (fun u p => settlePort u f.tile p f (pushSlots b c p)) u := by
  simp only [settlePushes, hb, hc, hloop, Bool.false_eq_true, if_false]

theorem settlePushes_none (h : ∀ p, NonePending u f.tile p) : settlePushes u f = u := by
  unfold settlePushes
  split
  · split
    · rfl
    · exact foldl_fixed_of_mem (fun p _ => settlePort_none (h p) _)
  · rfl

/-- Only one port has a push that waits. -/
theorem settlePushes_port (hb : (u.fabric f.tile).blk = some b) (hloop : b.loop = false) (hc : (u.tile f.tile).ctx = some c)
    (hp : p < 8) (hbefore : ∀ q, q ≠ p → NonePending u f.tile q) (hat : settlePort u f.tile p f (pushSlots b c p) = v)
    (hafter : ∀ q, q ≠ p → ∀ js, settlePort v f.tile q f js = v) : settlePushes u f = v := by
  rw [settlePushes_ports hb hloop hc]
  exact foldl_acts_once (List.mem_range.mpr hp) List.nodup_range (fun q hq => settlePort_none (hbefore q hq) _) hat
    (fun q hq => hafter q hq _)

/-! ### What settling and keeping leave -/

section Kept

variable {s : State} {how : How} {push : HeldWr}

theorem settledWith_fabric (h : f.tile < 192) : (settledWith s f how []).fabric f.tile = { s.fabric f.tile with
    settled := (s.fabric f.tile).settled ++ [({ slot := f.slot, key := f.key, how := how } : Settled)] } := by
  rw [settledWith, State.fabric_modFabric_same _ _ _ h, List.append_nil]
  rfl

theorem settledWith_ctx (s : State) (f : Firing) (how : How) :
    ((settledWith s f how []).tile f.tile).ctx = (s.tile f.tile).ctx :=
  State.ctx_modFabric { s with cur := none } _ _ _

theorem keeping_fabric (h : f.tile < 192) : (keeping s f push).fabric f.tile = { s.fabric f.tile with
    settled := (s.fabric f.tile).settled ++ [({ slot := f.slot, key := f.key, how := .fired } : Settled)]
    wrs := (s.fabric f.tile).wrs ++ [push] } := by
  rw [keeping, State.fabric_modFabric_same _ _ _ h]
  rfl

theorem keeping_ctx (s : State) (f : Firing) (push : HeldWr) :
    ((keeping s f push).tile f.tile).ctx = (s.tile f.tile).ctx :=
  State.ctx_modFabric { s with cur := none } _ _ _

/-- A loop is a block on a tile. -/
theorem tile_lt_of_isLoop (h : isLoop s t = true) : t < 192 := by
  by_contra ht
  have hreset : s.fabric t = Fabric.reset := by
    rw [State.fabric, tile_outside s (Nat.le_of_not_lt ht)]
    rfl
  rw [isLoop, hreset] at h
  exact nomatch h

theorem isLoop_of_blk {u : State} (h : (u.fabric t).blk = (s.fabric t).blk) : isLoop u t = isLoop s t := by
  rw [isLoop, isLoop, h]

/-- Slots that have settled stay so. -/
theorem settledFor_append {x : Fabric} {k : Key} (e : Settled) (h : settledFor x j k = true) :
    settledFor { x with settled := x.settled ++ [e] } j k = true := by
  rw [settledFor] at h ⊢
  rw [List.any_append, h, Bool.true_or]

end Kept

/-- A WR that is predicated off, or of an EOS token, settles as nullified, and the pushes behind it take positions (R289, R334). -/
theorem exec_wr_nullified (h : Hdr) (kr : Bool) (n : BitVec 6) {s : State} (hc : s.cur = some f)
    (hn : (f.off || tokEos f.left) = true) :
    exec (.wr h kr n) s = .next (settlePushes (settledWith s f .nullified []) f) := by
  change execWr h kr n s = _
  simp only [execWr, hc, hn, if_true, settle_cur]

/-! ### A push takes its position -/

/-- A port after a push (R289). -/
def pushed (q : SPort) : SPort :=
  { q with work := if patTotal q.record ≤ q.work.pos then { q.work with ovr := true } else { q.work with pos := q.work.pos + 1 } }

/-- The kept WRs once a push has its position. -/
def positioned (w : HeldWr) (pos : Nat) (ws : List HeldWr) : List HeldWr :=
  ws.map (fun v => if v.slot == w.slot && v.key == w.key then { v with pos := some pos } else v)

theorem placePush_ctx (hc : (u.tile t).ctx = some c) :
    ((placePush u t w).tile t).ctx = some (c.modPort w.n (fun q => { q with work := (pushed (c.port w.n)).work })) := by
  simp only [placePush, hc, State.ctx_modFabric]
  exact ctx_modCtx hc _

theorem placePush_fabric (hc : (u.tile t).ctx = some c) : (placePush u t w).fabric t =
    { u.fabric t with wrs := positioned w (c.port w.n).work.pos (u.fabric t).wrs } := by
  simp only [placePush, hc]
  rw [State.fabric_modFabric_same _ _ _ (tile_lt_of_ctx hc), fabric_modCtx hc]
  rfl

/-- An element past the end of the stream, or in the scratchpad, can be pushed (R289, R293). -/
theorem assignPush_lands (hc : (u.tile t).ctx = some c) (h : PushLands (c.port p) (c.port p).work.pos) :
    assignPush u t p w = (placePush u t w, none) := by
  by_cases hpos : patTotal (c.port p).record ≤ (c.port p).work.pos
  · simp only [assignPush, hc, ge_iff_le, hpos, if_true]
  · simp only [assignPush, hc, ge_iff_le, hpos, if_false, elementPlace_lands u t h (Nat.lt_of_not_le hpos)]

/-- An element beyond its capability cannot (R293). -/
theorem assignPush_beyond (hc : (u.tile t).ctx = some c) (hpos : (c.port p).work.pos < patTotal (c.port p).record)
    (hlen : ((c.port p).cap.length : Int) < patOffset (c.port p).record (c.port p).work.pos + patSize (c.port p).record) :
    assignPush u t p w = (u, some (elementAddr (c.port p) (c.port p).work.pos, streamInfo1 p true 0x23 (c.port p).work.pos)) := by
  have hplace : elementPlace u t (c.port p) (c.port p).work.pos = (u, .error 0x23) := by
    unfold elementPlace
    exact if_pos (.inr hlen)
  simp only [assignPush, hc, ge_iff_le, Nat.not_le.mpr hpos, if_false, hplace]

/-- A pushed port leaves no push waiting, where the others that wait are not of its block. -/
theorem nonePending_placePush (hc : (u.tile t).ctx = some c)
    (h : ∀ v ∈ (u.fabric t).wrs, v.push = true → v.pos = none → v.slot = w.slot ∧ v.key = w.key) (p : Nat) :
    NonePending (placePush u t w) t p := by
  intro v hv hpush _ hpos
  rw [placePush_fabric hc] at hv
  obtain ⟨v₀, hv₀, rfl⟩ := List.mem_map.mp hv
  split at hpos
  · exact nomatch hpos
  · rename_i hother
    rw [if_neg hother] at hpush
    obtain ⟨hslot, hkey⟩ := h v₀ hv₀ hpush hpos
    exact hother (by rw [hslot, hkey, beq_self_eq_true, beq_self_eq_true]; rfl)

/-- The one push of a block that waits takes its position when its WR and those before it have settled. -/
theorem settlePushes_places (hb : (u.fabric f.tile).blk = some b) (hloop : b.loop = false) (hc : (u.tile f.tile).ctx = some c)
    (hp : p < 8)
    (honly : ∀ v ∈ (u.fabric f.tile).wrs, v.push = true → v.pos = none → v.n = p ∧ v.slot = w.slot ∧ v.key = w.key)
    (hat : settlePort u f.tile p f (pushSlots b c p) = settlePort (placePush u f.tile w) f.tile p f rest) :
    settlePushes u f = placePush u f.tile w := by
  have hplaced := nonePending_placePush hc (fun v hv hpush hpos => (honly v hv hpush hpos).2)
  refine settlePushes_port hb hloop hc hp (fun q hq v hv hpush hvn hpos => ?_) ?_ (fun q _ js => settlePort_none (hplaced q) js)
  · exact hq (hvn.symm.trans (honly v hv hpush hpos).1)
  · rw [hat, settlePort_none (hplaced p)]

/-- The placed push is the last of the kept WRs. -/
theorem placePush_placed {ws : List HeldWr} (hc : (u.tile t).ctx = some c) (hn : w.n = p)
    (hws : (u.fabric t).wrs = ws ++ [w]) (hother : ∀ v ∈ ws, v.slot ≠ w.slot) : PushPlaced (placePush u t w) t p c ws w := by
  subst hn
  have hmap : ws.map (fun v => if v.slot == w.slot && v.key == w.key then
      ({ v with pos := some (c.port w.n).work.pos } : HeldWr) else v) = ws := by
    conv_rhs => rw [← List.map_id ws]
    exact List.map_congr_left (fun v hv => if_neg (by simp [hother v hv]))
  refine ⟨placePush_ctx hc, ?_⟩
  rw [placePush_fabric hc]
  change positioned w _ _ = _
  rw [positioned, hws, List.map_append, hmap]
  simp

theorem placePush_settled (hc : (u.tile t).ctx = some c) : ((placePush u t w).fabric t).settled = (u.fabric t).settled := by
  rw [placePush_fabric hc]

/-- A push behind a WR that has settled takes its position. -/
theorem settlePushes_behind (hb : (u.fabric f.tile).blk = some b) (hloop : b.loop = false) (hc : (u.tile f.tile).ctx = some c)
    (hp : p < 8) (hslots : pushSlots b c p = [f.slot, j]) (hf : settledFor (u.fabric f.tile) f.slot f.key = true)
    (hj : settledFor (u.fabric f.tile) j f.key = true) (hws : (u.fabric f.tile).wrs = [w]) (hslot : w.slot = j)
    (hpush : w.push = true) (hn : w.n = p) (hpos : w.pos = none) (hlands : PushLands (c.port p) (c.port p).work.pos) :
    PushPlaced (settlePushes u f) f.tile p c [] w := by
  have hne : f.slot ≠ j := by
    have hnodup : (pushSlots b c p).Nodup := List.nodup_range.filter _
    rw [hslots] at hnodup
    simpa using hnodup
  have hnot : pendingPush (u.fabric f.tile) p f.slot = none := by simp [pendingPush, hws, hslot, hne.symm]
  have hpend : pendingPush (u.fabric f.tile) p j = some w := by simp [pendingPush, hws, hslot, hpush, hn, hpos]
  have hat : settlePort u f.tile p f (pushSlots b c p) = settlePort (placePush u f.tile w) f.tile p f [] := by
    rw [hslots, settlePort_skips hf hnot, settlePort_places hj hpend (assignPush_lands hc hlands)]
  have honly : ∀ v ∈ (u.fabric f.tile).wrs, v.push = true → v.pos = none → v.n = p ∧ v.slot = w.slot ∧ v.key = w.key := by
    rw [hws]
    rintro v hv - -
    obtain rfl := List.mem_singleton.mp hv
    exact ⟨hn, rfl, rfl⟩
  rw [settlePushes_places hb hloop hc hp honly hat]
  exact placePush_placed hc hn hws (fun v hv => nomatch hv)

/-! ### A WR that settles without a push -/

section Settled

variable {s : State} {how : How}

theorem settlePushes_settledWith_loop (hloop : isLoop s f.tile = true) :
    settlePushes (settledWith s f how []) f = settledWith s f how [] :=
  settlePushes_loop ((isLoop_of_blk (by rw [settledWith_fabric (tile_lt_of_isLoop hloop)])).trans hloop)

theorem settlePushes_settledWith_none (ht : f.tile < 192) (h : ∀ v ∈ (s.fabric f.tile).wrs, v.push = true → v.pos ≠ none) :
    settlePushes (settledWith s f how []) f = settledWith s f how [] :=
  settlePushes_none (fun p v hv hpush _ => h v (by rwa [settledWith_fabric ht] at hv) hpush)

/-- The push behind it takes its position. -/
theorem settlePushes_settledWith_behind (hb : (s.fabric f.tile).blk = some b) (hloop : b.loop = false)
    (hc : (s.tile f.tile).ctx = some c) (hp : p < 8) (hslots : pushSlots b c p = [f.slot, j])
    (hj : settledFor (s.fabric f.tile) j f.key = true) (hws : (s.fabric f.tile).wrs = [w]) (hslot : w.slot = j)
    (hpush : w.push = true) (hn : w.n = p) (hpos : w.pos = none) (hlands : PushLands (c.port p) (c.port p).work.pos) :
    PushPlaced (settlePushes (settledWith s f how []) f) f.tile p c [] w := by
  have hx := settledWith_fabric (s := s) (how := how) (tile_lt_of_ctx hc)
  exact settlePushes_behind (by rwa [hx]) hloop ((settledWith_ctx s f how).trans hc) hp hslots
    (by rw [hx]; simp [settledFor]) (by rw [hx]; exact settledFor_append _ hj) (by rwa [hx]) hslot hpush hn hpos hlands

end Settled

end Ports

end Sys2Proof.Machine
end
section
/-! ## Firings that are predicated off (R99, R289) -/

namespace Sys2Proof.Machine

section Off

variable {i : Instr} {s : State} {f : Firing}

/-- How a firing of a kind settles when it is predicated off. -/
def offHow (k : Kind) : How := if k = .tracked then .nullified else .off

/-- Every instruction with a header but WR fires through the common rule of firings, by which a firing that is predicated off
only settles. -/
theorem exec_offFiring (hh : (hdrOf i).isSome = true) (hk : (formOf i).kind ≠ .wr) :
    exec i { s with cur := some { f with off := true } } =
      .next (settle { s with cur := none } { f with off := true } (offHow (formOf i).kind)) := by
  cases i <;> cases hh
  case wr => exact absurd rfl hk
  all_goals rfl

theorem exec_off (hc : s.cur = some f) (ho : f.off = true) (hh : (hdrOf i).isSome = true) (hk : (formOf i).kind ≠ .wr) :
    exec i s = .next (settledWith s f (offHow (formOf i).kind) []) := by
  have hs : { s with cur := some { f with off := true } } = s := by rw [← ho, ← hc]
  have hf : { f with off := true } = f := by rw [← ho]
  have hex := exec_offFiring (s := s) (f := f) hh hk
  rwa [hs, hf, settle_cur] at hex

/-- WR alone is of its kind. -/
theorem eq_wr_of_kind (hh : (hdrOf i).isSome = true) (hk : (formOf i).kind = .wr) : ∃ h kr n, i = .wr h kr n := by
  cases i <;> cases hh
  case wr h kr n => exact ⟨h, kr, n, rfl⟩
  all_goals exact nomatch hk

end Off

/-- Settles O29: every instruction but WR fires through one rule; behind a WR the next push of its port takes its position. -/
theorem predicatedOff_onlySettles : Obligations.PredicatedOff := by
  unfold Obligations.PredicatedOff
  intro i s f hc ho hh
  refine ⟨fun hk => ?_, fun hk => ?_, fun hk hloop => ?_, fun b c hk ht hb hloop hctx => ?_⟩
  · rw [exec_off hc ho hh (by rw [hk]; nofun), hk]
    rfl
  · rw [exec_off hc ho hh (by rcases hk with hk | hk <;> rw [hk] <;> nofun)]
    rcases hk with hk | hk <;> rw [hk] <;> rfl
  · obtain ⟨h, kr, n, rfl⟩ := eq_wr_of_kind hh hk
    rw [exec_wr_nullified h kr n hc (by rw [ho]; rfl), settlePushes_settledWith_loop hloop]
  · obtain ⟨h, kr, n, rfl⟩ := eq_wr_of_kind hh hk
    rw [exec_wr_nullified h kr n hc (by rw [ho]; rfl)]
    exact ⟨fun hnone => by rw [settlePushes_settledWith_none ht hnone],
      fun p j v hp hslots hj hws hslot hpush hn hpos _ hlands =>
        ⟨_, rfl, settlePushes_settledWith_behind hb hloop hctx hp hslots hj hws hslot hpush hn hpos hlands⟩⟩

end Sys2Proof.Machine
end
section
/-! ## WR (R107, R289, R293, R334) -/

namespace Sys2Proof.Machine

section Wr

variable {s u : State} {t p : Nat} {f : Firing} {b : Block} {c : Ctx} {a : Token} {h : Hdr} {kr : Bool} {n : BitVec 6}

/-- The write of a token that a WR keeps. -/
def wrOf (f : Firing) (kr : Bool) (n : BitVec 6) (a : Token) : HeldWr :=
  { slot := f.slot, key := f.key, tagged := false, kr := kr, n := n.toNat, push := false, val := a.val, cap := a.toCap
    pos := none, check := none }

/-- The push of a token to port p that a WR keeps. -/
def pushOf (f : Firing) (h : Hdr) (kr : Bool) (n : BitVec 6) (p : Nat) (a : Token) : HeldWr :=
  { wrOf f kr n a with n := p, push := true, tagged := h.w }

/-- An armed port has one of eight numbers. -/
theorem armedPort_some (ha : armedPort c kr n = some p) : p < 8 ∧ (c.port p).armed = true := by
  unfold armedPort at ha
  split at ha
  · rename_i hcond
    obtain rfl := Option.some.inj ha
    simp only [Bool.and_eq_true] at hcond
    have hn := n.isLt
    exact ⟨by omega, hcond.2⟩
  · exact nomatch ha

/-! What WR does with a token that is not EOS. -/

section Token

variable (ht : Turn s f) (hc : (s.tile f.tile).ctx = some c) (ha : f.left = some a) (he : a.eos = false)

include ht hc ha he

theorem exec_wr_keeps (hp : armedPort c kr n = none) : exec (.wr h kr n) s = .next (keeping s f (wrOf f kr n a)) := by
  obtain ⟨hcur, hoff⟩ := ht
  have hc' : (({ s with cur := none } : State).tile f.tile).ctx = some c := hc
  change execWr h kr n s = _
  simp only [execWr, hcur, hoff, ha, tokEos, he, Bool.or_self, Bool.false_eq_true, if_false, hc', hp, keepWr_cur]
  rfl

theorem exec_wr_pushes (hp : armedPort c kr n = some p) (hout : patOut (c.port p).record = true) :
    exec (.wr h kr n) s = .next (settlePushes (keeping s f (pushOf f h kr n p a)) f) := by
  obtain ⟨hcur, hoff⟩ := ht
  have hc' : (({ s with cur := none } : State).tile f.tile).ctx = some c := hc
  change execWr h kr n s = _
  simp only [execWr, hcur, hoff, ha, tokEos, he, Bool.or_self, Bool.false_eq_true, if_false, hc', hp, hout, if_true, keepWr_cur]
  rfl

theorem exec_wr_input (hp : armedPort c kr n = some p) (hin : patOut (c.port p).record = false) :
    exec (.wr h kr n) s = .next (trapPort { s with cur := none } f 0x42 p (c.port p)) := by
  obtain ⟨hcur, hoff⟩ := ht
  have hc' : (({ s with cur := none } : State).tile f.tile).ctx = some c := hc
  change execWr h kr n s = _
  simp only [execWr, hcur, hoff, ha, tokEos, he, Bool.or_self, Bool.false_eq_true, if_false, hc', hp, hin]

end Token

/-! The record of a port's trap (R293, R295). -/

/-- TINFO1 holds the port, its direction, the underlying cause and the position in fields of its own. -/
theorem streamInfo1_fields (out : Bool) (cause : BitVec 8) (pos : Nat) (hp : p < 8) :
    (streamInfo1 p out cause.toNat pos).toNat % 8 = p ∧ (streamInfo1 p out cause.toNat pos).getLsbD 3 = out ∧
      (streamInfo1 p out cause.toNat pos).toNat / 16 % 16 = 0 ∧
      (streamInfo1 p out cause.toNat pos).toNat / 65536 = pos % 2 ^ 48 := by
  have hcause := cause.isLt
  unfold streamInfo1
  rw [BitVec.getLsbD_ofNat, Nat.testBit_eq_decide_div_mod_eq, BitVec.toNat_ofNat]
  cases out <;> refine ⟨?_, ?_, ?_, ?_⟩ <;> simp <;> omega

theorem trapPort_armed (harmed : (c.port p).armed = true) (cause : Nat) : ∃ k : BitVec 8, trapPort s f cause p (c.port p) =
    trapFiring { s with freeCtr := s.freeCtr + 2 } f cause (elementAddr (c.port p) (c.port p).work.pos)
      (streamInfo1 p (patOut (c.port p).record) k.toNat (c.port p).work.pos) := by
  refine ⟨(Config.freeWord (s.freeCtr + 1)).extractLsb' 0 8, ?_⟩
  simp only [trapPort, State.drawWord, harmed, if_true]

/-! A trap at once leaves an empty fabric (R109). -/

theorem enterTrap_fabric (hc : (s.tile t).ctx = some c) (hreset : s.fabric t = Fabric.reset) (r : TrapRec) (after async : Bool)
    (treta : Word) (halted : Bool) : (enterTrap s t r after async treta halted).fabric t = Fabric.reset := by
  cases hinh : c.inh with
  | true =>
    rw [enterTrap_within hc hinh]
    obtain ⟨_, _, _, _, hfabric⟩ := endUnresolved_face hc hreset { r with
      cause := 0x74, info0 := BitVec.ofNat 64 r.cause, info1 := BitVec.ofNat 64 r.slot } true
    exact hfabric
  | false =>
    have htile := State.tile_modTile_same s t (fun x => { x with fresh := false }) (tile_lt_of_ctx hc)
    have hfresh : ((s.modTile t (fun x => { x with fresh := false })).tile t).ctx = some c := by
      rw [htile]
      exact hc
    unfold enterTrap
    simp only [hc, hinh, Bool.false_eq_true, if_false]
    rw [fabric_modCtx hfresh, State.fabric, htile]
    exact hreset

theorem trapNow_fabric (hc : (s.tile t).ctx = some c) (r : TrapRec) : (trapNow s t r).fabric t = Fabric.reset := by
  obtain ⟨d, hd, -, -, hreset⟩ := abandon_reset hc
  exact enterTrap_fabric hd hreset r false false r.blk false

theorem trapFiring_fabric (hc : (s.tile f.tile).ctx = some c) (hloop : isLoop s f.tile = false) (cause : Nat) (i0 i1 : Word) :
    (trapFiring s f cause i0 i1).fabric f.tile = Fabric.reset := by
  have hloop' : isLoop (settle s f .fired) f.tile = false := by
    rw [← hloop]
    refine isLoop_of_blk ?_
    rw [settle, State.fabric_modFabric_same _ _ _ (tile_lt_of_ctx hc)]
  simp only [trapFiring, trapSlot, hloop', Bool.false_and, Bool.false_eq_true, if_false]
  exact trapNow_fabric ((State.ctx_modFabric ..).trans hc) _

/-! ### A push in a block without LOOP -/

section Push

variable {w : HeldWr} (hb : (s.fabric f.tile).blk = some b) (hloop : b.loop = false) (hc : (s.tile f.tile).ctx = some c)
  (hp : p < 8) (hn : w.n = p)

include hc

/-- Only the push just kept waits for its position. -/
theorem only_keeping (hplaced : ∀ v ∈ (s.fabric f.tile).wrs, v.push = true → v.pos ≠ none) :
    ∀ v ∈ ((keeping s f w).fabric f.tile).wrs, v.push = true → v.pos = none → v = w := by
  intro v hv hvpush hvpos
  rw [keeping_fabric (tile_lt_of_ctx hc), List.mem_append] at hv
  rcases hv with hv | hv
  · exact absurd hvpos (hplaced v hv hvpush)
  · exact List.mem_singleton.mp hv

include hn

/-- No push of another port waits. -/
theorem nonePending_keeping (hplaced : ∀ v ∈ (s.fabric f.tile).wrs, v.push = true → v.pos ≠ none) (q : Nat) (hq : q ≠ p) :
    NonePending (keeping s f w) f.tile q := fun v hv hpush hvn hpos =>
  hq (hvn.symm.trans ((only_keeping hc hplaced v hv hpush hpos) ▸ hn))

/-- The push just kept is the one that waits at its slot. -/
theorem pendingPush_keeping (hslot : w.slot = f.slot) (hpush : w.push = true) (hpos : w.pos = none)
    (hother : ∀ v ∈ (s.fabric f.tile).wrs, v.slot ≠ f.slot) :
    pendingPush ((keeping s f w).fabric f.tile) p f.slot = some w := by
  have hnone : (s.fabric f.tile).wrs.find? (fun v => v.slot == f.slot && v.push && v.n == p && v.pos.isNone) = none :=
    List.find?_eq_none.mpr (fun v hv hpend => hother v hv (by
      simp only [Bool.and_eq_true, beq_iff_eq] at hpend
      exact hpend.1.1.1))
  rw [keeping_fabric (tile_lt_of_ctx hc), pendingPush, List.find?_append, hnone, Option.none_or]
  simp [hslot, hpush, hn, hpos]

omit hn in
theorem settledFor_keeping : settledFor ((keeping s f w).fabric f.tile) f.slot f.key = true := by
  rw [keeping_fabric (tile_lt_of_ctx hc)]
  simp [settledFor]

omit hn in
theorem settledFor_keeping_ne {j : Nat} (hj : j ≠ f.slot) (k : Key) :
    settledFor ((keeping s f w).fabric f.tile) j k = settledFor (s.fabric f.tile) j k := by
  rw [keeping_fabric (tile_lt_of_ctx hc)]
  simp [settledFor, hj.symm]

include hb hloop hp

theorem settlePushes_keeping {v : State} (hplaced : ∀ v ∈ (s.fabric f.tile).wrs, v.push = true → v.pos ≠ none)
    (hat : settlePort (keeping s f w) f.tile p f (pushSlots b c p) = v)
    (hafter : ∀ q, q ≠ p → ∀ js, settlePort v f.tile q f js = v) : settlePushes (keeping s f w) f = v :=
  settlePushes_port (by rwa [keeping_fabric (tile_lt_of_ctx hc)]) hloop ((keeping_ctx s f w).trans hc) hp
    (nonePending_keeping hc hn hplaced) hat hafter

/-- Where a WR in a lower slot has not settled, the push waits (R289). -/
theorem settlePushes_waits {j : Nat} {l : List Nat} (hplaced : ∀ v ∈ (s.fabric f.tile).wrs, v.push = true → v.pos ≠ none)
    (hslots : pushSlots b c p = j :: l) (hj : j ≠ f.slot) (hs : settledFor (s.fabric f.tile) j f.key = false) :
    settlePushes (keeping s f w) f = keeping s f w :=
  settlePushes_keeping hb hloop hc hp hn hplaced
    (by rw [hslots, settlePort_unsettled ((settledFor_keeping_ne hc hj _).trans hs)])
    (fun q hq js => settlePort_none (nonePending_keeping hc hn hplaced q hq) js)

variable (hslot : w.slot = f.slot) (hpush : w.push = true) (hpos : w.pos = none) (hslots : pushSlots b c p = [f.slot])
  (hwrs : ∀ v ∈ (s.fabric f.tile).wrs, v.slot ≠ f.slot ∧ (v.push = true → v.pos ≠ none))

include hslot hpush hpos hslots hwrs

/-- The only push of its port takes the port's position (R289). -/
theorem settlePushes_lands (hlands : PushLands (c.port p) (c.port p).work.pos) :
    PushPlaced (settlePushes (keeping s f w) f) f.tile p c (s.fabric f.tile).wrs w ∧
      ((settlePushes (keeping s f w) f).fabric f.tile).settled =
        (s.fabric f.tile).settled ++ [({ slot := f.slot, key := f.key, how := .fired } : Settled)] := by
  have hctx := (keeping_ctx s f w).trans hc
  have honly := only_keeping (w := w) hc (fun v hv => (hwrs v hv).2)
  have hx := keeping_fabric (s := s) (push := w) (tile_lt_of_ctx hc)
  have hplace : settlePushes (keeping s f w) f = placePush (keeping s f w) f.tile w := by
    refine settlePushes_places (by rwa [hx]) hloop hctx hp (fun v hv hvpush hvpos => ?_) (rest := []) ?_
    · obtain rfl := honly v hv hvpush hvpos
      exact ⟨hn, rfl, rfl⟩
    · rw [hslots, settlePort_places (settledFor_keeping hc)
        (pendingPush_keeping hc hn hslot hpush hpos (fun v hv => (hwrs v hv).1)) (assignPush_lands hctx hlands)]
  rw [hplace]
  refine ⟨placePush_placed hctx hn (by rw [hx]) (fun v hv => hslot ▸ (hwrs v hv).1), ?_⟩
  rw [placePush_settled hctx, hx]

/-- A push beyond the capability of its port traps (R293). -/
theorem settlePushes_beyond (hin : (c.port p).work.pos < patTotal (c.port p).record)
    (hlen : ((c.port p).cap.length : Int) < patOffset (c.port p).record (c.port p).work.pos + patSize (c.port p).record) :
    settlePushes (keeping s f w) f = trapFiring (keeping s f w) f 0x41 (elementAddr (c.port p) (c.port p).work.pos)
      (streamInfo1 p true 0x23 (c.port p).work.pos) := by
  have hctx := (keeping_ctx s f w).trans hc
  have hblk : ((keeping s f w).fabric f.tile).blk = some b := by rwa [keeping_fabric (tile_lt_of_ctx hc)]
  refine settlePushes_keeping hb hloop hc hp hn (fun v hv => (hwrs v hv).2) ?_
    (fun q _ js => settlePort_reset (trapFiring_fabric hctx (by rw [isLoop, hblk]; exact hloop) _ _ _) js)
  rw [hslots, settlePort_fails (settledFor_keeping hc)
    (pendingPush_keeping hc hn hslot hpush hpos (fun v hv => (hwrs v hv).1)) (assignPush_beyond hctx hin hlen)]

end Push

end Wr

/-- Settles O3: what WR keeps, then the ports' steps by which a kept push takes its position. -/
theorem registerWrites : Obligations.RegisterWrites := by
  intro s f h kr n c a ht hc ha
  have heos (he : a.eos = true) : (f.off || tokEos f.left) = true := by rw [ha, tokEos, he, Bool.or_true]
  refine ⟨exec_wr_keeps ht hc ha, fun p he hp hout hloop ht192 => ?iterating, fun p he hp hin => ?input,
    fun he hloop _ => ?eosIterating,
    fun p b hb hloop ht192 hp hout => ⟨fun he hwrs hslots => ⟨fun hlands => ?lands, fun hin hlen => ?beyond⟩,
      fun j l he hplaced hslots hj hs => ?waits, fun he hplaced => ?eos,
      fun j v he hslots hj hws hslot hpush hn hpos hlands => ?eosBehind⟩⟩
  case iterating =>
    have hblk : ((keeping s f (pushOf f h kr n p a)).fabric f.tile).blk = (s.fabric f.tile).blk := by rw [keeping_fabric ht192]
    rw [exec_wr_pushes ht hc ha he hp hout, settlePushes_loop ((isLoop_of_blk hblk).trans hloop)]
    rfl
  case input =>
    obtain ⟨hp8, harmed⟩ := armedPort_some hp
    obtain ⟨k, hk⟩ := trapPort_armed (s := { s with cur := none }) (f := f) harmed 0x42
    obtain ⟨hport, hdir, hfree, hpos⟩ := streamInfo1_fields (patOut (c.port p).record) k (c.port p).work.pos hp8
    exact ⟨_, _, (exec_wr_input ht hc ha he hp hin).trans (congrArg _ hk), hport, fun _ => ⟨rfl, hdir, hfree, hpos⟩⟩
  case eosIterating => rw [exec_wr_nullified h kr n ht.1 (heos he), settlePushes_settledWith_loop hloop]
  case lands =>
    exact ⟨_, exec_wr_pushes ht hc ha he hp hout,
      settlePushes_lands hb hloop hc (armedPort_some hp).1 rfl rfl rfl rfl hslots hwrs hlands⟩
  case beyond =>
    rw [exec_wr_pushes ht hc ha he hp hout,
      settlePushes_beyond hb hloop hc (armedPort_some hp).1 rfl rfl rfl rfl hslots hwrs hin hlen]
    rfl
  case waits =>
    rw [exec_wr_pushes ht hc ha he hp hout, settlePushes_waits hb hloop hc (armedPort_some hp).1 rfl hplaced hslots hj hs]
    rfl
  case eos => rw [exec_wr_nullified h kr n ht.1 (heos he), settlePushes_settledWith_none ht192 hplaced]
  case eosBehind =>
    exact ⟨_, exec_wr_nullified h kr n ht.1 (heos he),
      settlePushes_settledWith_behind hb hloop hc (armedPort_some hp).1 hslots hj hws hslot hpush hn hpos hlands⟩

end Sys2Proof.Machine
end
